-- ==== Sys2Proof/Word.lean ====
section
/-! DEFINITION. The word types of the Amiog instruction set (R3 to R5) and the field records of an
instruction (R82, R84) and of the events that carry data. -/
namespace Sys2Proof

/-- R5: a byte, a word, a quad and a galley word. -/
abbrev Byte := BitVec 8
/-- R5: 32 bits. -/
abbrev Word := BitVec 32
/-- R5: 64 bits. -/
abbrev Quad := BitVec 64
/-- R5, R57: 128 bits. -/
abbrev Galley := BitVec 128
/-- R14: a set of lanes; bit i stands for lane i. -/
abbrev Mask := BitVec 32
/-- R14: bits [56:2] of an instruction address. -/
abbrev PcWord := BitVec 55

/-- R84: the fields of a long-form instruction, less LEN, OPC and the reserved bits [31:30] of word 0.
`lit` is the trailing literal that LEN 11 adds (R78). -/
structure Long where
  pg : BitVec 3
  pn : Bool
  nwb : Bool
  d : BitVec 8
  a : BitVec 8
  b : BitVec 8
  c : BitVec 8
  fmt : BitVec 4
  rnd : BitVec 3
  sat : Bool
  sub : BitVec 8
  imm : BitVec 32
  lit : Option (BitVec 64)
deriving DecidableEq, Repr

/-- R82: the fields of a short-form instruction. The operand codes are the 8-bit codes that R83
puts in place of the 7-bit ones; `lit` is the literal of LEN 10. -/
structure Short where
  g : Bool
  nwb : Bool
  d : BitVec 8
  a : BitVec 8
  b : BitVec 8
  lit : Option (BitVec 64)
deriving DecidableEq, Repr

/-- What a fabric request asks of its home (R304, R395 log kinds). -/
inductive PeerOp where
  | load
  | store
  | reduction
  | atomic
  | nmx
  | copyPiece
deriving DecidableEq, Repr

/-- R304, R391: a request that reaches this device over the fabric: sender and home virtual device
numbers, the intermediate address at the home, the operation with its SUB, FMT and IMM32, the byte
mask of the 128-byte line, the data bytes of the line, the second operand, the sender's colour, its tag
with the generation, and whether it is made through a record with PXMT set. -/
structure PeerReq where
  src : Nat
  dst : Nat
  op : PeerOp
  ia : Nat
  sub : BitVec 8
  fmt : BitVec 4
  imm : BitVec 32
  mask : BitVec 128
  data : List Byte
  data2 : List Byte
  colour : BitVec 2
  tag : Nat
  pxmt : Bool
  /-- R309: the class it travels in -/
  cls : Nat
deriving DecidableEq, Repr

/-- R304, R307, R391: what a reply brings beside its tag: the link it arrives on, the sender's colour, and its data. A completion
on this device brings none. -/
structure Arrival where
  link : Nat
  colour : BitVec 2
  data : List Byte
deriving DecidableEq, Repr

/-- R304, R305: the reply to the request `id`, and what it brings. -/
structure Reply where
  id : Nat
  peer : Arrival
deriving DecidableEq, Repr

/-- R257, R278: a saved gang, and the frame that it is restored from. -/
structure SavedGang where
  group : Nat
  gang : Nat
  frame : Nat
deriving DecidableEq, Repr

/-- R200, R340: a contribution to a round of a collective slot: the member's virtual device number,
the round, the operation fields, the ACTIVE mask and one 128-bit value per lane. -/
structure Contribution where
  slot : Nat
  job : Nat
  vdn : Nat
  round : Word
  op : BitVec 3
  prop : Bool
  fmt : BitVec 4
  anchor : BitVec 16
  mask : Mask
  vals : List Galley
  /-- the contributing CRED, so that its answer finds it -/
  tag : Nat
  /-- R391 -/
  colour : BitVec 2
deriving DecidableEq, Repr

/-- R340: the closing message of a round, or with `answer` the answer to contributions that the root does
not count. `mismatch` is the 0x2F closure of R202. `who` names the contributions it is for, by member and tag. -/
structure RoundResult where
  answer : Bool
  who : List (Nat × Nat)
  slot : Nat
  round : Word
  status : Bool
  mismatch : Bool
  mask : Mask
  vals : List Galley
  /-- R340: the job that the slot is open for -/
  job : Nat
  /-- R391: the root's virtual device number and its colour -/
  root : Nat
  colour : BitVec 2
deriving DecidableEq, Repr

/-- R426: what the body of a SKU record sets: the stacks that are present, PTOKEN.SIZE and PLIM where it names them, and
THROT.HRT. -/
structure Sku where
  present : BitVec 16
  ptoken : Option Nat
  plim : Option Nat
  hrt : Nat
deriving DecidableEq, Repr, Inhabited

/-- R393: a blaze marker. -/
structure Marker where
  vdn : Nat
  job : Nat
  k : Nat
  epoch : BitVec 2
  count : Nat
deriving DecidableEq, Repr

end Sys2Proof
end

