-- ==== Sys2Proof/Machine/Num.lean ====
section
/-! DEFINITION. Numbers and arithmetic (spec/02): integer formats (R38 to R40), floating-point formats
(R41, R42), rounding (R44 to R48), flushing (R49), flags (R50), galley words and windows (R57 to R61).
Bit patterns are natural numbers below 2^width; exact values are dyadic numbers m × 2^e. -/
namespace Sys2Proof.Machine

/-- The bits [hi:lo] of a number (R10 `bits`). -/
def bits (x hi lo : Nat) : Nat := (x >>> lo) % 2 ^ (hi + 1 - lo)

/-- R10 `sext`: the low n bits of x read as two's complement. -/
def sext (x n : Nat) : Int :=
  let y := x % 2 ^ n
  if y < 2 ^ (n - 1) then (y : Int) else (y : Int) - (2 ^ n : Nat)

/-- The low n bits of the two's-complement representation of an integer. -/
def wrap (t : Int) (n : Nat) : Nat := (t % ((2 ^ n : Nat) : Int)).toNat

/-- R44, R48, R50: the flags NV, DZ, OF, UF, NX as bits 4 to 0, the order of MODE.FLAGS. -/
abbrev Flags := BitVec 5

def Flags.nv : Flags := 16
def Flags.dz : Flags := 8
def Flags.ovf : Flags := 4
def Flags.unf : Flags := 2
def Flags.nx : Flags := 1

/-- R41: a floating-point format: width, exponent bits, fraction bits, bias, infinities. -/
structure FpFmt where
  w : Nat
  eb : Nat
  fb : Nat
  bias : Nat
  hasInf : Bool
deriving DecidableEq, Repr

def FpFmt.f64 : FpFmt := ⟨64, 11, 52, 1023, true⟩
def FpFmt.f32 : FpFmt := ⟨32, 8, 23, 127, true⟩
def FpFmt.f16 : FpFmt := ⟨16, 5, 10, 15, true⟩
def FpFmt.bf16 : FpFmt := ⟨16, 8, 7, 127, true⟩
def FpFmt.e5m2 : FpFmt := ⟨8, 5, 2, 15, true⟩
def FpFmt.e4m3 : FpFmt := ⟨8, 4, 3, 7, false⟩

/-- R38: an integer format: width and signedness. -/
structure IntFmt where
  w : Nat
  signed : Bool
deriving DecidableEq, Repr

/-- R85: what a format code selects. -/
inductive Fmt where
  | int (f : IntFmt)
  | fp (f : FpFmt)
  | w128
deriving DecidableEq, Repr

/-- R85: the format of a code; 1111 is reserved. -/
def Fmt.ofCode (c : BitVec 4) : Option Fmt :=
  match c.toNat with
  | 0 => some (.int ⟨32, true⟩)
  | 1 => some (.int ⟨32, false⟩)
  | 2 => some (.int ⟨64, true⟩)
  | 3 => some (.int ⟨64, false⟩)
  | 4 => some (.int ⟨16, true⟩)
  | 5 => some (.int ⟨16, false⟩)
  | 6 => some (.int ⟨8, true⟩)
  | 7 => some (.int ⟨8, false⟩)
  | 8 => some (.fp .f32)
  | 9 => some (.fp .f64)
  | 10 => some (.fp .f16)
  | 11 => some (.fp .bf16)
  | 12 => some (.fp .e4m3)
  | 13 => some (.fp .e5m2)
  | 14 => some .w128
  | _ => none

/-- The width of one element of a format. -/
def Fmt.elemWidth : Fmt → Nat
  | .int f => f.w
  | .fp f => f.w
  | .w128 => 128

/-- R96: the number of elements per lane. -/
def Fmt.elems (f : Fmt) : Nat := if f.elemWidth ≤ 32 then 32 / f.elemWidth else 1

/-- R85: the width per lane of a value of the format. -/
def Fmt.laneWidth (f : Fmt) : Nat := if f.elemWidth ≤ 32 then 32 else f.elemWidth

/-- The format of a code that the instruction admits; W128 for a code that none admits. -/
def fmtOf (c : BitVec 4) : Fmt := (Fmt.ofCode c).getD .w128

/-- R38: the least and greatest values of an integer format. -/
def IntFmt.lo (f : IntFmt) : Int := if f.signed then -((2 ^ (f.w - 1) : Nat) : Int) else 0
def IntFmt.hi (f : IntFmt) : Int := if f.signed then ((2 ^ (f.w - 1) : Nat) : Int) - 1 else ((2 ^ f.w : Nat) : Int) - 1

/-- R96 `val`. -/
def IntFmt.val (f : IntFmt) (x : Nat) : Int := if f.signed then sext x f.w else ((x % 2 ^ f.w : Nat) : Int)

/-- R97: whether an exact result lies outside the format's range. -/
def IntFmt.outside (f : IntFmt) (t : Int) : Bool := decide (t < f.lo) || decide (f.hi < t)

/-- R40 `sat`. -/
def IntFmt.sat (f : IntFmt) (t : Int) : Int := if t < f.lo then f.lo else if f.hi < t then f.hi else t

/-- R40, R96 `reduce`: the result bits of an exact integer result. -/
def IntFmt.reduce (f : IntFmt) (sat : Bool) (t : Int) : Nat := wrap (if sat then f.sat t else t) f.w

/-- R39: element j of a packed value, n bits wide. -/
def elem (x n j : Nat) : Nat := (x >>> (n * j)) % 2 ^ n

/-- R39: packs elements, element 0 lowest. -/
def packElems (n : Nat) : List Nat → Nat
  | [] => 0
  | x :: t => x % 2 ^ n + 2 ^ n * packElems n t

/-- The exact meaning of a floating-point encoding. A finite nonzero value is m × 2^e with m ≠ 0. -/
inductive Val where
  | nan (signalling : Bool)
  | inf (neg : Bool)
  | zero (neg : Bool)
  | fin (m : Int) (e : Int)
deriving DecidableEq, Repr

/-- R41: the canonical NaN. -/
def FpFmt.qnan (f : FpFmt) : Nat :=
  if f.hasInf then (2 ^ f.eb - 1) * 2 ^ f.fb + 2 ^ (f.fb - 1) else 2 ^ (f.w - 1) - 1

/-- The sign bit's weight. -/
def FpFmt.signBit (f : FpFmt) : Nat := 2 ^ (f.w - 1)

/-- R45: the largest finite magnitude's encoding. -/
def FpFmt.maxBits (f : FpFmt) : Nat :=
  if f.hasInf then (2 ^ f.eb - 1) * 2 ^ f.fb - 1 else 2 ^ (f.w - 1) - 2

/-- The infinity's encoding, sign 0. -/
def FpFmt.infBits (f : FpFmt) : Nat := (2 ^ f.eb - 1) * 2 ^ f.fb

/-- Adds a sign to an encoding. -/
def FpFmt.signed (f : FpFmt) (neg : Bool) (x : Nat) : Nat := if neg then f.signBit + x else x

/-- R41, R42: the value of an encoding. -/
def FpFmt.decode (f : FpFmt) (x : Nat) : Val :=
  let x := x % 2 ^ f.w
  let neg := decide (f.signBit ≤ x)
  let ex := bits x (f.w - 2) f.fb
  let fr := x % 2 ^ f.fb
  let sgn : Int := if neg then -1 else 1
  if ex = 0 then
    if fr = 0 then .zero neg else .fin (sgn * fr) (1 - (f.bias : Int) - f.fb)
  else if ex = 2 ^ f.eb - 1 && f.hasInf then
    if fr = 0 then .inf neg else .nan (decide (fr < 2 ^ (f.fb - 1)))
  else if ex = 2 ^ f.eb - 1 && fr = 2 ^ f.fb - 1 then .nan false
  else .fin (sgn * (2 ^ f.fb + fr : Nat)) ((ex : Int) - f.bias - f.fb)

/-- R41: an encoding is subnormal. -/
def FpFmt.isSub (f : FpFmt) (x : Nat) : Bool := bits x (f.w - 2) f.fb = 0 && x % 2 ^ f.fb != 0

/-- R49: reads an operand, a subnormal as zero of its sign when flushing. -/
def FpFmt.read (f : FpFmt) (ftz : Bool) (x : Nat) : Val :=
  if ftz && f.isSub x then .zero (decide (f.signBit ≤ x % 2 ^ f.w)) else f.decode x

/-- A value's sign; false for a NaN. -/
def Val.neg? : Val → Bool
  | .nan _ => false
  | .inf n => n
  | .zero n => n
  | .fin m _ => decide (m < 0)

/-- R50: NV of an operand: a signalling NaN raises it. -/
def Val.nv : Val → Flags
  | .nan true => Flags.nv
  | _ => 0

/-- How a result is rounded: RND (001 to 110), the random bits of R46, saturation (R45), and whether
the result's format flushes (R49). -/
structure RCfg where
  rnd : Nat
  rbits : Nat
  sat : Bool
  ftz : Bool
deriving DecidableEq, Repr

/-- Whether the magnitude n + (r / 2^sh) is rounded up to n + 1, for 0 < r < 2^sh (R44, R46). -/
def roundUp (rnd rbits : Nat) (neg : Bool) (n r sh : Nat) : Bool :=
  match rnd with
  | 2 => false
  | 3 => !neg
  | 4 => neg
  | 5 => decide (2 ^ sh ≤ 2 * r)
  | 6 => decide (2 ^ 32 ≤ (r * 2 ^ 32) / 2 ^ sh + rbits)
  | _ => decide (2 ^ sh < 2 * r) || (decide (2 ^ sh = 2 * r) && n % 2 = 1)

/-- A magnitude a × 2^e brought to quantum 2^q: the chosen multiple and whether it is inexact. -/
def quantise (rnd rbits : Nat) (neg : Bool) (a : Nat) (e q : Int) : Nat × Bool :=
  if q ≤ e then (a * 2 ^ (e - q).toNat, false)
  else
    let sh := (q - e).toNat
    let n := a / 2 ^ sh
    let r := a % 2 ^ sh
    if r = 0 then (n, false) else (if roundUp rnd rbits neg n r sh then n + 1 else n, true)

/-- R45: the overflow result. -/
def FpFmt.overflow (f : FpFmt) (c : RCfg) (neg : Bool) : Nat :=
  let toMax := c.sat || c.rnd = 2 || (c.rnd = 3 && neg) || (c.rnd = 4 && !neg)
  if toMax then f.signed neg f.maxBits else if f.hasInf then f.signed neg f.infBits else f.qnan

/-- R44, R45, R46, R49: encodes the exact nonzero value m × 2^e. -/
def FpFmt.round (f : FpFmt) (c : RCfg) (m e : Int) : Nat × Flags :=
  let neg := decide (m < 0)
  let a := m.natAbs
  let emin : Int := 1 - (f.bias : Int)
  let top : Int := (Nat.log2 a : Int) + e
  let tiny := decide (top < emin)
  if tiny && c.ftz then (f.signed neg 0, Flags.unf ||| Flags.nx)
  else
    let q : Int := (if top < emin then emin else top) - f.fb
    let (n, inex) := quantise c.rnd c.rbits neg a e q
    let n' := if n = 2 ^ (f.fb + 1) then 2 ^ f.fb else n
    let q' : Int := if n = 2 ^ (f.fb + 1) then q + 1 else q
    let ex : Nat := if n' < 2 ^ f.fb then 0 else (q' + f.fb + f.bias).toNat
    let fr : Nat := if n' < 2 ^ f.fb then n' else n' - 2 ^ f.fb
    let x := ex * 2 ^ f.fb + fr
    if f.maxBits < x then (f.overflow c neg, Flags.ovf ||| Flags.nx)
    else (f.signed neg x, if inex then (if tiny then Flags.unf ||| Flags.nx else Flags.nx) else 0)

/-- Encodes an exact value that is not a conversion's operand (R42, R45, R53). -/
def FpFmt.encode (f : FpFmt) (c : RCfg) : Val → Nat × Flags
  | .nan _ => (f.qnan, 0)
  | .inf n => (if f.hasInf then f.signed n f.infBits else if c.sat then f.signed n f.maxBits else f.qnan,
      if !f.hasInf && !c.sat then Flags.nv else 0)
  | .zero n => (f.signed n 0, 0)
  | .fin m e => if m = 0 then (0, 0) else f.round c m e

/-- R48: rounds an exact value to an integer format, saturating. -/
def IntFmt.round (f : IntFmt) (c : RCfg) : Val → Nat × Flags
  | .nan _ => (0, Flags.nv)
  | .inf n => (wrap (if n then f.lo else f.hi) f.w, Flags.nv)
  | .zero _ => (0, 0)
  | .fin m e =>
    let neg := decide (m < 0)
    let (n, inex) := quantise c.rnd c.rbits neg m.natAbs e 0
    let y : Int := if neg then -(n : Int) else n
    if f.outside y then (wrap (f.sat y) f.w, Flags.nv) else (wrap y f.w, if inex then Flags.nx else 0)

/-- The exact product of two values, with NV for a signalling NaN and for 0 × ∞ (R117, R118). -/
def Val.mul (a b : Val) : Val × Flags :=
  let s := xor a.neg? b.neg?
  match a, b with
  | .nan x, y => (.nan false, (Val.nan x).nv ||| y.nv)
  | x, .nan y => (.nan false, x.nv ||| (Val.nan y).nv)
  | .inf _, .zero _ => (.nan false, Flags.nv)
  | .zero _, .inf _ => (.nan false, Flags.nv)
  | .inf _, _ => (.inf s, 0)
  | _, .inf _ => (.inf s, 0)
  | .zero _, _ => (.zero s, 0)
  | _, .zero _ => (.zero s, 0)
  | .fin m e, .fin m' e' => (.fin (m * m') (e + e'), 0)

/-- Whether some term is a NaN. -/
def anyNan (l : List Val) : Bool := l.any fun v => match v with | .nan _ => true | _ => false
/-- Whether some term is an infinity of the sign. -/
def anyInf (n : Bool) (l : List Val) : Bool := l.any fun v => v == .inf n

/-- The exact sum of two finite dyadics. -/
def dyAdd (m e m' e' : Int) : Int × Int :=
  if e ≤ e' then (m + m' * ((2 ^ (e' - e).toNat : Nat) : Int), e) else (m * ((2 ^ (e - e').toNat : Nat) : Int) + m', e')

/-- The exact sum of the finite terms. -/
def dySum : List Val → Int × Int
  | [] => (0, 0)
  | .fin m e :: t => let r := dySum t; if r.1 = 0 then (m, e) else dyAdd m e r.1 r.2
  | _ :: t => dySum t

/-- R44, R54: the exact sum of terms, with the sign rules for an exact zero under the rounding mode. -/
def Val.sum (rnd : Nat) (l : List Val) : Val × Flags :=
  let nv := l.foldl (fun f v => f ||| v.nv) 0
  if anyInf true l && anyInf false l then (.nan false, nv ||| Flags.nv)
  else if anyNan l then (.nan false, nv)
  else if anyInf true l then (.inf true, nv)
  else if anyInf false l then (.inf false, nv)
  else
    let r := dySum l
    if r.1 ≠ 0 then (.fin r.1 r.2, nv)
    else if l.all (fun v => v == .zero true) then (.zero true, nv)
    else if l.all (fun v => v == .zero false) then (.zero false, nv)
    else (.zero (rnd = 4), nv)

/-- The order of two values as real numbers: negative, zero or positive; a NaN compares as zero. -/
def Val.cmp (a b : Val) : Int :=
  let key : Val → Int := fun v => match v with
    | .inf true => -1
    | .inf false => 1
    | _ => 0
  if key a ≠ key b ∧ (key a ≠ 0 ∨ key b ≠ 0) then key a - key b
  else if key a ≠ 0 then 0
  else
    let v : Val → Val := fun x => match x with
      | .fin m e => .fin (-m) e
      | y => y
    (dySum [a, v b]).1

/-- R57: the class of a galley word: 0 finite, 1 +Inf, 2 −Inf, 3 NaN. -/
def Galley.cls (w : Galley) : Nat := bits w.toNat 127 126

/-- R57: M. -/
def Galley.m (w : Galley) : Int := if Galley.cls w = 0 then sext w.toNat 126 else 0

/-- A finite galley word. -/
def Galley.ofM (m : Int) : Galley := BitVec.ofNat 128 (wrap m 126)

/-- A galley word of a class, M written as zero (R57). -/
def Galley.ofCls (c : Nat) : Galley := BitVec.ofNat 128 (c * 2 ^ 126)

/-- R59: one contribution. -/
inductive Contrib where
  | val (v : Val)
  /-- a finite galley word of the same anchor -/
  | word (w : Galley)
deriving DecidableEq, Repr

/-- R59: the quotient q of a finite value at anchor A, nearest, ties to even. -/
def quotient (anchor : Int) (m e : Int) : Int :=
  let (n, _) := quantise 1 0 (decide (m < 0)) m.natAbs e anchor
  if m < 0 then -(n : Int) else n

/-- R59: a contribution as a class (as in R57) and its quotient. -/
def Contrib.parts (anchor : Int) : Contrib → Nat × Int
  | .val (.nan _) => (3, 0)
  | .val (.inf n) => (if n then 2 else 1, 0)
  | .val (.zero _) => (0, 0)
  | .val (.fin m e) => (0, quotient anchor m e)
  | .word w => (Galley.cls w, Galley.m w)

/-- R59: adds a contribution given by its class and quotient; answers the word, NV and overflow. -/
def waddParts (w : Galley) (cls : Nat) (q : Int) : Galley × Bool × Bool :=
  let wc := Galley.cls w
  if wc = 3 ∨ cls = 3 then (Galley.ofCls 3, false, false)
  else if wc ≠ 0 ∧ cls ≠ 0 ∧ wc ≠ cls then (Galley.ofCls 3, true, false)
  else if wc ≠ 0 then (Galley.ofCls wc, false, false)
  else if cls ≠ 0 then (Galley.ofCls cls, false, false)
  else
    let t := Galley.m w + q
    if ((2 ^ 125 : Nat) : Int) - 1 < t then (Galley.ofCls 1, false, true)
    else if t < -((2 ^ 125 : Nat) : Int) then (Galley.ofCls 2, false, true)
    else (Galley.ofM t, false, false)

/-- R59: `wadd`. Answers the word, whether NV is raised, and whether it overflowed. A signalling NaN
contribution raises NV. -/
def wadd (anchor : Int) (w : Galley) (c : Contrib) : Galley × Bool × Bool :=
  let p := c.parts anchor
  let r := waddParts w p.1 p.2
  (r.1, r.2.1 || (c == .val (.nan true)), r.2.2)

/-- R61: the exact value of a galley word at an anchor. -/
def Galley.value (anchor : Int) (w : Galley) : Val :=
  match Galley.cls w with
  | 1 => .inf false
  | 2 => .inf true
  | 3 => .nan false
  | _ => if Galley.m w = 0 then .zero false else .fin (Galley.m w) anchor

/-- R61: converts a galley word out to a format other than W128. -/
def Galley.convert (anchor : Int) (f : Fmt) (c : RCfg) (w : Galley) : Nat × Flags :=
  match f with
  | .int g => g.round c (Galley.value anchor w)
  | .fp g => g.encode c (Galley.value anchor w)
  | .w128 => (w.toNat, 0)

/-- R58: an anchor field as a signed number, and whether it is in range. -/
def anchorVal (x : Nat) : Int := sext x 16
def anchorOk (x : Nat) : Bool := decide (-1200 ≤ anchorVal x) && decide (anchorVal x ≤ 1100)

/-- R43: an E8 block scale as an exact value. -/
def scaleVal (e : Nat) : Val := if e % 256 = 255 then .nan false else .fin 1 ((e % 256 : Nat) - 127)

/-- The exact value of an element's bits in a format, unflushed (R59, R129). -/
def Fmt.exact (f : Fmt) (x : Nat) : Val :=
  match f with
  | .int g => let v := g.val x; if v = 0 then .zero false else .fin v 0
  | .fp g => g.decode x
  | .w128 => .zero false

/-- R44, R49: whether MODE flushes a format: FTZ [3] for FP32 and FP64, FTZH [4] for the others. -/
def ftzOf (mode : Word) (f : FpFmt) : Bool := if f.w ≥ 32 then mode.getLsbD 3 else mode.getLsbD 4

end Sys2Proof.Machine
end

