-- ==== Sys2Proof/Syntax.lean ====
section
/-! DEFINITION. The abstract syntax: one constructor for each row of spec/opcode_table.json. A row of an
instruction that a gang fetches carries the instruction's fields (`Short` for a short form, `Long` for a
long form); a row of an event carries what the event names. Each docstring gives the row's rule. -/
namespace Sys2Proof

/-- The operations and events of the KY-960, in the table's order, but for the host's and the fabric's own
events, which stand last. -/
inductive Instr where
  /-- R110: Short-form NOP: no effect and no latch push; it becomes the chain head. -/
  | nopShort (f : Short)
  /-- R110: Long-form NOP: no effect and no latch push. -/
  | nop (f : Long)
  /-- R99: Short-form INT32 add of A and B into D, saturating under MODE.SATD. -/
  | iaddShort (f : Short)
  /-- R99: Long-form element-wise integer add, with optional OVF, saturation and carry in/out. -/
  | iadd (f : Long)
  /-- R99: Short-form INT32 subtract. -/
  | isubShort (f : Short)
  /-- R99: Long-form element-wise integer subtract, with optional OVF, saturation and borrow. -/
  | isub (f : Long)
  /-- R100: Short-form INT32 multiply, keeping the low half. -/
  | imulShort (f : Short)
  /-- R100: Long-form integer multiply, reduced to the format. -/
  | imul (f : Long)
  /-- R100: Short-form INT32 multiply, writing the upper half of the product. -/
  | imulhShort (f : Short)
  /-- R100: Long-form upper half of the exact integer product. -/
  | imulh (f : Long)
  /-- R101: Integer multiply-add with one reduction, optionally widening to 64 bits. -/
  | imad (f : Long)
  /-- R102: Short-form INT32 minimum. -/
  | iminShort (f : Short)
  /-- R102: Long-form element-wise integer minimum. -/
  | imin (f : Long)
  /-- R102: Short-form INT32 maximum. -/
  | imaxShort (f : Short)
  /-- R102: Long-form element-wise integer maximum. -/
  | imax (f : Long)
  /-- R103: Short-form bitwise AND. -/
  | andShort (f : Short)
  /-- R103: Long-form bitwise AND at the format width. -/
  | and (f : Long)
  /-- R103: Short-form bitwise OR. -/
  | orShort (f : Short)
  /-- R103: Long-form bitwise OR at the format width. -/
  | or (f : Long)
  /-- R103: Short-form bitwise XOR. -/
  | xorShort (f : Short)
  /-- R103: Long-form bitwise XOR at the format width. -/
  | xor (f : Long)
  /-- R103: Three-input bitwise function selected by an 8-bit truth table in SUB. -/
  | tern (f : Long)
  /-- R104: Short-form INT32 left shift. -/
  | shlShort (f : Short)
  /-- R104: Long-form left shift, with optional saturation and OVF. -/
  | shl (f : Long)
  /-- R104: Short-form logical right shift. -/
  | shrShort (f : Short)
  /-- R104: Long-form logical right shift. -/
  | shr (f : Long)
  /-- R104: Short-form arithmetic right shift. -/
  | sarShort (f : Short)
  /-- R104: Long-form arithmetic right shift. -/
  | sar (f : Long)
  /-- R105: Population count, leading or trailing zero count, bit reverse or byte reverse of A. -/
  | bitop (f : Long)
  /-- R106: Extracts a bit field, sign- or zero-extended. -/
  | bfe (f : Long)
  /-- R106: Inserts a bit field of B into A. -/
  | bfi (f : Long)
  /-- R107: Integer compare, optionally combined with a predicate, into a predicate or a register. -/
  | icmp (f : Long)
  /-- R108: Selects A or B per lane by a predicate. -/
  | sel (f : Long)
  /-- R109: Short-form 32-bit register copy. -/
  | movShort (f : Short)
  /-- R109: Long-form copy of 32, 64 or 128 bits (SUB 0x00). -/
  | mov (f : Long)
  /-- R109: Writes bits [23:0] of A into index register xn (SUB 0x10+n). -/
  | movToIndex (f : Long)
  /-- R109: Reads index register xn into D (SUB 0x18+n). -/
  | movFromIndex (f : Long)
  /-- R111: Computes a global address or a cluster scratchpad address without any check. -/
  | lea (f : Long)
  /-- R117: Short-form FP32 add rounded under MODE.RND. -/
  | faddShort (f : Short)
  /-- R117: Long-form FP32 add with modifiers, rounding and saturation. -/
  | fadd (f : Long)
  /-- R117: Short-form FP32 multiply. -/
  | fmulShort (f : Short)
  /-- R117: Long-form FP32 multiply. -/
  | fmul (f : Long)
  /-- R118: FP32 fused multiply-add with one rounding. -/
  | ffma (f : Long)
  /-- R119: Short-form FP32 minimum. -/
  | fminShort (f : Short)
  /-- R119: Long-form FP32 minimum with NaN propagation option. -/
  | fmin (f : Long)
  /-- R119: Short-form FP32 maximum. -/
  | fmaxShort (f : Short)
  /-- R119: Long-form FP32 maximum with NaN propagation option. -/
  | fmax (f : Long)
  /-- R120: FP32 quiet compare into a predicate or register. -/
  | fcmp (f : Long)
  /-- R121: Correctly rounded FP32 function (RCP, RSQ, SQRT, EX2, LG2, SINPI, COSPI). -/
  | ffunc (f : Long)
  /-- R122: FP32 helper: ROUNDI, FRACT, LDEXP, GETEXP or CLASS. -/
  | fmisc (f : Long)
  /-- R117: Short-form FP64 add. -/
  | daddShort (f : Short)
  /-- R117: Long-form FP64 add. -/
  | dadd (f : Long)
  /-- R117: Short-form FP64 multiply. -/
  | dmulShort (f : Short)
  /-- R117: Long-form FP64 multiply. -/
  | dmul (f : Long)
  /-- R118: FP64 fused multiply-add. -/
  | dfma (f : Long)
  /-- R119: Short-form FP64 minimum. -/
  | dminShort (f : Short)
  /-- R119: Long-form FP64 minimum. -/
  | dmin (f : Long)
  /-- R119: Short-form FP64 maximum. -/
  | dmaxShort (f : Short)
  /-- R119: Long-form FP64 maximum. -/
  | dmax (f : Long)
  /-- R120: FP64 quiet compare. -/
  | dcmp (f : Long)
  /-- R121: Correctly rounded FP64 function. -/
  | dfunc (f : Long)
  /-- R122: FP64 helper: ROUNDI, FRACT, LDEXP, GETEXP or CLASS. -/
  | dmisc (f : Long)
  /-- R117: Short-form packed FP16 add. -/
  | hadd2Short (f : Short)
  /-- R117: Long-form packed FP16 or BF16 add. -/
  | hadd2 (f : Long)
  /-- R117: Short-form packed FP16 multiply. -/
  | hmul2Short (f : Short)
  /-- R117: Long-form packed FP16 or BF16 multiply. -/
  | hmul2 (f : Long)
  /-- R118: Packed 16-bit fused multiply-add. -/
  | hfma2 (f : Long)
  /-- R119: Short-form packed FP16 minimum. -/
  | hmin2Short (f : Short)
  /-- R119: Long-form packed 16-bit minimum. -/
  | hmin2 (f : Long)
  /-- R119: Short-form packed FP16 maximum. -/
  | hmax2Short (f : Short)
  /-- R119: Long-form packed 16-bit maximum. -/
  | hmax2 (f : Long)
  /-- R120: Packed 16-bit compare with element selection. -/
  | hcmp2 (f : Long)
  /-- R124: Four-term 8-bit integer dot product plus addend. -/
  | idot4 (f : Long)
  /-- R123: Two-term 16-bit dot product plus FP32 addend, rounded once. -/
  | fdot2 (f : Long)
  /-- R125: Converts one element between integer and floating-point formats. -/
  | cvt (f : Long)
  /-- R126: Assembles a word from selected bytes of two registers. -/
  | pack (f : Long)
  /-- R127: Spreads packed elements over consecutive registers. -/
  | unpk (f : Long)
  /-- R128: Computes Philox4x32-10 from a counter and key. -/
  | rng (f : Long)
  /-- R129: Adds exact contributions into a register window by wadd. -/
  | xacc (f : Long)
  /-- R130: Converts an element into a window at an anchor (DIR 0). -/
  | xcvtTo (f : Long)
  /-- R130: Converts a window out to a format or re-anchors it (DIR 1). -/
  | xcvtFrom (f : Long)
  /-- R134: Moves values between lanes of a segment. -/
  | shfl (f : Long)
  /-- R135: Combines a predicate across ACTIVE lanes (any, all, uni, ballot). -/
  | vote (f : Long)
  /-- R136: Compares bit patterns across ACTIVE lanes. -/
  | match (f : Long)
  /-- R137: Reduces A over ACTIVE lanes in a fixed tree. -/
  | redx (f : Long)
  /-- R138: Prefix combination in increasing lane order. -/
  | scan (f : Long)
  /-- R139: Computes a predicate from three predicates by a truth table. -/
  | plop (f : Long)
  /-- R140: Saves all predicates of a lane into a register. -/
  | pmovSave (f : Long)
  /-- R140: Loads masked predicates from a register. -/
  | pmovLoad (f : Long)
  /-- R165: Global load through a buffer record; checks, coalesces and sends line requests. -/
  | ld (f : Long)
  /-- R166: Global store through a buffer record. -/
  | st (f : Long)
  /-- R171: Scratchpad load, local or cluster-remote. -/
  | lds (f : Long)
  /-- R171: Scratchpad store, local or cluster-remote. -/
  | sts (f : Long)
  /-- R175: Global atomic returning the old value. -/
  | atom (f : Long)
  /-- R176: Global atomic reduction without a returned value. -/
  | red (f : Long)
  /-- R177: Scratchpad atomic in the bank adder. -/
  | atoms (f : Long)
  /-- R167: Stores ACTIVE lanes' data at consecutive indices. -/
  | cstr (f : Long)
  /-- R180: Orders the gang's own accesses at a scope. -/
  | fence (f : Long)
  /-- R168: Replaces a buffer record from registers (MEM 0). -/
  | ldbr (f : Long)
  /-- R168: Loads a buffer record from memory (MEM 1). -/
  | ldbrM (f : Long)
  /-- R179: Sends a near-memory operation per lane (mcas, enq, chase, wadd). -/
  | nmx (f : Long)
  /-- R169: Asks L2 to prefetch lines; checks nothing. -/
  | pref (f : Long)
  /-- R186: Forks a copy from a forme-shaped global region into scratchpad. -/
  | cpyIn (f : Long)
  /-- R186: Forks a copy from scratchpad to a forme-shaped global region. -/
  | cpyOut (f : Long)
  /-- R187: Forks a copy from global memory into tile-store rows. -/
  | cpyt (f : Long)
  /-- R187: Forks a copy from local scratchpad into tile-store rows. -/
  | cpytS (f : Long)
  /-- R191: Closes the open batch and returns its number. -/
  | seal (f : Long)
  /-- R192: Issues once at most n sealed batches are unfinished, joining finished batches. -/
  | waitb (f : Long)
  /-- R195: Announces bytes and arrives at a byte barrier in one update. -/
  | xarv (f : Long)
  /-- R197: Issues once a byte barrier's generation changes, acquiring. -/
  | xwait (f : Long)
  /-- R206: Issues once a completion counter falls to the threshold. -/
  | waitc (f : Long)
  /-- R198: Arrives at a named barrier and waits for its phase. -/
  | barWait (f : Long)
  /-- R198: Arrives at a named barrier without waiting. -/
  | barNote (f : Long)
  /-- R200: Contributes ACTIVE lanes to a round of a collective slot. -/
  | cred (f : Long)
  /-- R204: Requests or joins a proof of the job, releasing at device scope. -/
  | snap (f : Long)
  /-- R205: Sends one record per lane to a node's cord bin. -/
  | emit (f : Long)
  /-- R207: Reads a completion counter PEND. -/
  | cntrRd (f : Long)
  /-- R208: Cancels the gang's launch, graph, phase or job. -/
  | cntrCancel (f : Long)
  /-- R214: Joins the ownership queue and takes the matrix engine when free. -/
  | mxacq (f : Long)
  /-- R215: Gives up matrix engine ownership, releasing at group scope. -/
  | mxrel (f : Long)
  /-- R224: Issues a 32x32xK block product into a galley. -/
  | mma (f : Long)
  /-- R228: Issues a structured-sparse block product into a galley. -/
  | mmas (f : Long)
  /-- R229: Clears galley rows of ACTIVE lanes and their flags. -/
  | mzero (f : Long)
  /-- R231: Converts galley columns into registers. -/
  | mout (f : Long)
  /-- R230: Changes a galley's anchor, re-rounding every word. -/
  | manc (f : Long)
  /-- R143: Branches ACTIVE lanes to a fixed target, optionally setting a join. -/
  | bra (f : Long)
  /-- R144: Branches each lane to its own target. -/
  | brx (f : Long)
  /-- R145: Writes the return address and branches. -/
  | call (f : Long)
  /-- R144: Returns to per-lane addresses. -/
  | ret (f : Long)
  /-- R147: Waits to merge all fragments that reach it. -/
  | rgang (f : Long)
  /-- R149: Repeats the following body a literal count of times with stepped operands. -/
  | loop (f : Long)
  /-- R149: Repeats the body a count read from a register. -/
  | loopR (f : Long)
  /-- R153: Short-form EXIT of the ACTIVE lanes. -/
  | exitShort (f : Short)
  /-- R153: Ends the ACTIVE lanes once parked accesses have replayed. -/
  | exit (f : Long)
  /-- R154: Short-form YIELD. -/
  | yieldShort (f : Short)
  /-- R154: Ends the chain and lowers the gang's issue priority for 16 cycles. -/
  | yield (f : Long)
  /-- R249: Raises TRAP_SW with a code. -/
  | trap (f : Long)
  /-- R247: Returns from level 1 or 2: completes save or restore, ends the gang, or resumes and replays parked entries. -/
  | rte (f : Long)
  /-- R250: Reads a special register. -/
  | srd (f : Long)
  /-- R250: Writes a special register. -/
  | swr (f : Long)
  /-- R249: Raises BREAKPOINT with a code. -/
  | bkpt (f : Long)
  /-- R251: Saves a register class into a save frame. -/
  | ctxs (f : Long)
  /-- R251: Loads a register class from a save frame. -/
  | ctxr (f : Long)
  /-- R243: The oldest deferred report is taken as a KIND 001 trap at an issue point. -/
  | deferredReportTaken (core slot frag : Nat)
  /-- R244: A fragment waiting on a parked entry takes its cause as a KIND 010 trap. -/
  | parkedCauseTaken (core slot frag : Nat)
  /-- R418: Under MODE.STEP a fragment takes SINGLE_STEP at its next issue point. -/
  | singleStep (core slot frag : Nat)
  /-- R415: An instruction comparator match takes BREAKPOINT before fetch. -/
  | hardwareBreakpoint (core slot frag : Nat)
  /-- R253: A pre-emption, migration-stop or debug halt request arrives for a gang. -/
  | haltRequest (core slot : Nat) (cause : BitVec 6) (frame : Nat)
  /-- R253: The halt request is taken at an issue point and in-flight work is captured. -/
  | haltTaken (core slot frag : Nat)
  /-- R253: Once local acknowledgements arrive, the core writes the record and enters DTVEC with KIND 011. -/
  | haltSaveEntry (core slot : Nat)
  /-- R257: A placed gang is entered at level 2 from its frame, or rejected. -/
  | restoreEntry (core slot : Nat) (saved : SavedGang)
  /-- R146: Fragments at their join are merged once no running fragment holds an earlier join. -/
  | joinRelease (core slot : Nat)
  /-- R147: Fragments waiting at an RGANG merge once every fragment is waiting or at its join. -/
  | rgangRelease (core slot : Nat)
  /-- R148: A fragment waiting 4,096 cycles is released regardless of the condition. -/
  | earlyRelease (core slot frag : Nat)
  /-- R199: The gang arrives at a named barrier once all its fragments wait at matching BARs. -/
  | barArrival (core slot : Nat)
  /-- R288: A fragment whose DEFER reaches 8 becomes urgent. -/
  | fragmentUrgent (core slot frag : Nat)
  /-- R290: 16 cycles after YIELD the gang's fragments regain normal order. -/
  | yieldWindowEnd (core slot : Nat)
  /-- R165: A load line's reply writes the lanes' registers and lowers counter G. -/
  | loadDataReturn (id : Nat) (peer : Arrival)
  /-- R166: A store or reduction is acknowledged as performed and counter W falls. -/
  | storePerformed (reply : Reply)
  /-- R175: An atomic's old value returns to its registers. -/
  | atomicReply (id : Nat) (peer : Arrival)
  /-- R179: A near-memory agent's reply is received and counter N falls. -/
  | nmxReply (id : Nat) (peer : Arrival)
  /-- R170: A cluster-remote scratchpad access completes and counter S falls. -/
  | remoteScratchComplete (id : Nat)
  /-- R168: A memory-loaded buffer record arrives and replaces the record, or reports 0x11. -/
  | ldbrLoaded (id : Nat) (peer : Arrival)
  /-- R304: A peer request arrives at its home and is translated and performed, with colour rules applied. -/
  | fabricRequestArrival (req : PeerReq)
  /-- R367: A home's stage-2 refusal reaches the sender, parking the line or deferring a report. -/
  | peerRefusal (reply : Reply) (cause : BitVec 6) (ia : Nat)
  /-- R305: A WAIT reply arrives and restarts the request's timer. -/
  | waitReply (reply : Reply)
  /-- R305: A home holding an unserved request sends WAIT every 50 microseconds. -/
  | homeWaitTimer (held : Nat)
  /-- R305: A fabric request's timer expires and 0x1C is reported. -/
  | fabricTimeout (id : Nat)
  /-- R306: A moved answer makes the sender resolve the VDN again and resend. -/
  | movedReply (id modNo : Nat)
  /-- R189: A copy piece is written, skipping faulting segments into the fix-up list. -/
  | copyPieceDelivered (core copy piece : Nat)
  /-- R189: After all other pieces, the copy replays its fix-up list once. -/
  | copyFixupReplay (core copy : Nat)
  /-- R224: The matrix engine executes the next matrix instruction in issue order. -/
  | engineBlockProduct (core : Nat)
  /-- R225: 64 engine cycles without a joining instruction trigger the fold's galley write. -/
  | foldTimeout (core : Nat)
  /-- R227: A matrix instruction's galley updates finish; counter M falls and tokens return. -/
  | matrixComplete (core : Nat)
  /-- R340: A contribution reaches the slot root and is counted, held or answered. -/
  | credContributionArrival (con : Contribution)
  /-- R340: The root's timer expires and the round closes by timeout. -/
  | credRoundTimeout (slot : Nat)
  /-- R340: A member receives a round's result and status and writes waiting CREDs. -/
  | credResultArrival (res : RoundResult)
  /-- R409: A PAUSE notice suspends a slot's round timeouts. -/
  | slotPause (slot : Nat)
  /-- R409: A RESUME notice restarts a slot's round timeouts. -/
  | slotResume (slot : Nat)
  /-- R273: An EMIT's records enter the cord bin or spill to overflow space. -/
  | emitRecordEntry (emit : Nat)
  /-- R273: A bin's TIMER expires and its oldest records flush. -/
  | binTimerFlush (graph node : Nat)
  /-- R273: A quiescent graph flushes its bins until empty. -/
  | binQuiescenceFlush (graph : Nat)
  /-- R280: Staging of a launch's working-set ranges begins and is admitted under budgets. -/
  | stagingBegin (launch range : Nat)
  /-- R282: A staged line lands in L2 or a scratchpad landing. -/
  | stagedLineWritten (yarder group range line : Nat)
  /-- R276: A group or cluster set is placed on a core, reserving resources. -/
  | groupPlacement (launch core : Nat)
  /-- R276: Once landings are filled, all gangs of the group start at ENTRY. -/
  | groupStart (group : Nat)
  /-- R268: A group ends when its gangs have ended and their work completed; resources are freed. -/
  | groupEnd (group : Nat)
  /-- R270: A launch's run time reaches RUNLIM and its gangs receive 0x34. -/
  | watchdog (launch : Nat)
  /-- R292: After its gangs are halted, firmware saves a group's scratchpad and tile store. -/
  | groupSave (group : Nat) (ia : Nat)
  /-- R292: A halted group is restored whole onto a core. -/
  | groupRestore (saved core : Nat)
  /-- R352: A write to a notify register updates TAIL or stops the queue. -/
  | notifyWrite (fn queue : Nat) (tail : Word)
  /-- R356: Queue NOP command: no effect. -/
  | cmdNop (fn queue : Nat)
  /-- R356: Creates a queue launch in the current phase. -/
  | cmdLaunch (fn queue : Nat)
  /-- R356: Opens a work graph with its node table. -/
  | cmdGraph (fn queue : Nat)
  /-- R356: Ends the queue's part of the current phase. -/
  | cmdPhend (fn queue : Nat)
  /-- R356: Requests a proof at the phase boundary. -/
  | cmdProof (fn queue : Nat)
  /-- R356: Records a signal to write once earlier commands complete. -/
  | cmdSignal (fn queue : Nat)
  /-- R356: After earlier commands complete, writes VALUE with release and sends MSI-X. -/
  | signalWrite (fn queue : Nat) (failed : Bool)
  /-- R356: Opens a collective slot for the queue's job. -/
  | cmdCopen (fn queue : Nat)
  /-- R356: Closes a collective slot once no CRED awaits a result. -/
  | cmdCclose (fn queue : Nat)
  /-- R356: Adds overflow space to a graph. -/
  | cmdOvfadd (fn queue : Nat)
  /-- R356: Cancels a launch, graph, phase or job. -/
  | cmdCancel (fn queue : Nat)
  /-- R354: A free queue slot is granted by weighted ratio. -/
  | slotGrant (fn queue : Nat)
  /-- R354: Firmware reclaims a pre-emptible slot for an asking queue. -/
  | slotReclaim (fn queue : Nat)
  /-- R355: A non-pre-emptible hold lapses and the slot goes to the earliest pending queue. -/
  | holdLimitLapse (fn queue : Nat)
  /-- R359: JCAN cancels a job's current phase on a function. -/
  | jcanPhase (value : Word)
  /-- R359: JCAN cancels a whole job on a function. -/
  | jcanJob (value : Word)
  /-- R373: Stage-1 invalidation of the page holding S1IADDR. -/
  | s1InvalidatePage (fn : Nat)
  /-- R373: Stage-1 invalidation of the whole function. -/
  | s1InvalidateFunction (fn : Nat)
  /-- R373: Stage-2 invalidation of one page of a function. -/
  | s2InvalidatePage (fn : Nat)
  /-- R373: Stage-2 invalidation of a whole function. -/
  | s2InvalidateFunction (fn : Nat)
  /-- R373: Stage-2 invalidation of every function of a partition. -/
  | s2InvalidatePartition (part : Nat)
  /-- R374: Covered entries are discarded and covered requests settled; BUSY returns to 0. -/
  | invalidationComplete (job : Nat)
  /-- R375: Write of PCTL.VALID, refused on overlap or while in use. -/
  | partitionValidWrite (part : Nat) (valid : Bool)
  /-- R377: Partition reset: ends gangs, writes back L2, power-cycles cores, closes slots. -/
  | partitionReset (part : Nat)
  /-- R379: Loads an AES-256-XTS owner key from KDATA. -/
  | keyLoad (keyid : BitVec 12)
  /-- R379: Erases an owner key. -/
  | keyErase (keyid : BitVec 12)
  /-- R383: Gives a frame a new KEYID, invalidating L2 lines and block validity. -/
  | retag (keyid : BitVec 12)
  /-- R398: ENABLE of a proof context, starting the sweep. -/
  | pxEnable (fn : Nat)
  /-- R398: The sweep tags one valid clean block into the open folio; BUSY clears at the end. -/
  | enableSweepStep (fn : Nat)
  /-- R398: DISABLE of a proof context, discarding records. -/
  | pxDisable (fn : Nat)
  /-- R399: ROLLBACK restores blocks from proof records and re-applies the channel log. -/
  | pxRollback (fn : Nat)
  /-- R392: A proof point is established: epoch advances, folios swap, a record is reserved, markers go out. -/
  | proofPoint (fn : Nat)
  /-- R394: A member's blaze marker arrives, triggering a point or closing a channel. -/
  | blazeMarkerArrival (fn : Nat) (marker : Marker)
  /-- R396: The drain copies one pending block of the frozen folio into the record. -/
  | drainStep (fn : Nat)
  /-- R403: ACCEPT moves a destination session to INCOMING. -/
  | msAccept (session : Nat)
  /-- R403: START begins tracking and pre-copy on the source. -/
  | msStart (session : Nat) (incoming : Bool)
  /-- R403: STOP requests the stop phase. -/
  | msStop (session : Nat)
  /-- R411: ABORT ends tracking or restores the function on the source. -/
  | msAbort (session : Nat)
  /-- R403: A pre-copy round ends when all blocks are acknowledged; DIRTY and ROUND update. -/
  | precopyRoundEnd (session : Nat)
  /-- R404: The stop phase begins: quiesce, halt gangs and save. -/
  | stopPhaseBegin (session : Nat)
  /-- R406: The destination loads the state record, sends REDIRECT and restores groups. -/
  | migrationResume (session : Nat) (record : List Byte)
  /-- R406: A REDIRECT updates a module's redirect entry; the source opens its forwarding window. -/
  | redirectArrival (vdn modNo fn : Nat)
  /-- R407: The source's forwarding window closes and later requests get moved. -/
  | forwardingWindowExpiry (vdn : Nat)
  /-- R413: SWR of DBGMB with bit 63 posts OUT or is refused. -/
  | dbgmbPost (core slot : Nat) (value : Quad)
  /-- R438: At 115 C the controller signals fatal AER and removes core power. -/
  | thermalTrip (tj : BitVec 8)
  /-- R90: An instruction word with an unassigned OPC, or a short form of an opcode that has none, traps with 0x01 from word 0 alone. -/
  | illegalOpc (word0 : Word)
  /-- R80: At an issue point the fetch of word 0 fails translation or has an uncorrectable error, and the cause is raised at order 1 before any opcode is known. -/
  | fetchFault (cause : BitVec 6) (va : Quad)
  /-- R349: A module answers a request unreachable, because no function holds the VDN or the home partition is stopped, and the sender reports 0x1D as a deferred report. -/
  | fabricUnreachable (id : Nat)
  /-- R226: A line of an L2-direct matrix operand returns to the tile fetch unit and is pinned in L2; with an uncorrectable error it reports 0x1B. -/
  | l2DirectOperandReply (id line : Nat) (peer : Arrival)
  /-- R350: Driver write of QHEAD, ending cancel skipping for the queue. -/
  | qheadWrite (fn queue : Nat) (head : Word)
  /-- R349: Write of a function's VDN, ignored while the function is active. -/
  | vfvdnWrite (fn : Nat) (value : Word)
  /-- R373: Stage-2 invalidation of every function. -/
  | s2InvalidateAll
  /-- R403: A pre-copied block arrives and is written at the destination. -/
  | precopyBlockArrival (session ia : Nat) (valid : Bool) (data : List Byte)
  /-- R412: Host writes a debug command into DBGIN, setting INF. -/
  | dbginWrite (value : Quad)
  /-- R412: Host writes 1 to DBGCTL.OUTF to acknowledge a post. -/
  | dbgoutAcknowledge
  /-- R413: SWR of DBGMB with bit 62 clears INF. -/
  | dbgmbAcknowledge
  /-- R420: DBGHREQ halt sends DEBUG_HALT to a slot's group. -/
  | debugHalt (value : Word)
  /-- R420: DBGHREQ resume lets a debug-halted group be restored. -/
  | debugResume (value : Word)
  /-- R428: ACMD.GO makes the controller write a signed attestation report. -/
  | attestation (hostFails : Bool)
  /-- R437: Write of the power limit recomputes PTOKEN.SIZE. -/
  | plimWrite (value : Word)
  /-- R438: TJ crosses a threshold and the thermal state and token cap change. -/
  | thermalStateChange (tj : BitVec 8)
  /-- R424: Power applied: firmware verified, identity derived, HBM trained, links trained. -/
  | coldBoot
  /-- R440: Hot reset, link disable, PERST# or PF FLR resets the device and reruns boot. -/
  | warmReset
  /-- R440: Function Level Reset of a virtual function. -/
  | vfFlr (fn : Nat)
  /-- R431: An Opell link trains and learns its far end. -/
  | linkTrained (link farMod farLink podTime : Nat)
  /-- R433: A link fails three retrainings; unacknowledged flits replay on a detour. -/
  | linkDown (link replayed : Nat)
  /-- R434: A correctable ECC error is corrected and counted. -/
  | correctableError (part : Nat)
  /-- R435: An uncorrectable error at write-back stops the owning partition. -/
  | writebackUncorrectable (line : Nat)
  /-- R434: An uncorrectable clean L2 line is invalidated and counted. -/
  | l2CleanUncorrectable (line : Nat)
  /-- R252: An uncorrectable error in a gang's control state reports 0x3F. -/
  | machineCheck (core slot : Nat)
  /-- R434: A fatal error stops the device serving requests. -/
  | fatalError
  /-- R7: Host write to a register that has no behaviour of its own. -/
  | registerWrite (fn bar offset size : Nat) (value : Quad)
  /-- R345: The physical function's driver enables or disables a virtual function through the SR-IOV capability; on creation DELEG and the TIME offset are reset. -/
  | vfEnable (fn : Nat) (enable : Bool)
  /-- R433: A flit fails its CRC on an Opell link, is retried in sequence, and RETRY counts it. -/
  | flitRetry (link : Nat)
  /-- R385: A 32 ms refresh window ends, the row activation counts restart, and the hot-row throttles lapse. -/
  | refreshWindowEnd
  /-- R419: A host write of DBGCTL.HOLD ends a group hold at once, or starts one while a gang is at level 2 in a debug trap. -/
  | dbgctlHoldWrite (hold : Bool)
  /-- R323: The host's posted write over the host link is performed in device memory, in PCI Express posted order. -/
  | hostPostedWrite (fn : Nat) (ia : Nat) (data : List Byte)
deriving DecidableEq, Repr

end Sys2Proof
end

