-- ==== Sys2Proof/Machine/Shape.lean ====
section
/-! DEFINITION. Which fields and operands each instruction uses, and what each position accepts: the
tables of R95, R113, R132, R155, R182, R211 and R248 as one function. From it follow the decode causes of
orders 4 to 6 of R94, the register checks of orders 7 to 10, the chain sets of R92 and the interlocks of
R260. -/
namespace Sys2Proof.Machine

/-- What an operand position accepts (R86, R18, R21). Widths are in bits. -/
inductive Kind where
  /-- a source of the width -/
  | src (w : Nat)
  /-- a v, k, s or v[xn] destination of the width -/
  | dst (w : Nat)
  /-- as `dst`, or a predicate -/
  | dstP (w : Nat)
  /-- a predicate destination only (R139) -/
  | pdst
  /-- a mask operand; ZERO is accepted when the flag is set -/
  | mask (zero : Bool)
  /-- R144: v, v[xn], s or LIT in a 64-bit position -/
  | target
  /-- R145: an even v code -/
  | link
  /-- R178: eight v registers from a multiple of 8, as source or destination -/
  | wide
  /-- R129: the window, read and written -/
  | window
  /-- R231: v registers from the code on, each word in `step` registers -/
  | run (regs step : Nat)
deriving DecidableEq, Repr

/-- A used operand position. -/
structure Use where
  code : BitVec 8
  kind : Kind
deriving DecidableEq, Repr

/-- The form of an instruction: a reserved field is nonzero (R87); a field holds a value the instruction
does not define (R87, R85, R47, R58, R36); its operand positions; further registers it reads and writes
for R92 (predicates and index registers, by register id); the least level it needs (R235, R36); whether
it pushes the latch ring (R30). -/
structure Shape where
  rsv : Bool
  ill : Bool
  uses : List Use
  xr : List Nat
  xw : List Nat
  level : Nat
  push : Bool
deriving DecidableEq, Repr

/-- The fields an instruction uses; SUB and IMM32 by masks of their used bits. -/
structure FieldUse where
  d : Bool := false
  a : Bool := false
  b : Bool := false
  c : Bool := false
  fmt : Bool := false
  rnd : Bool := false
  sat : Bool := false
  nwb : Bool := false
  subM : BitVec 8 := 0
  immM : BitVec 32 := 0
deriving DecidableEq, Repr

/-- R87: some field that is not used is nonzero. -/
def reservedSet (f : Long) (u : FieldUse) : Bool :=
  (!u.d && f.d != 0) || (!u.a && f.a != 0) || (!u.b && f.b != 0) || (!u.c && f.c != 0) ||
  (!u.fmt && f.fmt != 0) || (!u.rnd && f.rnd != 0) || (!u.sat && f.sat) || (!u.nwb && f.nwb) ||
  (f.sub &&& ~~~u.subM != 0) || (f.imm &&& ~~~u.immM != 0)

/-- The register id of a predicate and of an index register (log 13). -/
def pid (n : Nat) : Nat := 0xE4 + n
def xid (n : Nat) : Nat := 0x100 + n

/-- The width per lane of a format code in a register position (R85); 32 for codes that are refused. -/
def fmtWidth (c : BitVec 4) : Nat := match Fmt.ofCode c with | some f => f.laneWidth | none => 32
/-- The number of elements per lane of a format code. -/
def fmtElems (c : BitVec 4) : Nat := match Fmt.ofCode c with | some f => f.elems | none => 1
def fmtIsInt (c : BitVec 4) : Bool := decide (c.toNat ≤ 7)

def subN (f : Long) : Nat := f.sub.toNat
def immN (f : Long) : Nat := f.imm.toNat
def rndN (f : Long) : Nat := f.rnd.toNat
def fmtN (f : Long) : Nat := f.fmt.toNat
/-- A field of SUB and of IMM32 (R10 `bits`). -/
def subF (f : Long) (hi lo : Nat) : Nat := bits (subN f) hi lo
def immF (f : Long) (hi lo : Nat) : Nat := bits (immN f) hi lo

/-- R95: OVF, CC, WIDE and IMM of SUB. -/
def ovfBit (f : Long) : Bool := f.sub.getLsbD 0
def ccBit (f : Long) : Bool := f.sub.getLsbD 1

def sh0 : Shape := { rsv := false, ill := false, uses := [], xr := [], xw := [], level := 0, push := false }

/-- A register instruction's shape (it pushes the ring, R30). -/
def regSh (f : Long) (u : FieldUse) (ill : Bool) (uses : List Use) (xr xw : List Nat := []) : Shape :=
  { sh0 with rsv := reservedSet f { u with nwb := true }, ill := ill, uses := uses, xr := xr, xw := xw, push := true }

/-- The shape of an instruction that pushes nothing. -/
def endSh (f : Long) (u : FieldUse) (ill : Bool) (uses : List Use) (xw : List Nat := []) : Shape :=
  { sh0 with rsv := reservedSet f u, ill := ill, uses := uses, xw := xw }

def two (f : Long) (wd wa wb : Nat) : List Use := [⟨f.d, .dst wd⟩, ⟨f.a, .src wa⟩, ⟨f.b, .src wb⟩]

/-- The integer instructions of R95. -/
def shIadd (f : Long) : Shape :=
  let w := fmtWidth f.fmt
  let cc := ccBit f
  regSh f { d := true, a := true, b := true, c := cc, fmt := true, sat := true, subM := 3, immM := if cc then 7 else 0 }
    (decide (7 < fmtN f) || (cc && (decide (3 < fmtN f) || f.sat || ovfBit f)) || (ovfBit f && f.sat))
    (two f w w w ++ if cc then [⟨f.c, .mask true⟩] else [])
    [] (if cc then [pid (immN f % 8)] else [])
def shImul (f : Long) : Shape :=
  let w := fmtWidth f.fmt
  regSh f { d := true, a := true, b := true, fmt := true, sat := true, subM := 1 } (decide (3 < fmtN f) || (ovfBit f && f.sat)) (two f w w w)
/-- D, A and B of one width, FMT up to `hi`, nothing else (R95). -/
def shPlain (hi : Nat) (f : Long) : Shape :=
  let w := fmtWidth f.fmt
  regSh f { d := true, a := true, b := true, fmt := true } (decide (hi < fmtN f)) (two f w w w)
def shImad (f : Long) : Shape :=
  let wide := ccBit f
  let w := if wide then 64 else fmtWidth f.fmt
  let ws := if wide then 32 else w
  regSh f { d := true, a := true, b := true, c := true, fmt := true, sat := true, subM := 3 }
    (decide (3 < fmtN f) || (wide && decide (1 < fmtN f)) || (ovfBit f && f.sat)) (two f w ws ws ++ [⟨f.c, .src w⟩])
def shTern (f : Long) : Shape :=
  let w := fmtWidth f.fmt
  regSh f { d := true, a := true, b := true, c := true, fmt := true, subM := 255 } (decide (3 < fmtN f)) (two f w w w ++ [⟨f.c, .src w⟩])
def shShl (f : Long) : Shape :=
  let w := fmtWidth f.fmt
  regSh f { d := true, a := true, b := true, fmt := true, sat := true, subM := 1 } (decide (3 < fmtN f) || (ovfBit f && f.sat)) (two f w w 32)
def shShr (f : Long) : Shape :=
  let w := fmtWidth f.fmt
  regSh f { d := true, a := true, b := true, fmt := true } (decide (3 < fmtN f)) (two f w w 32)
def shBitop (f : Long) : Shape :=
  let w := fmtWidth f.fmt
  regSh f { d := true, a := true, fmt := true, subM := 255 } (decide (3 < fmtN f) || decide (4 < subN f))
    [⟨f.d, .dst (if subN f ≤ 2 then 32 else w)⟩, ⟨f.a, .src w⟩]
def shBfe (f : Long) : Shape :=
  let w := fmtWidth f.fmt
  let im := ovfBit f
  regSh f { d := true, a := true, b := !im, fmt := true, subM := 1, immM := if im then 0xFFFF else 0 } (decide (3 < fmtN f))
    ([⟨f.d, .dst w⟩, ⟨f.a, .src w⟩] ++ if im then [] else [⟨f.b, .src 32⟩])
def shBfi (f : Long) : Shape :=
  let w := fmtWidth f.fmt
  let im := ovfBit f
  regSh f { d := true, a := true, b := true, c := !im, fmt := true, subM := 1, immM := if im then 0xFFFF else 0 } (decide (3 < fmtN f))
    (two f w w w ++ if im then [] else [⟨f.c, .src 32⟩])
/-- R107, R120: a compare: COMB in SUB[4:3]. -/
def shCmp (f : Long) (w : Nat) (u : FieldUse) (ill : Bool) : Shape :=
  let comb := subF f 4 3
  regSh f { u with d := true, a := true, b := true, c := comb != 0 } (ill || comb == 3)
    ([⟨f.d, .dstP 32⟩, ⟨f.a, .src w⟩, ⟨f.b, .src w⟩] ++ if comb != 0 then [⟨f.c, .mask false⟩] else [])
def shIcmp (f : Long) : Shape :=
  shCmp f (fmtWidth f.fmt) { fmt := true, subM := 0x1F } (decide (3 < fmtN f) || decide (5 < subF f 2 0))
def shSel (f : Long) : Shape :=
  let w := fmtWidth f.fmt
  regSh f { d := true, a := true, b := true, c := true, fmt := true } (decide (3 < fmtN f)) (two f w w w ++ [⟨f.c, .mask false⟩])
def shMov (f : Long) : Shape :=
  let w := fmtWidth f.fmt
  regSh f { d := true, a := true, fmt := true, subM := 255 } (decide (subN f ≠ 0) || (decide (3 < fmtN f) && decide (fmtN f ≠ 14)))
    [⟨f.d, .dst w⟩, ⟨f.a, .src w⟩]
def shMovTo (f : Long) : Shape :=
  regSh f { a := true, fmt := true, subM := 255 } (decide (fmtN f ≠ 0) || decide (subN f / 8 ≠ 2)) [⟨f.a, .src 32⟩] [] [xid (subN f % 8)]
def shMovFrom (f : Long) : Shape :=
  regSh f { d := true, fmt := true, subM := 255 } (decide (fmtN f ≠ 0) || decide (subN f / 8 ≠ 3)) [⟨f.d, .dst 32⟩] [xid (subN f % 8)]
def shLea (f : Long) : Shape :=
  let kind := subF f 7 4
  let bx := f.sub.getLsbD 3
  let w := if kind = 0 then fmtWidth f.fmt else 32
  regSh f { d := true, a := true, b := true, c := decide (kind = 1), fmt := true, subM := 255, immM := 0xFFFFFFFF#32 }
    (decide (1 < kind) || (decide (kind = 0) && (decide (3 < fmtN f) || (bx && decide (fmtN f < 2)))) ||
      (decide (kind = 1) && (decide (fmtN f ≠ 0) || bx)))
    (two f w w (if bx then 32 else w) ++ if kind = 1 then [⟨f.c, .src 32⟩] else [])

/-- R113: FMT of the instructions with H in their names, and of FDOT2. -/
def fmtH (f : Long) : Bool := decide (fmtN f = 0) || decide (fmtN f = 10) || decide (fmtN f = 11)

/-- FADD, FMUL and their D and H kin: C is the random operand under RND 110 (R46, R47). -/
def shFadd (w : Nat) (h : Bool) (f : Long) : Shape :=
  let rs := decide (rndN f = 6)
  regSh f { d := true, a := true, b := true, c := rs, fmt := h, rnd := true, sat := true, subM := 0x1B }
    (decide (rndN f = 7) || (h && !fmtH f)) (two f w w w ++ if rs then [⟨f.c, .src 32⟩] else [])
def shFfma (w : Nat) (h : Bool) (f : Long) : Shape :=
  regSh f { d := true, a := true, b := true, c := true, fmt := h, rnd := true, sat := true, subM := 0x3F }
    (decide (5 < rndN f) || (h && !fmtH f)) (two f w w w ++ [⟨f.c, .src w⟩])
def shFmin (w : Nat) (h : Bool) (f : Long) : Shape :=
  regSh f { d := true, a := true, b := true, fmt := h, subM := 1 } (h && !fmtH f) (two f w w w)
def isP (c : BitVec 8) : Bool := decide (0xE4 ≤ c.toNat) && decide (c.toNat ≤ 0xEB)
def shFcmp (w : Nat) (f : Long) : Shape := shCmp f w { subM := 0x1F } false
def shHcmp (f : Long) : Shape :=
  let s := shCmp f 32 { fmt := true, subM := 0x7F } (!fmtH f)
  { s with rsv := s.rsv || (!isP f.d && subF f 6 5 != 0) }
def shFfunc (w : Nat) (f : Long) : Shape :=
  regSh f { d := true, a := true, rnd := true, sat := true, subM := 255 } (decide (6 < subN f) || decide (5 < rndN f))
    [⟨f.d, .dst w⟩, ⟨f.a, .src w⟩]
def shFmisc (w : Nat) (f : Long) : Shape :=
  let op := subN f
  let r := decide (op = 0 ∨ op = 2)
  regSh f { d := true, a := true, b := decide (op = 2), rnd := r, sat := decide (op = 2), subM := 255,
            immM := if op = 4 && isP f.d then 0x3FF else 0 }
    (decide (4 < op) || (r && decide (5 < rndN f)))
    ([⟨f.d, if op = 4 then .dstP 32 else .dst (if op = 3 then 32 else w)⟩, ⟨f.a, .src w⟩] ++ if op = 2 then [⟨f.b, .src 32⟩] else [])
def shFdot2 (f : Long) : Shape :=
  regSh f { d := true, a := true, b := true, c := true, fmt := true, rnd := true, sat := true }
    (!fmtH f || decide (5 < rndN f)) (two f 32 32 32 ++ [⟨f.c, .src 32⟩])
def shIdot4 (f : Long) : Shape :=
  regSh f { d := true, a := true, b := true, c := true, fmt := true, sat := true, subM := 3 }
    (decide (1 < fmtN f)) (two f 32 32 32 ++ [⟨f.c, .src 32⟩])
def shCvt (f : Long) : Shape :=
  let sf : BitVec 4 := f.sub.extractLsb' 0 4
  let ints := fmtIsInt f.fmt && fmtIsInt sf
  let rs := !ints && decide (rndN f = 6)
  regSh f { d := true, a := true, c := rs, fmt := true, rnd := !ints, sat := true, subM := 255 }
    (decide (13 < fmtN f) || decide (13 < sf.toNat) || decide (rndN f = 7) ||
      decide (fmtElems sf ≤ subF f 5 4) || decide (fmtElems f.fmt ≤ subF f 7 6))
    ([⟨f.d, .dst (fmtWidth f.fmt)⟩, ⟨f.a, .src (fmtWidth sf)⟩] ++ if rs then [⟨f.c, .src 32⟩] else [])
def shPack (f : Long) : Shape :=
  regSh f { d := true, a := true, b := true, immM := 0xFFFF } false (two f 32 32 32)
def shUnpk (f : Long) : Shape :=
  let n := fmtN f
  regSh f { d := true, a := true, fmt := true } (decide (n < 4) || decide (n = 8) || decide (n = 9) || decide (13 < n))
    [⟨f.d, .dst (32 * fmtElems f.fmt)⟩, ⟨f.a, .src 32⟩]
def shRng (f : Long) : Shape :=
  regSh f { d := true, a := true, b := true } false (two f 128 128 64)
def shXacc (f : Long) : Shape :=
  let op := subF f 1 0
  let w := fmtWidth f.fmt
  regSh f { d := true, a := true, b := decide (op = 1), fmt := true, subM := 3, immM := 0xFFFF }
    (decide (op = 3) || (decide (op < 2) && decide (13 < fmtN f)) || (decide (op = 2) && decide (fmtN f ≠ 14)) || !anchorOk (immF f 15 0))
    ([⟨f.d, .window⟩, ⟨f.a, .src w⟩] ++ if op = 1 then [⟨f.b, .src w⟩] else [])
def shXcvtTo (f : Long) : Shape :=
  regSh f { d := true, a := true, fmt := true, subM := 0x31, immM := 0xFFFF }
    (f.sub.getLsbD 0 || decide (13 < fmtN f) || decide (fmtElems f.fmt ≤ subF f 5 4) || !anchorOk (immF f 15 0))
    [⟨f.d, .dst 128⟩, ⟨f.a, .src (fmtWidth f.fmt)⟩]
def shXcvtFrom (f : Long) : Shape :=
  let w128 := decide (fmtN f = 14)
  let rs := !w128 && decide (rndN f = 6)
  regSh f { d := true, a := true, c := rs, fmt := true, rnd := !w128, sat := !w128, subM := 0x31,
            immM := if w128 then 0xFFFFFFFF#32 else 0xFFFF }
    (!f.sub.getLsbD 0 || decide (fmtN f = 15) || decide (rndN f = 7) || decide (fmtElems f.fmt ≤ subF f 5 4) ||
      !anchorOk (immF f 15 0) || (w128 && !anchorOk (immF f 31 16)))
    ([⟨f.d, .dst (fmtWidth f.fmt)⟩, ⟨f.a, .src 128⟩] ++ if rs then [⟨f.c, .src 32⟩] else [])

/-- The lane instructions of R132. -/
def shShfl (f : Long) : Shape :=
  let w := fmtWidth f.fmt
  regSh f { d := true, a := true, b := true, fmt := true, subM := 3, immM := 7 } (decide (3 < fmtN f) || decide (5 < immF f 2 0)) (two f w w 32)
def shVote (f : Long) : Shape :=
  regSh f { d := true, a := true, subM := 255 } (decide (3 < subN f))
    [⟨f.d, if subN f = 3 then .dst 32 else .dstP 32⟩, ⟨f.a, .mask false⟩]
def shMatch (f : Long) : Shape :=
  regSh f { d := true, a := true, fmt := true, subM := 255 } (decide (3 < fmtN f) || decide (1 < subN f))
    [⟨f.d, .dst 32⟩, ⟨f.a, .src (fmtWidth f.fmt)⟩]
/-- R137, R138: `excl` is EXCL of SCAN. -/
def shRedx (subM : BitVec 8) (excl : Bool) (f : Long) : Shape :=
  let op := subF f 2 0
  let fp := decide (fmtN f = 8 ∨ fmtN f = 9)
  let w := fmtWidth f.fmt
  regSh f { d := true, a := true, b := excl, fmt := true, rnd := decide (op = 0) && fp,
            sat := decide (op = 0) && decide (fmtN f ≠ 14), subM := subM }
    (decide (5 < op) || (decide (3 < fmtN f) && !fp && decide (fmtN f ≠ 14)) || (fp && decide (2 < op)) ||
      (decide (fmtN f = 14) && decide (op ≠ 0)) || (decide (op = 0) && fp && decide (5 < rndN f)))
    ([⟨f.d, .dst w⟩, ⟨f.a, .src w⟩] ++ if excl then [⟨f.b, .src w⟩] else [])
def shPlop (f : Long) : Shape :=
  regSh f { d := true, a := true, b := true, c := true, subM := 255 } false
    [⟨f.d, .pdst⟩, ⟨f.a, .mask true⟩, ⟨f.b, .mask true⟩, ⟨f.c, .mask true⟩]
def shPmovSave (f : Long) : Shape :=
  regSh f { d := true, subM := 255 } (decide (subN f ≠ 0)) [⟨f.d, .dst 32⟩] ((List.range 8).map pid)
def shPmovLoad (f : Long) : Shape :=
  regSh f { a := true, subM := 255, immM := 0xFE } (decide (subN f ≠ 1)) [⟨f.a, .src 32⟩] []
    (((List.range 8).filter fun n => f.imm.getLsbD n).map pid)

/-- The control instructions of R132; word 1 bits [15:0] are JOFF in BRA, BRX and CALL. -/
def shBra (f : Long) : Shape := endSh f { b := true, c := true, immM := 0xFFFFFFFF#32 } false []
def shBrx (f : Long) : Shape := endSh f { a := true, b := true, c := true } false [⟨f.a, .target⟩]
def shCall (f : Long) : Shape := endSh f { d := true, b := true, c := true, immM := 0xFFFFFFFF#32 } false [⟨f.d, .link⟩]
def shRet (f : Long) : Shape := endSh f { a := true } false [⟨f.a, .target⟩]
def shNone (f : Long) : Shape := endSh f {} false []
def shLoop (f : Long) : Shape := endSh f { subM := 0x3F, immM := 0x1FFFF } (f.sub.getLsbD 5 || decide (65536 < immF f 16 0)) []
def shLoopR (f : Long) : Shape := endSh f { a := true, subM := 0x3F } (!f.sub.getLsbD 5) [⟨f.a, .src 32⟩]

/-- R156, R157: ORD and SCOPE of IMM32. -/
def ordOf (f : Long) : Nat := immF f 27 25
def scopeOf (f : Long) : Nat := immF f 24 22
/-- R157: SCOPE is reserved with ORD 000. -/
def scopeRsv (f : Long) : Bool := decide (ordOf f = 0) && decide (scopeOf f ≠ 0)
/-- R157: an ORD or a SCOPE that the instruction does not accept. -/
def ordIll (f : Long) (ords : List Nat) (maxScope : Nat) : Bool :=
  !ords.contains (ordOf f) || (decide (ordOf f ≠ 0) && decide (maxScope < scopeOf f))
def memSh (f : Long) (u : FieldUse) (ords : List Nat) (maxScope : Nat) (ill : Bool) (uses : List Use) : Shape :=
  let s := endSh f u (ill || ordIll f ords maxScope) uses
  { s with rsv := s.rsv || scopeRsv f }
def immAll : BitVec 32 := 0xFFFFFFFF#32
def immS : BitVec 32 := 0x0FFFFFFF#32

/-- The memory instructions of R155; `sp` marks the scratchpad forms. -/
def shLd (sp : Bool) (f : Long) : Shape :=
  memSh f { d := true, a := true, fmt := true, immM := if sp then immS else immAll } [0, 1, 2, 5] (if sp then 2 else 4)
    (decide (7 < fmtN f) && decide (fmtN f ≠ 14)) [⟨f.d, .dst (fmtWidth f.fmt)⟩, ⟨f.a, .src 32⟩]
def shSt (sp : Bool) (f : Long) : Shape :=
  memSh f { a := true, b := true, fmt := true, immM := if sp then immS else immAll } [0, 1, 3, 5] (if sp then 2 else 4)
    (decide (3 < fmtN f) && decide (fmtN f ≠ 14)) [⟨f.a, .src 32⟩, ⟨f.b, .src (fmtWidth f.fmt)⟩]
/-- R172: the formats an operation accepts. -/
def atomFmtOk (op fmt : Nat) : Bool :=
  match op with
  | 0 => decide (fmt ≤ 3) || [8, 9, 11].contains fmt
  | 1 => decide (fmt ≤ 3) || [8, 9].contains fmt
  | 2 => decide (fmt ≤ 3) || [8, 9].contains fmt
  | 8 => [0, 2, 8, 9, 14].contains fmt
  | _ => decide (op ≤ 7) && decide (fmt ≤ 3)
/-- R156: the used bits of IMM32 of an atomic: layout M, or W with `.wadd`. -/
def atomImm (sp : Bool) (f : Long) : BitVec 32 :=
  let m := if sp then immS else immAll
  if subN f = 8 ∧ fmtN f = 14 then m &&& 0xFFFF0000#32 else m
def shAtom (sp : Bool) (f : Long) : Shape :=
  let op := subN f
  let w := fmtWidth f.fmt
  memSh f { d := true, a := true, b := true, c := decide (op = 7), fmt := true, subM := 255, immM := atomImm sp f }
    [1, 2, 3, 4, 5] (if sp then 2 else 4)
    (!atomFmtOk op (fmtN f) || (decide (op = 8) && decide (fmtN f ≠ 14) && !anchorOk (immF f 15 0)))
    ([⟨f.d, .dst (if op = 8 then 128 else w)⟩, ⟨f.a, .src 32⟩, ⟨f.b, .src w⟩] ++ if op = 7 then [⟨f.c, .src w⟩] else [])
def shRed (f : Long) : Shape :=
  let op := subN f
  memSh f { a := true, b := true, fmt := true, subM := 255, immM := atomImm false f } [1, 3] 4
    (!atomFmtOk op (fmtN f) || decide (op = 6 ∨ op = 7) || (decide (op = 8) && decide (fmtN f ≠ 14) && !anchorOk (immF f 15 0)))
    [⟨f.a, .src 32⟩, ⟨f.b, .src (fmtWidth f.fmt)⟩]
def shCstr (f : Long) : Shape :=
  memSh f { a := true, b := true, fmt := true, immM := immAll } [0, 1, 3] 4 (decide (3 < fmtN f)) [⟨f.a, .src 32⟩, ⟨f.b, .src (fmtWidth f.fmt)⟩]
def shFence (f : Long) : Shape := memSh f { immM := 0x0FC00000#32 } [2, 3, 4, 5] 4 false []
def shLdbr (f : Long) : Shape := endSh f { a := true, subM := 0x1F } (f.sub.getLsbD 4) [⟨f.a, .src 128⟩]
def shLdbrM (f : Long) : Shape := memSh f { a := true, subM := 0x1F, immM := immAll } [0, 1, 2] 4 (!f.sub.getLsbD 4) [⟨f.a, .src 32⟩]
/-- R179. -/
def shNmx (f : Long) : Shape :=
  let op := subF f 2 0
  let subM : BitVec 8 := if op = 0 then 0x1F else if op = 2 then 0x7F else 7
  let immM : BitVec 32 := if op = 2 || (op = 3 && fmtN f ≠ 14) then immAll else 0xFFFF0000#32
  memSh f { d := true, a := true, b := decide (op ≠ 2), c := decide (op = 0), fmt := decide (op = 3), subM := subM, immM := immM }
    [1, 2, 3, 4, 5] 4
    (decide (3 < op) || (decide (op = 3) && (!atomFmtOk 8 (fmtN f) || (decide (fmtN f ≠ 14) && !anchorOk (immF f 15 0)))))
    (match op with
     | 0 => [⟨f.d, .wide⟩, ⟨f.a, .src 32⟩, ⟨f.b, .wide⟩, ⟨f.c, .wide⟩]
     | 1 => [⟨f.d, .dst 64⟩, ⟨f.a, .src 32⟩, ⟨f.b, .src 64⟩]
     | 2 => [⟨f.d, .dst 128⟩, ⟨f.a, .src 32⟩]
     | _ => [⟨f.d, .dst 128⟩, ⟨f.a, .src 32⟩, ⟨f.b, .src (fmtWidth f.fmt)⟩])
def shPref (f : Long) : Shape := endSh f { a := true, subM := 7, immM := 0xF03FFFFF#32 } (decide (4 < subF f 2 0)) [⟨f.a, .src 32⟩]

/-- The instructions of R182. -/
def xbUse (f : Long) : List Use := if f.sub.getLsbD 1 then [⟨f.c, .src 32⟩] else []
def shCpy (out : Bool) (f : Long) : Shape :=
  endSh f { a := true, b := true, c := f.sub.getLsbD 1, subM := 3, immM := 0x3F } (f.sub.getLsbD 0 != out)
    ([⟨f.a, .src 64⟩, ⟨f.b, .src 32⟩] ++ xbUse f)
def shCpyt (s : Bool) (f : Long) : Shape :=
  endSh f { a := true, c := f.sub.getLsbD 1, subM := 3, immM := 0xFFFFFF } (f.sub.getLsbD 0 != s)
    ([⟨f.a, .src (if s then 32 else 64)⟩] ++ xbUse f)
def shSeal (f : Long) : Shape := endSh f { d := true } false [⟨f.d, .dst 32⟩]
def shWaitb (f : Long) : Shape := endSh f { immM := 0xF } false []
def shXarv (f : Long) : Shape := endSh f { d := true, a := true, b := true, immM := 0x3FFFFF } false [⟨f.d, .dst 32⟩, ⟨f.a, .src 32⟩, ⟨f.b, .src 32⟩]
def shXwait (f : Long) : Shape := endSh f { a := true, b := true, immM := 0x3FFFFF } false [⟨f.a, .src 32⟩, ⟨f.b, .src 32⟩]
def shWaitc (f : Long) : Shape := endSh f { a := true, subM := 0x30 } false [⟨f.a, .src 32⟩]
def shBar (note : Bool) (f : Long) : Shape :=
  endSh f { subM := 1, immM := 0x01C003FF#32 }
    (f.sub.getLsbD 0 != note || decide (scopeOf f = 0) || decide (3 < scopeOf f) || decide (32 < immF f 9 4)) []
/-- R201: the formats an operation accepts. -/
def credFmtOk (op fmt : Nat) : Bool :=
  match op with
  | 1 => decide (fmt ≤ 3) || [8, 9].contains fmt
  | 2 => decide (fmt ≤ 3) || [8, 9].contains fmt
  | 3 => [8, 9].contains fmt
  | 6 => [0, 2, 8, 9, 14].contains fmt
  | 7 => false
  | _ => decide (fmt ≤ 3)
def shCred (f : Long) : Shape :=
  let op := subF f 2 0
  let w := fmtWidth f.fmt
  let anc := decide (op = 6) && decide (fmtN f ≠ 14)
  endSh f { d := true, a := true, b := true, fmt := true, subM := if 1 ≤ op ∧ op ≤ 3 then 0xF else 7,
            immM := if anc then 0xFFFFE03F#32 else 0xE03F }
    (!credFmtOk op (fmtN f) || (anc && !anchorOk (immF f 31 16)))
    [⟨f.d, .dst (if op = 6 then 128 else w)⟩, ⟨f.a, .src w⟩, ⟨f.b, .src 32⟩]
    (if immF f 15 13 = 0 then [] else [pid (immF f 15 13)])
def shSnap (f : Long) : Shape := endSh f { d := true } false [⟨f.d, .dst 64⟩]
def shEmit (f : Long) : Shape := endSh f { a := true, immM := 0xFFFF } false [⟨f.a, .src 32⟩]
def shCntr (cancel : Bool) (f : Long) : Shape :=
  endSh f { d := !cancel, subM := 0x31 } (f.sub.getLsbD 0 != cancel) (if cancel then [] else [⟨f.d, .dst 32⟩])

/-- The matrix instructions of R211. -/
def mmaK (sparse : Bool) (f : Long) : Nat := (if sparse then 96 else 32) * (immF f 7 4 + 1)
def mmaPair8 (f : Long) : Bool :=
  let bf := subF f 3 0
  ([6, 7].contains (fmtN f) && [6, 7].contains bf) || ([12, 13].contains (fmtN f) && [12, 13].contains bf)
def mmaPair16 (f : Long) : Bool := (decide (fmtN f = 10) || decide (fmtN f = 11)) && decide (subF f 3 0 = fmtN f)
def shMma (sparse : Bool) (f : Long) : Shape :=
  let scl := f.sub.getLsbD 4
  let l2 := subF f 6 5
  let kf := immF f 7 4
  let immM : BitVec 32 := 0x000000F7#32 ||| (if scl then 0x03FFFF00#32 else 0) ||| (if l2 ≠ 0 then 0x3C000000#32 else 0)
  endSh f { a := true, b := true, c := sparse, fmt := true, subM := if sparse then 255 else 127, immM := immM }
    ((!mmaPair8 f && !mmaPair16 f) || decide (l2 = 3) ||
      decide ((if sparse then (if mmaPair8 f then 4 else 1) else (if mmaPair8 f then 15 else 7)) < kf) ||
      (scl && (mmaPair16 f || decide (512 < immF f 25 17 + 64) || decide (512 < immF f 16 8 + mmaK sparse f / 32))))
    ([⟨f.a, .src 32⟩, ⟨f.b, .src 32⟩] ++ if sparse then [⟨f.c, .src 32⟩] else [])
def shMzero (f : Long) : Shape := endSh f { immM := 7 } false []
/-- R231: columns and the registers they fill. -/
def moutCols (f : Long) : Nat := immF f 14 10 + 1
def shMout (f : Long) : Shape :=
  let e := fmtElems f.fmt
  let step := fmtWidth f.fmt / 32
  let w128 := decide (fmtN f = 14)
  endSh f { d := true, fmt := true, rnd := !w128, sat := !w128, immM := 0x7DF7 }
    (decide (fmtN f = 15) || (!w128 && decide (5 < rndN f)) || decide (moutCols f % e ≠ 0) || decide (32 < immF f 8 4 + moutCols f))
    [⟨f.d, .run (moutCols f / e * step) step⟩]
def shManc (f : Long) : Shape := endSh f { immM := 0xFFFF0007#32 } (!anchorOk (immF f 31 16)) []

/-- R36: a special register: width, and the least level that may read it and write it (none: never). -/
structure SrInfo where
  w : Nat
  rd : Nat
  wr : Option Nat
deriving DecidableEq, Repr

/-- R36: the special registers by number. -/
def srInfo (n : Nat) : Option SrInfo :=
  if 1 ≤ n ∧ n ≤ 0x13 then
    some ⟨if n = 0xA ∨ n = 0xB ∨ n = 0xF ∨ n = 0x10 then 64 else 32, 0, if n = 0xC then some 0 else none⟩
  else if 0x100 ≤ n ∧ n ≤ 0x105 then some ⟨if n = 0x101 ∨ n = 0x105 then 32 else 64, 1, some 1⟩
  else if 0x200 ≤ n ∧ n ≤ 0x20C then
    some ⟨if n = 0x201 ∨ n = 0x205 ∨ n = 0x208 ∨ n = 0x20B then 32 else 64, 2, some 2⟩
  else none

/-- The system instructions of R248. -/
def shTrap (f : Long) : Shape := endSh f { immM := 0xFFFF } false []
def shRte (f : Long) : Shape := { endSh f {} false [] with level := 1 }
def shSrd (f : Long) : Shape :=
  match srInfo (immF f 11 0) with
  | some r => { endSh f { d := true, immM := 0xFFF } false [⟨f.d, .dst r.w⟩] with level := r.rd }
  | none => endSh f { d := true, immM := 0xFFF } true []
def shSwr (f : Long) : Shape :=
  match srInfo (immF f 11 0) with
  | some r => { endSh f { a := true, immM := 0xFFF } false [⟨f.a, .src r.w⟩] with level := r.wr.getD 0 }
  | none => endSh f { a := true, immM := 0xFFF } true []
def shCtx (f : Long) : Shape :=
  { endSh f { a := true, subM := 7, immM := if subF f 2 0 = 0 then 0xF else 0 }
      (decide (4 < subF f 2 0) || (decide (subF f 2 0 = 0) && decide (10 < immF f 3 0))) [⟨f.a, .src 64⟩] with level := 2 }

/-- R83: the long-form fields that a short form stands for. -/
def shortLong (f : Short) : Long :=
  { pg := if f.g then 1 else 0, pn := false, nwb := f.nwb, d := f.d, a := f.a, b := f.b, c := 0, fmt := 0, rnd := 0,
    sat := false, sub := 0, imm := 0, lit := f.lit }

end Sys2Proof.Machine
end

