-- ==== Sys2Proof/Machine/Forms.lean ====
section
/-! DEFINITION. The fetched instructions seen alike: opcode, form, fields and shape (R82 to R91), the
legality of operand codes (order 6 of R94), and the fields under the steps of a LOOP (R150). -/
namespace Sys2Proof.Machine

/-- The fields of an event: none. -/
def noFields : Long :=
  { pg := 0, pn := false, nwb := false, d := 0, a := 0, b := 0, c := 0, fmt := 0, rnd := 0, sat := false, sub := 0, imm := 0, lit := none }

/-- R83 turned round: the short fields of a long record. -/
def longShort (l : Long) : Short := { g := l.pg != 0, nwb := l.nwb, d := l.d, a := l.a, b := l.b, lit := l.lit }

/-- R88: the major opcode of a fetched instruction and whether it is in the short form; none for an event. -/
def Instr.opc : Instr → Option (Nat × Bool)
  | .nopShort _ => some (0x00, true)
  | .nop _ => some (0x00, false)
  | .iaddShort _ => some (0x01, true)
  | .iadd _ => some (0x01, false)
  | .isubShort _ => some (0x02, true)
  | .isub _ => some (0x02, false)
  | .imulShort _ => some (0x03, true)
  | .imul _ => some (0x03, false)
  | .imulhShort _ => some (0x04, true)
  | .imulh _ => some (0x04, false)
  | .imad _ => some (0x05, false)
  | .iminShort _ => some (0x06, true)
  | .imin _ => some (0x06, false)
  | .imaxShort _ => some (0x07, true)
  | .imax _ => some (0x07, false)
  | .andShort _ => some (0x08, true)
  | .and _ => some (0x08, false)
  | .orShort _ => some (0x09, true)
  | .or _ => some (0x09, false)
  | .xorShort _ => some (0x0A, true)
  | .xor _ => some (0x0A, false)
  | .tern _ => some (0x0B, false)
  | .shlShort _ => some (0x0C, true)
  | .shl _ => some (0x0C, false)
  | .shrShort _ => some (0x0D, true)
  | .shr _ => some (0x0D, false)
  | .sarShort _ => some (0x0E, true)
  | .sar _ => some (0x0E, false)
  | .bitop _ => some (0x0F, false)
  | .bfe _ => some (0x10, false)
  | .bfi _ => some (0x11, false)
  | .icmp _ => some (0x12, false)
  | .sel _ => some (0x13, false)
  | .movShort _ => some (0x14, true)
  | .mov _ => some (0x14, false)
  | .movToIndex _ => some (0x14, false)
  | .movFromIndex _ => some (0x14, false)
  | .lea _ => some (0x15, false)
  | .faddShort _ => some (0x18, true)
  | .fadd _ => some (0x18, false)
  | .fmulShort _ => some (0x19, true)
  | .fmul _ => some (0x19, false)
  | .ffma _ => some (0x1A, false)
  | .fminShort _ => some (0x1B, true)
  | .fmin _ => some (0x1B, false)
  | .fmaxShort _ => some (0x1C, true)
  | .fmax _ => some (0x1C, false)
  | .fcmp _ => some (0x1D, false)
  | .ffunc _ => some (0x1E, false)
  | .fmisc _ => some (0x1F, false)
  | .daddShort _ => some (0x20, true)
  | .dadd _ => some (0x20, false)
  | .dmulShort _ => some (0x21, true)
  | .dmul _ => some (0x21, false)
  | .dfma _ => some (0x22, false)
  | .dminShort _ => some (0x23, true)
  | .dmin _ => some (0x23, false)
  | .dmaxShort _ => some (0x24, true)
  | .dmax _ => some (0x24, false)
  | .dcmp _ => some (0x25, false)
  | .dfunc _ => some (0x26, false)
  | .dmisc _ => some (0x27, false)
  | .hadd2Short _ => some (0x28, true)
  | .hadd2 _ => some (0x28, false)
  | .hmul2Short _ => some (0x29, true)
  | .hmul2 _ => some (0x29, false)
  | .hfma2 _ => some (0x2A, false)
  | .hmin2Short _ => some (0x2B, true)
  | .hmin2 _ => some (0x2B, false)
  | .hmax2Short _ => some (0x2C, true)
  | .hmax2 _ => some (0x2C, false)
  | .hcmp2 _ => some (0x2D, false)
  | .idot4 _ => some (0x2E, false)
  | .fdot2 _ => some (0x2F, false)
  | .cvt _ => some (0x30, false)
  | .pack _ => some (0x31, false)
  | .unpk _ => some (0x32, false)
  | .rng _ => some (0x33, false)
  | .xacc _ => some (0x34, false)
  | .xcvtTo _ => some (0x35, false)
  | .xcvtFrom _ => some (0x35, false)
  | .shfl _ => some (0x38, false)
  | .vote _ => some (0x39, false)
  | .match _ => some (0x3A, false)
  | .redx _ => some (0x3B, false)
  | .scan _ => some (0x3C, false)
  | .plop _ => some (0x3D, false)
  | .pmovSave _ => some (0x3E, false)
  | .pmovLoad _ => some (0x3E, false)
  | .ld _ => some (0x40, false)
  | .st _ => some (0x41, false)
  | .lds _ => some (0x42, false)
  | .sts _ => some (0x43, false)
  | .atom _ => some (0x44, false)
  | .red _ => some (0x45, false)
  | .atoms _ => some (0x46, false)
  | .cstr _ => some (0x47, false)
  | .fence _ => some (0x48, false)
  | .ldbr _ => some (0x49, false)
  | .ldbrM _ => some (0x49, false)
  | .nmx _ => some (0x4A, false)
  | .pref _ => some (0x4B, false)
  | .cpyIn _ => some (0x50, false)
  | .cpyOut _ => some (0x50, false)
  | .cpyt _ => some (0x51, false)
  | .cpytS _ => some (0x51, false)
  | .seal _ => some (0x52, false)
  | .waitb _ => some (0x53, false)
  | .xarv _ => some (0x54, false)
  | .xwait _ => some (0x55, false)
  | .waitc _ => some (0x56, false)
  | .barWait _ => some (0x57, false)
  | .barNote _ => some (0x57, false)
  | .cred _ => some (0x58, false)
  | .snap _ => some (0x59, false)
  | .emit _ => some (0x5A, false)
  | .cntrRd _ => some (0x5B, false)
  | .cntrCancel _ => some (0x5B, false)
  | .mxacq _ => some (0x60, false)
  | .mxrel _ => some (0x61, false)
  | .mma _ => some (0x62, false)
  | .mmas _ => some (0x63, false)
  | .mzero _ => some (0x64, false)
  | .mout _ => some (0x65, false)
  | .manc _ => some (0x66, false)
  | .bra _ => some (0x68, false)
  | .brx _ => some (0x69, false)
  | .call _ => some (0x6A, false)
  | .ret _ => some (0x6B, false)
  | .rgang _ => some (0x6C, false)
  | .loop _ => some (0x6D, false)
  | .loopR _ => some (0x6D, false)
  | .exitShort _ => some (0x6E, true)
  | .exit _ => some (0x6E, false)
  | .yieldShort _ => some (0x6F, true)
  | .yield _ => some (0x6F, false)
  | .trap _ => some (0x78, false)
  | .rte _ => some (0x79, false)
  | .srd _ => some (0x7A, false)
  | .swr _ => some (0x7B, false)
  | .bkpt _ => some (0x7C, false)
  | .ctxs _ => some (0x7D, false)
  | .ctxr _ => some (0x7E, false)
  | _ => none

/-- The long-form fields of a fetched instruction, by R83 for a short form. -/
def Instr.long : Instr → Long
  | .nopShort f => shortLong f
  | .nop f => f
  | .iaddShort f => shortLong f
  | .iadd f => f
  | .isubShort f => shortLong f
  | .isub f => f
  | .imulShort f => shortLong f
  | .imul f => f
  | .imulhShort f => shortLong f
  | .imulh f => f
  | .imad f => f
  | .iminShort f => shortLong f
  | .imin f => f
  | .imaxShort f => shortLong f
  | .imax f => f
  | .andShort f => shortLong f
  | .and f => f
  | .orShort f => shortLong f
  | .or f => f
  | .xorShort f => shortLong f
  | .xor f => f
  | .tern f => f
  | .shlShort f => shortLong f
  | .shl f => f
  | .shrShort f => shortLong f
  | .shr f => f
  | .sarShort f => shortLong f
  | .sar f => f
  | .bitop f => f
  | .bfe f => f
  | .bfi f => f
  | .icmp f => f
  | .sel f => f
  | .movShort f => shortLong f
  | .mov f => f
  | .movToIndex f => f
  | .movFromIndex f => f
  | .lea f => f
  | .faddShort f => shortLong f
  | .fadd f => f
  | .fmulShort f => shortLong f
  | .fmul f => f
  | .ffma f => f
  | .fminShort f => shortLong f
  | .fmin f => f
  | .fmaxShort f => shortLong f
  | .fmax f => f
  | .fcmp f => f
  | .ffunc f => f
  | .fmisc f => f
  | .daddShort f => shortLong f
  | .dadd f => f
  | .dmulShort f => shortLong f
  | .dmul f => f
  | .dfma f => f
  | .dminShort f => shortLong f
  | .dmin f => f
  | .dmaxShort f => shortLong f
  | .dmax f => f
  | .dcmp f => f
  | .dfunc f => f
  | .dmisc f => f
  | .hadd2Short f => shortLong f
  | .hadd2 f => f
  | .hmul2Short f => shortLong f
  | .hmul2 f => f
  | .hfma2 f => f
  | .hmin2Short f => shortLong f
  | .hmin2 f => f
  | .hmax2Short f => shortLong f
  | .hmax2 f => f
  | .hcmp2 f => f
  | .idot4 f => f
  | .fdot2 f => f
  | .cvt f => f
  | .pack f => f
  | .unpk f => f
  | .rng f => f
  | .xacc f => f
  | .xcvtTo f => f
  | .xcvtFrom f => f
  | .shfl f => f
  | .vote f => f
  | .match f => f
  | .redx f => f
  | .scan f => f
  | .plop f => f
  | .pmovSave f => f
  | .pmovLoad f => f
  | .ld f => f
  | .st f => f
  | .lds f => f
  | .sts f => f
  | .atom f => f
  | .red f => f
  | .atoms f => f
  | .cstr f => f
  | .fence f => f
  | .ldbr f => f
  | .ldbrM f => f
  | .nmx f => f
  | .pref f => f
  | .cpyIn f => f
  | .cpyOut f => f
  | .cpyt f => f
  | .cpytS f => f
  | .seal f => f
  | .waitb f => f
  | .xarv f => f
  | .xwait f => f
  | .waitc f => f
  | .barWait f => f
  | .barNote f => f
  | .cred f => f
  | .snap f => f
  | .emit f => f
  | .cntrRd f => f
  | .cntrCancel f => f
  | .mxacq f => f
  | .mxrel f => f
  | .mma f => f
  | .mmas f => f
  | .mzero f => f
  | .mout f => f
  | .manc f => f
  | .bra f => f
  | .brx f => f
  | .call f => f
  | .ret f => f
  | .rgang f => f
  | .loop f => f
  | .loopR f => f
  | .exitShort f => shortLong f
  | .exit f => f
  | .yieldShort f => shortLong f
  | .yield f => f
  | .trap f => f
  | .rte f => f
  | .srd f => f
  | .swr f => f
  | .bkpt f => f
  | .ctxs f => f
  | .ctxr f => f
  | _ => noFields

/-- The instruction with other fields (the steps of a LOOP, R150). -/
def Instr.withLong (i : Instr) (l : Long) : Instr :=
  match i with
  | .nopShort _ => .nopShort (longShort l)
  | .nop _ => .nop l
  | .iaddShort _ => .iaddShort (longShort l)
  | .iadd _ => .iadd l
  | .isubShort _ => .isubShort (longShort l)
  | .isub _ => .isub l
  | .imulShort _ => .imulShort (longShort l)
  | .imul _ => .imul l
  | .imulhShort _ => .imulhShort (longShort l)
  | .imulh _ => .imulh l
  | .imad _ => .imad l
  | .iminShort _ => .iminShort (longShort l)
  | .imin _ => .imin l
  | .imaxShort _ => .imaxShort (longShort l)
  | .imax _ => .imax l
  | .andShort _ => .andShort (longShort l)
  | .and _ => .and l
  | .orShort _ => .orShort (longShort l)
  | .or _ => .or l
  | .xorShort _ => .xorShort (longShort l)
  | .xor _ => .xor l
  | .tern _ => .tern l
  | .shlShort _ => .shlShort (longShort l)
  | .shl _ => .shl l
  | .shrShort _ => .shrShort (longShort l)
  | .shr _ => .shr l
  | .sarShort _ => .sarShort (longShort l)
  | .sar _ => .sar l
  | .bitop _ => .bitop l
  | .bfe _ => .bfe l
  | .bfi _ => .bfi l
  | .icmp _ => .icmp l
  | .sel _ => .sel l
  | .movShort _ => .movShort (longShort l)
  | .mov _ => .mov l
  | .movToIndex _ => .movToIndex l
  | .movFromIndex _ => .movFromIndex l
  | .lea _ => .lea l
  | .faddShort _ => .faddShort (longShort l)
  | .fadd _ => .fadd l
  | .fmulShort _ => .fmulShort (longShort l)
  | .fmul _ => .fmul l
  | .ffma _ => .ffma l
  | .fminShort _ => .fminShort (longShort l)
  | .fmin _ => .fmin l
  | .fmaxShort _ => .fmaxShort (longShort l)
  | .fmax _ => .fmax l
  | .fcmp _ => .fcmp l
  | .ffunc _ => .ffunc l
  | .fmisc _ => .fmisc l
  | .daddShort _ => .daddShort (longShort l)
  | .dadd _ => .dadd l
  | .dmulShort _ => .dmulShort (longShort l)
  | .dmul _ => .dmul l
  | .dfma _ => .dfma l
  | .dminShort _ => .dminShort (longShort l)
  | .dmin _ => .dmin l
  | .dmaxShort _ => .dmaxShort (longShort l)
  | .dmax _ => .dmax l
  | .dcmp _ => .dcmp l
  | .dfunc _ => .dfunc l
  | .dmisc _ => .dmisc l
  | .hadd2Short _ => .hadd2Short (longShort l)
  | .hadd2 _ => .hadd2 l
  | .hmul2Short _ => .hmul2Short (longShort l)
  | .hmul2 _ => .hmul2 l
  | .hfma2 _ => .hfma2 l
  | .hmin2Short _ => .hmin2Short (longShort l)
  | .hmin2 _ => .hmin2 l
  | .hmax2Short _ => .hmax2Short (longShort l)
  | .hmax2 _ => .hmax2 l
  | .hcmp2 _ => .hcmp2 l
  | .idot4 _ => .idot4 l
  | .fdot2 _ => .fdot2 l
  | .cvt _ => .cvt l
  | .pack _ => .pack l
  | .unpk _ => .unpk l
  | .rng _ => .rng l
  | .xacc _ => .xacc l
  | .xcvtTo _ => .xcvtTo l
  | .xcvtFrom _ => .xcvtFrom l
  | .shfl _ => .shfl l
  | .vote _ => .vote l
  | .match _ => .match l
  | .redx _ => .redx l
  | .scan _ => .scan l
  | .plop _ => .plop l
  | .pmovSave _ => .pmovSave l
  | .pmovLoad _ => .pmovLoad l
  | .ld _ => .ld l
  | .st _ => .st l
  | .lds _ => .lds l
  | .sts _ => .sts l
  | .atom _ => .atom l
  | .red _ => .red l
  | .atoms _ => .atoms l
  | .cstr _ => .cstr l
  | .fence _ => .fence l
  | .ldbr _ => .ldbr l
  | .ldbrM _ => .ldbrM l
  | .nmx _ => .nmx l
  | .pref _ => .pref l
  | .cpyIn _ => .cpyIn l
  | .cpyOut _ => .cpyOut l
  | .cpyt _ => .cpyt l
  | .cpytS _ => .cpytS l
  | .seal _ => .seal l
  | .waitb _ => .waitb l
  | .xarv _ => .xarv l
  | .xwait _ => .xwait l
  | .waitc _ => .waitc l
  | .barWait _ => .barWait l
  | .barNote _ => .barNote l
  | .cred _ => .cred l
  | .snap _ => .snap l
  | .emit _ => .emit l
  | .cntrRd _ => .cntrRd l
  | .cntrCancel _ => .cntrCancel l
  | .mxacq _ => .mxacq l
  | .mxrel _ => .mxrel l
  | .mma _ => .mma l
  | .mmas _ => .mmas l
  | .mzero _ => .mzero l
  | .mout _ => .mout l
  | .manc _ => .manc l
  | .bra _ => .bra l
  | .brx _ => .brx l
  | .call _ => .call l
  | .ret _ => .ret l
  | .rgang _ => .rgang l
  | .loop _ => .loop l
  | .loopR _ => .loopR l
  | .exitShort _ => .exitShort (longShort l)
  | .exit _ => .exit l
  | .yieldShort _ => .yieldShort (longShort l)
  | .yield _ => .yield l
  | .trap _ => .trap l
  | .rte _ => .rte l
  | .srd _ => .srd l
  | .swr _ => .swr l
  | .bkpt _ => .bkpt l
  | .ctxs _ => .ctxs l
  | .ctxr _ => .ctxr l
  | _ => i

/-- The form of a fetched instruction. -/
def Instr.shape : Instr → Shape
  | .nopShort f => shNone (shortLong f)
  | .nop f => shNone f
  | .iaddShort f => shIadd (shortLong f)
  | .iadd f => shIadd f
  | .isubShort f => shIadd (shortLong f)
  | .isub f => shIadd f
  | .imulShort f => shImul (shortLong f)
  | .imul f => shImul f
  | .imulhShort f => shPlain 3 (shortLong f)
  | .imulh f => shPlain 3 f
  | .imad f => shImad f
  | .iminShort f => shPlain 7 (shortLong f)
  | .imin f => shPlain 7 f
  | .imaxShort f => shPlain 7 (shortLong f)
  | .imax f => shPlain 7 f
  | .andShort f => shPlain 3 (shortLong f)
  | .and f => shPlain 3 f
  | .orShort f => shPlain 3 (shortLong f)
  | .or f => shPlain 3 f
  | .xorShort f => shPlain 3 (shortLong f)
  | .xor f => shPlain 3 f
  | .tern f => shTern f
  | .shlShort f => shShl (shortLong f)
  | .shl f => shShl f
  | .shrShort f => shShr (shortLong f)
  | .shr f => shShr f
  | .sarShort f => shShr (shortLong f)
  | .sar f => shShr f
  | .bitop f => shBitop f
  | .bfe f => shBfe f
  | .bfi f => shBfi f
  | .icmp f => shIcmp f
  | .sel f => shSel f
  | .movShort f => shMov (shortLong f)
  | .mov f => shMov f
  | .movToIndex f => shMovTo f
  | .movFromIndex f => shMovFrom f
  | .lea f => shLea f
  | .faddShort f => shFadd 32 false (shortLong f)
  | .fadd f => shFadd 32 false f
  | .fmulShort f => shFadd 32 false (shortLong f)
  | .fmul f => shFadd 32 false f
  | .ffma f => shFfma 32 false f
  | .fminShort f => shFmin 32 false (shortLong f)
  | .fmin f => shFmin 32 false f
  | .fmaxShort f => shFmin 32 false (shortLong f)
  | .fmax f => shFmin 32 false f
  | .fcmp f => shFcmp 32 f
  | .ffunc f => shFfunc 32 f
  | .fmisc f => shFmisc 32 f
  | .daddShort f => shFadd 64 false (shortLong f)
  | .dadd f => shFadd 64 false f
  | .dmulShort f => shFadd 64 false (shortLong f)
  | .dmul f => shFadd 64 false f
  | .dfma f => shFfma 64 false f
  | .dminShort f => shFmin 64 false (shortLong f)
  | .dmin f => shFmin 64 false f
  | .dmaxShort f => shFmin 64 false (shortLong f)
  | .dmax f => shFmin 64 false f
  | .dcmp f => shFcmp 64 f
  | .dfunc f => shFfunc 64 f
  | .dmisc f => shFmisc 64 f
  | .hadd2Short f => shFadd 32 true (shortLong f)
  | .hadd2 f => shFadd 32 true f
  | .hmul2Short f => shFadd 32 true (shortLong f)
  | .hmul2 f => shFadd 32 true f
  | .hfma2 f => shFfma 32 true f
  | .hmin2Short f => shFmin 32 true (shortLong f)
  | .hmin2 f => shFmin 32 true f
  | .hmax2Short f => shFmin 32 true (shortLong f)
  | .hmax2 f => shFmin 32 true f
  | .hcmp2 f => shHcmp f
  | .idot4 f => shIdot4 f
  | .fdot2 f => shFdot2 f
  | .cvt f => shCvt f
  | .pack f => shPack f
  | .unpk f => shUnpk f
  | .rng f => shRng f
  | .xacc f => shXacc f
  | .xcvtTo f => shXcvtTo f
  | .xcvtFrom f => shXcvtFrom f
  | .shfl f => shShfl f
  | .vote f => shVote f
  | .match f => shMatch f
  | .redx f => shRedx 7 false f
  | .scan f => shRedx 0xF (f.sub.getLsbD 3) f
  | .plop f => shPlop f
  | .pmovSave f => shPmovSave f
  | .pmovLoad f => shPmovLoad f
  | .ld f => shLd false f
  | .st f => shSt false f
  | .lds f => shLd true f
  | .sts f => shSt true f
  | .atom f => shAtom false f
  | .red f => shRed f
  | .atoms f => shAtom true f
  | .cstr f => shCstr f
  | .fence f => shFence f
  | .ldbr f => shLdbr f
  | .ldbrM f => shLdbrM f
  | .nmx f => shNmx f
  | .pref f => shPref f
  | .cpyIn f => shCpy false f
  | .cpyOut f => shCpy true f
  | .cpyt f => shCpyt false f
  | .cpytS f => shCpyt true f
  | .seal f => shSeal f
  | .waitb f => shWaitb f
  | .xarv f => shXarv f
  | .xwait f => shXwait f
  | .waitc f => shWaitc f
  | .barWait f => shBar false f
  | .barNote f => shBar true f
  | .cred f => shCred f
  | .snap f => shSnap f
  | .emit f => shEmit f
  | .cntrRd f => shCntr false f
  | .cntrCancel f => shCntr true f
  | .mxacq f => shNone f
  | .mxrel f => shNone f
  | .mma f => shMma false f
  | .mmas f => shMma true f
  | .mzero f => shMzero f
  | .mout f => shMout f
  | .manc f => shManc f
  | .bra f => shBra f
  | .brx f => shBrx f
  | .call f => shCall f
  | .ret f => shRet f
  | .rgang f => shNone f
  | .loop f => shLoop f
  | .loopR f => shLoopR f
  | .exitShort f => shNone (shortLong f)
  | .exit f => shNone f
  | .yieldShort f => shNone (shortLong f)
  | .yield f => shNone f
  | .trap f => shTrap f
  | .rte f => shRte f
  | .srd f => shSrd f
  | .swr f => shSwr f
  | .bkpt f => shTrap f
  | .ctxs f => shCtx f
  | .ctxr f => shCtx f
  | _ => sh0

/-- R89: the long form of an opcode, or none for an unassigned one (R90); the forms that share an opcode are told apart by SUB. -/
def ofLong (opc : Nat) (f : Long) : Option Instr :=
  match opc with
  | 0x00 => some (.nop f)
  | 0x01 => some (.iadd f)
  | 0x02 => some (.isub f)
  | 0x03 => some (.imul f)
  | 0x04 => some (.imulh f)
  | 0x05 => some (.imad f)
  | 0x06 => some (.imin f)
  | 0x07 => some (.imax f)
  | 0x08 => some (.and f)
  | 0x09 => some (.or f)
  | 0x0A => some (.xor f)
  | 0x0B => some (.tern f)
  | 0x0C => some (.shl f)
  | 0x0D => some (.shr f)
  | 0x0E => some (.sar f)
  | 0x0F => some (.bitop f)
  | 0x10 => some (.bfe f)
  | 0x11 => some (.bfi f)
  | 0x12 => some (.icmp f)
  | 0x13 => some (.sel f)
  | 0x14 => some (if subN f / 8 = 2 then .movToIndex f else if subN f / 8 = 3 then .movFromIndex f else .mov f)
  | 0x15 => some (.lea f)
  | 0x18 => some (.fadd f)
  | 0x19 => some (.fmul f)
  | 0x1A => some (.ffma f)
  | 0x1B => some (.fmin f)
  | 0x1C => some (.fmax f)
  | 0x1D => some (.fcmp f)
  | 0x1E => some (.ffunc f)
  | 0x1F => some (.fmisc f)
  | 0x20 => some (.dadd f)
  | 0x21 => some (.dmul f)
  | 0x22 => some (.dfma f)
  | 0x23 => some (.dmin f)
  | 0x24 => some (.dmax f)
  | 0x25 => some (.dcmp f)
  | 0x26 => some (.dfunc f)
  | 0x27 => some (.dmisc f)
  | 0x28 => some (.hadd2 f)
  | 0x29 => some (.hmul2 f)
  | 0x2A => some (.hfma2 f)
  | 0x2B => some (.hmin2 f)
  | 0x2C => some (.hmax2 f)
  | 0x2D => some (.hcmp2 f)
  | 0x2E => some (.idot4 f)
  | 0x2F => some (.fdot2 f)
  | 0x30 => some (.cvt f)
  | 0x31 => some (.pack f)
  | 0x32 => some (.unpk f)
  | 0x33 => some (.rng f)
  | 0x34 => some (.xacc f)
  | 0x35 => some (if f.sub.getLsbD 0 then .xcvtFrom f else .xcvtTo f)
  | 0x38 => some (.shfl f)
  | 0x39 => some (.vote f)
  | 0x3A => some (.match f)
  | 0x3B => some (.redx f)
  | 0x3C => some (.scan f)
  | 0x3D => some (.plop f)
  | 0x3E => some (if subN f = 1 then .pmovLoad f else .pmovSave f)
  | 0x40 => some (.ld f)
  | 0x41 => some (.st f)
  | 0x42 => some (.lds f)
  | 0x43 => some (.sts f)
  | 0x44 => some (.atom f)
  | 0x45 => some (.red f)
  | 0x46 => some (.atoms f)
  | 0x47 => some (.cstr f)
  | 0x48 => some (.fence f)
  | 0x49 => some (if f.sub.getLsbD 4 then .ldbrM f else .ldbr f)
  | 0x4A => some (.nmx f)
  | 0x4B => some (.pref f)
  | 0x50 => some (if f.sub.getLsbD 0 then .cpyOut f else .cpyIn f)
  | 0x51 => some (if f.sub.getLsbD 0 then .cpytS f else .cpyt f)
  | 0x52 => some (.seal f)
  | 0x53 => some (.waitb f)
  | 0x54 => some (.xarv f)
  | 0x55 => some (.xwait f)
  | 0x56 => some (.waitc f)
  | 0x57 => some (if f.sub.getLsbD 0 then .barNote f else .barWait f)
  | 0x58 => some (.cred f)
  | 0x59 => some (.snap f)
  | 0x5A => some (.emit f)
  | 0x5B => some (if f.sub.getLsbD 0 then .cntrCancel f else .cntrRd f)
  | 0x60 => some (.mxacq f)
  | 0x61 => some (.mxrel f)
  | 0x62 => some (.mma f)
  | 0x63 => some (.mmas f)
  | 0x64 => some (.mzero f)
  | 0x65 => some (.mout f)
  | 0x66 => some (.manc f)
  | 0x68 => some (.bra f)
  | 0x69 => some (.brx f)
  | 0x6A => some (.call f)
  | 0x6B => some (.ret f)
  | 0x6C => some (.rgang f)
  | 0x6D => some (if f.sub.getLsbD 5 then .loopR f else .loop f)
  | 0x6E => some (.exit f)
  | 0x6F => some (.yield f)
  | 0x78 => some (.trap f)
  | 0x79 => some (.rte f)
  | 0x7A => some (.srd f)
  | 0x7B => some (.swr f)
  | 0x7C => some (.bkpt f)
  | 0x7D => some (.ctxs f)
  | 0x7E => some (.ctxr f)
  | _ => none

/-- R89: the short form of an opcode, or none where it has none. -/
def ofShort (opc : Nat) (f : Short) : Option Instr :=
  match opc with
  | 0x00 => some (.nopShort f)
  | 0x01 => some (.iaddShort f)
  | 0x02 => some (.isubShort f)
  | 0x03 => some (.imulShort f)
  | 0x04 => some (.imulhShort f)
  | 0x06 => some (.iminShort f)
  | 0x07 => some (.imaxShort f)
  | 0x08 => some (.andShort f)
  | 0x09 => some (.orShort f)
  | 0x0A => some (.xorShort f)
  | 0x0C => some (.shlShort f)
  | 0x0D => some (.shrShort f)
  | 0x0E => some (.sarShort f)
  | 0x14 => some (.movShort f)
  | 0x18 => some (.faddShort f)
  | 0x19 => some (.fmulShort f)
  | 0x1B => some (.fminShort f)
  | 0x1C => some (.fmaxShort f)
  | 0x20 => some (.daddShort f)
  | 0x21 => some (.dmulShort f)
  | 0x23 => some (.dminShort f)
  | 0x24 => some (.dmaxShort f)
  | 0x28 => some (.hadd2Short f)
  | 0x29 => some (.hmul2Short f)
  | 0x2B => some (.hmin2Short f)
  | 0x2C => some (.hmax2Short f)
  | 0x6E => some (.exitShort f)
  | 0x6F => some (.yieldShort f)
  | _ => none

/-- R83: an instruction in the short form. -/
def Instr.isShort (i : Instr) : Bool := match Instr.opc i with | some (_, s) => s | none => false

/-- R86: the literal of a fetched instruction. -/
def Instr.lit (i : Instr) : Option (BitVec 64) := (Instr.long i).lit

/-- R78: the number of words. -/
def Instr.words (i : Instr) : Nat :=
  match Instr.isShort i, Instr.lit i with
  | true, none => 1
  | true, some _ => 3
  | false, none => 3
  | false, some _ => 5

/-- R91: a chain-ending instruction. -/
def Instr.endsChain (i : Instr) : Bool := match Instr.opc i with | some (o, _) => decide (0x40 ≤ o) | none => true

/-- The classes of operand codes (R17). -/
def isV (c : BitVec 8) : Bool := decide (c.toNat ≤ 0xAF)
def isK (c : BitVec 8) : Bool := decide (0xB0 ≤ c.toNat) && decide (c.toNat ≤ 0xB3)
def isIx (c : BitVec 8) : Bool := decide (0xB4 ≤ c.toNat) && decide (c.toNat ≤ 0xBB)
def isZero (c : BitVec 8) : Bool := c == 0xBC
def isLit (c : BitVec 8) : Bool := c == 0xBF
/-- ZERO, LANE, SLICE or LIT. -/
def isConst (c : BitVec 8) : Bool := decide (0xBC ≤ c.toNat) && decide (c.toNat ≤ 0xBF)
def isS (c : BitVec 8) : Bool := decide (0xC0 ≤ c.toNat) && decide (c.toNat ≤ 0xDF)
def isL (c : BitVec 8) : Bool := decide (0xE0 ≤ c.toNat) && decide (c.toNat ≤ 0xE3)

/-- R21: a direct v or k code that a value of the width may name. -/
def vkOk (w : Nat) (c : BitVec 8) : Bool :=
  let n := w / 32
  (isV c && decide (c.toNat % n = 0) && decide (c.toNat + n ≤ 0xB0)) || (isK c && decide ((c.toNat - 0xB0) % n = 0))

/-- R18, R21, R86 (order 6 of R94): whether a position accepts a code. -/
def Kind.accepts (k : Kind) (c : BitVec 8) : Bool :=
  match k with
  | .src w => vkOk w c || isIx c || (isS c && decide (w ≤ 64) && decide (c.toNat % (w / 32) = 0)) ||
      (if w = 128 then isZero c else isConst c || isL c)
  | .dst w => vkOk w c || isIx c || (isS c && decide (w ≤ 64) && decide (c.toNat % (w / 32) = 0))
  | .dstP w => vkOk w c || isIx c || (isS c && decide (w ≤ 64) && decide (c.toNat % (w / 32) = 0)) || isP c
  | .pdst => isP c
  | .mask z => isP c || (z && isZero c)
  | .target => (isV c && decide (c.toNat % 2 = 0)) || isIx c || (isS c && decide (c.toNat % 2 = 0)) || isLit c
  | .link => isV c && decide (c.toNat % 2 = 0)
  | .wide => isV c && decide (c.toNat % 8 = 0)
  | .window => vkOk 128 c || isIx c
  | .run regs step => isV c && decide (c.toNat % step = 0) && decide (c.toNat + regs ≤ 0xB0)

/-- R86: the literal is there exactly when an operand names LIT. -/
def litOk (u : List Use) (lit : Option (BitVec 64)) : Bool := (u.any fun x => isLit x.code) == lit.isSome

/-- R94, orders 4 to 6: the cause an instruction's words raise by themselves. `hi` says that bits
[31:30] of word 0 of a long form are not zero. -/
def decodeCause (hi : Bool) (i : Instr) : Option (BitVec 6) :=
  let sh := Instr.shape i
  if hi || sh.rsv then some 0x03
  else if sh.ill then some 0x02
  else if (sh.uses.all fun u => u.kind.accepts u.code) && litOk sh.uses (Instr.lit i) then none
  else some 0x04

/-- R150: a stepped operand code; none below 0 or above 175. -/
def stepCode (c : BitVec 8) (st : Int) (k : Nat) : Option (BitVec 8) :=
  if st = 0 then some c
  else
    let n : Int := c.toNat + k * st
    if n < 0 ∨ 175 < n then none else some (BitVec.ofInt 8 n)

/-- R150: the instruction as iteration k of a LOOP issues it under its step word, or the first cause of orders
4 to 6 of R94. -/
def stepInstr (hi : Bool) (i : Instr) (w : Word) (k : Nat) : Except (BitVec 6) Instr :=
  let l := Instr.long i
  let st := fun lo => sext (w.toNat >>> lo) 4
  let simm := sext (w.toNat >>> 16) 16
  let bad := fun (c : BitVec 8) (s : Int) => decide (s ≠ 0) && !isV c
  let wrong := bad l.d (st 0) || bad l.a (st 4) || bad l.b (st 8) || bad l.c (st 12) ||
    (Instr.isShort i && (decide (simm ≠ 0) || decide (st 12 ≠ 0)))
  let code := fun (c : BitVec 8) (s : Int) => if isV c then (stepCode c s k).getD c else c
  let out := fun (c : BitVec 8) (s : Int) => isV c && (stepCode c s k).isNone
  let range := out l.d (st 0) || out l.a (st 4) || out l.b (st 8) || out l.c (st 12)
  let j := Instr.withLong i { l with d := code l.d (st 0), a := code l.a (st 4), b := code l.b (st 8), c := code l.c (st 12),
                                     imm := BitVec.ofInt 32 (l.imm.toNat + k * simm) }
  if hi || (Instr.shape j).rsv then .error 0x03
  else if wrong || (Instr.shape j).ill then .error 0x02
  else if range then .error 0x04
  else match decodeCause hi j with
    | some c => .error c
    | none => .ok j

end Sys2Proof.Machine
end

