-- ==== Sys2Proof/WellFormed.lean ====
section
/-! DEFINITION. Which terms of `Instr` are instructions that words can spell (R82 to R87): no reserved
field set, no undefined field value, every operand code legal in its position, the literal there exactly
when an operand names it, and in a short form only operands that have a 7-bit code. -/
namespace Sys2Proof

/-- R82: the 8-bit operand codes that have a short code. -/
def hasShortCode (c : BitVec 8) : Bool :=
  decide (c.toNat ≤ 0x4F) || (decide (0xC0 ≤ c.toNat) && decide (c.toNat ≤ 0xCF)) ||
    (decide (0xE0 ≤ c.toNat) && decide (c.toNat ≤ 0xE3)) || c == 0xBC || c == 0xBD || c == 0xBF

/-- A well-formed instruction. An event is always well formed. -/
def Instr.wellFormed (i : Instr) : Bool :=
  match Machine.Instr.opc i with
  | none => true
  | some (_, short) =>
    (Machine.decodeCause false i).isNone &&
      (!short || (hasShortCode (Machine.Instr.long i).d && hasShortCode (Machine.Instr.long i).a && hasShortCode (Machine.Instr.long i).b))

end Sys2Proof
end

