-- ==== Sys2Proof/Decode.lean ====
section
/-! DEFINITION. Decoding instruction words (R78, R82 to R90, orders 2 and 4 to 6 of R94), and the encoder. -/
namespace Sys2Proof

/-- Why words are not an instruction. -/
inductive Reject where
  /-- fewer words than LEN asks for -/
  | truncated
  /-- 0x01: R89, R90 -/
  | illegalOpc
  /-- 0x03: R87 -/
  | reservedBits
  /-- 0x02: R87, R85, R47, R58, R36 -/
  | illegalField
  /-- 0x04: R18, R21, R86 -/
  | illegalOperand
deriving DecidableEq, Repr

/-- The cause code of a rejection (order 2 and orders 4 to 6 of R94). -/
def Reject.cause : Reject → BitVec 6
  | .truncated => 0
  | .illegalOpc => 0x01
  | .reservedBits => 0x03
  | .illegalField => 0x02
  | .illegalOperand => 0x04

/-- R78: how many words the instruction has, from word 0. -/
def lenWords (w0 : Word) : Nat :=
  match (w0.extractLsb' 0 2).toNat with
  | 0 => 1
  | 1 => 3
  | 2 => 3
  | _ => 5

/-- R78: LEN bit 0: the long form. -/
def isLongForm (w0 : Word) : Bool := w0.getLsbD 0

/-- R78: OPC. -/
def opcOf (w0 : Word) : Nat := (w0.extractLsb' 2 7).toNat

/-- R82: the 8-bit code of a short operand code; 0xFF stands for a reserved one. -/
def shortCode (c : BitVec 7) : BitVec 8 :=
  let n := c.toNat
  if n ≤ 0x4F then BitVec.ofNat 8 n
  else if n ≤ 0x5F then BitVec.ofNat 8 (0x70 + n)
  else if n ≤ 0x63 then BitVec.ofNat 8 (0x80 + n)
  else if n = 0x64 then 0xBC
  else if n = 0x65 then 0xBD
  else if n = 0x7F then 0xBF
  else 0xFF

/-- R82: the short code of an 8-bit operand code. -/
def toShortCode (c : BitVec 8) : BitVec 7 :=
  let n := c.toNat
  if n ≤ 0x4F then BitVec.ofNat 7 n
  else if n = 0xBC then 0x64
  else if n = 0xBD then 0x65
  else if n = 0xBF then 0x7F
  else if n ≤ 0xCF then BitVec.ofNat 7 (n - 0x70)
  else BitVec.ofNat 7 (n - 0x80)

/-- R82: the fields of a short word 0. -/
def shortFields (w0 : Word) (lit : Option (BitVec 64)) : Short :=
  { g := w0.getLsbD 10, nwb := w0.getLsbD 9, d := shortCode (w0.extractLsb' 11 7), a := shortCode (w0.extractLsb' 18 7),
    b := shortCode (w0.extractLsb' 25 7), lit := lit }

/-- R84: the fields of a long form. -/
def longFields (w0 w1 w2 : Word) (lit : Option (BitVec 64)) : Long :=
  { pg := w0.extractLsb' 10 3, pn := w0.getLsbD 13, nwb := w0.getLsbD 9, d := w0.extractLsb' 14 8, a := w0.extractLsb' 22 8,
    b := w1.extractLsb' 0 8, c := w1.extractLsb' 8 8, fmt := w1.extractLsb' 16 4, rnd := w1.extractLsb' 20 3, sat := w1.getLsbD 23,
    sub := w1.extractLsb' 24 8, imm := w2, lit := lit }

/-- R78: the literal of two words. -/
def literal (lo hi : Word) : BitVec 64 := hi ++ lo

/-- R84: bits [31:30] of word 0 of a long form are reserved. -/
def highBits (w0 : Word) : Bool := isLongForm w0 && w0.extractLsb' 30 2 != 0

/-- R89, R90: word 0 alone decides whether the opcode and the form exist. -/
def opcAssigned (w0 : Word) : Bool :=
  if isLongForm w0 then (Machine.ofLong (opcOf w0) Machine.noFields).isSome
  else (Machine.ofShort (opcOf w0) (Machine.longShort Machine.noFields)).isSome

/-- The instruction that the words spell, whether legal or not; the words after word 0 are given. -/
def parse (w0 : Word) (rest : List Word) : Option Instr :=
  match lenWords w0, rest with
  | 1, _ => Machine.ofShort (opcOf w0) (shortFields w0 none)
  | 3, w1 :: w2 :: _ =>
    if isLongForm w0 then Machine.ofLong (opcOf w0) (longFields w0 w1 w2 none)
    else Machine.ofShort (opcOf w0) (shortFields w0 (some (literal w1 w2)))
  | 5, w1 :: w2 :: w3 :: w4 :: _ => Machine.ofLong (opcOf w0) (longFields w0 w1 w2 (some (literal w3 w4)))
  | _, _ => none

/-- A cause of orders 4 to 6 as a rejection. -/
def Reject.ofCause (c : BitVec 6) : Reject :=
  if c = 0x03 then .reservedBits else if c = 0x02 then .illegalField else .illegalOperand

/-- Decodes the instruction that starts at the first word. -/
def decode : List Word → Except Reject Instr
  | [] => .error .truncated
  | w0 :: rest =>
    if !opcAssigned w0 then .error .illegalOpc
    else match parse w0 rest with
      | none => .error .truncated
      | some i =>
        match Machine.decodeCause (highBits w0) i with
        | some c => .error (Reject.ofCause c)
        | none => .ok i

/-- R4: the words of a byte sequence; bytes past the last whole word are left out. -/
def wordsOf : List Byte → List Word
  | a :: b :: c :: d :: t => (d ++ c ++ b ++ a) :: wordsOf t
  | _ => []

/-- Decodes the instruction at the start of the bytes and answers the bytes after it. -/
def decodeBytes (bs : List Byte) : Except Reject (Instr × List Byte) :=
  match decode (wordsOf bs) with
  | .ok i => .ok (i, bs.drop (4 * Machine.Instr.words i))
  | .error e => .error e

/-- R84: word 0 of a long form. -/
def longWord0 (opc : Nat) (f : Long) : Word :=
  0#2 ++ f.a ++ f.d ++ BitVec.ofBool f.pn ++ f.pg ++ BitVec.ofBool f.nwb ++ BitVec.ofNat 7 opc ++ BitVec.ofBool f.lit.isSome ++ 1#1

/-- R84: word 1 of a long form. -/
def longWord1 (f : Long) : Word := f.sub ++ BitVec.ofBool f.sat ++ f.rnd ++ f.fmt ++ f.c ++ f.b

/-- R82: word 0 of a short form. -/
def shortWord0 (opc : Nat) (f : Short) : Word :=
  toShortCode f.b ++ toShortCode f.a ++ toShortCode f.d ++ BitVec.ofBool f.g ++ BitVec.ofBool f.nwb ++ BitVec.ofNat 7 opc ++
    BitVec.ofBool f.lit.isSome ++ 0#1

/-- R78: the literal words. -/
def litWords : Option (BitVec 64) → List Word
  | none => []
  | some l => [l.extractLsb' 0 32, l.extractLsb' 32 32]

/-- The words of an instruction (R78, R82, R84); an event has none. -/
def encode (i : Instr) : List Word :=
  match Machine.Instr.opc i with
  | some (opc, true) => shortWord0 opc (Machine.longShort (Machine.Instr.long i)) :: litWords (Machine.Instr.lit i)
  | some (opc, false) =>
    let f := Machine.Instr.long i
    longWord0 opc f :: longWord1 f :: f.imm :: litWords f.lit
  | none => []

/-- Word j of an instruction whose bits are w, of which nbits are given and the rest are zero. -/
def tableWord (nbits w j : Nat) : Word := BitVec.ofNat 32 ((w % 2 ^ nbits) >>> (32 * j))

/-- The instruction the decoder reads from the bits w of an opcode-table row. -/
def decodeTableWord (nbits w : Nat) : Option Instr :=
  match decode ((List.range 5).map (tableWord nbits w)) with
  | .ok i => some i
  | .error _ => none

end Sys2Proof
end

