-- ==== Sys2Proof/Config.lean ====
section
/-! DEFINITION. What the signed configuration records and the implementation fix, and the free values:
opaque constants with no body, of which nothing can be proved but that they have their type. -/
namespace Sys2Proof.Config

/-- R219: PTOKEN.SIZE unless the configuration record sets otherwise. -/
def ptokenSize : Nat := 896
/-- R437: PLIM unless the SKU record sets otherwise. -/
def plimWatts : Nat := 3600
/-- R385: THROT.HRT comes from the configuration record (log 4). -/
def throtHrt : Nat := 0xFFFF
/-- R275: bytes a cord bin holds on chip; the spec names the capacity and gives no figure, so it is a free value (log 12). -/
opaque binOnChip : Nat

/-- A latch entry that no instruction has pushed since the ring was lost (R30, R31; log 5). -/
opaque freeLatch : Nat → BitVec 64
/-- Data that a stage-1 table read through a target other than local memory returns (log 6). -/
opaque freeEntry : Nat → BitVec 64
/-- R423: the public key in the mask ROM, 32 bytes (log 7). -/
opaque pkr : List (BitVec 8)
/-- R425: whether the helper data correct a PUF response (log 7). -/
opaque pufCorrects : List (BitVec 8) → List (BitVec 8) → Bool
/-- R425: the key K of this device, byte by byte, as the helper data give it back (log 7). -/
opaque pufKey : List (BitVec 8) → Nat → BitVec 8
/-- R426: what the body of a SKU record sets; the spec lays out no body (log 7). -/
opaque skuOf : List (BitVec 8) → Sku
/-- R426, R427: the body of a training record, by a counter in State (log 7). -/
opaque trainBody : Nat → List (BitVec 8)
/-- R378: the key of KEYID 0, by the counter in State at the boot that generated it (log 7). -/
opaque bootKey : Nat → BitVec 512
/-- Bytes of a value the manual leaves open, by a counter in State (log 8). -/
opaque freeByte : Nat → BitVec 8

end Sys2Proof.Config
end

