-- ==== Sys2Proof/Machine/Cells.lean ====
section
/-! DEFINITION. Finite maps as lists of (key, value) pairs in one canonical form: keys strictly rising
and, for the maps that have a default, no entry equal to the default. Memory, register files and tables
are such maps. -/
namespace Sys2Proof.Machine

/-- A finite map: (key, value) pairs with strictly rising keys. -/
abbrev Cells (α : Type) := List (Nat × α)

/-- The value listed at a key. -/
def Cells.find? {α : Type} : Cells α → Nat → Option α
  | [], _ => none
  | (a, v) :: t, k => if a = k then some v else Cells.find? t k

/-- The value at a key, where unlisted keys read as `d`. -/
def Cells.getD {α : Type} (m : Cells α) (k : Nat) (d : α) : α := (Cells.find? m k).getD d

/-- Sets the value at a key, keeping keys in rising order. -/
def Cells.put {α : Type} : Cells α → Nat → α → Cells α
  | [], k, v => [(k, v)]
  | (a, w) :: t, k, v =>
    if k < a then (k, v) :: (a, w) :: t
    else if a = k then (k, v) :: t
    else (a, w) :: Cells.put t k v

/-- Removes the entry at a key. -/
def Cells.del {α : Type} : Cells α → Nat → Cells α
  | [], _ => []
  | (a, w) :: t, k => if a = k then Cells.del t k else (a, w) :: Cells.del t k

/-- Sets the value at a key of a map whose unlisted keys read as `d`; writing `d` removes the entry. -/
def Cells.set {α : Type} [DecidableEq α] (d : α) (m : Cells α) (k : Nat) (v : α) : Cells α :=
  if v = d then Cells.del m k else Cells.put m k v

/-- Applies a function at a key, when the key is listed. -/
def Cells.modify {α : Type} (m : Cells α) (k : Nat) (f : α → α) : Cells α :=
  match Cells.find? m k with
  | some v => Cells.put m k (f v)
  | none => m

/-- The least key above every listed key: a fresh identity. -/
def Cells.fresh {α : Type} (m : Cells α) : Nat := m.foldl (fun n e => Nat.max n (e.1 + 1)) 0

/-- Drops every entry whose key lies in `lo .. lo + n - 1`. -/
def Cells.clear {α : Type} (m : Cells α) (lo n : Nat) : Cells α :=
  m.filter (fun e => !(decide (lo ≤ e.1) && decide (e.1 < lo + n)))

/-- Keys strictly rising, all above `lo`. -/
def Cells.risesFrom {α : Type} : Nat → Cells α → Bool
  | _, [] => true
  | lo, (a, _) :: t => decide (lo ≤ a) && Cells.risesFrom (a + 1) t

/-- The canonical form of a map with default `d`: keys strictly rising and no entry equal to `d`. -/
def Cells.wf {α : Type} [DecidableEq α] (d : α) (m : Cells α) : Bool :=
  Cells.risesFrom 0 m && m.all (fun e => decide (e.2 ≠ d))

/-- Memory: bytes by address; an unlisted address reads as zero (log 2). -/
abbrev Memory := Cells Byte

/-- One byte of memory. -/
def Memory.byte (m : Memory) (a : Nat) : Byte := Cells.getD m a 0#8

/-- Stores one byte of memory. -/
def Memory.setByte (m : Memory) (a : Nat) (v : Byte) : Memory := Cells.set 0#8 m a v

/-- R4: the `n` bytes from `a`, little-endian, as a number. -/
def Memory.read (m : Memory) (a : Nat) : Nat → Nat
  | 0 => 0
  | n + 1 => (Memory.byte m a).toNat + 256 * Memory.read m (a + 1) n

/-- R4: stores the low `n` bytes of a number, little-endian, from `a`. -/
def Memory.write (m : Memory) (a : Nat) : Nat → Nat → Memory
  | 0, _ => m
  | n + 1, v => Memory.write (Memory.setByte m a (BitVec.ofNat 8 v)) (a + 1) n (v / 256)

/-- The canonical form of memory. -/
abbrev Memory.wf (m : Memory) : Bool := Cells.wf 0#8 m

end Sys2Proof.Machine
end

