-- ==== Sys2Proof/Machine/State.lean ====
section
/-! DEFINITION. The state of one KY-960 module as plain data, and the state after reset. Every structure
names the rule of spec/ that gives its fields. -/
namespace Sys2Proof.Machine

/-- Why the machine stops with a fault. -/
inductive Fault where
  /-- raised by `step` after a fatal error or a thermal trip (R434 last row, R438): the device serves no
  request until a warm reset or a cold boot. Safe. -/
  | deviceStopped
deriving DecidableEq, Repr

/-- Why a step is refused. -/
inductive Refusal where
  /-- an instruction that has no meaning yet; raised by no meaning. Safe. -/
  | notModelled (mnemonic : String)
deriving DecidableEq, Repr

/-- R14, R152: the loop state of a fragment. `body` is the address of the first body instruction; `addrs`
are the addresses of the body instructions reached so far, found from their LEN (R150). -/
structure LoopSt where
  body : Nat
  len : Nat
  count : Nat
  k : Nat
  addrs : List Nat
deriving DecidableEq, Repr

/-- The operands of a BAR at which a fragment waits (R198). -/
structure BarArg where
  arv : Bool
  id : Nat
  count : Nat
  scope : Nat
deriving DecidableEq, Repr

/-- R256 WAIT: what a fragment waits at. -/
inductive Wait where
  | run
  | join
  | rgang
  /-- at a BAR before the gang's arrival -/
  | bar (b : BarArg)
  /-- arrived at a BAR -/
  | arrived (b : BarArg)
deriving DecidableEq, Repr

/-- R14: a split-table entry. AGE is the entry's place in the gang's list. -/
structure Frag where
  pc : PcWord
  chead : PcWord
  jv : Bool
  join : PcWord
  mask : Mask
  wait : Wait
  loop : Option LoopSt
  /-- the model's own name of the fragment, never used twice in a gang -/
  fid : Nat
  /-- R148: cycles spent waiting at the join or RGANG -/
  waitCyc : Nat
  /-- R288 -/
  defer : Nat
  /-- R288: the cycle at which the fragment became urgent -/
  urg : Option Nat
  /-- R154: the cycle after the fragment's YIELD, in which it is not ready -/
  skip : Nat
  /-- R92: registers that the instructions of the current chain have read -/
  chainRd : List Nat
  /-- R131: an XACC or window-writing XCVT stands in the current chain -/
  chainX : Bool
  /-- R417 -/
  pass : Option Nat
  /-- R418: a step trap is due -/
  stepDue : Bool
  /-- R31: the fragment's ring was lost at a trap or an RTE of another fragment of the gang -/
  lost : Bool
  /-- R260, R261: the cycles from which l0 to l3 can be read, and until which the fragment's unit is taken (0 the slice
  pipes, 1 the transcendental port) -/
  latchAt : List Nat
  unit : Nat
  unitAt : Nat
deriving DecidableEq, Repr

/-- R238, R239: the trap registers of one level. -/
structure TrapRegs where
  cause : Word
  epc : Quad
  tval : Quad
  scratch : Quad
  status : Word
deriving DecidableEq, Repr

/-- R33: the five in-flight paths. -/
inductive Path where
  | g | w | s | m | n
deriving DecidableEq, Repr

/-- R33: an instruction counted on a path. `left` is how many of its lines have not completed. -/
structure Fly where
  seq : Nat
  path : Path
  left : Nat
deriving DecidableEq, Repr

/-- R295: where an access goes. `dev` is a device physical address in HBM or the bulk tier. -/
inductive Target where
  | dev (pa : Nat)
  | peer (vdn ia : Nat)
  | notify (fn queue : Nat)
  | host (addr : Nat)
  /-- the scratchpad of a group of the cluster set (R170) -/
  | scratch (group : Nat)
deriving DecidableEq, Repr

/-- One lane's part of a memory access: its address (virtual after swizzle, or scratchpad), its offset e
of R159, the lowest register it writes, and its B and C data copied at issue (R163). -/
structure LaneAcc where
  lane : Nat
  addr : Nat
  off : Nat
  dst : Nat
  data : Nat
  data2 : Nat
deriving DecidableEq, Repr

/-- R317 row 6, R316: a FENCE in gang order. -/
structure FenceAt where
  seq : Nat
  ord : Nat
  scope : Nat
deriving DecidableEq, Repr

/-- What a request in flight serves: an access or a matrix operand of a gang, a piece of a copy (R189), a SIGNAL (R356), or a
line of a landing of a group or a launch (R282), or a batch of a node launch that is written to its buffer (R274). -/
inductive Owner where
  | gang
  | piece (copy piece : Nat)
  | signal (fn queue : Nat)
  | landing (unit range line : Nat)
  | batch (launch : Nat)
  /-- R254, R407: a function that has left this device, for the module and the number it has there, and what the request asks for -/
  | moved (modNo vdn : Nat) (op : PeerOp)
deriving DecidableEq, Repr

/-- R299: a line request in flight. `rd` and `wr` say whether the access reads or writes. -/
structure Req where
  core : Nat
  slot : Nat
  gen : Nat
  fn : Nat
  group : Nat
  seq : Nat
  instr : Instr
  active : Mask
  lanes : List LaneAcc
  /-- the buffer record it was issued through -/
  buf : Galley
  size : Nat
  line : Nat
  tgt : Target
  rd : Bool
  wr : Bool
  ord : Nat
  scope : Nat
  pxmt : Bool
  level : Nat
  /-- R305: when the request's timer started; none for a request that has not been sent (R317) -/
  sent : Option Nat
  /-- R162: a failure of the request's line has been reported: the request gets no data and makes no report -/
  mute : Bool
  own : Owner
  /-- R309, R310: the class it is carried in -/
  cls : Nat
  /-- R317 row 6: the fences before it in gang order -/
  fences : List FenceAt
  /-- R164: where its replay stands among the replays of its gang; 0 for a request that is no replay -/
  turn : Nat
  /-- R300: it holds a miss-status entry -/
  entry : Bool
  /-- R304: one of the packets of a line's atomics or reductions, which share the line's entry (R300) -/
  part : Bool
deriving DecidableEq, Repr

/-- R212: a matrix instruction in the engine of a core, with its operands read at issue. -/
structure MxOp where
  instr : Instr
  slot : Nat
  gen : Nat
  group : Nat
  seq : Nat
  active : Mask
  a : Nat
  b : Nat
  c : Nat
  /-- the 16-bit anchor field the operation takes (R220) -/
  anchor : Nat
  mode : Word
  level : Nat
  /-- R226: the buffer record of an L2-direct operand -/
  buf : Galley
  /-- R226: lines of an L2-direct operand not yet fetched, and the bytes of those fetched by offset -/
  lines : List (Nat × Target)
  l2 : Memory
  /-- an operand that has no data, so that no word is updated: the value of the 0x1B that reports it (R227), or none where
  another report has been made (R367) -/
  bad : Option (Option Quad)
  /-- the engine has executed it -/
  ran : Bool
  /-- it sits in the open fold (R225) -/
  folded : Bool
deriving DecidableEq, Repr

/-- R163, R244: an operand-log entry: the lines still to be performed, its cause and faulting address, for a
matrix instruction its operands (R226), and the cycle from which the failed translation is known (log 69). -/
structure Parked where
  seq : Nat
  lines : List Req
  mx : Option MxOp
  cause : BitVec 6
  va : Nat
  taken : Bool
  due : Nat
deriving DecidableEq, Repr

/-- R243: a deferred report. -/
structure Report where
  cause : BitVec 6
  value : Quad
deriving DecidableEq, Repr

/-- R253: a halt request and how far the halt has come. -/
structure Halt where
  cause : BitVec 6
  frame : Nat
  taken : Bool
deriving DecidableEq, Repr

/-- R200: an issued CRED that awaits its result. -/
structure CredOp where
  core : Nat
  slot : Nat
  gen : Nat
  fn : Nat
  group : Nat
  seq : Nat
  instr : Instr
  active : Mask
  /-- the lanes with the lowest register each one's result goes to -/
  dsts : List (Nat × Nat)
  cslot : Nat
  round : Word
  credt : Bool
  /-- the contribution that it has made, whose tag its answer names -/
  con : Contribution
deriving DecidableEq, Repr

/-- R204: an issued SNAP. -/
structure SnapOp where
  core : Nat
  slot : Nat
  gen : Nat
  fn : Nat
  seq : Nat
  active : Mask
  dsts : List (Nat × Nat)
  instr : Instr
  joined : Bool
  level : Nat
deriving DecidableEq, Repr

/-- R254, R256: what a packet of a record stands for: the parked access or matrix instruction at a place in gang order, one that
was not sent or was read and dropped, the requests of one that were sent and await their acknowledgement, or an operation by its
identity. -/
inductive PacketRef where
  | parked (seq : Nat)
  | again (seq : Nat)
  | awaited (ids : List Nat)
  | copy (id : Nat)
  | emit (id : Nat)
  | cred (id : Nat)
  | snap (id : Nat)
deriving DecidableEq, Repr

/-- R13 to R37: a gang. Register files are maps: v, k and x by 32 × register + lane, s by 32 × register +
slice, p by register (one lane mask each), b by register; unlisted registers read as zero (R17). -/
structure Gang where
  fn : Nat
  group : Nat
  gid : Nat
  nblk : Nat
  level : Nat
  /-- R240: the fragment that runs while the gang is above level 0 -/
  sysFid : Nat
  frags : List Frag
  nextFid : Nat
  v : Cells Word
  k : Cells Word
  s : Cells Word
  x : Cells Word
  p : Cells Mask
  b : Cells Galley
  mode : Word
  t1 : TrapRegs
  t2 : TrapRegs
  fly : List Fly
  fences : List FenceAt
  /-- the next position in gang order (R312) -/
  seq : Nat
  olog : List Parked
  defq : List Report
  /-- R243: a 0x31 report held beside the queue, with its level value -/
  canc : Option (BitVec 2)
  lost : Bool
  sealNo : Word
  /-- R191: sealed batches not finished, oldest first -/
  sealed : List Word
  openOps : Nat
  /-- R216: OWN kept over a halt; the gang waits to own the engine again -/
  reown : Bool
  stopped : Bool
  halt : Option Halt
  /-- R326 -/
  acqf : Bool
  gwait : Nat
  /-- R290: the end of the YIELD window -/
  yieldEnd : Nat
  /-- R260, R261: by register id (as `chainRd`), the cycle from which the register is ready -/
  busy : Cells Nat
  /-- R240: the first instruction of the level-1 routine has not been fetched since trap entry -/
  entry1 : Bool
  /-- R413: the gang's most recent post was refused -/
  dbgRef : Bool
  /-- R35: the flags raised in cycle `newFlAt`, which an SWR to MODE of that cycle keeps -/
  newFl : BitVec 5
  newFlAt : Nat
  /-- R254: requests to be performed at the restore, and the requests, CREDs and SNAPs that have been answered in the frame,
  by their identities -/
  packets : List Req
  results : List (Nat × Req)
  credRes : List (Nat × CredOp)
  snapRes : List (Nat × SnapOp)
  /-- R256: the packets of the record, in record order, each with its place in the frame -/
  pkts : List (PacketRef × Nat)
deriving DecidableEq, Repr

/-- R30, R31: the latch ring of a slice pipe: the fragment that owns it, how many entries have been
pushed since it was last lost, and the entries l0 to l3, each of four lanes. -/
structure Pipe where
  slot : Nat
  fid : Nat
  depth : Nat
  ents : List (List Quad)
deriving DecidableEq, Repr

/-- R225: an entry of the fold buffer: the exact sum and the classes met. -/
structure FoldEnt where
  sum : Int
  nan : Bool
  pinf : Bool
  ninf : Bool
  nv : Bool
  /-- infinities of opposite sign have met -/
  clash : Bool
deriving DecidableEq, Repr

/-- R225: the open fold. -/
structure Fold where
  slot : Nat
  group : Nat
  gal : Nat
  active : Mask
  anchor : Nat
  count : Nat
  last : Nat
  ents : Cells FoldEnt
deriving DecidableEq, Repr

/-- R301: a reservation of miss-status entries: the fragment, how many it needs and how many it holds. -/
structure Resv where
  slot : Nat
  fid : Nat
  need : Nat
  held : Nat
deriving DecidableEq, Repr

/-- A core: gang slots and their generations (R255), slice pipes, the matrix engine (R213 to R225), the
tile store with its written rows, the comparator (R414). -/
structure Core where
  gangs : Cells Gang
  gens : Cells (BitVec 8)
  pipes : Cells Pipe
  /-- R214: the ownership queue: gang slots with the cycle in which each joined -/
  mxq : List (Nat × Nat)
  mxOwner : Option Nat
  mxOps : List MxOp
  fold : Option Fold
  tile : Memory
  tileWritten : BitVec 512
  watchA : Quad
  watchM : Quad
  bkptctl : Word
  /-- R414 GRP: the group of the gang that last wrote BKPTCTL by SWR -/
  bkptGroup : Option Nat
  /-- R301: the urgent fragment that miss-status entries are reserved for -/
  resv : Option Resv
deriving DecidableEq, Repr

/-- R184: a forme. -/
structure Forme where
  esz : Nat
  buf : Nat
  fill : Nat
  /-- (count, signed byte step), dimension 0 first -/
  dims : List (Nat × Int)
deriving DecidableEq, Repr

/-- R74: a working-set entry. -/
structure Decl where
  scratch : Bool
  argq : Nat
  soff : Nat
  off : Nat
  len : Nat
deriving DecidableEq, Repr

/-- R73: a kernel descriptor, read once when the launch is queued (R351). -/
structure Kernel where
  gangs : Nat
  nblk : Nat
  mode : Word
  entry : Nat
  scratch : Nat
  decls : List Decl
  formes : List Forme
  /-- (offset in scratchpad, 16-bit anchor field) -/
  galleys : List (Nat × Nat)
deriving DecidableEq, Repr

/-- R198: a named barrier: the gangs, by GANGID, that have arrived in this phase and the first arrival's
COUNT. -/
structure Bar where
  arrived : List Nat
  count : Option Nat
  /-- gangs that wait for the phase -/
  waiting : List Nat
deriving DecidableEq, Repr

/-- R281, R282: a landing being filled: its range's first address, or the unreadable argument quad,
its length, its place, and the lines not yet written. -/
structure Fill where
  base : Nat
  bad : Bool
  len : Nat
  soff : Nat
  left : List Nat
  /-- for each request for a line that a peer or the host has been sent, the line -/
  asked : List Nat
  /-- R279: the cluster whose yarder fills it -/
  yarder : Nat
  /-- R283: when its staging began, as `nextId` then -/
  began : Nat
deriving DecidableEq, Repr

/-- A resident group, or a member of a cluster set whose allocation is kept (R277, R278). -/
structure Group where
  fn : Nat
  launch : Nat
  groupId : Nat
  core : Nat
  /-- the GANGIDs of its gangs that have not ended -/
  live : List Nat
  kern : Kernel
  setsz : Nat
  scratch : Memory
  bars : Cells Bar
  /-- R326 -/
  sep : Nat
  /-- R326: per 32-byte line, the weak writer (core, slot, generation) and its epoch -/
  wid : Cells (Nat × Nat × Nat × Nat)
  b0 : Galley
  b1 : Galley
  recCount : Nat
  fills : List Fill
  /-- R286: the values of the STAGE_FAULTs that its gangs will take -/
  sfaults : List Quad
  started : Bool
  ended : Bool
  /-- R253, R292: every gang of the group is being halted, or the group is saved -/
  halting : Bool
  /-- R420: halted by the debugger and not yet resumed -/
  debug : Bool
  /-- R420: the gang slots that its gangs took on its core -/
  slots : List Nat
deriving DecidableEq, Repr

/-- R185 to R190, R209: a copy in flight. -/
structure Copy where
  core : Nat
  slot : Nat
  gen : Nat
  fn : Nat
  group : Nat
  seq : Nat
  instr : Instr
  forme : Forme
  origin : Int
  dense : Nat
  xbar : Option Nat
  batch : Word
  row : Nat
  col : Nat
  buf : Galley
  /-- pieces not yet delivered -/
  left : List Nat
  /-- R189: the fix-up list: the pages that faulted, and the pieces that wait for them -/
  pages : List Nat
  fixups : List Nat
  /-- pieces with fabric or host requests in flight, by each request's identity, and the bytes that came for elements of
  pieces whose requests have not all been answered -/
  asked : List (Nat × Nat)
  got : Cells (List Byte)
  /-- R189, R352: pieces that are not to be written: a read that feeds them failed, or they are aimed at a notify register -/
  dropped : List Nat
  halted : Bool
  /-- the gang's level at issue (R240) -/
  level : Nat
deriving DecidableEq, Repr

/-- R205: an EMIT whose records are not yet in the bin. -/
structure EmitOp where
  core : Nat
  slot : Nat
  gen : Nat
  group : Nat
  seq : Nat
  graph : Nat
  node : Nat
  addrs : List Nat
  batch : Word
  instr : Instr
  active : Mask
  level : Nat
deriving DecidableEq, Repr

/-- R200, R202: a collective slot on this device, and the root's round state (R340). -/
structure CSlot where
  fn : Nat
  job : Nat
  p : Nat
  members : List Nat
  /-- timeout in µs -/
  timeout : Nat
  round : Word
  /-- the result of the round before -/
  prev : Option RoundResult
  /-- contributions counted in the open round, and contributions held for the next -/
  counted : List Contribution
  held : List Contribution
  /-- when the open round's first contribution arrived -/
  start : Option Nat
  paused : Bool
  /-- R356 CCLOSE is waiting -/
  closing : Bool
deriving DecidableEq, Repr

/-- R76: a node descriptor. -/
structure Node where
  kern : Kernel
  recSize : Nat
  count : Nat
  timer : Nat
  nbase : Nat
deriving DecidableEq, Repr

/-- R273: a record in a cord bin, with its time of entry. -/
structure BinRec where
  bytes : List Byte
  entered : Nat
deriving DecidableEq, Repr

/-- R272: a node of an active graph with its bin and its node launch. -/
structure NodeRt where
  node : Node
  launch : Nat
  bin : List BinRec
deriving DecidableEq, Repr

/-- R268: a graph. `gid` is none for the graph of a LAUNCH without INGR. -/
structure Graph where
  fn : Nat
  job : Nat
  phase : Nat
  queue : Nat
  gid : Option Nat
  nodes : List NodeRt
  args : Nat
  argLen : Nat
  bins : Nat
  binLen : Nat
  /-- R275: overflow bytes the driver supplied, and whether an EMIT waits for more -/
  ovfLen : Nat
  waiting : Bool
  cancelled : Bool
  ended : Bool
deriving DecidableEq, Repr

/-- R268, R271: a launch. -/
structure Launch where
  fn : Nat
  job : Nat
  phase : Nat
  queue : Nat
  graph : Nat
  lid : Word
  nodeId : Option Nat
  kern : Kernel
  args : Nat
  argLen : Nat
  /-- groups known so far; a node launch gains one with each batch -/
  groups : Nat
  setsz : Nat
  runlim : Nat
  nbase : Nat
  depq : Bool
  placed : Nat
  ended : Nat
  /-- batches of a node launch not yet placed: (buffer address, records) -/
  batches : List (Nat × Nat)
  /-- R270: run time in ticks, and whether 0x34 has been reported -/
  run : Nat
  watched : Bool
  cancelled : Bool
  done : Bool
  /-- R281: the L2 landings that are held, by range -/
  lands : Cells Fill
  /-- R280: ranges whose staging has begun since it was last due -/
  staged : List Nat
deriving DecidableEq, Repr

/-- R356: how far the write of a SIGNAL has come. -/
inductive SignalWrite where
  | unsent
  /-- the request that makes it is in flight -/
  | sent
  /-- it is made, or has failed -/
  | answered (failed : Bool)
deriving DecidableEq, Repr

/-- A command of a queue that has been processed and has not completed (R356). -/
inductive Pending where
  | launch (key : Nat)
  | graph (key : Nat)
  | phase (p : Nat)
  | proof (p : Nat)
  /-- a CANCEL of the job -/
  | job
  | signal (id addr : Nat) (value : Quad) (irq : Bool) (vec : Nat) (write : SignalWrite)
deriving DecidableEq, Repr

/-- R350: a queue block and its shadow state. -/
structure Queue where
  base : Nat
  hold : Nat
  qweight : Nat
  log2 : Nat
  np : Bool
  en : Bool
  job : Nat
  head : Word
  tail : Word
  ecode : Nat
  err : Bool
  /-- R355: the order in which PEND was set -/
  pend : Option Nat
  slot : Bool
  /-- R354: its slot was reclaimed, and it asks for another -/
  again : Bool
  /-- R354: when a non-pre-emptible hold lapses -/
  holdEnd : Option Nat
  /-- phases whose PHEND the queue has processed -/
  phends : Nat
  /-- R395 QPOS: by the phases whose PHENDs the queue has processed, latest first, the ring index of the first packet after
  the PHEND, past the PROOFs that follow it -/
  qends : List (Nat × Word)
  /-- commands processed and not completed, oldest first -/
  pending : List Pending
  /-- R208: the queue skips the rest of its phases up to this cancelled one, or the whole job -/
  skipPhase : Option Nat
  skipJob : Bool
deriving DecidableEq, Repr

/-- R268: a job on a function. -/
structure Job where
  fn : Nat
  job : Nat
  phase : Nat
  /-- R206: the phases of which a command has been processed are those below this number -/
  known : Nat
  cancelled : Bool
  /-- R356: PROOFs that wait for their phase boundary: the phases whose ends they follow -/
  proofAt : List Nat
  /-- LAUNCHIDs that the job's commands have named (R356 CANCEL) -/
  lids : List Word
deriving DecidableEq, Repr

/-- R395: a proof record. Offsets are in the record area of the proof store. -/
structure PxRecord where
  off : Nat
  len : Nat
  k : Nat
  epoch : BitVec 2
  origin : Nat
  nf : Nat
  ns : Nat
  nch : Nat
  /-- TIME at the point -/
  time : Nat
  failed : Bool
  /-- the record's folio: (block address, slot) in slot order -/
  slots : List Nat
  /-- the channel log -/
  chlog : List PeerReq
  folio : List Nat
  qpos : List (Nat × Word)
deriving DecidableEq, Repr

/-- R389 to R399: a proof context. -/
structure Px where
  job : Nat
  chlmax : Nat
  foln : Nat
  base : Nat
  len : Nat
  mem : BitVec 256
  /-- PXCMD as it reads -/
  cmd : Word
  num : Word
  last : Nat
  ecode : Nat
  e : BitVec 2
  en : Bool
  drain : Bool
  pend : Bool
  busy : Bool
  first : Nat
  head : Nat
  /-- the latest established proof (PROOF, R36), and ROLLBK -/
  proof : Nat
  rollbk : Nat
  /-- the store did not fit a header and folio, or a folio overflowed (R397) -/
  dead : Bool
  /-- ORIGIN of the pending trigger -/
  origin : Nat
  openF : List Nat
  /-- entries of the frozen folio that the drain has still to process -/
  frozenF : List Nat
  /-- buffer B is the open one (R390), and a write to the open buffer was refused -/
  openB : Bool
  openBad : Bool
  frozen : Option PxRecord
  records : List PxRecord
  sent : Cells Nat
  /-- write-kind requests received, by 4 × member VDN + colour, and the COUNTs of the markers received, by
  4 × member VDN + the closed epoch -/
  recvd : Cells Nat
  marks : Cells Nat
  closed : List Nat
  /-- R398: blocks the sweep has still to look at -/
  sweep : List Nat
deriving DecidableEq, Repr

/-- R345 to R350, R371, R236 to R239: a function. -/
structure Func where
  enabled : Bool
  evec : Nat
  evt : BitVec 6
  evten : BitVec 6
  weight : Nat
  holdmax : Nat
  npok : Bool
  vdnValid : Bool
  vdn : BitVec 12
  s1root : Quad
  s1iaddr : Quad
  s1ictl : Word
  s2root : Quad
  strtab : Quad
  fcfg : Quad
  ways : Quad
  deleg : Quad
  gtvec : Quad
  ctxbase : Quad
  /-- R37: TIME minus pod time, in ticks -/
  timeOff : Nat
  queues : Cells Queue
  px : Px
  /-- R346 BAR 4: the MSI-X table by dword and the PBA -/
  msixTable : Cells Word
  pba : Quad
deriving DecidableEq, Repr

/-- R375: a partition entry; R436: its counters. -/
structure Partition where
  req : Quad
  mem : BitVec 48
  qos : BitVec 48
  fto : Nat
  stg : Quad
  err : Bool
  stop : Bool
  valid : Bool
  kref : Nat
  cerr : Nat
  uerr : Nat
  late : Nat
  xdem : Nat
  ndrop : Nat
  /-- R429: the express credit, in 1/11 of a byte -/
  credit : Nat
deriving DecidableEq, Repr

/-- R386: a frame's metadata word: GENj, MDj and Vj of its 16 blocks and its KEYID. -/
structure Frame where
  keyid : BitVec 12
  gen : BitVec 32
  md : BitVec 16
  vld : BitVec 16
deriving DecidableEq, Repr

/-- R372: a cached translation of a 64 KiB page: of a virtual page, or with `ia` of an intermediate
page; the rights of each stage; the stage-2 leaf's KIND, HI and address, and the page's offset in the leaf's mapping. -/
structure TlbEnt where
  fn : Nat
  ia : Bool
  page : Nat
  ipage : Nat
  rd1 : Bool
  wr1 : Bool
  ex1 : Bool
  rd2 : Bool
  wr2 : Bool
  ex2 : Bool
  kind : Nat
  hi : Nat
  addr : Nat
deriving DecidableEq, Repr

/-- R401, R403: a migration session. -/
structure Session where
  links : BitVec 18
  maxr : Nat
  peer : Nat
  resid : Nat
  dir : Bool
  fn : Nat
  cmd : Nat
  ecode : Nat
  round : Nat
  dirty : Nat
  state : Nat
  black : Nat
  stg : Nat
  /-- blocks sent in this round and not acknowledged -/
  unacked : Nat
  /-- STOP has been written -/
  stop : Bool
  /-- ticks at the first halt request -/
  t0 : Nat
deriving DecidableEq, Repr

/-- R431, R436: a link. -/
structure Link where
  up : Bool
  farMod : Nat
  farLink : Nat
  stale : Nat
  retry : Nat
deriving DecidableEq, Repr

/-- R373, R374: an invalidation that has not completed, with the requests it waits for. -/
structure Inval where
  stage2 : Bool
  /-- the function whose S1ICTL started it -/
  fn : Nat
  waits : List Nat
deriving DecidableEq, Repr

/-- R292, R256: a saved group. Its gangs' records stand in memory at their frames; the gangs themselves,
with the packets' state, stand in the core numbered 1,024 + the group's key, which no requester port has.
The layout of a group frame is not the spec's, so the scratchpad and the tile store stay data (log 21). -/
structure Saved where
  group : Group
  frame : Nat
  tile : Memory
  tileWritten : BitVec 512
deriving DecidableEq, Repr

/-- R305, R307: a request of this device on the fabric: the request in flight it belongs to, and its packet. -/
structure Flight where
  id : Nat
  req : PeerReq
deriving DecidableEq, Repr

/-- R305, R307: a tag of a sender: its generation, the request that it carries, and by generation the cycle in which a request of
the tag with that generation was last in flight. -/
structure TagUse where
  gen : Nat
  use : Option Flight
  last : Cells Nat
deriving DecidableEq, Repr

/-- R316: an access that was performed before earlier accesses of its gang, toward whose parties no order is owed: the gang, the
places in its order of those accesses, and the scope within which the order is owed. -/
structure Early where
  core : Nat
  slot : Nat
  gen : Nat
  group : Nat
  scope : Nat
  seqs : List Nat
  req : Req
deriving DecidableEq, Repr

/-- R404 to R410: what moves with a function beside its registers and its memory: the queue controller's shadow state, whose layout in
the record is the implementation's own, and what of the save frames is kept as data (log 30). `next` is above every identity in it. -/
structure Shadow where
  next : Nat
  queues : Cells Queue
  jobs : List Job
  launches : Cells Launch
  graphs : Cells Graph
  cslots : Cells CSlot
  saved : Cells Saved
  cores : Cells Core
  reqs : Cells Req
  copies : Cells Copy
  emits : Cells EmitOp
  creds : Cells CredOp
  snaps : Cells SnapOp
  /-- R410: a proof is pending, by its origin, and what R393 has counted -/
  pend : Option Nat
  sent : Cells Nat
  recvd : Cells Nat
  marks : Cells Nat
deriving DecidableEq, Repr

/-- A message the device sends: over the fabric, or to the host. A fabric message carries the sender's colour (R391). -/
inductive OutMsg where
  | request (id modNo : Nat) (req : PeerReq)
  | reply (vdn tag : Nat) (colour : BitVec 2) (data : List Byte)
  | refusal (vdn tag : Nat) (colour : BitVec 2) (cause : BitVec 6) (ia : Nat)
  | waitReply (vdn tag : Nat) (colour : BitVec 2)
  | moved (vdn tag modNo : Nat)
  | unreachable (vdn tag : Nat)
  | contribute (vdn : Nat) (con : Contribution)
  | answer (vdn tag : Nat) (res : RoundResult)
  | result (vdn : Nat) (res : RoundResult)
  /-- R393: on a virtual channel of a link -/
  | marker (link vc modNo vdn : Nat) (m : Marker)
  | notify (modNo vdn queue : Nat) (tail : Word)
  | pause (slot vdn : Nat)
  | resume (slot vdn : Nat)
  | redirect (vdn modNo fn : Nat)
  /-- R403; of class 2 (R309) -/
  | block (vdn ia cls : Nat) (valid : Bool) (data : List Byte)
  | record (vdn : Nat) (data : List Byte) (shadow : Shadow)
  /-- R254, R407: the answer to a request of a function that has left: its data, or the cause with which it fails -/
  | carry (modNo vdn id : Nat) (cause : BitVec 6) (data : List Byte)
  | hostWrite (fn addr : Nat) (data : List Byte)
  | hostRead (fn id addr n : Nat)
  | msix (fn vec : Nat)
  /-- AER of the physical function (R434): 0 correctable, 1 non-fatal, 2 fatal -/
  | aer (severity : Nat)
  | report (data : List Byte)
deriving DecidableEq, Repr

/-- R288: what the selector has still to look at in the current cycle. -/
structure Cand where
  core : Nat
  slot : Nat
  fid : Nat
deriving DecidableEq, Repr

/-- R288: per core in this cycle: fragments chosen, slices used and ports left. -/
structure Sel where
  chosen : Nat
  used : BitVec 8
  mem : Nat
  trans : Nat
  mx : Nat
  br : Nat
  /-- gang slots that have issued, and gang slots with a ready fragment -/
  issued : List Nat
  ready : List Nat
deriving DecidableEq, Repr

/-- The fragment that issues, with the words 0 and 1 that were fetched (R94 reports them). -/
structure Cur where
  core : Nat
  slot : Nat
  fid : Nat
  w0 : Word
  w1 : Word
deriving DecidableEq, Repr

/-- R423: an image in use: TYPE and SVN of its header, and the SHA-256 of header and body (R424 step 5). -/
structure Measure where
  typ : Nat
  svn : Nat
  digest : List Byte
deriving DecidableEq, Repr

/-- R423 to R426: the flash: firmware images, the helper data of the PUF, and the configuration records. -/
structure Flash where
  slotA : List Byte
  slotB : List Byte
  sched : List Byte
  queue : List Byte
  opell : List Byte
  helper : List Byte
  records : List (List Byte)
deriving DecidableEq, Repr

/-- R424: what the last boot found. -/
structure Boot where
  flash : Flash
  /-- R424: recovery mode: only the management interface runs -/
  recovery : Bool
  images : List Measure
  /-- R426: the records in use, header and body; empty for one that is absent -/
  sku : List Byte
  lanes : List Byte
  cert : List Byte
  /-- R427: the training record in use of each stack -/
  training : Cells (List Byte)
  present : BitVec 16
  /-- R378: the counter from which the key of KEYID 0 was taken -/
  key : Nat
deriving DecidableEq, Repr

/-- The state of the module. -/
structure State where
  /-- the model's own: events that the outside, the memory system and the engines bring, each with the
  cycle from which it may happen (log 9) -/
  agenda : List (Nat × Instr)
  /-- the model's own: which of several allowed outcomes comes next; 0 when the list is empty (log 10) -/
  choices : List Nat
  /-- the model's own: the counter a free value is applied to (log 8) -/
  free : Nat
  /-- the model's own: the next identity of a request, copy, group, launch or graph -/
  nextId : Nat
  cycle : Nat
  /-- R439: pod time in ticks of 1/11 ns -/
  pod : Nat
  cur : Cur
  cands : List Cand
  /-- R288: the fragments chosen in this cycle that have still to issue, in gang slot and AGE order -/
  picked : List Cand
  sels : Cells Sel
  cores : Cells Core
  /-- R37: the cycle at which the cores of each requester port were powered up -/
  powered : Cells Nat
  groups : Cells Group
  launches : Cells Launch
  graphs : Cells Graph
  jobs : Cells Job
  reqs : Cells Req
  /-- R305, R307: the tags of this device's requests on the fabric, by 1,024 × sender + tag -/
  tags : Cells TagUse
  /-- R316: accesses that were performed ahead of order that is owed to few -/
  early : List Early
  copies : Cells Copy
  emits : Cells EmitOp
  creds : Cells CredOp
  snaps : Cells SnapOp
  saved : Cells Saved
  cslots : Cells CSlot
  funcs : Cells Func
  parts : Cells Partition
  /-- HBM and bulk tier, by device physical address -/
  mem : Memory
  /-- R81: by address / 4, the words that memory held before the writes made while a launch ran, latest first, each with
  `nextId` at the write -/
  past : Cells (List (Nat × Word))
  frames : Cells Frame
  /-- lines held dirty in L2, with the bytes memory holds beneath them (R377 step 3, R434) -/
  dirty : Cells Memory
  /-- lines with an uncorrectable error (R434) -/
  poison : List Nat
  tlb : List TlbEnt
  inval : Cells Inval
  s2iaddr : Quad
  s2ictl : Word
  dtvec : Quad
  ptoken : Nat
  /-- R218: the core that was last given a power token -/
  tokenLast : Nat
  dbgIn : BitVec 61
  dbgInf : Bool
  dbgOut : BitVec 62
  dbgOutf : Bool
  dbgIen : Bool
  dbgVec : Nat
  dbgHold : Bool
  dbghreq : Word
  jcan : Word
  /-- R359: the function and the job of the cancel that JCAN has started -/
  jcanOf : Nat × Nat
  stopLog : Cells (BitVec 128)
  stopCount : Nat
  kdata : BitVec 512
  /-- R379: KCMD and R383: RTCMD, as they read -/
  kcmd : Word
  rtcmd : Word
  keyData : Cells (BitVec 512)
  rtaddr : Quad
  throt : Word
  /-- R385: activations of each row in the current window -/
  rows : Cells Nat
  mfwd : Nat
  rdidx : Nat
  redirect : Cells Word
  /-- R407: VDNs whose forwarding window is open, with the new module and the time it closes -/
  windows : List (Nat × Nat × Nat)
  /-- R407, R409: collective slots of functions that have left: the function's VDN and its job -/
  movedSlots : Cells (Nat × Nat)
  /-- what of a function comes to the session that its record is sent to -/
  arriving : Cells Shadow
  sessions : Cells Session
  links : Cells Link
  /-- requests of peers that this home holds (R305, R394) -/
  held : List PeerReq
  plim : Nat
  tj : BitVec 8
  tin : BitVec 8
  thermal : Nat
  anonce : BitVec 256
  aaddr : Quad
  acmdErr : Bool
  warm : Bool
  boot : Boot
  dbgUsed : Bool
  modNo : Nat
  /-- R434, R438: the device has stopped serving requests -/
  fatal : Bool
  /-- R434: pod time of the last correctable AER -/
  aerAt : Option Nat
  out : List OutMsg
deriving DecidableEq, Repr

/-- R238, R239: trap registers when the gang starts. -/
def TrapRegs.zero : TrapRegs := ⟨0, 0, 0, 0, 0⟩

/-- R389: a proof context at reset. -/
def Px.reset : Px :=
  { job := 0, chlmax := 0, foln := 0, base := 0, len := 0, mem := 0, cmd := 0, num := 0, last := 0,
    ecode := 0, e := 0, en := false, drain := false, pend := false, busy := false, first := 0, head := 0,
    proof := 0, rollbk := 0, dead := false, origin := 0, openF := [], frozenF := [], openB := false, openBad := false, frozen := none,
    records := [], sent := [], recvd := [], marks := [], closed := [], sweep := [] }

/-- R350: a queue block at reset. -/
def Queue.reset : Queue :=
  { base := 0, hold := 10, qweight := 1, log2 := 6, np := false, en := false, job := 0, head := 0, tail := 0,
    ecode := 0, err := false, pend := none, slot := false, again := false, holdEnd := none, phends := 0, qends := [],
    pending := [], skipPhase := none, skipJob := false }

/-- R347, R348, R371: a function's registers at reset. -/
def Func.reset : Func :=
  { enabled := false, evec := 0, evt := 0, evten := 0, weight := 1, holdmax := 100, npok := false,
    vdnValid := false, vdn := 0, s1root := 0, s1iaddr := 0, s1ictl := 0, s2root := 0, strtab := 0,
    fcfg := 0x0FFF000000000000#64, ways := BitVec.allOnes 64, deleg := 0, gtvec := 0, ctxbase := 0,
    timeOff := 0, queues := [], px := Px.reset, msixTable := [], pba := 0 }

/-- R375: partition t at reset. -/
def Partition.reset (t : Nat) : Partition :=
  { req := if t = 0 then BitVec.allOnes 64 else 0, mem := if t = 0 then BitVec.allOnes 48 else 0, qos := 0,
    fto := 0, stg := 0, err := false, stop := false, valid := decide (t = 0), kref := 0, cerr := 0, uerr := 0,
    late := 0, xdem := 0, ndrop := 0, credit := 0 }

/-- R377 step 4: a core after power-up. -/
def Core.reset : Core :=
  { gangs := [], gens := [], pipes := [], mxq := [], mxOwner := none, mxOps := [], fold := none, tile := [],
    tileWritten := 0, watchA := 0, watchM := 0, bkptctl := 0, bkptGroup := none, resv := none }

/-- R401: a migration session at reset. -/
def Session.reset : Session :=
  { links := 0, maxr := 8, peer := 0, resid := 16, dir := false, fn := 0, cmd := 0, ecode := 0, round := 0, dirty := 0,
    state := 0, black := 0, stg := 0, unacked := 0, stop := false, t0 := 0 }

/-- R436: a link at reset. -/
def Link.reset : Link := { up := false, farMod := 0, farLink := 0, stale := 0, retry := 0 }

/-- R386: a frame whose metadata nothing has written (log 3). -/
def Frame.reset : Frame := { keyid := 0, gen := 0, md := 0, vld := 0 }

/-- R423: a flash that nothing was written to (log 7). -/
def Flash.blank : Flash := ⟨[], [], [], [], [], [], []⟩

/-- R424: a boot that has found nothing yet, with every stack present (log 7). -/
def Boot.reset : Boot :=
  { flash := Flash.blank, recovery := false, images := [], sku := [], lanes := [], cert := [], training := [], present := BitVec.allOnes 16, key := 0 }

/-- The module after a cold boot (R440), with every register at its Reset value. -/
def State.reset : State :=
  { agenda := [], choices := [], free := 0, nextId := 1, cycle := 0, pod := 0, cur := ⟨0, 0, 0, 0, 0⟩, cands := [], picked := [], sels := [],
    cores := [], powered := [], groups := [], launches := [], graphs := [], jobs := [], reqs := [], tags := [], early := [], copies := [], emits := [],
    creds := [], snaps := [], saved := [], cslots := [], funcs := [(0, { Func.reset with enabled := true })],
    parts := [(0, Partition.reset 0)], mem := [], past := [], frames := [], dirty := [], poison := [], tlb := [], inval := [],
    s2iaddr := 0, s2ictl := 0, dtvec := 0, ptoken := Config.ptokenSize, tokenLast := 0, dbgIn := 0, dbgInf := false, dbgOut := 0,
    dbgOutf := false, dbgIen := false, dbgVec := 0, dbgHold := false, dbghreq := 0, jcan := 0, jcanOf := (0, 0), stopLog := [],
    stopCount := 0, kdata := 0, kcmd := 0, rtcmd := 0, keyData := [], rtaddr := 0,
    throt := BitVec.ofNat 32 (250 * 65536 + Config.throtHrt), rows := [], mfwd := 200, rdidx := 0, redirect := [],
    windows := [], movedSlots := [], arriving := [], sessions := [], links := [], held := [], plim := Config.plimWatts, tj := 0, tin := 0,
    thermal := 0, anonce := 0, aaddr := 0, acmdErr := false, warm := false, boot := Boot.reset, dbgUsed := false, modNo := 0,
    fatal := false, aerAt := none, out := [] }

end Sys2Proof.Machine
end

