-- ==== Sys2Proof/Machine/Ops.lean ====
section
/-! DEFINITION. Named operations over the state: cores, gangs and fragments, functions, memory at its home
(R377 to R382, R434), translation (R361 to R372), fetch (R80), and taking a trap (R235 to R245). -/
namespace Sys2Proof.Machine

/-- The outcome of a step of this machine. -/
abbrev Out := Host.Outcome State Fault Refusal

/-- The head of the oracle (log 10): which of several allowed outcomes this step takes. -/
def State.choice (s : State) : Nat := s.choices.headD 0

def State.core (s : State) (k : Nat) : Core := Cells.getD s.cores k Core.reset
def State.setCore (s : State) (k : Nat) (c : Core) : State := { s with cores := Cells.put s.cores k c }
def State.modCore (s : State) (k : Nat) (f : Core → Core) : State := s.setCore k (f (s.core k))
def State.gang? (s : State) (k sl : Nat) : Option Gang := Cells.find? (s.core k).gangs sl
def State.setGang (s : State) (k sl : Nat) (g : Gang) : State :=
  s.modCore k fun c => { c with gangs := Cells.put c.gangs sl g }
def State.modGang (s : State) (k sl : Nat) (f : Gang → Gang) : State :=
  match s.gang? k sl with
  | some g => s.setGang k sl (f g)
  | none => s
def State.gen (s : State) (k sl : Nat) : Nat := (Cells.getD (s.core k).gens sl 0).toNat
def State.func (s : State) (n : Nat) : Func := Cells.getD s.funcs n Func.reset
def State.modFunc (s : State) (n : Nat) (f : Func → Func) : State := { s with funcs := Cells.put s.funcs n (f (s.func n)) }
def State.part (s : State) (t : Nat) : Partition := Cells.getD s.parts t (Partition.reset t)
def State.modPart (s : State) (t : Nat) (f : Partition → Partition) : State := { s with parts := Cells.put s.parts t (f (s.part t)) }
def State.group? (s : State) (k : Nat) : Option Group := Cells.find? s.groups k
def State.modGroup (s : State) (k : Nat) (f : Group → Group) : State := { s with groups := Cells.modify s.groups k f }
def State.launch? (s : State) (k : Nat) : Option Launch := Cells.find? s.launches k
def State.modLaunch (s : State) (k : Nat) (f : Launch → Launch) : State := { s with launches := Cells.modify s.launches k f }
def State.graph? (s : State) (k : Nat) : Option Graph := Cells.find? s.graphs k
def State.modGraph (s : State) (k : Nat) (f : Graph → Graph) : State := { s with graphs := Cells.modify s.graphs k f }
/-- Sends a message (R304, R340, R357, R393, R403). -/
def State.send (s : State) (m : OutMsg) : State := { s with out := s.out ++ [m] }
/-- Schedules an event from this cycle on (log 9). -/
def State.later (s : State) (i : Instr) : State := { s with agenda := s.agenda ++ [(s.cycle, i)] }

/-- R371: the owner key and the partition of a function. -/
def Func.keyid (f : Func) : BitVec 12 := f.fcfg.extractLsb' 0 12
def Func.partNo (f : Func) : Nat := bits f.fcfg.toNat 35 32
def State.keyOf (s : State) (fn : Nat) : BitVec 12 := (s.func fn).keyid
def State.partOf (s : State) (fn : Nat) : Nat := (s.func fn).partNo

/-- A counter of R436 saturates at all ones. -/
def satUp (n : Nat) : Nat := if n < 2 ^ 64 - 1 then n + 1 else n
/-- R381, R436 KREF. -/
def State.countRefusal (s : State) (part : Nat) : State := s.modPart part fun p => { p with kref := satUp p.kref }
/-- R434, R436 CERR and UERR. -/
def State.countCorrected (s : State) (part : Nat) : State := s.modPart part fun p => { p with cerr := satUp p.cerr }
def State.countUncorrectable (s : State) (part : Nat) : State := s.modPart part fun p => { p with uerr := satUp p.uerr }

/-- R346: dword i of a function's MSI-X table; a vector is masked until the host unmasks it (log 14). -/
def Func.msixDword (f : Func) (i : Nat) : Word := Cells.getD f.msixTable i (if i % 4 = 3 then 1 else 0)
/-- R357: sends vector v of a function, or sets its pending bit when it is masked. -/
def State.sendMsix (s : State) (fn v : Nat) : State :=
  if ((s.func fn).msixDword (4 * v + 3)).getLsbD 0 then
    s.modFunc fn fun f => { f with pba := f.pba ||| BitVec.ofNat 64 (2 ^ v) }
  else s.send (.msix fn v)
/-- R347, R357: sets a bit of EVT and sends EVEC when it rises with its EVTEN bit set. -/
def State.raiseEvt (s : State) (fn bit : Nat) : State :=
  let f := s.func fn
  if f.evt.getLsbD bit then s
  else
    let s' := s.modFunc fn fun f => { f with evt := f.evt ||| BitVec.ofNat 6 (2 ^ bit) }
    if f.evten.getLsbD bit then s'.sendMsix fn f.evec else s'
/-- R358: an entry of the stop log. -/
def State.logStop (s : State) (fn k sl cause value : Nat) : State :=
  let w := fn % 64 + (k / 64 % 16) * 2 ^ 8 + (k % 64) * 2 ^ 16 + (sl % 32) * 2 ^ 24 + cause * 2 ^ 32 + (value % 2 ^ 64) * 2 ^ 64
  { s with stopLog := Cells.set 0 s.stopLog (s.stopCount % 64) (BitVec.ofNat 128 w), stopCount := (s.stopCount + 1) % 2 ^ 32 }

/-! Memory at its home. -/

/-- R386: the metadata of the frame of an address, and of its 4 KiB block. -/
def State.frame (s : State) (pa : Nat) : Frame := Cells.getD s.frames (pa / 65536) Frame.reset
def blockOf (pa : Nat) : Nat := pa / 4096 % 16
/-- R361: an address in HBM, or in the bulk tier. -/
def inHbm (pa : Nat) : Bool := decide (pa < 0x10000000000)
def inBulk (pa : Nat) : Bool := decide (0x40000000000 ≤ pa) && decide (pa < 0xA0000000000)
/-- R361: the memory-side port of a device physical address. -/
def portOf (pa : Nat) : Nat := if inHbm pa then pa / 2 ^ 35 else 32 + (pa - 0x40000000000) / 0xC000000000

/-- R381: whether the request's key is the frame's. -/
def State.keyOk (s : State) (key : BitVec 12) (pa : Nat) : Bool := (s.frame pa).keyid == key
/-- R381: whether the block's valid bit is 1. -/
def State.blockValid (s : State) (pa : Nat) : Bool := (s.frame pa).vld.getLsbD (blockOf pa)
/-- R381: a byte as a request under the key reads it at its home: zero for another key or an invalid block. -/
def State.homeByte (s : State) (key : BitVec 12) (pa : Nat) : Byte :=
  if s.keyOk key pa && s.blockValid pa then Memory.byte s.mem pa else 0
/-- The n bytes at a device physical address, little-endian, as a request under the key reads them. -/
def State.homeRead (s : State) (key : BitVec 12) (pa : Nat) : Nat → Nat
  | 0 => 0
  | n + 1 => (s.homeByte key pa).toNat + 256 * s.homeRead key (pa + 1) n
/-- The n bytes as a list. -/
def State.homeBytes (s : State) (key : BitVec 12) (pa n : Nat) : List Byte :=
  (List.range n).map fun i => s.homeByte key (pa + i)

/-- R384: the ways that a request of a function in a class may allocate in: those of WAYS, less every way that a valid
partition reserves, and those that the function's own partition reserves for the class. -/
def State.effWays (s : State) (fn cls : Nat) : BitVec 16 :=
  let p := s.part (s.partOf fn)
  let taken := (List.range 16).foldl (fun (m : BitVec 16) t =>
    let q := s.part t
    if q.valid then m ||| q.qos.extractLsb' 16 16 ||| q.qos.extractLsb' 32 16 else m) 0
  ((s.func fn).ways.extractLsb' (16 * cls) 16 &&& ~~~taken) |||
    (if cls = 0 then p.qos.extractLsb' 16 16 else if cls = 3 then p.qos.extractLsb' 32 16 else 0)

/-- R371, R384, R298: whether a line that a request misses comes into L2: for a read (0), a write (1) or an atomic (2) of the
function in a class, through a record with this CPOL. -/
def State.allocates (s : State) (fn cls kind cpol : Nat) : Bool :=
  (s.func fn).fcfg.getLsbD (48 + 3 * cls + kind) && s.effWays fn cls != 0 && cpol != 2

/-- R434, R384: the bytes that memory holds beneath a line that L2 is about to make dirty. A write that may not allocate (`al`)
makes a line dirty only where it hits one, which the oracle says (log 10). -/
def State.noteDirty (s : State) (pa : Nat) (al : Bool) : State :=
  let line := pa / 128 * 128
  if inHbm pa && (al || s.choice.testBit 97) && (Cells.find? s.dirty line).isNone then
    { s with dirty := Cells.put s.dirty line ((List.range 128).foldl (fun m i => Memory.setByte m i (Memory.byte s.mem (line + i))) []) }
  else s

/-- R381: makes the block valid before a write: an invalid block's other bytes become zero. -/
def State.validate (s : State) (pa : Nat) : State :=
  if s.blockValid pa then s
  else
    let b := pa / 4096 * 4096
    { s with mem := Cells.clear s.mem b 4096,
             frames := Cells.put s.frames (pa / 65536) { s.frame pa with vld := (s.frame pa).vld ||| BitVec.ofNat 16 (2 ^ blockOf pa) } }

/-- R403, R379: marks the block of a write as changed for a migration that tracks it (MD of R386). -/
def State.markDirtyBlock (s : State) (pa : Nat) : State :=
  { s with frames := Cells.put s.frames (pa / 65536) { s.frame pa with md := (s.frame pa).md ||| BitVec.ofNat 16 (2 ^ blockOf pa) } }

/-- Stores bytes at consecutive device physical addresses. -/
def Memory.writeBytes (m : Memory) (pa : Nat) : List Byte → Memory
  | [] => m
  | b :: t => Memory.writeBytes (Memory.setByte m pa b) (pa + 1) t

/-- R81: keeps what the words of a range hold, while a launch runs. -/
def State.notePast (s : State) (pa n : Nat) : State :=
  if s.launches.all fun p => p.2.done then s
  else { s with past := (List.range ((pa % 4 + n + 3) / 4)).foldl (fun m j =>
           let a := pa / 4 + j
           Cells.put m a ((s.nextId, BitVec.ofNat 32 (Memory.read s.mem (4 * a) 4)) :: Cells.getD m a [])) s.past }

/-- R381: a read of a function at its home counts a refusal under another key. -/
def State.fnReadNote (s : State) (fn pa : Nat) : State := if s.keyOk (s.keyOf fn) pa then s else s.countRefusal (s.partOf fn)

/-- R385: counts an activation of the row of a line; a row is taken as 8 KiB (log 16). -/
def State.countRow (s : State) (pa : Nat) : State :=
  { s with rows := Cells.put s.rows (pa / 8192) (Cells.getD s.rows (pa / 8192) 0 + 1) }

/-- R178: the near-memory agent has a line written back, and no copy of it stays in L2. -/
def State.cleanLine (s : State) (pa : Nat) : State := { s with dirty := Cells.del s.dirty (pa / 128 * 128) }

/-- R381: a raw write at the home: dropped under another key, else made in a valid block. The bytes must
lie in one line. `al` says whether the write may allocate in L2 (R384). -/
def State.homeWrite (s : State) (key : BitVec 12) (pa : Nat) (bs : List Byte) (al : Bool := true) : State :=
  if s.keyOk key pa then
    let s := ((s.validate pa).noteDirty pa al).notePast pa bs.length
    { s with mem := Memory.writeBytes s.mem pa bs }
  else s

/-- The n low bytes of a number. -/
def toBytes : Nat → Nat → List Byte
  | 0, _ => []
  | n + 1, v => BitVec.ofNat 8 v :: toBytes n (v / 256)
/-- The number whose bytes, lowest first, are given. -/
def ofBytes : List Byte → Nat
  | [] => 0
  | b :: t => b.toNat + 256 * ofBytes t

/-! Translation. -/

/-- The rights an access needs (R366). -/
structure Rights where
  rd : Bool
  wr : Bool
  ex : Bool
deriving DecidableEq, Repr

/-- Who makes a request, for R370: a core's requester port, or a device agent that serves a function. -/
inductive Requester where
  | core (k : Nat)
  | agent (fn : Nat)
deriving DecidableEq, Repr

/-- R370: the memory-side ports a requester may reach. -/
def State.portMask (s : State) (r : Requester) : BitVec 48 :=
  match r with
  | .core k =>
    match (List.range 16).find? fun t => (s.part t).valid && (s.part t).req.getLsbD (k / 16) with
    | some t => (s.part t).mem
    | none => 0
  | .agent fn => if (s.part (s.partOf fn)).valid then (s.part (s.partOf fn)).mem else 0

/-- R361, R365: a device physical address outside the reserved ranges. -/
def paOk (pa : Nat) : Bool := inHbm pa || inBulk pa

/-- A stage-2 leaf: its rights, KIND, HI, the address of the 64 KiB page it gives, and its level. -/
structure Leaf2 where
  rd : Bool
  wr : Bool
  ex : Bool
  kind : Nat
  hi : Nat
  addr : Nat
deriving DecidableEq, Repr

/-- What one entry is (R363 to R365). -/
inductive Entry where
  | bad
  | table (addr : Nat)
  | leaf (e : Nat)
deriving DecidableEq, Repr

/-- R363, R365: the shift of a level's index, and whether the level may hold a leaf. -/
def levelShift (lvl : Nat) : Nat := if lvl = 0 then 48 else if lvl = 1 then 39 else if lvl = 2 then 30 else if lvl = 3 then 21 else 16
def levelIdx (x lvl : Nat) : Nat :=
  if lvl = 0 then x / 2 ^ 48 else if lvl = 4 then bits x 20 16 else (x / 2 ^ levelShift lvl) % 512

/-- R363, R365: reads a stage-1 entry. -/
def entry1 (e lvl : Nat) : Entry :=
  if !e.testBit 0 || bits e 63 52 ≠ 0 || bits e 7 5 ≠ 0 then .bad
  else if e.testBit 1 then
    if lvl < 2 || bits e 15 8 ≠ 0 || bits e 51 0 / 2 ^ 8 * 2 ^ 8 % 2 ^ levelShift lvl ≠ 0 then .bad else .leaf e
  else if lvl = 4 || bits e 4 2 ≠ 0 then .bad
  else .table (bits e 51 8 * 256)

/-- R364, R365: reads a stage-2 entry of a function. -/
def State.entry2 (s : State) (fn e lvl : Nat) : Entry :=
  if !e.testBit 0 then .bad
  else if e.testBit 1 then
    let addr := bits e 51 16 * 65536
    let kind := bits e 7 5
    let hi := bits e 63 52
    let badLeaf := decide (lvl < 2) || bits e 15 8 ≠ 0 || addr % 2 ^ levelShift lvl ≠ 0 ||
      (match kind with
       | 0 => hi ≠ 0 || !paOk addr
       | 1 => hi ≠ 0 || !paOk addr
       | 2 => false
       | 3 => addr ≠ 0 || decide (256 ≤ hi) || decide (bits (s.func fn).strtab.toNat 55 48 ≤ hi)
       | 4 => decide (lvl ≠ 4) || bits e 51 20 ≠ 0 || decide (64 ≤ hi) || decide (s.partOf hi ≠ s.partOf fn)
       | 5 => hi ≠ 0
       | _ => true)
    if badLeaf then .bad else .leaf e
  else if lvl = 4 || bits e 63 52 ≠ 0 || bits e 7 2 ≠ 0 || !paOk (bits e 51 8 * 256) then .bad
  else .table (bits e 51 8 * 256)

/-- R362, R364: walks stage 2 from a table at a level; the fuel is how many levels are left. -/
def State.walk2 (s : State) (fn ia : Nat) : Nat → Nat → Nat → Option Leaf2
  | 0, _, _ => none
  | n + 1, lvl, base =>
    let e := s.homeRead 0 (base + 8 * levelIdx ia lvl) 8
    match s.entry2 fn e lvl with
    | .bad => none
    | .table a => s.walk2 fn ia n (lvl + 1) a
    | .leaf e =>
      some { rd := e.testBit 2, wr := e.testBit 3, ex := e.testBit 4, kind := bits e 7 5, hi := bits e 63 52,
             addr := bits e 51 16 * 65536 +
               (if bits e 7 5 = 3 ∨ bits e 7 5 = 4 then 0 else (ia % 2 ^ levelShift lvl) / 65536 * 65536) +
               (if bits e 7 5 = 4 then bits e 19 16 else 0) }

/-- R371: the stage-2 lookup of an intermediate address; none for V = 0. For a notify leaf `addr` is the
number G, for a stripe set it is zero. -/
def State.lookup2 (s : State) (fn ia : Nat) : Option Leaf2 :=
  let root := (s.func fn).s2root
  if root.getLsbD 0 && decide (ia < 2 ^ 52) then
    (s.walk2 fn ia 5 0 (bits root.toNat 47 7 * 128)).map fun l => if l.kind = 4 then { l with addr := l.addr % 65536 } else l
  else none

/-- R303: the member slot and the offset at the member. -/
def stripe (c off : Nat) : Nat × Nat :=
  let b := off / 256
  let k := Nat.log2 c
  let slot := if c = 2 ^ k then (b ^^^ (b >>> k) ^^^ (b >>> (2 * k))) % c else b % c
  (slot, b / c * 256 + off % 256)

/-- R369: the home of an intermediate address through stripe-set entry `ssi`; none when it is malformed. -/
def State.stripeTarget (s : State) (fn ssi ia : Nat) : Option Target :=
  let base := bits (s.func fn).strtab.toNat 47 8 * 256 + 256 * ssi
  let q := fun o => s.homeRead 0 (base + o) 8
  let c := q 0 % 32
  let ibase := q 8
  let member := fun j => q (0x10 + 8 * j)
  let memberOk := (List.range 16).all fun j => if j < c then member j % 65536 = 0 else member j = 0
  let tail := (List.range 14).all fun j => q (0x90 + 8 * j) = 0
  if q 0 < 32 ∧ [2, 3, 4, 5, 7, 8, 11, 13, 16].contains c ∧ ibase < 2 ^ 52 ∧ ibase % 65536 = 0 ∧ ibase ≤ ia ∧ memberOk ∧ tail then
    let r := stripe c (ia - ibase)
    some (.peer (bits (member r.1) 63 52) (bits (member r.1) 51 16 * 65536 + r.2))
  else none

/-- R295, R364, R369: the target of an intermediate address under its leaf. -/
def State.targetOf (s : State) (fn : Nat) (l : Leaf2) (ia : Nat) : Option Target :=
  let off := ia % 65536
  match l.kind with
  | 0 => some (.dev (l.addr + off))
  | 1 => some (.dev (l.addr + off))
  | 2 => some (.peer l.hi (l.addr + off))
  | 3 => s.stripeTarget fn l.hi ia
  | 4 => some (.notify l.hi (16 * l.addr + off / 4096))
  | 5 => some (.host (l.addr + off))
  | _ => none

/-- R370: the requester may reach a gateway. -/
def gatewayOk (m : BitVec 48) : Bool := (List.range 6).any fun j => m.getLsbD (40 + j)

/-- R370: whether the requester's ports allow the target. A peer with no gateway port is not refused
here: its request reports 0x1D (R305). -/
def portAllows (m : BitVec 48) : Target → Bool
  | .dev pa => m.getLsbD (portOf pa)
  | .peer _ _ => true
  | .notify _ _ => m.getLsbD 46
  | .host _ => m.getLsbD 46
  | .scratch _ => true

def Rights.within (r : Rights) (rd wr ex : Bool) : Bool := (!r.rd || rd) && (!r.wr || wr) && (!r.ex || ex)

/-- R372: a cached stage-2 result for an intermediate page that grants the rights, unless the oracle has the page walked
anew (log 10). -/
def State.cachedIa (s : State) (fn ia : Nat) (acc : Rights) : Option Leaf2 :=
  if s.choice.testBit (192 + ia / 65536 % 64) then none
  else (s.tlb.find? fun e => e.ia && decide (e.fn = fn) && decide (e.page = ia / 65536) && acc.within e.rd2 e.wr2 e.ex2).map
    fun e => ⟨e.rd2, e.wr2, e.ex2, e.kind, e.hi, e.addr⟩

/-- R366 orders 5 and 6: stage 2 of an intermediate address for an access. -/
def State.translateIa (s : State) (q : Requester) (fn ia : Nat) (acc : Rights) : Except (BitVec 6) Target :=
  match (s.cachedIa fn ia acc).orElse fun _ => s.lookup2 fn ia with
  | none => .error 0x15
  | some l =>
    match s.targetOf fn l ia with
    | none => .error 0x15
    | some t =>
      if acc.within l.rd l.wr l.ex && portAllows (s.portMask q) t && (!acc.ex || decide (l.kind ≤ 1)) then .ok t else .error 0x16

/-- A stage-1 table entry, read as data of the function (R362); what one behind another target than local memory holds is a
free value of its place (log 6). -/
def State.readEntry1 (s : State) (fn : Nat) : Target → Nat
  | .dev pa => s.homeRead (s.keyOf fn) pa 8
  | .peer vdn ia => (Config.freeEntry (s.free * 2 ^ 66 + vdn * 2 ^ 53 + ia)).toNat
  | .host a => (Config.freeEntry (s.free * 2 ^ 66 + 2 ^ 65 + a)).toNat
  | _ => 0

/-- R370: a table entry behind a peer that the requester has no gateway to (log 6). -/
def State.noGateway (s : State) (q : Requester) : Target → Bool
  | .peer _ _ => !gatewayOk (s.portMask q)
  | _ => false

/-- R362, R366 orders 1 to 4: walks stage 1 from a table at a level. Answers the entry of the leaf and
its level. -/
def State.walk1 (s : State) (q : Requester) (fn va : Nat) : Nat → Nat → Nat → Except (BitVec 6) (Nat × Nat)
  | 0, _, _ => .error 0x13
  | n + 1, lvl, base =>
    match s.translateIa q fn (base + 8 * levelIdx va lvl) ⟨true, false, false⟩ with
    | .error c => .error c
    | .ok t =>
      if s.noGateway q t then .error 0x16
      else match entry1 (s.readEntry1 fn t) lvl with
      | .bad => .error 0x13
      | .table a => s.walk1 q fn va n (lvl + 1) a
      | .leaf e => .ok (e, lvl)

/-- R366: the translation of a virtual address by a fresh walk of both stages: the target and the cached
form of the result (R372). -/
def State.walk (s : State) (q : Requester) (fn va : Nat) (acc : Rights) : Except (BitVec 6) (Target × TlbEnt) :=
  let root := (s.func fn).s1root
  if !root.getLsbD 0 || decide (2 ^ 57 ≤ va) then .error 0x13
  else match s.walk1 q fn va 5 0 (bits root.toNat 51 12 * 4096) with
    | .error c => .error c
    | .ok (e, lvl) =>
      if !acc.within (e.testBit 2) (e.testBit 3) (e.testBit 4) then .error 0x14
      else
        let ia := bits e 51 16 * 65536 + va % 2 ^ levelShift lvl
        match s.translateIa q fn ia acc with
        | .error c => .error c
        | .ok t =>
          match s.lookup2 fn ia with
          | none => .error 0x15
          | some l =>
            .ok (t, { fn := fn, ia := false, page := va / 65536, ipage := ia / 65536, rd1 := e.testBit 2, wr1 := e.testBit 3,
                      ex1 := e.testBit 4, rd2 := l.rd, wr2 := l.wr, ex2 := l.ex, kind := l.kind, hi := l.hi, addr := l.addr })

/-- R372: a cached result for the page that grants the rights. -/
def State.cached (s : State) (fn va : Nat) (acc : Rights) : Option TlbEnt :=
  s.tlb.find? fun e => decide (e.fn = fn) && !e.ia && decide (e.page = va / 65536) &&
    acc.within (e.rd1 && e.rd2) (e.wr1 && e.wr2) (e.ex1 && e.ex2) && (!acc.ex || decide (e.kind ≤ 1))

/-- R366, R372: translates a virtual address. A cached result is used while one stands, unless the oracle has the page walked
anew (log 10). -/
def State.translate (s : State) (q : Requester) (fn va : Nat) (acc : Rights) : Except (BitVec 6) (Target × Option TlbEnt) :=
  match (if s.choice.testBit (128 + va / 65536 % 64) then none else s.cached fn va acc) with
  | some e =>
    match s.targetOf fn ⟨e.rd2, e.wr2, e.ex2, e.kind, e.hi, e.addr⟩ (e.ipage * 65536 + va % 65536) with
    | some t => if portAllows (s.portMask q) t then .ok (t, none) else .error 0x16
    | none => .error 0x15
  | none =>
    match s.walk q fn va acc with
    | .ok (t, e) => .ok (t, some e)
    | .error c => .error c

/-- R362, R364: the addresses of the stage-2 entries that a walk reads, from a table at a level. -/
def State.reads2 (s : State) (fn ia : Nat) : Nat → Nat → Nat → List Nat
  | 0, _, _ => []
  | n + 1, lvl, base =>
    let at0 := base + 8 * levelIdx ia lvl
    at0 :: (match s.entry2 fn (s.homeRead 0 at0 8) lvl with
      | .table a => s.reads2 fn ia n (lvl + 1) a
      | _ => [])
def State.lookReads (s : State) (fn ia : Nat) : List Nat :=
  let root := (s.func fn).s2root
  if root.getLsbD 0 && decide (ia < 2 ^ 52) then s.reads2 fn ia 5 0 (bits root.toNat 47 7 * 128) else []

/-- R362: what a walk of stage 1 reads from a table at a level: each stage-2 entry (false) and each entry of its own (true). -/
def State.reads1 (s : State) (q : Requester) (fn va : Nat) : Nat → Nat → Nat → List (Bool × Nat)
  | 0, _, _ => []
  | n + 1, lvl, base =>
    let at0 := base + 8 * levelIdx va lvl
    (s.lookReads fn at0).map (fun a => (false, a)) ++
    (match s.translateIa q fn at0 ⟨true, false, false⟩ with
     | .error _ => []
     | .ok t =>
       (match t with
        | .dev pa => [(true, pa)]
        | _ => []) ++
       (match entry1 (s.readEntry1 fn t) lvl with
        | .bad => []
        | .table a => s.reads1 q fn va n (lvl + 1) a
        | .leaf e => (s.lookReads fn (bits e 51 16 * 65536 + va % 2 ^ levelShift lvl)).map fun a => (false, a)))

/-- R381, R385: what the controllers count of a walk of both stages for a virtual address. -/
def State.noteWalk (s : State) (q : Requester) (fn va : Nat) : State :=
  let root := (s.func fn).s1root
  if root.getLsbD 0 && decide (va < 2 ^ 57) then
    (s.reads1 q fn va 5 0 (bits root.toNat 51 12 * 4096)).foldl (fun s r => (if r.1 then s.fnReadNote fn r.2 else s).countRow r.2) s
  else s

/-- R372: keeps a result, when it is not held yet. -/
def State.holdTlb (s : State) (e : TlbEnt) : State := if s.tlb.contains e then s else { s with tlb := s.tlb ++ [e] }

/-- R372: keeps a translation that succeeded, as a whole and as the stage-2 result of its intermediate page; its walk is counted. -/
def State.keepTlb (s : State) (q : Requester) : Option TlbEnt → State
  | none => s
  | some e => ((s.noteWalk q e.fn (65536 * e.page)).holdTlb e).holdTlb { e with ia := true, page := e.ipage, rd1 := true, wr1 := true, ex1 := true }

/-- R372: keeps the stage-2 result of an intermediate address that translates; its walk is counted. -/
def State.keepIa (s : State) (fn ia : Nat) : State :=
  match s.lookup2 fn ia with
  | none => s
  | some l =>
    ((s.lookReads fn ia).foldl State.countRow s).holdTlb
      { fn := fn, ia := true, page := ia / 65536, ipage := ia / 65536, rd1 := true, wr1 := true, ex1 := true, rd2 := l.rd, wr2 := l.wr, ex2 := l.ex,
        kind := l.kind, hi := l.hi, addr := l.addr }

/-- R434: the line at a device physical address holds an uncorrectable error. -/
def State.poisoned (s : State) (pa : Nat) : Bool := s.poison.contains (pa / 128 * 128)

/-- R381, R434: a read of a function there meets an uncorrectable error; one that is refused for its key reads zeros, and no
line. -/
def State.spoilt (s : State) (fn pa : Nat) : Bool := s.keyOk (s.keyOf fn) pa && s.poisoned pa

/-- R80: the function through whose stages a gang fetches. -/
def Gang.fetchFn (g : Gang) : Nat := if g.level = 2 then 0 else g.fn

/-- R81: the launch of a gang. Its key is less than `nextId` from its dispatch on, and no less before. -/
def State.launchOf (s : State) (g : Gang) : Nat := ((s.group? g.group).map (·.launch)).getD 0

/-- R81: the word at an address as a gang fetches it: what stands there or, by the oracle's choice for the word, what stood
there before a write made after the launch `lk` was dispatched (log 10). -/
def State.fetched (s : State) (fn pa lk : Nat) : Word :=
  let n := s.choice / 2 ^ (32 + 4 * (pa / 4 % 16)) % 16
  let old := if s.keyOk (s.keyOf fn) pa && s.blockValid pa then (Cells.getD s.past (pa / 4) []).filter fun p => decide (lk < p.1) else []
  match (if n = 0 then none else old[n - 1]?) with
  | some p => p.2
  | none => BitVec.ofNat 32 (s.homeRead (s.keyOf fn) pa 4)

/-- R80: fetches one instruction word for a gang of a launch; a failure gives its cause. -/
def State.fetchWord (s : State) (k fn lk va : Nat) : Except (BitVec 6) (Word × Option TlbEnt) :=
  match s.translate (.core k) fn va ⟨false, false, true⟩ with
  | .error c => .error c
  | .ok (.dev pa, e) => if s.spoilt fn pa then .error 0x1B else .ok (s.fetched fn pa lk, e)
  | .ok (_, _) => .error 0x16

/-! Fragments, pipes and traps. -/

/-- R14: an instruction address from its bits [56:2]. -/
def pcAddr (p : PcWord) : Nat := 4 * p.toNat
def toPc (a : Nat) : PcWord := BitVec.ofNat 55 (a / 4)

/-- R16: the slice set, bit j for slice j. -/
def slicesOf (m : Mask) : BitVec 8 :=
  BitVec.ofNat 8 ((List.range 8).foldl (fun a j => if m.extractLsb' (4 * j) 4 ≠ 0 then a + 2 ^ j else a) 0)
/-- The lanes of a mask in increasing order. -/
def lanesOf (m : Mask) : List Nat := (List.range 32).filter fun i => m.getLsbD i
/-- The mask of the lanes that a test selects. -/
def maskOf (p : Nat → Bool) : Mask := BitVec.ofNat 32 ((List.range 32).foldl (fun a i => if p i then a + 2 ^ i else a) 0)
/-- The lowest lane of a mask. -/
def lowest (m : Mask) : Nat := (lanesOf m).headD 0

def Gang.frag? (g : Gang) (fid : Nat) : Option Frag := g.frags.find? fun f => decide (f.fid = fid)
def Gang.modFrag (g : Gang) (fid : Nat) (h : Frag → Frag) : Gang :=
  { g with frags := g.frags.map fun f => if f.fid = fid then h f else f }
/-- R15: GANGMASK, the lanes that have not exited. -/
def Gang.mask (g : Gang) : Mask := g.frags.foldl (fun m f => m ||| f.mask) 0
/-- R146: whether a fragment is at its join. -/
def Frag.atJoin (f : Frag) : Bool := f.jv && f.join == f.pc

/-- R288: a trap, a halt or a restore clears the selection counters of a gang. -/
def Gang.clearWait (g : Gang) : Gang :=
  { g with gwait := 0, frags := g.frags.map fun f => { f with defer := 0, urg := none } }

/-- R31, R301: the rings of a gang on its core are lost, and a reservation of its goes. -/
def Core.loseRings (c : Core) (sl : Nat) : Core :=
  { c with resv := c.resv.filter fun r => decide (r.slot ≠ sl), pipes := c.pipes.map fun p => if p.2.slot = sl then (p.1, { p.2 with depth := 0, ents := [] }) else p }

/-- R31, R93, R241: the rings of a gang's other fragments are lost with that of fragment `fid`. -/
def Gang.loseChains (g : Gang) (fid : Nat) : Gang :=
  { g with frags := g.frags.map fun f => if f.fid = fid then f else { f with lost := true } }

/-- R243: queues a deferred report of a gang. -/
def Gang.report (g : Gang) (cause : BitVec 6) (value : Nat) : Gang :=
  if cause = 0x31 then { g with canc := some (BitVec.ofNat 2 value) }
  else if 8 ≤ g.defq.length then { g with lost := true }
  else { g with defq := g.defq ++ [⟨cause, BitVec.ofNat 64 value⟩] }
/-- R243, R255: reports to the gang of a slot, when the slot's generation is still the reporter's. -/
def State.report (s : State) (k sl gen : Nat) (cause : BitVec 6) (value : Nat) : State :=
  if s.gen k sl = gen then s.modGang k sl fun g => g.report cause value else s

/-- R236, R237: the level a cause goes to from level 0. -/
def route (deleg : Quad) (cause : BitVec 6) : Nat :=
  if cause = 0x35 ∨ cause = 0x36 ∨ cause = 0x37 ∨ cause = 0x3F then 2
  else if deleg.getLsbD cause.toNat then 1 else 2

/-- R238 PEND: deferred reports or parked causes wait. -/
def Gang.pending (g : Gang) : Bool := !g.defq.isEmpty || g.canc.isSome || g.olog.any fun p => !p.taken

/-- R238, R240: a status word at trap entry. `lost` is the bit as it stood or is set. -/
def statusWord (xofs kind plvl : Nat) (canc lost pend : Bool) : Word :=
  BitVec.ofNat 32 ((if kind = 0 then min xofs 65535 else 0) * 2 ^ 16 + (if canc then 2 ^ 14 else 0) + (if lost then 2 ^ 12 else 0) +
    (if pend then 2 ^ 11 else 0) + kind * 2 ^ 8 + plvl * 2 ^ 4)

/-- R240: the trap registers of the entered level. -/
def TrapRegs.enter (t : TrapRegs) (cause : BitVec 6) (epc value xofs kind plvl : Nat) (lost pend : Bool) : TrapRegs :=
  { t with cause := cause.setWidth 32, epc := BitVec.ofNat 64 epc, tval := BitVec.ofNat 64 value,
           status := statusWord xofs kind plvl (cause == 0x31) (t.status.getLsbD 12 || lost) pend }

/-- R239: the routine entry of a vector register. -/
def vecEntry (v : Quad) : Nat := bits v.toNat 56 2 * 4

/-- R245: a cause at level 2 stops the gang. -/
def State.stopGang (s : State) (k sl : Nat) (g : Gang) (cause : BitVec 6) (value : Nat) : State :=
  ((s.setGang k sl { g with stopped := true }).logStop g.fn k sl cause.toNat value).raiseEvt 0 3

/-- R236, R240, R243: fragment `fid` of the gang takes a cause, with the return address, the value, the
offset XOFS and KIND given. -/
def State.trap (s : State) (k sl fid : Nat) (cause : BitVec 6) (value epc xofs kind : Nat) (lost : Bool := false) : State :=
  match s.gang? k sl with
  | none => s
  | some g =>
    if g.level = 2 then s.stopGang k sl g cause value
    else
      let lvl := if g.level = 0 then route (s.func g.fn).deleg cause else 2
      let entry := toPc (vecEntry (if lvl = 1 then (s.func g.fn).gtvec else s.dtvec))
      let g1 := (g.clearWait.loseChains fid).modFrag fid fun f =>
        { f with pc := entry, chead := entry, wait := .run, chainRd := [], chainX := false, lost := false }
      let g2 := { g1 with level := lvl, sysFid := if g.level = 0 then fid else g.sysFid, entry1 := decide (lvl = 1),
                          t1 := if lvl = 1 then g.t1.enter cause epc value xofs kind 0 lost g.pending else g.t1,
                          t2 := if lvl = 2 then g.t2.enter cause epc value xofs kind g.level lost g.pending else g.t2 }
      (s.setGang k sl g2).modCore k fun c => c.loseRings sl

/-- R81, R93: the return address of a synchronous cause: CHEAD, which an instruction that reads no latch
has made its own address (R91). -/
def State.trapSync (s : State) (k sl : Nat) (f : Frag) (latch : Bool) (cause : BitVec 6) (value : Nat) : State :=
  let head := if latch then pcAddr f.chead else pcAddr f.pc
  s.trap k sl f.fid cause value head ((pcAddr f.pc - head) / 4) 0

/-- R240: a cause of an instruction's fetch. The entry of the level-1 routine has its own cause. -/
def State.trapFetch (s : State) (k sl : Nat) (g : Gang) (f : Frag) (cause : BitVec 6) (va : Nat) : State :=
  if g.level = 1 && g.entry1 then s.trap k sl f.fid 0x3F 0x02 (pcAddr f.chead) ((pcAddr f.pc - pcAddr f.chead) / 4) 0
  else s.trap k sl f.fid cause va (pcAddr f.chead) ((pcAddr f.pc - pcAddr f.chead) / 4) 0

end Sys2Proof.Machine
end

