-- ==== Sys2Proof/Machine/Operands.lean ====
section
/-! DEFINITION. Operands: reading every operand code at every width (R13, R17 to R30, R86), writing every
destination (R22, R24, R25, R30), and the register sets that R92 and R260 speak of. -/
namespace Sys2Proof.Machine

/-- The index of a lane's (or slice's) copy of register r. -/
def regKey (r lane : Nat) : Nat := 32 * r + lane
def Gang.vReg (g : Gang) (r lane : Nat) : Word := Cells.getD g.v (regKey r lane) 0
def Gang.kReg (g : Gang) (r lane : Nat) : Word := Cells.getD g.k (regKey r lane) 0
def Gang.sReg (g : Gang) (r slice : Nat) : Word := Cells.getD g.s (regKey r slice) 0
def Gang.xReg (g : Gang) (r lane : Nat) : Word := Cells.getD g.x (regKey r lane) 0
/-- R24: p0 reads as ones. -/
def Gang.pReg (g : Gang) (n : Nat) : Mask := if n = 0 then BitVec.allOnes 32 else Cells.getD g.p n 0
def Gang.bReg (g : Gang) (n : Nat) : Galley := Cells.getD g.b n 0

def Gang.setV (g : Gang) (r lane : Nat) (w : Word) : Gang := { g with v := Cells.set 0 g.v (regKey r lane) w }
def Gang.setK (g : Gang) (r lane : Nat) (w : Word) : Gang := { g with k := Cells.set 0 g.k (regKey r lane) w }
def Gang.setS (g : Gang) (r slice : Nat) (w : Word) : Gang := { g with s := Cells.set 0 g.s (regKey r slice) w }
/-- R26: bits [31:24] of an index register stay zero. -/
def Gang.setX (g : Gang) (r lane : Nat) (w : Word) : Gang := { g with x := Cells.set 0 g.x (regKey r lane) (w &&& 0x00FFFFFF#32) }
/-- R24: a write to p0 is discarded. -/
def Gang.setP (g : Gang) (n : Nat) (m : Mask) : Gang := if n = 0 then g else { g with p := Cells.set 0 g.p n m }
def Gang.setB (g : Gang) (n : Nat) (w : Galley) : Gang := { g with b := Cells.set 0 g.b n w }

/-- Joins n words, the first lowest (R4, R21). -/
def joinWords (rd : Nat → Word) : Nat → Nat → Nat
  | _, 0 => 0
  | r, n + 1 => (rd r).toNat + 2 ^ 32 * joinWords rd (r + 1) n

/-- R26, R27: the fields of a lane's index register. -/
structure IndexReg where
  count : Nat
  base : Nat
  index : Nat
deriving DecidableEq, Repr

def Gang.index (g : Gang) (n lane : Nat) : IndexReg :=
  let w := (g.xReg n lane).toNat
  ⟨bits w 23 16, bits w 15 8, bits w 7 0⟩

/-- R27: the vector register an indexed code names in a lane. -/
def Gang.effective (g : Gang) (c : BitVec 8) (lane : Nat) : Nat :=
  let i := g.index (c.toNat - 0xB4) lane
  i.base + i.index

/-- What an instruction issues with: the state, the place, the gang and the fragment as they stand, the
lanes in ACTIVE, and the function and words. -/
structure Ctx where
  st : State
  k : Nat
  sl : Nat
  g : Gang
  f : Frag
  active : Mask
deriving DecidableEq, Repr

/-- R24: the lanes in ACTIVE under a guard. -/
def guardMask (g : Gang) (f : Frag) (l : Long) : Mask :=
  let p := g.pReg l.pg.toNat
  f.mask &&& (if l.pn then ~~~p else p)

/-- The context of the fragment that issues. -/
def State.ctx (s : State) (l : Long) : Option Ctx :=
  match s.gang? s.cur.core s.cur.slot with
  | none => none
  | some g =>
    match g.frag? s.cur.fid with
    | none => none
    | some f => some { st := s, k := s.cur.core, sl := s.cur.slot, g := g, f := f, active := guardMask g f l }

/-- R30: entry l of a lane's ring. An entry that nothing has pushed since the ring was lost is a free
value (log 5). -/
def Ctx.latch (c : Ctx) (n lane : Nat) : Nat :=
  match Cells.find? (c.st.core c.k).pipes (lane / 4) with
  | some p =>
    if p.slot = c.sl && p.fid = c.f.fid && decide (n < p.depth) then (((p.ents.getD n []).getD (lane % 4) 0)).toNat
    else (Config.freeLatch (128 * c.st.free + 4 * lane + n)).toNat
  | none => (Config.freeLatch (128 * c.st.free + 4 * lane + n)).toNat

/-- R17, R86: the value of a source code for a lane, at a width of 32, 64 or 128 bits. -/
def Ctx.src (c : Ctx) (lit : Option (BitVec 64)) (code : BitVec 8) (w lane : Nat) : Nat :=
  let n := w / 32
  if isV code then joinWords (fun r => c.g.vReg r lane) code.toNat n
  else if isK code then joinWords (fun r => c.g.kReg r lane) (code.toNat - 0xB0) n
  else if isIx code then joinWords (fun r => c.g.vReg r lane) (c.g.effective code lane) n
  else if isS code then joinWords (fun r => c.g.sReg r (lane / 4)) (code.toNat - 0xC0) n
  else if isL code then c.latch (code.toNat - 0xE0) lane % 2 ^ w
  else if code = 0xBD then lane
  else if code = 0xBE then lane / 4
  else if isLit code then (lit.getD 0).toNat % 2 ^ w
  else 0

/-- R86: the lane mask of a mask operand; ZERO reads as 0. -/
def Ctx.mask (c : Ctx) (code : BitVec 8) : Mask := if isP code then c.g.pReg (code.toNat - 0xE4) else 0

/-- The lanes in ACTIVE. -/
def Ctx.lanes (c : Ctx) : List Nat := lanesOf c.active

/-- R4, R21: writes the n words of a value from register r on. -/
def putWords (wr : Gang → Nat → Word → Gang) (g : Gang) (r : Nat) : Nat → Nat → Gang
  | 0, _ => g
  | n + 1, v => putWords wr (wr g r (BitVec.ofNat 32 v)) (r + 1) n (v / 2 ^ 32)

/-- R17, R22, R25: writes one lane's value of w bits to a v, k or v[xn] destination, and for an s
destination writes the lane's slice. -/
def Gang.putLane (g : Gang) (code : BitVec 8) (w lane v : Nat) : Gang :=
  let n := w / 32
  if isV code then putWords (fun g r x => g.setV r lane x) g code.toNat n v
  else if isK code then putWords (fun g r x => g.setK r lane x) g (code.toNat - 0xB0) n v
  else if isIx code then putWords (fun g r x => g.setV r lane x) g (g.effective code lane) n v
  else if isS code then putWords (fun g r x => g.setS r (lane / 4) x) g (code.toNat - 0xC0) n v
  else g

/-- R22: the lanes whose values an s destination takes: the lowest ACTIVE lane of each slice. -/
def sliceLeaders (active : Mask) : List Nat :=
  (lanesOf active).filter fun i => (lanesOf active).find? (fun j => decide (j / 4 = i / 4)) == some i

/-- R22, R25: writes a destination of w bits from each ACTIVE lane's value; a p code takes bit 0. -/
def Gang.putAll (g : Gang) (code : BitVec 8) (w : Nat) (active : Mask) (v : Nat → Nat) : Gang :=
  if isP code then
    let n := code.toNat - 0xE4
    g.setP n ((g.pReg n &&& ~~~active) ||| (active &&& maskOf fun i => (v i).testBit 0))
  else
    (if isS code then sliceLeaders active else lanesOf active).foldl (fun g i => g.putLane code w i (v i)) g

/-- R31: the pipes of the fragment's slices pass to it; another's ring there is lost. -/
def Core.claim (c : Core) (sl fid : Nat) (ss : BitVec 8) : Core :=
  { c with pipes := (List.range 8).foldl (fun ps j =>
      if ss.getLsbD j then
        match Cells.find? ps j with
        | some p => if p.slot = sl && p.fid = fid then ps else Cells.put ps j ⟨sl, fid, 0, []⟩
        | none => Cells.put ps j ⟨sl, fid, 0, []⟩
      else ps) c.pipes }

/-- R30: pushes the rings of the fragment's slices. `v` gives an ACTIVE lane's result. -/
def Core.push (c : Core) (sl fid : Nat) (ss : BitVec 8) (active : Mask) (v : Nat → Nat) : Core :=
  { c with pipes := (List.range 8).foldl (fun ps j =>
      if ss.getLsbD j then
        let e := (List.range 4).map fun i => if active.getLsbD (4 * j + i) then BitVec.ofNat 64 (v (4 * j + i)) else 0#64
        match Cells.find? ps j with
        | some p => Cells.put ps j ⟨sl, fid, min 4 (p.depth + 1), (e :: p.ents).take 4⟩
        | none => Cells.put ps j ⟨sl, fid, 1, [e]⟩
      else ps) c.pipes }

/-- How many registers a position covers from its code on. -/
def Kind.regs : Kind → Nat
  | .src w => w / 32
  | .dst w => w / 32
  | .dstP w => w / 32
  | .pdst => 1
  | .mask _ => 1
  | .target => 2
  | .link => 2
  | .wide => 8
  | .window => 4
  | .run r _ => r

/-- The register ids of a use (log 13): operand codes for v, k and s, and for an indexed operand the
index register, the whole range of every lane of the fragment, and what the operand covers there (R92). -/
def Ctx.useIds (c : Ctx) (u : Use) : List Nat :=
  let n := u.kind.regs
  if isP u.code then [pid (u.code.toNat - 0xE4)]
  else if isIx u.code then
    (lanesOf c.f.mask).flatMap fun i =>
      let x := c.g.index (u.code.toNat - 0xB4) i
      ((List.range x.count).map (fun j => x.base + j) ++
        if 1 < n then (List.range n).map fun j => c.g.effective u.code i + j else []).filter fun r => decide (r < 0xB0)
  else if isV u.code || isK u.code || isS u.code then (List.range n).map fun j => u.code.toNat + j
  else []

/-- Whether a position writes, and whether it reads. -/
def Kind.writes : Kind → Bool
  | .dst _ | .dstP _ | .pdst | .link | .window | .run _ _ => true
  | _ => false
def Kind.reads : Kind → Bool
  | .src _ | .mask _ | .target | .window => true
  | _ => false

/-- R92: the registers an instruction reads: its sources, its index registers, its guard. A guard of PG 0
and PN 0 guards nothing (R24) and names no register. -/
def Ctx.readIds (c : Ctx) (i : Instr) : List Nat :=
  let l := Instr.long i
  let sh := Instr.shape i
  (if l.pg = 0 && !l.pn then [] else [pid l.pg.toNat]) ++ sh.xr ++
    sh.uses.flatMap fun u => (if u.kind.reads then c.useIds u else []) ++ (if isIx u.code then [xid (u.code.toNat - 0xB4)] else [])

/-- R92: the registers an instruction writes; with NWB set, none. The eight registers of a wide position
count as `wideD` says which of them is the destination. -/
def Ctx.writeIds (c : Ctx) (i : Instr) : List Nat :=
  let sh := Instr.shape i
  if (Instr.long i).nwb then []
  else sh.xw ++ sh.uses.flatMap fun u => if u.kind.writes then c.useIds u else []

/-- R178: an `.mcas` names three wide positions, the first its destination. -/
def Ctx.wideIds (c : Ctx) (i : Instr) : List Nat × List Nat :=
  let ws := (Instr.shape i).uses.filter fun u => u.kind == Kind.wide
  match ws with
  | d :: t => (t.flatMap c.useIds, c.useIds d)
  | [] => ([], [])

def Ctx.allReads (c : Ctx) (i : Instr) : List Nat := c.readIds i ++ (c.wideIds i).1
def Ctx.allWrites (c : Ctx) (i : Instr) : List Nat := c.writeIds i ++ (c.wideIds i).2

/-- R30: the instruction reads a latch. -/
def readsLatch (i : Instr) : Bool := (Instr.shape i).uses.any fun u => isL u.code

/-- R131: an XACC, or an XCVT with DIR 0 or FMT 1110. -/
def contributes (i : Instr) : Bool :=
  match i with
  | .xacc _ => true
  | .xcvtTo _ => true
  | .xcvtFrom f => decide (fmtN f = 14)
  | _ => false

/-- R19: an operand names k0 to k3 or s28 to s31. -/
def privOperand (u : Use) : Bool :=
  isK u.code || (isS u.code && decide (0xDC < u.code.toNat + u.kind.regs))

/-- R20, R21: an operand names a vector register at or above N. -/
def allocBad (n : Nat) (u : Use) : Bool := isV u.code && decide (n < u.code.toNat + u.kind.regs)

/-- R21, R27: the alignment of a multi-register operand. -/
def Kind.align : Kind → Nat
  | .run _ step => step
  | k => k.regs

/-- R27: an indexed operand fails in a lane. -/
def indexBad (g : Gang) (n : Nat) (u : Use) (lane : Nat) : Bool :=
  let x := g.index (u.code.toNat - 0xB4) lane
  let e := x.base + x.index
  decide (x.count ≤ x.index) || decide (n < x.base + x.count) || decide (e % u.kind.align ≠ 0) || decide (n < e + u.kind.regs)

/-- R94: the value reported with orders 4 to 9. -/
def State.reportWords (s : State) (i : Instr) : Nat := s.cur.w0.toNat + (if Instr.isShort i then 0 else s.cur.w1.toNat * 2 ^ 32)

/-- R251: a BLK that the gang does not have. -/
def Ctx.blockBad (c : Ctx) (i : Instr) : Bool :=
  match i with
  | .ctxs f | .ctxr f => decide (subF f 2 0 = 0) && decide (c.g.nblk ≤ immF f 3 0)
  | _ => false

/-- R94, orders 7 to 10: the first cause and its value. Of several indexed operands that fail at order 10 the first of
D, A, B, C is reported (log 72). -/
def Ctx.operandCause (c : Ctx) (i : Instr) : Option (BitVec 6 × Nat) :=
  let sh := Instr.shape i
  let words := c.st.reportWords i
  let n := 16 * c.g.nblk
  if (c.g.level = 0 && sh.uses.any privOperand) || decide (c.g.level < sh.level) then some (0x0B, words)
  else if readsLatch i && (c.f.chead == c.f.pc || c.f.chainX || (c.allWrites i).any fun r => c.f.chainRd.contains r) then some (0x07, words)
  else if sh.uses.any (allocBad n) || c.blockBad i then some (0x05, words)
  else
    let bad := sh.uses.filter fun u => isIx u.code && c.lanes.any (indexBad c.g n u)
    match bad with
    | u :: _ => some (0x06, (maskOf fun i => c.active.getLsbD i && indexBad c.g n u i).toNat + (u.code.toNat - 0xB4) * 2 ^ 32)
    | [] => none

end Sys2Proof.Machine
end

