-- ==== Sys2Proof/Machine/Flags.lean ====
section
/-! DEFINITION. MODE (R34, R35), the rounding and saturation an instruction takes from its fields and MODE
(R40, R44, R46, R49), and flags and their traps (R50, R51). -/
namespace Sys2Proof.Machine

/-- R34: a value as MODE stores it: reserved bits zero, RND other than 001 to 101 as 001. -/
def modeStored (w : Word) : Word :=
  let r := w.toNat % 8
  BitVec.ofNat 32 (w.toNat % 2 ^ 21 / 8 * 8 + (if 1 ≤ r ∧ r ≤ 5 then r else 1))

def modeRnd (m : Word) : Nat := m.toNat % 8
def modeSatd (m : Word) : Bool := m.getLsbD 5
def modeTrapen (m : Word) : Flags := m.extractLsb' 11 5
def modeRacew (m : Word) : Bool := m.getLsbD 16
def modeCredt (m : Word) : Bool := m.getLsbD 17
def modeGovt (m : Word) : Bool := m.getLsbD 18
def modeStep (m : Word) : Bool := m.getLsbD 19
def modeOobz (m : Word) : Bool := m.getLsbD 20
def modeFlags (m : Word) : Flags := m.extractLsb' 6 5
/-- R35, R50: ORs flags into MODE.FLAGS. -/
def modeOr (m : Word) (f : Flags) : Word := m ||| (f.setWidth 32 <<< 6)

/-- R240: above level 0, TRAPEN, GOVT, CREDT, RACEW and STEP act as zero. -/
def Gang.trapen (g : Gang) : Flags := if g.level = 0 then modeTrapen g.mode else 0
def Gang.govt (g : Gang) : Bool := g.level = 0 && modeGovt g.mode
def Gang.credt (g : Gang) : Bool := g.level = 0 && modeCredt g.mode
def Gang.racew (g : Gang) : Bool := g.level = 0 && modeRacew g.mode
def Gang.stepping (g : Gang) : Bool := g.level = 0 && modeStep g.mode

/-- R35, R50: the gang with flags raised in a cycle. -/
def Gang.raise (g : Gang) (cycle : Nat) (f : Flags) : Gang :=
  { g with mode := modeOr g.mode f, newFl := if g.newFlAt = cycle then g.newFl ||| f else f, newFlAt := cycle }

/-- R40: saturation from SAT, and in the short form from MODE.SATD. -/
def satOf (g : Gang) (i : Instr) : Bool := if Instr.isShort i then modeSatd g.mode else (Instr.long i).sat
/-- R44: RND 000 is MODE.RND. -/
def rndOf (g : Gang) (i : Instr) : Nat := if (Instr.long i).rnd = 0 then modeRnd g.mode else (Instr.long i).rnd.toNat

/-- R46: the random bits of result j of n. -/
def randBits (c n j : Nat) : Nat := ((c >>> (32 / n * j)) % 2 ^ (32 / n)) * 2 ^ (32 - 32 / n)

/-- R51: the cause of the first flag in the order NV, DZ, OF, UF, NX. -/
def flagCause (f : Flags) : Option (BitVec 6 × Flags) :=
  if f.getLsbD 4 then some (0x20, Flags.nv)
  else if f.getLsbD 3 then some (0x21, Flags.dz)
  else if f.getLsbD 2 then some (0x22, Flags.ovf)
  else if f.getLsbD 1 then some (0x23, Flags.unf)
  else if f.getLsbD 0 then some (0x24, Flags.nx)
  else none

/-- R50: the union of the lanes' flags. -/
def unionFlags (lanes : List Nat) (fl : Nat → Flags) : Flags := lanes.foldl (fun a i => a ||| fl i) 0

/-- R51: the flag trap of an instruction, with the mask of the lanes that raised the flag. `whole` is the
mask reported by an instruction whose flags belong to all its lanes (R137). -/
def flagTrap (trapen : Flags) (lanes : List Nat) (fl : Nat → Flags) (whole : Option Mask := none) : Option (BitVec 6 × Nat) :=
  match flagCause (unionFlags lanes fl &&& trapen) with
  | none => none
  | some (cause, bit) =>
    let m := match whole with
      | some m => m
      | none => maskOf fun i => lanes.contains i && (fl i &&& bit != 0)
    some (cause, m.toNat)

end Sys2Proof.Machine
end

