-- ==== Sys2Proof/Machine/Addr.lean ====
section
/-! DEFINITION. The addresses a memory instruction forms: buffer records (R28, R159, R160, R297), scratchpad
addresses (R170), the checks of order 11, the watchpoint (R416) and the line requests (R299). -/
namespace Sys2Proof.Machine

/-- R28: the fields of a buffer record. -/
structure BufRec where
  swz : Nat
  stride : Nat
  extent : Nat
  pxmt : Bool
  ronly : Bool
  qos : Nat
  cpol : Nat
  base : Nat
deriving DecidableEq, Repr

def bufRec (w : Galley) : BufRec :=
  let n := w.toNat
  { swz := bits n 123 120, stride := bits n 119 104, extent := bits n 103 64, pxmt := n.testBit 62, ronly := n.testBit 61,
    qos := bits n 60 59, cpol := bits n 58 57, base := bits n 56 0 }

/-- R29: a buffer record with a reserved bit set. -/
def bufReserved (w : Galley) : Bool := bits w.toNat 127 124 ≠ 0 || w.getLsbD 63

/-- R297: the swizzle. -/
def swizzle (swz va : Nat) : Nat :=
  let r := match swz with
    | 1 => bits va 9 7
    | 2 => bits va 10 8
    | 3 => bits va 11 9
    | _ => 0
  va - bits va 6 4 * 16 + (bits va 6 4 + r) % 8 * 16

/-- R156: BUF. -/
def bufNo (f : Long) : Nat := immF f 31 28
/-- R156: OFS of layouts M and S. -/
def ofsM (f : Long) : Int := sext (immN f) 22
/-- R156: OFS16 of layout W, in bytes. -/
def ofsW (f : Long) : Int := 16 * (immF f 21 16 : Nat)

/-- The bytes of a datum in memory (R165, R166, R172). -/
def fmtBytes (fmt : Nat) : Nat :=
  if fmt = 6 ∨ fmt = 7 then 1 else if fmt = 4 ∨ fmt = 5 then 2 else if fmt = 2 ∨ fmt = 3 ∨ fmt = 9 then 8 else if fmt = 14 then 16 else 4

/-- What a memory instruction does (R155): its kind, and for each kind what follows from it. -/
inductive MemKind where
  | load
  | store
  | atomic
  | reduction
  | cstr
  | ldbr
  | nmx
  | pref
deriving DecidableEq, Repr

/-- A memory instruction: global or scratchpad, its kind. -/
def memKind : Instr → Option (Bool × MemKind)
  | .ld _ => some (true, .load)
  | .st _ => some (true, .store)
  | .lds _ => some (false, .load)
  | .sts _ => some (false, .store)
  | .atom _ => some (true, .atomic)
  | .red _ => some (true, .reduction)
  | .atoms _ => some (false, .atomic)
  | .cstr _ => some (true, .cstr)
  | .ldbrM _ => some (true, .ldbr)
  | .nmx _ => some (true, .nmx)
  | .pref _ => some (true, .pref)
  | _ => none

/-- The bytes each lane accesses (R159). -/
def accSize (k : MemKind) (f : Long) : Nat :=
  match k with
  | .load | .store | .cstr => fmtBytes (fmtN f)
  | .atomic | .reduction => if subN f = 8 then 16 else fmtBytes (fmtN f)
  | .ldbr => 16
  | .nmx => match subF f 2 0 with
    | 0 => 32
    | 2 => 8
    | _ => 16
  | .pref => 1

/-- R156: layout W: `.wadd` of an atomic, and NMX. -/
def layoutW (k : MemKind) (f : Long) : Bool :=
  match k with
  | .atomic | .reduction => subN f = 8
  | .nmx => true
  | _ => false
def accOfs (k : MemKind) (f : Long) : Int := if layoutW k f then ofsW f else ofsM f
/-- R179: FOFF of `.chase`, added to the location that is checked. -/
def accExtra (k : MemKind) (f : Long) : Nat := if k = .nmx ∧ subF f 2 0 = 2 then immF f 15 0 else 0

/-- Whether the kind reads and whether it writes (R366, R416). -/
def accRead (k : MemKind) : Bool := match k with | .load | .atomic | .ldbr | .nmx | .reduction => true | _ => false
def accWrite (k : MemKind) (f : Long) : Bool :=
  match k with
  | .store | .cstr | .atomic | .reduction => true
  | .nmx => subF f 2 0 ≠ 2
  | _ => false
/-- R366: the rights it needs. -/
def accRights (k : MemKind) (f : Long) : Rights := ⟨accRead k, accWrite k f, false⟩

/-- R159, R168: the lanes that make an access: for LDBR the lowest lane in ACTIVE. -/
def accLanes (k : MemKind) (active : Mask) : List Nat := if k = .ldbr then (lanesOf active).take 1 else lanesOf active

/-- R159, R167: the index of each lane; for CSTR base + rank. -/
def accIndex (c : Ctx) (k : MemKind) (f : Long) (lane : Nat) : Nat :=
  if k = .cstr then c.src f.lit f.a 32 (lowest c.active) + ((lanesOf c.active).filter (· < lane)).length
  else c.src f.lit f.a 32 lane

/-- The width in bits of the B, C and D operands of a memory instruction. -/
def dataWidth (k : MemKind) (f : Long) : Nat :=
  match k with
  | .nmx => match subF f 2 0 with
    | 0 => 256
    | 1 => 64
    | 3 => fmtWidth f.fmt
    | _ => 0
  | .pref | .ldbr => 0
  | _ => fmtWidth f.fmt

/-- A 256-bit or narrower operand of a lane. -/
def Ctx.data (c : Ctx) (f : Long) (code : BitVec 8) (w lane : Nat) : Nat :=
  if w = 0 then 0
  else if w = 256 then joinWords (fun r => c.g.vReg r lane) code.toNat 8
  else c.src f.lit code w lane

/-- R92, R260: the lowest register id a lane's destination names. -/
def Ctx.dstId (c : Ctx) (code : BitVec 8) (lane : Nat) : Nat := if isIx code then c.g.effective code lane else code.toNat

/-- What R159 makes of the lanes: those that access memory, and those that R160 drops. -/
structure Accs where
  lanes : List LaneAcc
  dropped : List Nat
deriving DecidableEq, Repr

/-- R159, R160: the accesses of a global memory instruction, or the first cause of order 11. -/
def globalAccs (c : Ctx) (k : MemKind) (f : Long) : Except (BitVec 6 × Nat) Accs :=
  let b := bufRec (c.g.bReg (bufNo f))
  let size := accSize k f
  let x := accExtra k f
  let lanes := accLanes k c.active
  let e := fun i => ((accIndex c k f i * b.stride : Nat) : Int) + accOfs k f
  let inb := fun i => decide (0 ≤ e i) && decide (e i + (x : Int) + size ≤ b.extent)
  let va := fun i => swizzle b.swz (b.base + (e i).toNat + x)
  let out := lanes.filter fun i => !inb i
  let acc := lanes.filter inb
  let mis := acc.filter fun i => va i % size ≠ 0 ∨ x % 8 ≠ 0
  let m := fun (l : List Nat) => (maskOf fun i => l.contains i).toNat
  if lanes.isEmpty then .ok ⟨[], []⟩
  else if 2 ^ 57 < b.base + b.extent ∨ 3 < b.swz then .error (0x11, bufNo f)
  else if b.ronly && accWrite k f then .error (0x14, bufNo f)
  else if !out.isEmpty && !modeOobz c.g.mode then .error (0x10, m out)
  else if !mis.isEmpty then .error (0x12, m mis)
  else
    let w := dataWidth k f
    .ok { dropped := out,
          lanes := acc.map fun i => { lane := i, addr := va i, off := (e i).toNat, dst := c.dstId f.d i,
                                      data := c.data f f.b w i, data2 := c.data f f.c w i } }

/-- R299: the line requests: the accesses by line, lines in increasing order; NMX sends one per lane. -/
def byLine (perLane : Bool) (l : List LaneAcc) : List (Nat × List LaneAcc) :=
  let m := (l.foldl (fun m a => Cells.put m (a.addr / 128) ((Cells.getD m (a.addr / 128) []) ++ [a])) []).map fun p => (128 * p.1, p.2)
  if perLane then m.flatMap fun p => p.2.map fun a => (p.1, [a]) else m

/-- R169: the lines that a PREF asks for; it checks nothing, and a line out of bounds is left out. -/
def prefLines (c : Ctx) (f : Long) : List Nat :=
  let b := bufRec (c.g.bReg (bufNo f))
  (c.lanes.flatMap fun i =>
    let e : Int := ((accIndex c .pref f i * b.stride : Nat) : Int) + accOfs .pref f
    if e < 0 || (b.extent : Int) ≤ e then []
    else
      let line := swizzle b.swz (b.base + e.toNat) / 128 * 128
      ((List.range (2 ^ subF f 2 0)).map fun j => line + 128 * j).filter fun x => decide (x < b.base + b.extent)).eraseDups

/-- R170: the group a scratchpad address reaches from a group: its own, or the group of its cluster set on
a core of its cluster. -/
def State.scratchTarget (s : State) (gk : Nat) (a : Nat) : Option Nat :=
  match s.group? gk with
  | none => none
  | some g =>
    if !a.testBit 26 then some gk
    else
      let core := g.core / 64 * 64 + bits a 25 20
      (List.find? (fun p => decide (p.2.core = core) && decide (p.2.launch = g.launch) && decide (p.2.fn = g.fn) &&
        decide (1 < g.setsz) && decide (p.2.groupId / p.2.setsz = g.groupId / g.setsz)) s.groups).map (·.1)

/-- R170: the access ends past the SCRATCH of the group it reaches; an address that reaches none is not past it. -/
def State.pastScratch (s : State) (gk a size : Nat) : Bool :=
  match (s.scratchTarget gk a).bind s.group? with
  | some t => decide (t.kern.scratch < bits a 19 0 + size)
  | none => false

/-- R170: the scratchpad address of a lane. -/
def scratchAddr (c : Ctx) (k : MemKind) (f : Long) (lane : Nat) : Nat :=
  wrap ((c.src f.lit f.a 32 lane : Nat) + accOfs k f) 32

/-- R327: the access conflicts with the recorded weak writer of the line it reaches. -/
def raceConflict (c : Ctx) (tg : Group) (off : Nat) : Bool :=
  match Cells.find? tg.wid (off / 32) with
  | some (k, sl, gen, ep) =>
    (decide (k ≠ c.k) || decide (sl ≠ c.sl) || decide (gen ≠ c.st.gen c.k c.sl)) && decide (ep = tg.sep) && !c.g.acqf
  | none => false

/-- R170: the accesses of a scratchpad instruction, each with the group it reaches, or the first cause. -/
def scratchAccs (c : Ctx) (k : MemKind) (f : Long) : Except (BitVec 6 × Nat) (List (Nat × LaneAcc)) :=
  let size := accSize k f
  let a := scratchAddr c k f
  let tgt := fun i => c.st.scratchTarget c.g.group (a i)
  let lanes := c.lanes
  let rng := lanes.filter fun i => decide (bits (a i) 31 27 ≠ 0) || (!(a i).testBit 26 && decide (bits (a i) 25 20 ≠ 0)) ||
    c.st.pastScratch c.g.group (a i) size
  let rem := lanes.filter fun i => (tgt i).isNone
  let mis := lanes.filter fun i => bits (a i) 19 0 % size ≠ 0
  let race := if c.g.racew && k ≠ .atomic then
      lanes.filter fun i => match (tgt i).bind c.st.group? with | some tg => raceConflict c tg (bits (a i) 19 0) | none => false
    else []
  let m := fun (l : List Nat) => (maskOf fun i => l.contains i).toNat
  if !rng.isEmpty then .error (0x17, m rng)
  else if !rem.isEmpty then .error (0x18, m rem)
  else if !mis.isEmpty then .error (0x12, m mis)
  else if !race.isEmpty then .error (0x1A, m race)
  else
    let w := dataWidth k f
    .ok (lanes.map fun i => ((tgt i).getD 0, { lane := i, addr := bits (a i) 19 0, off := a i, dst := c.dstId f.d i,
                                               data := c.data f f.b w i, data2 := c.data f f.c w i }))

/-- R414: a gang passes the comparator's filter. -/
def passesFilter (c : Core) (g : Gang) : Bool :=
  (!c.bkptctl.getLsbD 8 || c.bkptGroup == some g.group) && (!c.bkptctl.getLsbD 7 || decide (g.gid = bits c.bkptctl.toNat 4 0))

/-- R416: the first matching byte of the lowest matching lane, of accesses given as (first byte, size). -/
def watchMatch (c : Ctx) (scratch rd wr : Bool) (accs : List (Nat × Nat)) : Option Nat :=
  let co := c.st.core c.k
  let w := co.watchA.toNat
  let m := bits co.watchM.toNat 56 0
  let spc := bits w 62 61
  if c.g.level = 0 && w.testBit 63 && decide (spc = if scratch then 1 else 0) && passesFilter co c.g &&
      ((rd && w.testBit 59) || (wr && w.testBit 60)) && c.f.pass != some (pcAddr c.f.pc) then
    (accs.flatMap fun p => (List.range p.2).map fun j => p.1 + j).find? fun a => decide (a &&& m = bits w 56 0 &&& m)
  else none

/-- R416: NMX counts as a read kind, and RED as a write kind only. -/
def watchRead (k : MemKind) : Bool := match k with | .reduction => false | _ => accRead k

/-- R33: the path an instruction counts on. -/
def MemKind.path (k : MemKind) : Path :=
  match k with
  | .load | .atomic | .ldbr => .g
  | .store | .reduction | .cstr => .w
  | .nmx => .n
  | .pref => .g

/-- R33: how many instructions are counted on a path. A completion waits for older ones, so all up to the
youngest uncompleted one count. -/
def Gang.inflight (g : Gang) (p : Path) : Nat := (g.fly.filter fun x => x.path == p).length

end Sys2Proof.Machine
end

