-- ==== Sys2Proof/Machine/Ready.lean ====
section
/-! DEFINITION. Readiness (R287): the in-flight limit (R33), parked accesses (R163), register interlocks and
timings (R260, R261), miss-status entries (R300, R301), and the waits of single instructions. -/
namespace Sys2Proof.Machine

/-- The instruction's opcode; 0 for an event. -/
def opcN (i : Instr) : Nat := match Instr.opc i with | some (o, _) => o | none => 0

/-- R262: the core-wide port: 0 none, 1 memory, 2 transcendental, 3 matrix issue, 4 branch. -/
def portOfOpc (o : Nat) : Nat :=
  if (0x40 ≤ o ∧ o ≤ 0x4B) ∨ [0x50, 0x51, 0x54, 0x55, 0x58, 0x59, 0x5A].contains o then 1
  else if [0x1E, 0x26, 0x33].contains o then 2
  else if 0x60 ≤ o ∧ o ≤ 0x66 then 3
  else if (0x68 ≤ o ∧ o ≤ 0x6F) ∨ [0x52, 0x53, 0x56, 0x57, 0x5B].contains o ∨ (0x78 ≤ o ∧ o ≤ 0x7E) then 4
  else 0

/-- R261: interval, latch-ready and register-ready times of a register instruction. -/
def timing (o : Nat) : Option (Nat × Nat × Nat) :=
  if [0x03, 0x04, 0x05, 0x2E].contains o then some (1, 2, 5)
  else if o ≤ 0x15 then some (1, 1, 4)
  else if o = 0x1E then some (1, 10, 13)
  else if o = 0x26 then some (2, 18, 21)
  else if 0x20 ≤ o ∧ o ≤ 0x27 then some (1, 3, 6)
  else if o ≤ 0x32 then some (1, 2, 5)
  else if o = 0x33 then some (2, 20, 23)
  else if o ≤ 0x35 then some (1, 3, 6)
  else if o = 0x3B ∨ o = 0x3C then some (2, 9, 12)
  else if o ≤ 0x3E then some (1, 3, 6)
  else none

/-- R155: a memory instruction. -/
def isMem (i : Instr) : Bool := decide (0x40 ≤ opcN i) && decide (opcN i ≤ 0x4B)
/-- An instruction that makes an access (R315). -/
def isAccess (i : Instr) : Bool := (memKind i).isSome && opcN i ≠ 0x4B

/-- A request is of the gang of a slot under a generation. -/
def Req.isOf (r : Req) (k sl gen : Nat) : Bool := decide (r.core = k) && decide (r.slot = sl) && decide (r.gen = gen)

/-- The requests in flight of the accesses (not of the engine operations) that a slot made under a generation. -/
def State.reqsOf (s : State) (k sl gen : Nat) : List Req :=
  (s.reqs.filter fun p => p.2.isOf k sl gen && p.2.own == .gang && isAccess p.2.instr).map (·.2)
def State.gangReqs (s : State) (k sl : Nat) : List Req := s.reqsOf k sl (s.gen k sl)

/-- The kind of a request's instruction. -/
def Req.kind (r : Req) : MemKind := match memKind r.instr with | some (_, k) => k | none => .load

/-- How many registers a request writes in each lane. -/
def Req.regs (r : Req) : Nat :=
  match r.kind with
  | .load => fmtWidth (Instr.long r.instr).fmt / 32
  | .atomic => if subN (Instr.long r.instr) = 8 then 4 else fmtWidth (Instr.long r.instr).fmt / 32
  | .nmx => match subF (Instr.long r.instr) 2 0 with
    | 0 => 8
    | 1 => 2
    | _ => 4
  | _ => 0

/-- The register ids a request has yet to write. -/
def Req.dstIds (r : Req) : List Nat := r.lanes.flatMap fun a => (List.range r.regs).map fun j => a.dst + j

/-- R163: the lines of parked instructions. -/
def Gang.parkedReqs (g : Gang) : List Req := g.olog.flatMap fun p => p.lines

/-- R168: the buffer records that a pending LDBR holds back: DBUF and BUF. -/
def Req.bufIds (r : Req) : List Nat :=
  if r.kind = .ldbr then [subF (Instr.long r.instr) 3 0, bufNo (Instr.long r.instr)] else []

/-- The buffer records an instruction names. -/
def Ctx.bufNames (c : Ctx) (i : Instr) : List Nat :=
  let f := Instr.long i
  match i with
  | .ldbr _ => [subF f 3 0]
  | .ldbrM _ => [subF f 3 0, bufNo f]
  | .cpyIn _ | .cpyOut _ | .cpyt _ =>
    let n := match i with
      | .cpyt _ => immF f 23 18
      | _ => immF f 5 0
    match (c.st.group? c.g.group).bind fun g => g.kern.formes[n]? with
    | some fo => [fo.buf]
    | none => []
  | .mma _ | .mmas _ => if subF f 6 5 ≠ 0 then [immF f 29 26] else []
  | _ => match memKind i with
    | some (true, _) => [bufNo f]
    | _ => []

/-- R200, R204: the registers that CREDs and SNAPs of the gang have yet to write. -/
def State.collectiveIds (s : State) (k sl : Nat) : List Nat :=
  let gen := s.gen k sl
  (s.creds.flatMap fun p =>
    let f := Instr.long p.2.instr
    let n := if subF f 2 0 = 6 then 4 else fmtWidth f.fmt / 32
    if p.2.core = k ∧ p.2.slot = sl ∧ p.2.gen = gen then
      (p.2.dsts.flatMap fun d => (List.range n).map fun j => d.2 + j) ++ [pid (immF f 15 13)]
    else []) ++
  (s.snaps.flatMap fun p =>
    if p.2.core = k ∧ p.2.slot = sl ∧ p.2.gen = gen then p.2.dsts.flatMap fun d => [d.2, d.2 + 1] else [])

/-- R231: the registers of a gang's MOUTs in flight. -/
def State.moutIds (s : State) (k sl : Nat) : List Nat :=
  (s.core k).mxOps.flatMap fun m =>
    match m.instr with
    | .mout f =>
      if m.slot = sl ∧ m.gen = s.gen k sl then
        (Instr.shape (.mout f)).uses.flatMap fun u => (List.range u.kind.regs).map fun j => u.code.toNat + j
      else []
    | _ => []

/-- R157: the ORD of a memory instruction. -/
def accOrd (i : Instr) : Nat := ordOf (Instr.long i)
def isRel (o : Nat) : Bool := decide (3 ≤ o)
def isAcq (o : Nat) : Bool := decide (o = 2) || decide (4 ≤ o)

/-- R299, R169: the lines, by virtual address, of a global memory instruction. -/
def Ctx.vlines (c : Ctx) (i : Instr) : List Nat :=
  match memKind i with
  | some (true, .pref) => prefLines c (Instr.long i)
  | some (true, k) =>
    match globalAccs c k (Instr.long i) with
    | .ok a => (byLine (k == .nmx) a.lanes).map (·.1)
    | .error _ => []
  | _ => []

/-- R317 rows 3 to 6, R316: of two accesses of one gang, X earlier, the widest scope toward which X is performed before Y: 0 where
no row holds, or only toward the gang itself. Two accesses of ORD `sc` are ordered toward the narrower of their scopes (log 73). -/
def orderScope (xr : Bool) (xo xs : Nat) (yw : Bool) (yo ys : Nat) (fences : List FenceAt) : Nat :=
  let row := fun (b : Bool) (n : Nat) => if b then n else 0
  fences.foldl (fun m f => max m (row (((f.ord = 3 || f.ord = 4) && yw) || ((f.ord = 2 || f.ord = 4) && xr) || f.ord = 5) f.scope))
    (max (max (row (yw && isRel yo) ys) (row (xr && isAcq xo) xs)) (row (xo = 5 && yo = 5) (min xs ys)))

/-- Two lanes' bytes meet. -/
def overlap (a n b m : Nat) : Bool := decide (a < b + m) && decide (b < a + n)

/-- R317 row 1: two requests reach a common location. -/
def Req.meets (x y : Req) : Bool :=
  let at0 := fun (r : Req) (a : LaneAcc) =>
    match r.tgt with
    | .dev pa => pa + a.addr % 128
    | .peer _ ia => ia + a.addr % 128
    | .host h => h + a.addr % 128
    | .notify _ _ => 0
    | .scratch _ => a.addr
  let space := fun (r : Req) =>
    match r.tgt with
    | .dev _ => (0, 0)
    | .peer v _ => (1, v)
    | .host _ => (2, 0)
    | .notify fn q => (3 + fn, q)
    | .scratch g => (100, g)
  space x == space y && x.lanes.any fun a => y.lanes.any fun b => overlap (at0 x a) x.size (at0 y b) y.size

/-- R317, R316: x is performed before r, later in the gang's order, toward the parties in this scope: 5 where rows 1 and 7 put
it first toward every party, 0 where nothing does. -/
def Req.owed (x r : Req) : Nat :=
  let row7 := match x.tgt, r.tgt with
    | .scratch a, .scratch b => decide (a = b) && x.wr && r.wr && x.ord ≠ 0 && r.ord ≠ 0
    | _, _ => false
  if r.seq ≤ x.seq then 0
  else if x.meets r || row7 then 5
  else orderScope x.rd x.ord x.scope r.wr r.ord r.scope (r.fences.filter fun f => decide (x.seq < f.seq))

/-- R317: x comes before r toward some party. -/
def Req.orders (x r : Req) : Bool := decide (0 < x.owed r)

/-- R161: x is a lower lane of the same instruction, with a common location. -/
def Req.laneBefore (x r : Req) : Bool :=
  decide (x.seq = r.seq) && decide ((x.lanes.map (·.lane)).headD 0 < (r.lanes.map (·.lane)).headD 0) && x.meets r

/-- R164, R257: x and r are replays, or packets that a restore performs, and x stands before r. Replays have even turns, packets
odd ones, and there is no turn between the two. -/
def Req.turnBefore (x r : Req) : Bool := decide (0 < x.turn) && decide (x.turn < r.turn) && decide (x.turn % 2 = r.turn % 2)

/-- R163, R317: requests of the gang that stand behind a parked access, so that no register of theirs is written
before the replay (log 15). -/
def Gang.stuck (g : Gang) (l : List Req) : List Req :=
  l.foldl (fun (st : List Req) r => if r.level = 0 ∧ ((g.parkedReqs ++ st).any fun x => x.orders r) then st ++ [r] else st) []

/-- R163, R240, R254: what an access of a level may stand behind, of the gang's requests in flight: at level 0 what is parked
and what is a packet too; above it, neither what is parked nor what stands behind it. -/
def Gang.priorTo (g : Gang) (level : Nat) (l : List Req) : List Req :=
  if level = 0 then l ++ g.parkedReqs ++ g.packets
  else (if level = 1 then l ++ g.packets else l).filter fun r => !(g.stuck l).contains r

/-- R260: a register the instruction reads or writes is yet to be written, its latch or unit is not ready
(R261), or a buffer record it names is being loaded (R168). Parked accesses count at level 0 only (R163). -/
def Ctx.interlocked (c : Ctx) (i : Instr) : Bool :=
  let ids := c.allReads i ++ c.allWrites i
  let reqs := c.g.priorTo c.g.level (c.st.gangReqs c.k c.sl)
  let pend := reqs.flatMap Req.dstIds ++ c.st.collectiveIds c.k c.sl ++ c.st.moutIds c.k c.sl
  let bufs := reqs.flatMap Req.bufIds
  let unit := if portOfOpc (opcN i) = 2 then 1 else 0
  (ids.any fun r => pend.contains r || decide (c.st.cycle < Cells.getD c.g.busy r 0)) ||
  ((Instr.shape i).uses.any fun u => isL u.code && decide (c.st.cycle < c.f.latchAt.getD (u.code.toNat - 0xE0) 0)) ||
  ((timing (opcN i)).isSome && decide (c.f.unit = unit) && decide (c.st.cycle < c.f.unitAt)) ||
  (c.bufNames i).any bufs.contains

/-- R163, R153, R180, R183, R199: the instruction waits on parked accesses; at level 0 only (R240). -/
def Ctx.parkedWait (c : Ctx) (i : Instr) : Bool :=
  let reqs := c.g.parkedReqs
  let o := opcN i
  decide (c.g.level = 0) && !c.g.olog.isEmpty &&
  (((c.allReads i ++ c.allWrites i).any ((reqs ++ c.g.stuck (c.st.gangReqs c.k c.sl)).flatMap Req.dstIds).contains) ||
   (isMem i && ((c.vlines i).any (reqs.map Req.line).contains)) ||
   (isMem i && decide (4 ≤ c.g.olog.length)) ||
   (isAccess i && isRel (accOrd i)) ||
   (isAccess i && reqs.any fun r => isAcq r.ord) ||
   (decide (o = 0x48) && isRel (accOrd i)) ||
   [0x50, 0x51, 0x54, 0x57, 0x59, 0x5A, 0x61, 0x6E].contains o ||
   (match i with
    | .mma f | .mmas f => subF f 6 5 ≠ 0 && decide (4 ≤ c.g.olog.length)
    | _ => false) ||
   (decide (0x62 ≤ o) && decide (o ≤ 0x66) && c.g.olog.any fun e => e.mx.isSome))

/-- R226: an MMA or an MMAS. -/
def isMma (i : Instr) : Bool := match i with | .mma _ | .mmas _ => true | _ => false

/-- R153, R367: EXIT waits for an access that its home may still refuse, since the refusal would park it (log 71). R333,
R337: INFLT of a gang is 0 on path W when its last EXIT issues, so the EXIT that ends the gang also waits for that path
(log 75). -/
def Ctx.exitWait (c : Ctx) (i : Instr) : Bool :=
  decide (opcN i = 0x6E) && decide (c.g.level = 0) &&
    (decide (c.active = c.g.mask ∧ c.g.inflight .w ≠ 0) || c.st.reqs.any fun p =>
      decide (p.2.core = c.k) && decide (p.2.slot = c.sl) && decide (p.2.gen = c.st.gen c.k c.sl) && decide (p.2.level = 0) &&
      ((memKind p.2.instr).isSome || isMma p.2.instr) && (match p.2.tgt with | .peer _ _ => true | _ => false))

/-- R33: the paths an instruction raises. -/
def Ctx.paths (c : Ctx) (i : Instr) : List Path :=
  match memKind i with
  | some (true, k) => if k = .pref then [] else [k.path]
  | some (false, k) =>
    match scratchAccs c k (Instr.long i) with
    | .ok l => if l.any fun p => decide (p.1 ≠ c.g.group) then [.s] else []
    | .error _ => []
  | none =>
    match i with
    | .cred _ => [.n]
    | .mma _ | .mmas _ | .mzero _ | .mout _ | .manc _ => [.m]
    | _ => []

/-- R300: an instruction that takes miss-status entries. -/
def takesEntries (i : Instr) : Bool := match memKind i with | some (true, k) => k != .pref | _ => false

/-- R300: the entries of a core in use. -/
def State.entriesUsed (s : State) (k : Nat) : Nat :=
  let l := (s.reqs.filter fun p => decide (p.2.core = k) && p.2.entry).map (·.2)
  (l.filter fun r => !r.part).length + ((l.filter fun r => r.part).map fun r => (r.slot, r.gen, r.seq, r.line)).eraseDups.length

/-- R300, R301: the memory system refuses the instruction for lack of entries. -/
def Ctx.refused (c : Ctx) (i : Instr) : Bool :=
  if takesEntries i then
    let free := 512 - c.st.entriesUsed c.k
    let held := match (c.st.core c.k).resv with
      | some r => if r.slot = c.sl ∧ r.fid = c.f.fid then 0 else r.held
      | none => 0
    decide (free - held < (c.vlines i).length)
  else false

/-! Order that is owed to few (R316). -/

/-- R316: the oracle has an access performed although order that is not owed to every party puts it later (log 10, log 73). -/
def State.goEarly (s : State) : Bool := s.choice.testBit 96

/-- R316: a gang of a group lies within a scope of another gang's access. -/
def State.within (s : State) (scope gk other : Nat) : Bool :=
  if scope = 0 then false
  else if scope = 1 then decide (gk = other)
  else if scope = 2 then
    match s.group? gk, s.group? other with
    | some a, some b => decide (a.launch = b.launch) && decide (a.groupId / a.setsz = b.groupId / b.setsz)
    | _, _ => false
  else true

/-- The places in a gang's order of its accesses that have still to be performed. -/
def State.pendingSeqs (s : State) (k sl gen : Nat) : List Nat :=
  (s.reqsOf k sl gen).map (·.seq) ++ (if s.gen k sl = gen then
    match s.gang? k sl with
    | some g => (g.parkedReqs ++ g.packets).map (·.seq)
    | none => []
  else [])

/-- R316: the access of another gang lies where one was performed early toward parties that its gang is not among, and the earlier
accesses of that one have still to be performed. -/
def State.barred (s : State) (r : Req) : Bool :=
  s.early.any fun e => !(decide (e.core = r.core) && decide (e.slot = r.slot) && decide (e.gen = r.gen)) && r.own == .gang &&
    s.within e.scope e.group r.group && e.req.meets r && (s.pendingSeqs e.core e.slot e.gen).any e.seqs.contains

/-- R316: keeps that an access is performed before earlier ones of its gang; those that no longer wait are left out. -/
def State.noteEarly (s : State) (r : Req) (prior : List Req) : State :=
  let xs := prior.filter fun x => x.orders r
  if xs.isEmpty then s
  else
    let live := s.early.filter fun e => (s.pendingSeqs e.core e.slot e.gen).any e.seqs.contains
    { s with early := live ++ [⟨r.core, r.slot, r.gen, r.group, xs.foldl (fun m x => max m (x.owed r)) 0, xs.map (·.seq), r⟩] }

/-! Local scratchpad accesses. -/

/-- R309: the class of a buffer record's requests. -/
def qosOf (b : Galley) : Nat := (bufRec b).qos

/-- R299, R312: the request that lanes of a memory instruction make, before it is translated. -/
def Ctx.mkReq (c : Ctx) (i : Instr) (k : MemKind) (buf : Galley) (line : Nat) (tgt : Target) (lanes : List LaneAcc) : Req :=
  let f := Instr.long i
  { core := c.k, slot := c.sl, gen := c.st.gen c.k c.sl, fn := c.g.fn, group := c.g.group, seq := c.g.seq, instr := i, active := c.active,
    lanes := lanes, buf := buf, size := accSize k f, line := line, tgt := tgt, rd := accRead k, wr := accWrite k f, ord := ordOf f,
    scope := scopeOf f, pxmt := (bufRec buf).pxmt, level := c.g.level, sent := none, mute := false, own := .gang,
    cls := qosOf buf, fences := c.g.fences, turn := 0, entry := takesEntries i, part := false }

/-- A local scratchpad access waits for earlier accesses of the gang that R317 puts before it, since it
is performed at issue (log 15); here, for the accesses of a list. -/
def Ctx.localWaitOn (c : Ctx) (i : Instr) (prior : List Req) : Bool :=
  match memKind i with
  | some (false, k) =>
    match scratchAccs c k (Instr.long i) with
    | .error _ => false
    | .ok l =>
      let r := c.mkReq i k 0 0 (.scratch c.g.group) (l.map (·.2))
      (prior.any fun x => decide (4 ≤ x.owed r) || (x.orders r && !c.st.goEarly)) || c.st.barred r
  | _ => false

/-- The same for the gang's accesses in flight and parked. -/
def Ctx.localWait (c : Ctx) (i : Instr) : Bool :=
  c.localWaitOn i (c.g.priorTo c.g.level (c.st.gangReqs c.k c.sl))

/-- R73, R221: galley n of a group: its base, and the 16,448 bytes it fills. -/
def Group.galleyBase (g : Group) (n : Nat) : Nat := (g.kern.galleys.getD n (0, 0)).1

/-- The GAL field of a matrix instruction. -/
def galOf (i : Instr) : Nat := immF (Instr.long i) 2 0

/-- The matrix instructions of a gang in flight in its core's engine. -/
def State.mxOf (s : State) (k sl : Nat) : List MxOp :=
  (s.core k).mxOps.filter fun m => decide (m.slot = sl) && decide (m.gen = s.gen k sl)

/-- R221: the galleys that the gang's matrix instructions in flight write, as (base, size). -/
def Ctx.busyGalleys (c : Ctx) : List (Nat × Nat) :=
  match c.st.group? c.g.group with
  | none => []
  | some g => (c.st.mxOf c.k c.sl).flatMap fun m =>
      match m.instr with
      | .mout _ => []
      | j => [(g.galleyBase (galOf j), 16448)]

/-- R185: the number of elements, the element size in bytes and the dense size of a forme. -/
def Forme.elems (f : Forme) : Nat := f.dims.foldl (fun n d => n * d.1) 1
def Forme.esize (f : Forme) : Nat := 2 ^ f.esz
def Forme.bytes (f : Forme) : Nat := f.elems * f.esize

/-- R189: a piece is 128 bytes of the dense order, or what is left of it. -/
def Forme.pieces (f : Forme) : Nat := (f.bytes + 127) / 128

/-- R221: a scratchpad access or a copy whose local range meets such a galley. -/
def Ctx.galleyWait (c : Ctx) (i : Instr) : Bool :=
  let b := c.busyGalleys
  if b.isEmpty then false
  else
    let hit := fun (a n : Nat) => b.any fun p => overlap a n p.1 p.2
    let f := Instr.long i
    let forme := fun n => (c.st.group? c.g.group).bind fun g => g.kern.formes[n]?
    match memKind i with
    | some (false, k) =>
      match scratchAccs c k f with
      | .ok l => l.any fun p => decide (p.1 = c.g.group) && hit p.2.addr (accSize k f)
      | .error _ => false
    | _ =>
      match i with
      | .cpyIn _ | .cpyOut _ =>
        let a := c.src f.lit f.b 32 (lowest c.active)
        c.st.scratchTarget c.g.group a == some c.g.group && (match forme (immF f 5 0) with | some fo => hit (bits a 19 0) fo.bytes | none => false)
      | .cpytS _ =>
        match forme (immF f 23 18) with
        | some fo =>
          let a := c.src f.lit f.a 32 (lowest c.active)
          (List.range fo.elems).any fun m =>
            let e := (a : Int) + (fo.dims.foldl (fun (p : Int × Nat) d => (p.1 + ((p.2 % d.1 : Nat) : Int) * d.2, p.2 / d.1)) (0, m)).1
            decide (0 ≤ e) && hit e.toNat fo.esize
        | none => false
      | _ => false

/-- R191: the copies and EMITs of a gang in flight. -/
def State.copiesOf (s : State) (k sl : Nat) : Nat :=
  let gen := s.gen k sl
  (s.copies.filter fun p => decide (p.2.core = k) && decide (p.2.slot = sl) && decide (p.2.gen = gen)).length +
  (s.emits.filter fun p => decide (p.2.core = k) && decide (p.2.slot = sl) && decide (p.2.gen = gen)).length

/-- R206: PEND of a launch, a graph, a phase and a job. -/
def Launch.pend (l : Launch) : Nat := l.groups - l.ended
def State.graphPend (s : State) (gk : Nat) : Nat :=
  (s.launches.filter fun p => decide (p.2.graph = gk) && !p.2.done).length +
  (match s.graph? gk with
   | some g => (g.nodes.filter fun n => !n.bin.isEmpty).length
   | none => 0)
def State.phasePend (s : State) (fn job ph : Nat) : Nat :=
  (s.graphs.filter fun p => decide (p.2.fn = fn) && decide (p.2.job = job) && decide (p.2.phase = ph) && !p.2.ended).length
/-- A job's key among `jobs`. -/
def jobKey (fn job : Nat) : Nat := job * 64 + fn
def State.jobPend (s : State) (fn job : Nat) : Nat :=
  match Cells.find? s.jobs (jobKey fn job) with
  | some j => j.known - j.phase
  | none => 0

/-- R206: PEND of the unit that LEVEL names for a group. -/
def State.pend (s : State) (gk level : Nat) : Nat :=
  match (s.group? gk).bind fun g => s.launch? g.launch with
  | none => 0
  | some l =>
    match level with
    | 0 => l.pend
    | 1 => s.graphPend l.graph
    | 2 => s.phasePend l.fn l.job l.phase
    | _ => s.jobPend l.fn l.job

/-- R194: the fields of a byte barrier. -/
structure Xbar where
  gen : Nat
  err : Bool
  phase : Bool
  arr : Nat
  exp : Nat
  count : Int
  /-- the reserved bits [127:82] -/
  rsv : Nat
deriving DecidableEq, Repr

def Xbar.ofNat (n : Nat) : Xbar :=
  { gen := bits n 81 66, err := n.testBit 65, phase := n.testBit 64, arr := bits n 63 48, exp := bits n 47 32,
    count := sext n 32, rsv := bits n 127 82 }

def Xbar.toNat (x : Xbar) : Nat :=
  x.rsv * 2 ^ 82 + x.gen * 2 ^ 66 + (if x.err then 2 ^ 65 else 0) + (if x.phase then 2 ^ 64 else 0) + x.arr * 2 ^ 48 + x.exp * 2 ^ 32 + wrap x.count 32

/-- R170, R195: the scratchpad address A + OFS of a barrier instruction, and orders 1 to 3 of R170. -/
def Ctx.barAddr (c : Ctx) (f : Long) : Nat := wrap ((c.src f.lit f.a 32 (lowest c.active) : Nat) + ofsM f) 32

/-- R170 orders 1 to 3 for one address, acted on once for the gang; the value is the lane's mask. -/
def Ctx.scratchCause (c : Ctx) (a size align lane : Nat) (localOnly : Bool) : Option (BitVec 6 × Nat) :=
  if bits a 31 27 ≠ 0 || (!a.testBit 26 && bits a 25 20 ≠ 0) || (localOnly && a.testBit 26) || c.st.pastScratch c.g.group a size then
    some (0x17, 2 ^ lane)
  else if (c.st.scratchTarget c.g.group a).isNone then some (0x18, 2 ^ lane)
  else if bits a 19 0 % align ≠ 0 then some (0x12, 2 ^ lane)
  else none

/-- R216, R214: the gang owns the engine of its core. -/
def Ctx.ownsMx (c : Ctx) : Bool := (c.st.core c.k).mxOwner == some c.sl

/-- R214: where a gang stands in the ownership queue of its core, 0 at the head. -/
def Core.queuePos (c : Core) (sl : Nat) : Option Nat := c.mxq.findIdx? fun p => decide (p.1 = sl)

/-- R214, R216: the gang may take the engine now, if it is (or would now be) at the head of the queue. -/
def State.mayOwn (s : State) (k sl : Nat) : Bool :=
  let co := s.core k
  co.mxOwner.isNone && co.mxOps.isEmpty && (s.reqs.all fun p => decide (p.2.core ≠ k) || decide (s.gen k p.2.slot = p.2.gen)) &&
    (match co.queuePos sl with
     | some n => decide (n = 0)
     | none => co.mxq.isEmpty)
def Ctx.mayOwn (c : Ctx) : Bool := c.st.mayOwn c.k c.sl

/-- R218: power tokens held: by the operations of the engines, parked ones among them, and by those that halted gangs keep. -/
def State.tokensUsed (s : State) : Nat :=
  s.cores.foldl (fun n p => n + (p.2.mxOps.filter fun m => isMma m.instr).length +
    p.2.gangs.foldl (fun n q => n + (q.2.olog.filter fun e => match e.mx with
      | some m => isMma m.instr && !(p.2.mxOps.any fun x => decide (x.slot = q.1) && decide (x.seq = m.seq))
      | none => false).length) 0) 0

/-- R213: the gang's group has galleys. -/
def Ctx.isMatrixGroup (c : Ctx) : Bool := match c.st.group? c.g.group with | some g => !g.kern.galleys.isEmpty | none => false

/-- R187, R188 order 6: the rows and the bytes per row that a CPYT fills. -/
def Forme.runs (f : Forme) : Nat := f.elems / (f.dims.headD (1, 0)).1
def Forme.runBytes (f : Forme) : Nat := f.esize * (f.dims.headD (1, 0)).1

/-- The forme number of a copy, and its origin (R186, R187). -/
def copyForme (i : Instr) : Nat :=
  match i with
  | .cpyt f | .cpytS f => immF f 23 18
  | _ => immF (Instr.long i) 5 0
def Ctx.copyOrigin (c : Ctx) (i : Instr) : Int :=
  let f := Instr.long i
  match i with
  | .cpytS _ => (c.src f.lit f.a 32 (lowest c.active) : Nat)
  | _ => sext (c.src f.lit f.a 64 (lowest c.active)) 64
/-- R186: the dense base of a CPY, and the byte barrier that C names with XB. -/
def Ctx.copyDense (c : Ctx) (i : Instr) : Nat := c.src (Instr.long i).lit (Instr.long i).b 32 (lowest c.active)
def Ctx.copyXbar (c : Ctx) (i : Instr) : Option Nat :=
  if (Instr.long i).sub.getLsbD 1 then some (c.src (Instr.long i).lit (Instr.long i).c 32 (lowest c.active)) else none

def isCpy (i : Instr) : Bool := match i with | .cpyIn _ | .cpyOut _ => true | _ => false

/-- R188, orders 1 to 6. -/
def Ctx.copyCause (c : Ctx) (i : Instr) : Option (BitVec 6 × Nat) :=
  let lo := lowest c.active
  match (c.st.group? c.g.group).bind fun g => g.kern.formes[copyForme i]? with
  | none => some (0x02, c.st.reportWords i)
  | some fo =>
    let b := bufRec (c.g.bReg fo.buf)
    let glob := match i with | .cpytS _ => false | _ => true
    let o := c.copyOrigin i
    let es : Int := fo.esize
    let dense := c.copyDense i
    let col := immF (Instr.long i) 8 0
    let row := immF (Instr.long i) 17 9
    let xb := (c.copyXbar i).bind fun a => c.scratchCause a 16 1 lo false
    if glob && (decide (2 ^ 57 < b.base + b.extent) || decide (3 < b.swz)) then some (0x11, fo.buf)
    else if b.ronly && (match i with | .cpyOut _ => true | _ => false) then some (0x14, fo.buf)
    else if decide (((if glob then (b.base : Int) + o else o) % es) ≠ 0) || (fo.dims.any fun d => decide (d.2 % es ≠ 0)) ||
        decide ((if isCpy i then dense else col) % fo.esize ≠ 0) then some (0x12, 0)
    else if isCpy i && (c.scratchCause dense fo.bytes 1 lo false).isSome then c.scratchCause dense fo.bytes 1 lo false
    else if !glob && decide (2 ^ 20 ≤ o) then some (0x17, 2 ^ lo)
    else if xb.isSome then xb
    else if !isCpy i && (decide (512 < col + fo.runBytes) || decide (512 < row + fo.runs) || !c.isMatrixGroup) then some (0x29, 0)
    else none

/-- R321: the gang's accesses so far are performed, which its release at an XARV or an MXREL waits for. -/
def Ctx.released (c : Ctx) : Bool := (c.st.gangReqs c.k c.sl).isEmpty

/-- The readiness condition that the instruction's own description sets, for a context whose ACTIVE is
not empty where the description needs it. -/
def Ctx.ownReady (c : Ctx) (i : Instr) : Bool :=
  let f := Instr.long i
  let lo := lowest c.active
  match i with
  | .cpyIn _ | .cpyOut _ | .cpyt _ | .cpytS _ => decide (c.st.copiesOf c.k c.sl < 64) || (c.copyCause i).isSome
  | .emit _ => decide (c.st.copiesOf c.k c.sl < 64)
  | .xarv _ => c.released
  | .waitb _ => decide (c.g.sealed.length ≤ immF f 3 0)
  | .xwait _ =>
    let a := c.barAddr f
    match c.scratchCause a 16 16 lo true, c.st.group? c.g.group with
    | none, some g =>
      let x := Xbar.ofNat (Memory.read g.scratch (bits a 19 0) 16)
      x.err || decide (x.gen ≠ c.src f.lit f.b 32 lo % 65536)
    | _, _ => true
  | .waitc _ => decide (c.st.pend c.g.group (subF f 5 4) ≤ c.src f.lit f.a 32 lo)
  | .mxacq _ => !c.isMatrixGroup || c.ownsMx || c.mayOwn
  | .mxrel _ => !c.isMatrixGroup || (c.released && (!c.g.reown || c.ownsMx || c.mayOwn))
  | .mma _ | .mmas _ | .mzero _ | .mout _ | .manc _ =>
    if !c.isMatrixGroup then true
    else
      (!c.g.reown || c.ownsMx || c.mayOwn) &&
      (!(c.ownsMx || c.g.reown) ||
        (decide ((c.st.core c.k).mxOps.length < 8) && (!isMma i || decide (c.st.tokensUsed < c.st.ptoken)) &&
         (match i with
          | .mout _ => (c.st.mxOf c.k c.sl).all fun m => match m.instr with | .mout _ => true | _ => false
          | _ => true)))
  | _ => true

/-- Some lane acts: an instruction that acts once does nothing under an empty ACTIVE (R183, R212). -/
def Ctx.acts (c : Ctx) : Bool := c.active != 0

/-- R287: every readiness condition of the instruction but the memory system's own (R289). -/
def Ctx.readyAside (c : Ctx) (i : Instr) : Bool :=
  decide (c.f.skip = 0 ∨ c.f.skip ≠ c.st.cycle) && !c.interlocked i && !c.parkedWait i && !c.exitWait i &&
  (!c.acts || (c.ownReady i && !c.localWait i && !c.galleyWait i && (c.paths i).all fun p => decide (c.g.inflight p < 63)))

/-- R289, R300: the memory system refuses the instruction. -/
def Ctx.turnedAway (c : Ctx) (i : Instr) : Bool := c.acts && c.refused i

/-- R287, R289: the instruction issues when it is selected. -/
def Ctx.ready (c : Ctx) (i : Instr) : Bool := c.readyAside i && !c.turnedAway i

end Sys2Proof.Machine
end

