-- ==== Sys2Proof/Machine/Issue.lean ====
section
/-! DEFINITION. Issuing one fetched instruction: the causes of orders 7 to 10, LOOP_NEST (R151), readiness,
the instruction's own effect, and the advance of the fragment (R91, R92, R142, R149 to R152). -/
namespace Sys2Proof.Machine

/-- What an instruction's own effect comes to. -/
inductive Eff where
  /-- a cause of order 11 or 12 -/
  | raise (cause : BitVec 6) (value : Nat)
  /-- the effect made; the fragment goes on in sequence -/
  | next (s : State)
  /-- the effect made, and the place of every fragment with it -/
  | placed (s : State)
deriving DecidableEq, Repr

/-- R150, R152: the fragment stands in the body of its loop; not above level 0 (R240). -/
def Frag.inBody (f : Frag) (level : Nat) : Bool :=
  decide (level = 0) && (match f.loop with | some l => l.addrs.contains (pcAddr f.pc) | none => false)

/-- R150: the next address after an instruction of n words, the loop state after it, and whether the next
iteration starts. -/
def Frag.follow (f : Frag) (level n : Nat) : Nat × Option LoopSt × Bool :=
  let seq := pcAddr f.pc + 4 * n
  match f.loop with
  | none => (seq, none, false)
  | some l =>
    if f.inBody level then
      let j := l.addrs.findIdx fun a => decide (a = pcAddr f.pc)
      if j + 1 < l.len then (seq, some { l with addrs := l.addrs.take (j + 1) ++ [seq] ++ l.addrs.drop (j + 2) }, false)
      else if l.k + 1 < l.count then (l.body, some { l with k := l.k + 1 }, true)
      else (seq, some l, false)
    else (seq, some l, false)

/-- R151, R152: the loop state goes once neither PC nor CHEAD lies in the body; not above level 0 (R240). It stays
while a chain that began in the last iteration is open, so that a return to CHEAD is in that iteration, and until the
first instruction that goes on outside the body where a routine returns there (log 72). -/
def Frag.leaveLoop (f : Frag) (level : Nat) : Frag :=
  if level = 0 then { f with loop := f.loop.filter fun l => l.addrs.contains (pcAddr f.pc) || l.addrs.contains (pcAddr f.chead) } else f

/-- R146: a fragment that stands at its join waits there, at level 0. -/
def Frag.settle (f : Frag) (level : Nat) : Frag :=
  if decide (level = 0) && f.atJoin && f.wait == .run then { f with wait := .join, waitCyc := 0 } else f

/-- R417, R418: the step trap an issue leaves due, and the pass it uses up. -/
def Frag.stepped (f : Frag) (stepping : Bool) (pc : Nat) : Frag :=
  { f with stepDue := f.stepDue || (stepping && (f.pass.isNone || f.pass == some pc)),
           pass := if f.pass == some pc then none else f.pass }

/-- The fragment after an instruction that goes on in sequence (R91, R92, R131). The address after 2^57 - 4 is 0 (log 72). -/
def Frag.advance (f : Frag) (i : Instr) (level : Nat) (stepping : Bool) (reads : List Nat) : Frag :=
  let (pc, loop, again) := f.follow level (Instr.words i)
  let latch := readsLatch i
  let ends := Instr.endsChain i
  let f' := { f with pc := toPc pc, loop := loop, defer := 0, urg := none, lost := false,
                     chead := if ends || again then toPc pc else if latch then f.chead else f.pc,
                     chainRd := if ends || again then [] else (if latch then f.chainRd else []) ++ reads,
                     chainX := if ends || again then false else (latch && f.chainX) || contributes i }
  ((f'.leaveLoop level).stepped stepping (pcAddr f.pc)).settle level

/-- R261: the times that a register instruction leaves behind. -/
def Ctx.timed (c : Ctx) (i : Instr) (g : Gang) : Gang :=
  match timing (opcN i) with
  | none => g
  | some (iv, la, rg) =>
    let now := c.st.cycle
    let live := g.busy.filter fun p => decide (now < p.2)
    let g1 := { g with busy := (c.allWrites i).foldl (fun m r => Cells.put m r (now + rg)) live }
    g1.modFrag c.f.fid fun f => { f with latchAt := if opcN i = 0 then f.latchAt else ((now + la) :: f.latchAt).take 4, unit := if portOfOpc (opcN i) = 2 then 1 else 0, unitAt := now + iv }

/-- R288: the selection of a core as a cycle begins. -/
def Sel.start : Sel := ⟨0, 0, 1, 1, 1, 2, [], []⟩
def State.sel (s : State) (k : Nat) : Sel := Cells.getD s.sels k Sel.start
def State.modSel (s : State) (k : Nat) (h : Sel → Sel) : State := { s with sels := Cells.put s.sels k (h (s.sel k)) }

/-- R288: records in the core's selection that the gang has issued in this cycle. -/
def State.noteIssue (s : State) (k sl : Nat) : State := s.modSel k fun x => { x with issued := x.issued ++ [sl] }

/-- R301: the fragment's instruction has issued with the entries that were reserved for it. -/
def Core.unreserve (c : Core) (sl fid : Nat) : Core := { c with resv := c.resv.filter fun r => decide (r.slot ≠ sl) || decide (r.fid ≠ fid) }

/-- The end of an issue: position in gang order (R312), selection counters, times. -/
def Ctx.conclude (c : Ctx) (i : Instr) (s : State) : State :=
  ((s.modGang c.k c.sl fun g => c.timed i { g with seq := g.seq + 1, entry1 := false }).modCore c.k fun co =>
    co.unreserve c.sl c.f.fid).noteIssue c.k c.sl

/-- The gang after an instruction that goes on in sequence. -/
def Ctx.goOn (c : Ctx) (i : Instr) (s : State) : State :=
  s.modGang c.k c.sl fun g => g.modFrag c.f.fid fun f => f.advance i c.g.level c.g.stepping (c.allReads i)

/-- R151: a control instruction in a LOOP body, or a LOOP above level 0. -/
def Ctx.loopNest (c : Ctx) (i : Instr) : Bool :=
  let o := opcN i
  (c.f.inBody c.g.level && decide (0x68 ≤ o) && decide (o ≤ 0x6F)) || (decide (o = 0x6D) && decide (0 < c.g.level))

/-- R31: the context once the fragment has its slices' pipes. -/
def Ctx.claim (c : Ctx) : Ctx :=
  { c with st := c.st.modCore c.k fun co => co.claim c.sl c.f.fid (slicesOf c.f.mask) }

/-- R214, R216: while it is not ready, an instruction that needs the engine queues its gang for it. Gangs
that join in one cycle stand in increasing GANGID. -/
def Ctx.joinQueue (c : Ctx) (i : Instr) : State :=
  let wants := (match i with
    | .mxacq _ => c.acts && c.isMatrixGroup && !c.ownsMx
    | _ => false)
  if wants && ((c.st.core c.k).queuePos c.sl).isNone then
    c.st.modCore c.k fun co =>
      let gid := fun sl => match Cells.find? co.gangs sl with | some g => g.gid | none => 0
      let before := fun (p : Nat × Nat) => decide (p.2 < c.st.cycle) || decide (gid p.1 ≤ c.g.gid)
      { co with mxq := co.mxq.takeWhile before ++ [(c.sl, c.st.cycle)] ++ co.mxq.dropWhile before }
  else c.st

/-- R24: the guard `(!p0)`, which leaves the instruction no effect but the push of its result; a LOOP's guard acts on the
read of its count alone (R150), so a LOOP that may run does run. -/
def Ctx.voided (c : Ctx) (i : Instr) : Bool :=
  decide ((Instr.long i).pg = 0) && (Instr.long i).pn && !(Instr.shape i).push && (decide (opcN i ≠ 0x6D) || c.loopNest i)

/-- What issuing the instruction comes to, in a context that no cause of orders 7 to 10 stops. -/
def Ctx.perform (c : Ctx) (i : Instr) (eff : Ctx → Eff) : State :=
  if c.loopNest i && !c.voided i then (c.st.trapSync c.k c.sl c.f (readsLatch i) 0x0A (c.st.reportWords i)).noteIssue c.k c.sl
  else if !c.ready i then c.joinQueue i
  else if c.voided i then c.conclude i (c.goOn i c.claim.st)
  else
    match eff c.claim with
    | .raise cause v => (c.st.trapSync c.k c.sl c.f (readsLatch i) cause v).noteIssue c.k c.sl
    | .next s => c.conclude i (c.goOn i s)
    | .placed s => c.conclude i s

/-- Runs a fetched instruction on the fragment that issues. Where no fragment issues, nothing happens. -/
def run (i : Instr) (eff : Ctx → Eff) (s : State) : Out :=
  match s.ctx (Instr.long i) with
  | none => .next s
  | some c =>
    match c.operandCause i with
    | some (cause, v) => .next ((s.trapSync c.k c.sl c.f (readsLatch i) cause v).noteIssue c.k c.sl)
    | none => .next (c.perform i eff)

/-- Writes a register instruction's result: the destination of w bits unless NWB is set, and the ring
(R25, R30). `v` gives each ACTIVE lane's result; an s destination's lanes hold their slice's result. -/
def Ctx.writeReg (c : Ctx) (i : Instr) (w : Nat) (v : Nat → Nat) (g : Gang) : State :=
  let f := Instr.long i
  let g1 := if f.nwb then g else g.putAll f.d w c.active v
  let ring := fun lane =>
    if isS f.d then v ((lanesOf c.active).find? (fun j => decide (j / 4 = lane / 4)) |>.getD lane) % 2 ^ 64 else v lane % 2 ^ 64
  (c.st.setGang c.k c.sl g1).modCore c.k fun co => co.push c.sl c.f.fid (slicesOf c.f.mask) c.active ring

end Sys2Proof.Machine
end

