-- ==== Sys2Proof/Machine/Engine.lean ====
section
/-! DEFINITION. The in-flight counters' fall (R33) and the matrix engine: galleys (R220, R221), block
products (R222 to R228), the fold buffer (R225), clearing and re-anchoring (R229, R230). -/
namespace Sys2Proof.Machine

/-- Puts an event on the agenda, n cycles from now (log 9). -/
def State.after (s : State) (n : Nat) (i : Instr) : State := { s with agenda := s.agenda ++ [(s.cycle + n, i)] }

/-- R33: on each path, the completed instructions with no older uncompleted one leave the counter. -/
def retire : List Path → List Fly → List Fly
  | _, [] => []
  | seen, x :: t =>
    if x.left = 0 && !seen.contains x.path then retire seen t
    else x :: retire (x.path :: seen) t

/-- R33: one line of the instruction at a place in gang order has completed on a path. -/
def Gang.land (g : Gang) (p : Path) (seq : Nat) : Gang :=
  { g with fly := retire [] (g.fly.map fun x => if x.seq = seq && x.path == p then { x with left := x.left - 1 } else x) }

/-- R33, R255: a completion for the gang that a slot and generation name. -/
def State.land (s : State) (k sl gen : Nat) (p : Path) (seq : Nat) : State :=
  if s.gen k sl = gen then s.modGang k sl fun g => g.land p seq else s

/-! Galleys. -/

/-- R221: the scratchpad address of the word of row i and column n. -/
def Group.wordAddr (g : Group) (gal i n : Nat) : Nat := g.galleyBase gal + 64 + 16 * (32 * i + n)
def Group.galWord (g : Group) (gal i n : Nat) : Galley := BitVec.ofNat 128 (Memory.read g.scratch (g.wordAddr gal i n) 16)
/-- R220: word w of a galley's header. -/
def Group.galHead (g : Group) (gal w : Nat) : Nat := Memory.read g.scratch (g.galleyBase gal + 4 * w) 4

/-- A change to a galley: its scratchpad, and the rows that overflowed and that raised NV. -/
structure GalUpd where
  mem : Memory
  ovf : Nat
  nvf : Nat
deriving DecidableEq, Repr

/-- R59, R220: one bank-adder operation on the word of row i and column n. `nv` is the NV of its products; that of infinities that
met in the fold (`clash`), and an overflow of the sum there (`outside`), are raised as the contributions in turn would raise them:
not for a word that is NaN already, and no overflow for an infinite one. -/
def GalUpd.add (u : GalUpd) (g : Group) (gal i n cls : Nat) (q : Int) (nv clash outside : Bool) : GalUpd :=
  let a := g.wordAddr gal i n
  let w : Galley := BitVec.ofNat 128 (Memory.read u.mem a 16)
  let r := waddParts w cls q
  { mem := Memory.write u.mem a 16 r.1.toNat,
    ovf := if r.2.2 || (outside && decide (Galley.cls w = 0)) then u.ovf ||| 2 ^ i else u.ovf,
    nvf := if r.2.1 || nv || (clash && decide (Galley.cls w ≠ 3)) then u.nvf ||| 2 ^ i else u.nvf }

/-- R220: sets the sticky row flags of a header. -/
def galFlags (m : Memory) (base ovf nvf : Nat) : Memory :=
  Memory.write (Memory.write m (base + 4) 4 (Memory.read m (base + 4) 4 ||| ovf)) (base + 8) 4 (Memory.read m (base + 8) 4 ||| nvf)

/-- R227: the report of rows that overflowed, for an instruction issued under MODE.GOVT. -/
def State.reportOvf (s : State) (k sl gen gal ovf : Nat) (govt : Bool) : State :=
  if govt && ovf != 0 then s.report k sl gen 0x26 (ovf + gal * 2 ^ 32) else s

/-- R227, R240: MODE.GOVT as it acted when the operation was issued. -/
def MxOp.govt (m : MxOp) : Bool := m.level = 0 && modeGovt m.mode

/-! Block products. -/

/-- R222, R228: K, the element bytes and the bytes of a row of A. -/
def mxK (i : Instr) : Nat := mmaK (match i with | .mmas _ => true | _ => false) (Instr.long i)
def mxEs (i : Instr) : Nat := if mmaPair8 (Instr.long i) then 1 else 2
/-- R228: how many of 24 elements are kept; 24 in MMA. -/
def mxKept (i : Instr) : Nat := match i with | .mmas f => (if f.sub.getLsbD 7 then 6 else 12) | _ => 24
def mxRowA (i : Instr) : Nat := mxK i * mxEs i * mxKept i / 24
def mxRowB (i : Instr) : Nat := mxK i * mxEs i
/-- R228: metadata bytes of a group of 24, and of a row. -/
def mxMetaGroup (i : Instr) : Nat := if mxKept i = 6 then 4 else 8
def mxMetaRow (i : Instr) : Nat := mxK i / 24 * mxMetaGroup i

/-- The part of a memory between two addresses: reading it is short. -/
def Memory.part (m : Memory) (lo n : Nat) : Memory := m.filter fun e => decide (lo ≤ e.1) && decide (e.1 < lo + n)

/-- R226: the offset of row r of an L2-direct operand, and the virtual address of its byte j. -/
def l2Addr (b : BufRec) (e0 r j : Nat) : Nat := swizzle b.swz (b.base + e0 + r * b.stride + j)

/-- The bytes of row r of an operand: from the tile store, or fetched from memory. -/
def MxOp.rowBytes (m : MxOp) (tile : Memory) (isA : Bool) (r : Nat) : List Nat :=
  let n := if isA then mxRowA m.instr else mxRowB m.instr
  let x := if isA then m.a else m.b
  let sel := subF (Instr.long m.instr) 6 5
  if sel = (if isA then 1 else 2) then
    (List.range n).map fun j => (Memory.byte m.l2 (l2Addr (bufRec m.buf) x r j)).toNat
  else
    let at0 := 512 * (bits x 17 9 + r) + bits x 8 0
    let row := Memory.part tile at0 n
    (List.range n).map fun j => (Memory.byte row (at0 + j)).toNat

/-- The elements of a row of bytes. -/
def rowElems (es : Nat) : List Nat → List Nat
  | a :: b :: t => if es = 2 then (a + 256 * b) :: rowElems es t else a :: rowElems es (b :: t)
  | [a] => if es = 2 then [] else [a]
  | [] => []

/-- R228: the kept positions of a row's groups of 24, or none where the metadata is bad. -/
def metaRow (kept gb : Nat) (md : List Nat) (groups : Nat) : Option (List Nat) :=
  let grp := fun g => ofBytes (((md.drop (gb * g)).take gb).map (BitVec.ofNat 8))
  let idx := fun g => (List.range kept).map fun j => bits (grp g) (5 * j + 4) (5 * j)
  let rising := fun (l : List Nat) => (l.zip (l.drop 1)).all fun p => decide (p.1 < p.2)
  let ok := (List.range groups).all fun g => (idx g).all (· ≤ 23) && rising (idx g) && decide (grp g / 2 ^ (5 * kept) = 0)
  if ok then some ((List.range groups).flatMap fun g => (idx g).map fun x => 24 * g + x) else none

/-- R228: the positions along K that row i of A holds. -/
def MxOp.positions (m : MxOp) (tile : Memory) (i : Nat) : Option (List Nat) :=
  match m.instr with
  | .mmas _ =>
    let at0 := 512 * (bits m.c 17 9 + i) + bits m.c 8 0
    let row := Memory.part tile at0 (mxMetaRow m.instr)
    metaRow (mxKept m.instr) (mxMetaGroup m.instr) ((List.range (mxMetaRow m.instr)).map fun j => (Memory.byte row (at0 + j)).toNat)
      (mxK m.instr / 24)
  | _ => some (List.range (mxK m.instr))

/-- R222: the E8 scale of row r of A or column r of B for block kb, as an exact value. -/
def MxOp.scale (m : MxOp) (tile : Memory) (isA : Bool) (r kb : Nat) : Val :=
  let f := Instr.long m.instr
  scaleVal (Memory.byte tile (512 * (immF f 25 17 + (if isA then 0 else 32) + r) + immF f 16 8 + kb)).toNat

/-- R225: adds one product to a fold entry. -/
def FoldEnt.add (e : FoldEnt) (anchor : Int) (p : Val × Flags) : FoldEnt :=
  let c := (Contrib.val p.1).parts anchor
  let nv := p.2 != 0
  match c.1 with
  | 1 => { e with pinf := true, nv := e.nv || nv, clash := e.clash || (e.ninf && !e.nan) }
  | 2 => { e with ninf := true, nv := e.nv || nv, clash := e.clash || (e.pinf && !e.nan) }
  | 3 => { e with nan := true, nv := e.nv || nv }
  | _ =>
    if ((2 ^ 127 : Nat) : Int) ≤ e.sum.natAbs then e
    else { e with sum := e.sum + c.2, nv := e.nv || nv }

/-- R225: the sum of an entry has left its range. -/
def FoldEnt.big (e : FoldEnt) : Bool := decide (2 ^ 127 ≤ e.sum.natAbs)
/-- R225: what an entry contributes to its word: a class and a quotient. -/
def FoldEnt.parts (e : FoldEnt) : Nat × Int :=
  let p := e.pinf || (e.big && decide (0 < e.sum))
  let n := e.ninf || (e.big && decide (e.sum < 0))
  (if e.nan || (p && n) then 3 else if p then 1 else if n then 2 else 0, e.sum)

/-- R224, R225: adds the products of word (i, n) to an entry. `a` gives positions with values, `b` values
by position. -/
def foldWord (anchor : Int) (scl : Nat → Val × Val) (scaled : Bool) (e : FoldEnt) (a : List (Nat × Val)) (b : Array Val) : FoldEnt :=
  a.foldl (fun e x =>
    let p := Val.mul x.2 (b.getD x.1 (.zero false))
    let q := if scaled then
        let s := scl (x.1 / 32)
        ((Val.mul (Val.mul p.1 s.1).1 s.2).1, p.2)
      else p
    e.add anchor q) e

/-- R225: the open fold an operation joins. -/
def Fold.joins (o : Fold) (m : MxOp) : Bool :=
  decide (o.slot = m.slot) && decide (o.group = m.group) && decide (o.gal = galOf m.instr) && o.active == m.active &&
    decide (o.anchor = m.anchor) && decide (o.count < 8)

def FoldEnt.zero : FoldEnt := ⟨0, false, false, false, false, false⟩

/-- R224, R225: the entries of a fold after a block product; the lanes whose metadata is bad otherwise. -/
def MxOp.product (m : MxOp) (tile : Memory) (ents : Cells FoldEnt) : Except Nat (Cells FoldEnt) :=
  let f := Instr.long m.instr
  let lanes := lanesOf m.active
  let bad := lanes.filter fun i => (m.positions tile i).isNone
  if !bad.isEmpty then .error (maskOf fun i => bad.contains i).toNat
  else
    let fa := fmtOf f.fmt
    let fb := fmtOf (f.sub.extractLsb' 0 4)
    let es := mxEs m.instr
    let cols : Array (Array Val) := ((List.range 32).map fun n => ((rowElems es (m.rowBytes tile false n)).map fb.exact).toArray).toArray
    let scaled := f.sub.getLsbD 4
    .ok (lanes.foldl (fun ents i =>
      let a := ((m.positions tile i).getD []).zip ((rowElems es (m.rowBytes tile true i)).map fa.exact)
      (List.range 32).foldl (fun ents n =>
        Cells.put ents (32 * i + n) (foldWord (anchorVal m.anchor) (fun kb => (m.scale tile true i kb, m.scale tile false n kb)) scaled
          (Cells.getD ents (32 * i + n) FoldEnt.zero) a (cols.getD n #[]))) ents) ents)

/-- R326: a matrix update of rows of a galley clears the race-watch records of their lines. -/
def Group.unwatch (g : Group) (gal : Nat) (rows : Mask) : Group :=
  { g with wid := (lanesOf rows).foldl (fun m i => Cells.clear m (g.wordAddr gal i 0 / 32) 16) (Cells.del g.wid (g.galleyBase gal / 32)) }

/-- R227: the word of a galley whose bank has an uncorrectable error as the engine reads it, by the oracle (log 10). -/
def State.bankError (s : State) : Option Nat := if s.choice.testBit 99 then some (s.choice / 2 ^ 256 % 1024) else none

/-- R227: reports a word with an uncorrectable error. -/
def State.reportBank (s : State) (k sl gen : Nat) (g : Group) (gal : Nat) (word : Option Nat) : State :=
  match word with
  | some j => s.report k sl gen 0x1B (g.wordAddr gal (j / 32) (j % 32))
  | none => s

/-- R225, R227: writes the open fold of a core. -/
def State.foldWrite (s : State) (k : Nat) : State :=
  let co := s.core k
  match co.fold with
  | none => s
  | some o =>
    let ops := co.mxOps.filter (·.folded)
    let s0 := s.setCore k { co with fold := none, mxOps := co.mxOps.map fun m => { m with folded := false } }
    let s1 := (ops.foldl (fun st _ => st.after 40 (.matrixComplete k)) s0)
    match s.group? o.group with
    | none => s1
    | some g =>
      let bank := s.bankError.filter fun j => (Cells.find? o.ents j).isSome
      let u := o.ents.foldl (fun (u : GalUpd) p =>
        if some p.1 = bank then u
        else u.add g o.gal (p.1 / 32) (p.1 % 32) p.2.parts.1 p.2.parts.2 p.2.nv p.2.clash p.2.big) ⟨g.scratch, 0, 0⟩
      let s2 := s1.modGroup o.group fun g =>
        ({ g with scratch := galFlags u.mem (g.galleyBase o.gal) u.ovf u.nvf } : Group).unwatch o.gal o.active
      match ops with
      | m :: _ => (s2.reportOvf k m.slot m.gen o.gal u.ovf (ops.any MxOp.govt)).reportBank k m.slot m.gen g o.gal bank
      | [] => s2

/-- Replaces the oldest operation of a core that the engine has not executed. -/
def markRan (h : MxOp → MxOp) : List MxOp → List MxOp
  | [] => []
  | m :: t => if m.ran then m :: markRan h t else h m :: t

/-- R229: MZERO in the engine. -/
def State.execMzeroOp (s : State) (m : MxOp) : State :=
  s.modGroup m.group fun g =>
    let gal := galOf m.instr
    let base := g.galleyBase gal
    let mem := (lanesOf m.active).foldl (fun mem i => Cells.clear mem (g.wordAddr gal i 0) 512) g.scratch
    let keep := (~~~m.active).toNat
    ({ g with scratch := Memory.write (Memory.write mem (base + 4) 4 (Memory.read mem (base + 4) 4 &&& keep)) (base + 8) 4
                           (Memory.read mem (base + 8) 4 &&& keep) } : Group).unwatch gal m.active

/-- R230: the words of a galley under another anchor. -/
def mancUpd (g : Group) (gal : Nat) (old new : Int) (bank : Option Nat) : GalUpd :=
  (List.range 1024).foldl (fun (u : GalUpd) j =>
    if some j = bank then u else
    let i := j / 32
    let a := g.wordAddr gal i (j % 32)
    let w : Galley := BitVec.ofNat 128 (Memory.read u.mem a 16)
    let r := if Galley.cls w ≠ 0 then (Galley.ofCls (Galley.cls w), false, false) else wadd new 0 (.val (Galley.value old w))
    { u with mem := Memory.write u.mem a 16 r.1.toNat, ovf := if r.2.2 then u.ovf ||| 2 ^ i else u.ovf }) ⟨g.scratch, 0, 0⟩

/-- R230: MANC in the engine. -/
def State.execMancOp (s : State) (k : Nat) (m : MxOp) : State :=
  let gal := galOf m.instr
  let anc := immF (Instr.long m.instr) 31 16
  match s.group? m.group with
  | none => s
  | some g =>
    let base := g.galleyBase gal
    let u := mancUpd g gal (anchorVal (bits (g.galHead gal 0) 31 16)) (anchorVal anc) s.bankError
    let mem := Memory.write (galFlags u.mem base u.ovf 0) base 4 (anc * 65536)
    (s.modGroup m.group fun g => ({ g with scratch := mem } : Group).unwatch gal (BitVec.allOnes 32)).reportOvf k m.slot m.gen gal u.ovf m.govt
      |>.reportBank k m.slot m.gen g gal s.bankError

/-- R222, R228, R232: the tile row is one that the operation reads: of its operands in the tile store, its metadata or its scales. -/
def MxOp.readsRow (m : MxOp) (r : Nat) : Bool :=
  let inRows := fun (at0 n : Nat) => decide (at0 ≤ r) && decide (r < at0 + n)
  let f := Instr.long m.instr
  match m.instr with
  | .mma _ | .mmas _ =>
    (decide (subF f 6 5 ≠ 1) && inRows (bits m.a 17 9) 32) || (decide (subF f 6 5 ≠ 2) && inRows (bits m.b 17 9) 32) ||
      (f.sub.getLsbD 4 && inRows (immF f 25 17) 64) || (match m.instr with | .mmas _ => inRows (bits m.c 17 9) 32 | _ => false)
  | _ => false

/-- R227: what the operation reports for an operand with an uncorrectable error: of a line, or of a tile-store row, which the oracle
finds (log 10). -/
def State.operandError (s : State) (m : MxOp) : Option (Option Quad) :=
  let r := s.choice / 2 ^ 256 % 512
  if m.bad.isSome then m.bad else if s.choice.testBit 98 && m.readsRow r then some (some (BitVec.ofNat 64 (2 ^ 63 + r))) else none

/-- R224, R225, R227, R228: an MMA or MMAS in the engine. -/
def State.execProduct (s : State) (k : Nat) (m : MxOp) : State :=
  let fail := fun (s : State) => (s.modCore k fun co => { co with mxOps := markRan (fun m => { m with ran := true }) co.mxOps }).after 40 (.matrixComplete k)
  match s.operandError m with
  | some (some v) => fail (s.report k m.slot m.gen 0x1B v.toNat)
  | some none => fail s
  | none =>
    let s1 := match (s.core k).fold with
      | some o => if o.joins m then s else s.foldWrite k
      | none => s
    let co := s1.core k
    let o := co.fold.getD { slot := m.slot, group := m.group, gal := galOf m.instr, active := m.active, anchor := m.anchor,
                            count := 0, last := 0, ents := [] }
    match m.product co.tile o.ents with
    | .error rows => fail (s1.report k m.slot m.gen 0x29 (6 + rows * 256))
    | .ok ents =>
      (s1.setCore k { co with fold := some { o with ents := ents, count := o.count + 1, last := s.cycle },
                              mxOps := markRan (fun m => { m with ran := true, folded := true }) co.mxOps }).after 64 (.foldTimeout k)

/-- R224: the engine executes an operation. -/
def State.execMx (s : State) (k : Nat) (m : MxOp) : State :=
  let done := fun (s : State) =>
    (s.modCore k fun co => { co with mxOps := markRan (fun m => { m with ran := true }) co.mxOps }).after 40 (.matrixComplete k)
  match m.instr with
  | .mma _ | .mmas _ => s.execProduct k m
  | .mzero _ => done ((s.foldWrite k).execMzeroOp m)
  | .manc _ => done ((s.foldWrite k).execMancOp k m)
  | _ => done (s.foldWrite k)

/-- R225: 64 engine cycles without a joining instruction write the fold. -/
def execFoldTimeout (k : Nat) (s : State) : Out :=
  match (s.core k).fold with
  | some o => if o.last + 64 ≤ s.cycle then .next (s.foldWrite k) else .next s
  | none => .next s

/-- R227, R218: the oldest matrix instruction of a core completes: counter M falls and its token returns. -/
def execMatrixComplete (k : Nat) (s : State) : Out :=
  match (s.core k).mxOps with
  | [] => .next s
  | m :: t =>
    if m.ran && !m.folded then .next ((s.modCore k fun co => { co with mxOps := t }).land k m.slot m.gen .m m.seq)
    else .next (s.after 1 (.matrixComplete k))

/-- R214 to R216: a gang gives up the engine of its core, and its place in the queue; the fold is written. -/
def State.releaseEngine (s : State) (k sl : Nat) : State :=
  let s1 := match (s.core k).fold with
    | some o => if o.slot = sl then s.foldWrite k else s
    | none => s
  s1.modCore k fun co => { co with mxOwner := if co.mxOwner = some sl then none else co.mxOwner,
                                   mxq := co.mxq.filter fun p => decide (p.1 ≠ sl) }

/-- R220: the anchor field of a galley in engine order: the youngest MANC of it that the engine has still
to execute, or else the header's. -/
def State.anchorNow (s : State) (k group gal : Nat) : Nat :=
  match ((s.core k).mxOps.filter fun m => !m.ran && decide (m.group = group) && decide (galOf m.instr = gal) &&
      (match m.instr with | .manc _ => true | _ => false)).getLast? with
  | some m => immF (Instr.long m.instr) 31 16
  | none => match s.group? group with
    | some g => bits (g.galHead gal 0) 31 16
    | none => 0

/-- R220: the engine has still to execute a MANC of the galley. -/
def State.mancAhead (s : State) (k group gal : Nat) : Bool :=
  (s.core k).mxOps.any fun m => !m.ran && decide (m.group = group) && decide (galOf m.instr = gal) &&
    (match m.instr with | .manc _ => true | _ => false)

/-- R220: a header in which a reserved field is not zero, once the MANCs ahead have written its word 0. -/
def Group.headBad (g : Group) (gal : Nat) (ahead : Bool) : Bool :=
  (!ahead && bits (g.galHead gal 0) 15 0 != 0) || (List.range 13).any fun j => g.galHead gal (3 + j) != 0

end Sys2Proof.Machine
end

