-- ==== Sys2Proof/Machine/Control.lean ====
section
/-! DEFINITION. The control instructions (spec/07, opcodes 0x68 to 0x6F), named barriers (R198, R199), the
merging of fragments (R146, R147) and the end of a gang (R153, R247). -/
namespace Sys2Proof.Machine

/-! Named barriers and the end of a gang. -/

def Bar.empty : Bar := ⟨[], none, []⟩
def Group.bar (g : Group) (id : Nat) : Bar := Cells.getD g.bars id Bar.empty

/-- R147, R150, R199: a fragment goes on after the long-form instruction at which it waited; a BAR may stand in a LOOP body. -/
def Frag.resume (f : Frag) (level : Nat) : Frag :=
  let (a, loop, _) := f.follow level 3
  (({ f with pc := toPc a, chead := toPc a, loop := loop, wait := .run, waitCyc := 0, chainRd := [], chainX := false } : Frag).leaveLoop level).settle level

/-- The core that holds the saved gangs of a group. -/
def savedCore (gk : Nat) : Nat := 1024 + gk

/-- R326: a barrier of a group completed a phase: its epoch rises and its gangs' ACQF bits are cleared, those of saved gangs too. -/
def State.phaseDone (s : State) (gk : Nat) : State :=
  match s.group? gk with
  | none => s
  | some g =>
    let clear := fun (co : Core) => { co with gangs := co.gangs.map fun p => if p.2.group = gk then (p.1, { p.2 with acqf := false }) else p }
    let s1 := (s.modGroup gk fun g => { g with sep := (g.sep + 1) % 2 ^ 32 }).modCore g.core clear
    if (s.core (savedCore gk)).gangs.isEmpty then s1 else s1.modCore (savedCore gk) clear

/-- R198: releases the gangs that wait at a barrier and starts its next phase. -/
def State.completeBar (s : State) (gk id : Nat) : State :=
  match s.group? gk with
  | none => s
  | some g =>
    let waiting := (g.bar id).waiting
    let free := fun (x : Gang) =>
      { x with acqf := true, frags := x.frags.map fun f => match f.wait with
                 | .arrived _ => f.resume x.level
                 | _ => f }
    ((s.phaseDone gk).modCore g.core fun co =>
      { co with gangs := co.gangs.map fun p => if p.2.group = gk && waiting.contains p.2.gid then (p.1, free p.2) else p }).modGroup gk fun g => { g with bars := Cells.set Bar.empty g.bars id Bar.empty }

/-- R198: completes a barrier's phase when the arrivals have reached the count. -/
def State.tryBar (s : State) (gk id : Nat) : State :=
  match s.group? gk with
  | none => s
  | some g =>
    let b := g.bar id
    match b.count with
    | none => s
    | some n => if (if n = 0 then g.live.length else n) ≤ b.arrived.length then s.completeBar gk id else s

/-- R153, R247, R255: the gang of a slot ends: its slot is freed and its generation advances, it leaves the
engine (R216), and barriers that count every gang look again (R198). Its parked accesses and deferred
reports go with it. -/
def State.gangEnd (s : State) (k sl : Nat) : State :=
  match s.gang? k sl with
  | none => s
  | some g =>
    let s1 := (s.releaseEngine k sl).modCore k fun co =>
      { co.loseRings sl with gangs := Cells.del co.gangs sl, gens := Cells.put co.gens sl (Cells.getD co.gens sl 0 + 1) }
    let s2 := s1.modGroup g.group fun x => { x with live := x.live.filter (· ≠ g.gid) }
    (List.range 16).foldl (fun s id => match (s.group? g.group).bind fun x => (x.bar id).count with
      | some 0 => s.tryBar g.group id
      | _ => s) s2

/-! Branches. -/

/-- R132: JOFF, signed. -/
def joffOf (f : Long) : Int := sext (f.b.toNat + 256 * f.c.toNat) 16

/-- R141, R142: the join address, when JOFF is not zero. -/
def joinOf (c : Ctx) (f : Long) : Option PcWord :=
  if joffOf f = 0 then none else some (toPc (wrap ((pcAddr c.f.pc : Nat) + 4 * joffOf f) 57))

/-- R141: the fixed target of BRA and CALL. -/
def fixedTarget (c : Ctx) (f : Long) : Int := (pcAddr c.f.pc : Nat) + 4 * sext (immN f) 32

/-- R141: the first cause of the targets of the ACTIVE lanes. -/
def targetCause (c : Ctx) (t : Nat → Int) : Option (BitVec 6 × Nat) :=
  let mis := c.lanes.filter fun i => decide (t i % 4 ≠ 0)
  let out := c.lanes.filter fun i => decide (t i < 0) || decide (((2 ^ 57 : Nat) : Int) ≤ t i)
  let m := fun (l : List Nat) => (maskOf fun i => l.contains i).toNat
  if !mis.isEmpty then some (0x08, m mis) else if !out.isEmpty then some (0x09, m out) else none

/-- R142: lanes grouped by next address, groups in order of their lowest lane. -/
def groupLanes : List (Nat × Nat) → List (Nat × Mask)
  | l => l.foldl (fun gs p =>
      let bit : Mask := BitVec.ofNat 32 (2 ^ p.1)
      if gs.any fun q => decide (q.1 = p.2) then gs.map fun q => if q.1 = p.2 then (q.1, q.2 ||| bit) else q
      else gs ++ [(p.2, bit)]) []

/-- R142: a fragment at a new place; control instructions end the chain (R91). -/
def Frag.goTo (f : Frag) (a : Nat) (join : Option PcWord) : Frag :=
  { f with pc := toPc a, chead := toPc a, chainRd := [], chainX := false, defer := 0, urg := none, lost := false,
           jv := join.isSome || f.jv, join := join.getD f.join }

/-- R142, R151, R240: gives every lane of the fragment its next address and splits the fragment. At level 0 a branch leaves no
loop state: what it reaches of a body runs unstepped. -/
def Ctx.place (c : Ctx) (words : Nat) (join : Option PcWord) (t : Nat → Int) (g : Gang) : Gang :=
  let seq := pcAddr c.f.pc + 4 * words
  let next := fun i => if c.active.getLsbD i then (t i).toNat else seq
  let first := c.f.stepped c.g.stepping (pcAddr c.f.pc)
  if 0 < c.g.level then
    g.modFrag c.f.fid fun _ => { first.goTo (next (lowest c.f.mask)) none with jv := c.f.jv, join := c.f.join }
  else
    let parts := groupLanes ((lanesOf c.f.mask).map fun i => (i, next i))
    let child := fun (j : Nat) (p : Nat × Mask) =>
      let b := if j = 0 then first else { c.f with fid := g.nextFid + j - 1, stepDue := false, pass := none }
      { b.goTo p.1 join with mask := p.2, loop := none }.settle 0
    { g with frags := g.frags.flatMap fun f => if f.fid = c.f.fid then parts.mapIdx child else [f],
             nextFid := g.nextFid + parts.length - 1 }

/-- A branch: the checks of R141, then R142. -/
def branchEff (i : Instr) (join : Ctx → Option PcWord) (t : Ctx → Nat → Int) (c : Ctx) : Eff :=
  match targetCause c (t c) with
  | some (cause, v) => .raise cause v
  | none => .placed (c.st.setGang c.k c.sl (c.place (Instr.words i) (join c) (t c) c.g))

/-- R143: BRA. -/
def braEff (i : Instr) : Ctx → Eff :=
  let f := Instr.long i
  branchEff i (joinOf · f) fun c _ => fixedTarget c f

/-- R144: BRX, and RET, which has no JOFF. -/
def brxEff (ret : Bool) (i : Instr) : Ctx → Eff :=
  let f := Instr.long i
  branchEff i (fun c => if ret then none else joinOf c f) fun c lane => (c.src f.lit f.a 64 lane : Nat)

/-- R145, R240: CALL. -/
def callEff (i : Instr) (c : Ctx) : Eff :=
  let f := Instr.long i
  match targetCause c fun _ => fixedTarget c f with
  | some (cause, v) => .raise cause v
  | none =>
    let lanes := if 0 < c.g.level then c.f.mask else c.active
    let g := c.g.putAll f.d 64 lanes fun _ => pcAddr c.f.pc + 12
    .placed (c.st.setGang c.k c.sl (c.place (Instr.words i) (joinOf c f) (fun _ => fixedTarget c f) g))

/-- R147, R240: RGANG. -/
def rgangEff (c : Ctx) : Eff :=
  if 0 < c.g.level then .next c.st
  else .placed (c.st.modGang c.k c.sl fun g => g.modFrag c.f.fid fun f =>
    (({ f with wait := .rgang, waitCyc := 0, chead := f.pc, chainRd := [], chainX := false, defer := 0, urg := none, lost := false } : Frag).leaveLoop
      0).stepped c.g.stepping (pcAddr f.pc))

/-- R150: the address after n body instructions, found from their LEN. -/
def State.walkBody (s : State) (k fn lk : Nat) : Nat → Nat → Except (BitVec 6 × Nat) Nat
  | 0, a => .ok a
  | n + 1, a =>
    match s.fetchWord k fn lk a with
    | .error c => .error (c, a)
    | .ok (w, _) => s.walkBody k fn lk n (a + 4 * lenWords w)

/-- R150: the addresses of the instructions of a loop body, as far as they can be fetched. -/
def State.bodyAddrs (s : State) (k fn lk : Nat) : Nat → Nat → List Nat
  | 0, _ => []
  | n + 1, a =>
    match s.fetchWord k fn lk a with
    | .error _ => [a]
    | .ok (w, _) => a :: s.bodyAddrs k fn lk n (a + 4 * lenWords w)

/-- R152: a loop state with the addresses of its body, where some of them could not be fetched before. -/
def State.refreshLoop (s : State) (k fn lk : Nat) (l : LoopSt) : LoopSt :=
  if l.addrs.length < l.len then { l with addrs := s.bodyAddrs k fn lk l.len l.body } else l

/-- R149, R150: LOOP. The step words follow all the words of the LOOP, its literal too (log 72). -/
def loopEff (i : Instr) (c : Ctx) : Eff :=
  let f := Instr.long i
  let n := subF f 4 0 + 1
  let count := if f.sub.getLsbD 5 then (if c.acts then c.src f.lit f.a 32 (lowest c.active) else 0) else immF f 16 0
  let body := pcAddr c.f.pc + 4 * Instr.words i + 4 * n
  let go := fun (a : Nat) (loop : Option LoopSt) =>
    Eff.placed (c.st.modGang c.k c.sl fun g => g.modFrag c.f.fid fun f =>
      (({ f with pc := toPc a, chead := toPc a, chainRd := [], chainX := false, defer := 0, urg := none, lost := false, loop := loop } : Frag).stepped
        c.g.stepping (pcAddr f.pc)).settle c.g.level)
  if 65536 < count then .raise 0x02 (c.st.reportWords i)
  else if count = 0 then
    match c.st.walkBody c.k c.g.fetchFn (c.st.launchOf c.g) n body with
    | .ok a => go a none
    | .error (cause, va) => .raise cause va
  else go body (some { body := body, len := n, count := count, k := 0, addrs := c.st.bodyAddrs c.k c.g.fetchFn (c.st.launchOf c.g) n body })

/-- R153: EXIT. -/
def exitEff (c : Ctx) : Eff :=
  let left := c.f.mask &&& ~~~c.active
  if left = 0 then
    let g := { c.g with frags := c.g.frags.filter fun f => decide (f.fid ≠ c.f.fid) }
    if g.frags.isEmpty then .placed (c.st.gangEnd c.k c.sl) else .placed (c.st.setGang c.k c.sl g)
  else .next (c.st.setGang c.k c.sl (c.g.modFrag c.f.fid fun f => { f with mask := left }))

/-- R154, R290: YIELD. -/
def yieldEff (c : Ctx) : Eff :=
  .next (c.st.modGang c.k c.sl fun g =>
    { g with gwait := 0, yieldEnd := c.st.cycle + 16 }.modFrag c.f.fid fun f => { f with skip := c.st.cycle + 1 })

/-! Merging fragments. -/

/-- R146: a fragment is running when it is neither at its join nor waiting at an RGANG. -/
def Frag.running (f : Frag) : Bool := f.wait != .join && f.wait != .rgang

/-- R146: the address that is released next, if one is. -/
def Gang.joinDue (g : Gang) : Option Nat :=
  let at? := (g.frags.filter fun f => f.wait == .join).map fun f => pcAddr f.pc
  let ok := at?.filter fun a => g.frags.all fun f => !(f.running && f.jv && decide (pcAddr f.join ≤ a))
  ok.foldl (fun m a => match m with
    | none => some a
    | some b => some (min a b)) none

/-- Merges the fragments of a selection into the oldest of them, whose loop state the entry keeps (log 72). -/
def Gang.mergeFrags (g : Gang) (sel : Frag → Bool) (h : Frag → Frag) : Gang :=
  match g.frags.find? sel with
  | none => g
  | some old =>
    let ms := g.frags.filter sel
    let m := ms.foldl (fun m f => m ||| f.mask) 0
    let due := ms.any (·.stepDue)
    { g with frags := g.frags.flatMap fun f =>
        if f.fid = old.fid then
          [h { f with mask := m, wait := .run, waitCyc := 0, chainRd := [], chainX := false, stepDue := due, defer := 0, urg := none, lost := false }]
        else if sel f then [] else [f] }

/-- R146: releases the fragments at their join at an address. -/
def Gang.releaseJoin (g : Gang) (a : Nat) : Gang :=
  let above := ((g.frags.filter fun f => f.wait == .join && decide (a < pcAddr f.pc)).map fun f => pcAddr f.pc).foldl
    (fun (m : Option Nat) b => some (match m with
      | none => b
      | some x => min x b)) none
  g.mergeFrags (fun f => f.wait == .join && decide (pcAddr f.pc = a)) fun f =>
    { f with chead := f.pc, jv := above.isSome, join := match above with
               | some b => toPc b
               | none => f.join }

/-- R147: every slice of the set takes s0 to s27 of its lowest slice. -/
def Gang.uniform (g : Gang) (m : Mask) : Gang :=
  let ss := (List.range 8).filter fun j => (slicesOf m).getLsbD j
  match ss with
  | [] => g
  | low :: rest => rest.foldl (fun g j => (List.range 28).foldl (fun g r => g.setS r j (g.sReg r low)) g) g

/-- R147: merges the fragments that wait at the RGANG at an address. -/
def Gang.releaseRgang (g : Gang) (a : Nat) : Gang :=
  let sel := fun (f : Frag) => f.wait == .rgang && decide (pcAddr f.pc = a)
  let m := (g.frags.filter sel).foldl (fun m f => m ||| f.mask) 0
  (g.mergeFrags sel fun f => f.resume 0).uniform m

/-- R147: the RGANGs that are released next: those of every waiting fragment once none runs. -/
def Gang.rgangDue (g : Gang) : List Nat :=
  if g.frags.all fun f => !f.running then ((g.frags.filter fun f => f.wait == .rgang).map fun f => pcAddr f.pc).eraseDups else []

/-! The meanings. -/

def execBra (f : Long) (s : State) : Out := run (.bra f) (braEff (.bra f)) s
def execBrx (f : Long) (s : State) : Out := run (.brx f) (brxEff false (.brx f)) s
def execCall (f : Long) (s : State) : Out := run (.call f) (callEff (.call f)) s
def execRet (f : Long) (s : State) : Out := run (.ret f) (brxEff true (.ret f)) s
def execRgang (f : Long) (s : State) : Out := run (.rgang f) rgangEff s
def execLoop (f : Long) (s : State) : Out := run (.loop f) (loopEff (.loop f)) s
def execLoopR (f : Long) (s : State) : Out := run (.loopR f) (loopEff (.loopR f)) s
def execExitShort (f : Short) (s : State) : Out := run (.exitShort f) exitEff s
def execExit (f : Long) (s : State) : Out := run (.exit f) exitEff s
def execYieldShort (f : Short) (s : State) : Out := run (.yieldShort f) yieldEff s
def execYield (f : Long) (s : State) : Out := run (.yield f) yieldEff s

end Sys2Proof.Machine
end

