-- ==== Sys2Proof/Machine/Funcs.lean ====
section
/-! DEFINITION. The correctly rounded functions of R52 and R53. Each function answers a dyadic number that
rounds, in every mode of R44 and every format of R41, as the exact real result does: the exact result when
it is dyadic, else a truncation to far more bits than any format holds with a nonzero last bit. The working
precision is 512 bits (log 11). -/
namespace Sys2Proof.Machine

/-- The working precision, in bits after the point. -/
def fxBits : Nat := 512
def fxOne : Nat := 2 ^ fxBits

/-- The integer square root, one result bit a step from bit k down. -/
def isqrtGo (n : Nat) : Nat → Nat → Nat
  | 0, r => if (r + 1) * (r + 1) ≤ n then r + 1 else r
  | k + 1, r =>
    let t := r + 2 ^ (k + 1)
    isqrtGo n k (if t * t ≤ n then t else r)

def isqrt (n : Nat) : Nat := isqrtGo n (Nat.log2 n / 2) 0

/-- The factor 2^k of a positive number, and the number without it. -/
def oddPart : Nat → Nat → Nat → Nat × Nat
  | 0, a, k => (a, k)
  | f + 1, a, k => if a % 2 = 0 then oddPart f (a / 2) (k + 1) else (a, k)

/-- m × 2^e with m odd and positive. -/
def normOdd (a : Nat) (e : Int) : Nat × Int :=
  let r := oddPart 1100 a 0
  (r.1, e + r.2)

/-- n × 2^e with a nonzero part below the last bit: a value strictly between n and n + 1 units. -/
def sticky (neg : Bool) (n : Nat) (e : Int) : Val :=
  .fin (if neg then -((2 * n + 1 : Nat) : Int) else ((2 * n + 1 : Nat) : Int)) (e - 1)

/-- 1/x. -/
def fnRcp (m e : Int) : Val :=
  let (a, e') := normOdd m.natAbs e
  let neg := decide (m < 0)
  if a = 1 then .fin (if neg then -1 else 1) (-e')
  else
    let l := Nat.log2 a + 200
    sticky neg (2 ^ l / a) (-(l : Int) - e')

/-- √x, x > 0. -/
def fnSqrt (m e : Int) : Val :=
  let a := if e % 2 = 0 then m.natAbs else 2 * m.natAbs
  let e' := if e % 2 = 0 then e else e - 1
  let n := a * 2 ^ 400
  let r := isqrt n
  if r * r = n then .fin r (e' / 2 - 200) else sticky false r (e' / 2 - 200)

/-- 1/√x, x > 0. -/
def fnRsq (m e : Int) : Val :=
  let (a, e') := normOdd m.natAbs e
  if a = 1 ∧ e' % 2 = 0 then .fin 1 (-(e' / 2))
  else
    let b := if e' % 2 = 0 then a else 2 * a
    let e2 := if e' % 2 = 0 then e' else e' - 1
    let l := Nat.log2 b + 400
    let l2 := if l % 2 = 0 then l else l + 1
    sticky false (isqrt (2 ^ l2 / b)) (-((l2 / 2 : Nat) : Int) - e2 / 2)

/-- Σ x^(2k+1)/(2k+1) for x = 1/n in fixed point, with alternating signs when `alt`. -/
def atanSum (alt : Bool) (n2 : Nat) : Nat → Nat → Nat → Int
  | 0, _, _ => 0
  | f + 1, k, p =>
    let t : Int := ((p / (2 * k + 1) : Nat) : Int)
    (if alt && k % 2 = 1 then -t else t) + atanSum alt n2 f (k + 1) (p / n2)

/-- ln 2 = 2 atanh(1/3). -/
def fxLn2 : Nat := (2 * atanSum false 9 170 0 (fxOne / 3)).toNat

/-- π = 16 atan(1/5) − 4 atan(1/239). -/
def fxPi : Nat := (16 * atanSum true 25 120 0 (fxOne / 5) - 4 * atanSum true 57121 40 0 (fxOne / 239)).toNat

/-- Σ y^n/n! from term t on, in fixed point. -/
def expSum (y : Nat) : Nat → Nat → Nat → Nat
  | 0, _, _ => 0
  | f + 1, n, t => t + expSum y f (n + 1) (t * y / fxOne / (n + 1))

/-- A dyadic m × 2^e in fixed point, exact when e ≥ −512. -/
def toFx (a : Nat) (e : Int) : Nat :=
  let s := (fxBits : Int) + e
  if 0 ≤ s then a * 2 ^ s.toNat else a / 2 ^ (-s).toNat

/-- 2^x. -/
def fnEx2 (m e : Int) : Val :=
  let neg := decide (m < 0)
  let a := m.natAbs
  let top := (Nat.log2 a : Int) + e
  if 20 ≤ top then (if neg then sticky false 1 (-100000) else .fin 1 100000)
  else if top < -200 then (if neg then .fin (2 ^ 300 - 1) (-300) else .fin (2 ^ 300 + 1) (-300))
  else
    let x := toFx a e
    let xi : Int := if neg then -((x : Nat) : Int) else x
    let i := xi / (fxOne : Int)
    let f := (xi % (fxOne : Int)).toNat
    if f = 0 then .fin 1 i
    else sticky false (expSum (f * fxLn2 / fxOne) 110 0 fxOne) (i - fxBits)

/-- Σ z^(2k+1)/(2k+1), for atanh z. -/
def atanhSum (z2 : Nat) : Nat → Nat → Nat → Nat
  | 0, _, _ => 0
  | f + 1, k, p => p / (2 * k + 1) + atanhSum z2 f (k + 1) (p * z2 / fxOne)

/-- log2 x, x > 0. -/
def fnLg2 (m e : Int) : Val :=
  let a := m.natAbs
  let l := Nat.log2 a
  let i := (l : Int) + e
  if a = 2 ^ l then (if i = 0 then .zero false else .fin i 0)
  else
    let y := toFx a (-(l : Int))
    let z := (y - fxOne) * fxOne / (y + fxOne)
    let ln := 2 * atanhSum (z * z / fxOne) 170 0 z
    let r : Int := i * fxOne + ((ln * fxOne / fxLn2 : Nat) : Int)
    .fin (2 * r + 1) (-(fxBits : Int) - 1)

/-- Σ of the alternating series t − t·y²/((n+1)(n+2)) + …, for sin (from t = y, n = 1) and cos. -/
def trigSum (y2 : Nat) : Nat → Nat → Nat → Int
  | 0, _, _ => 0
  | f + 1, n, t => (t : Int) - trigSum y2 f (n + 2) (t * y2 / fxOne / ((n + 1) * (n + 2)))

/-- sin(πt) for 0 < t < 1/2, t = a × 2^e, as a nonzero dyadic. -/
def sinPiFirst (neg : Bool) (a : Nat) (e : Int) : Val :=
  if (Nat.log2 a : Int) + e < -200 then sticky neg (a * fxPi) (e - fxBits)
  else
    let y := toFx a e * fxPi / fxOne
    sticky neg (trigSum (y * y / fxOne) 60 1 y).toNat (-(fxBits : Int))

/-- cos(πt) for 0 < t < 1/2. -/
def cosPiFirst (neg : Bool) (a : Nat) (e : Int) : Val :=
  if (Nat.log2 a : Int) + e < -200 then .fin (if neg then -(2 ^ 300 - 1) else 2 ^ 300 - 1) (-300)
  else
    let y := toFx a e * fxPi / fxOne
    sticky neg (trigSum (y * y / fxOne) 60 0 fxOne).toNat (-(fxBits : Int))

/-- The magnitude's quarter turns: x = h/2 + t with 0 ≤ t < 1/2; h modulo 4 and t as a dyadic of exponent e. -/
def halfTurns (a : Nat) (e : Int) : Nat × Nat :=
  if 0 ≤ e then (2 * (a * 2 ^ e.toNat) % 4, 0)
  else
    let u := 2 ^ ((-e).toNat - 1)
    (a / u % 4, a % u)

/-- sin(πx), with the sign of a zero result that of x (R53). -/
def fnSinPi (m e : Int) : Val :=
  let neg := decide (m < 0)
  let (h, t) := halfTurns m.natAbs e
  let neg2 := xor neg (decide (2 ≤ h))
  if t = 0 then (if h % 2 = 0 then .zero neg else .fin (if neg2 then -1 else 1) 0)
  else if h % 2 = 0 then sinPiFirst neg2 t e else cosPiFirst neg2 t e

/-- cos(πx). -/
def fnCosPi (m e : Int) : Val :=
  let (h, t) := halfTurns m.natAbs e
  let neg := decide (h = 1 ∨ h = 2)
  if t = 0 then (if h % 2 = 1 then .zero false else .fin (if h = 2 then -1 else 1) 0)
  else if h % 2 = 0 then cosPiFirst neg t e else sinPiFirst neg t e

/-- R52, R53: function `fn` (SUB of FFUNC) of an operand: the exact result and its flags. -/
def fnEval (fn : Nat) (x : Val) : Val × Flags :=
  match x with
  | .nan s => (.nan false, (Val.nan s).nv)
  | .zero n =>
    match fn with
    | 0 => (.inf n, Flags.dz)
    | 1 => (.inf n, Flags.dz)
    | 2 => (.zero n, 0)
    | 3 => (.fin 1 0, 0)
    | 4 => (.inf true, Flags.dz)
    | 5 => (.zero n, 0)
    | _ => (.fin 1 0, 0)
  | .inf n =>
    match fn with
    | 0 => (.zero n, 0)
    | 1 => if n then (.nan false, Flags.nv) else (.zero false, 0)
    | 2 => if n then (.nan false, Flags.nv) else (.inf false, 0)
    | 3 => if n then (.zero false, 0) else (.inf false, 0)
    | 4 => if n then (.nan false, Flags.nv) else (.inf false, 0)
    | _ => (.nan false, Flags.nv)
  | .fin m e =>
    match fn with
    | 0 => (fnRcp m e, 0)
    | 1 => if m < 0 then (.nan false, Flags.nv) else (fnRsq m e, 0)
    | 2 => if m < 0 then (.nan false, Flags.nv) else (fnSqrt m e, 0)
    | 3 => (fnEx2 m e, 0)
    | 4 => if m < 0 then (.nan false, Flags.nv) else (fnLg2 m e, 0)
    | 5 => (fnSinPi m e, 0)
    | _ => (fnCosPi m e, 0)

end Sys2Proof.Machine
end

