-- ==== Sys2Proof/Machine/IntOps.lean ====
section
/-! DEFINITION. The integer, logic and address instructions (spec/05, opcodes 0x00 to 0x15). -/
namespace Sys2Proof.Machine

/-- R96: the integer format that FMT selects. -/
def intFmtOf (f : Long) : IntFmt := match Fmt.ofCode f.fmt with | some (.int g) => g | _ => ⟨32, true⟩

/-- R96: the width of D, A and B. -/
def intW (f : Long) : Nat := fmtWidth f.fmt

/-- R96: A and B of a lane at the format's width. -/
def Ctx.opA (c : Ctx) (f : Long) (lane : Nat) : Nat := c.src f.lit f.a (intW f) lane
def Ctx.opB (c : Ctx) (f : Long) (lane : Nat) : Nat := c.src f.lit f.b (intW f) lane
def Ctx.opC (c : Ctx) (f : Long) (lane : Nat) : Nat := c.src f.lit f.c (intW f) lane
def Ctx.opB32 (c : Ctx) (f : Long) (lane : Nat) : Nat := c.src f.lit f.b 32 lane

/-- R96: element by element, the exact results of A and B under an operation. -/
def elemResults (g : IntFmt) (e : Nat) (op : Int → Int → Int) (a b : Nat) : List Int :=
  (List.range e).map fun j => op (g.val (elem a g.w j)) (g.val (elem b g.w j))

/-- R96, R97: packs reduced element results. -/
def packReduced (g : IntFmt) (sat : Bool) (l : List Int) : Nat := packElems g.w (l.map (g.reduce sat))

/-- A register instruction whose lanes compute one value each. -/
def valueEff (i : Instr) (w : Nat) (v : Ctx → Nat → Nat) (c : Ctx) : Eff := .next (c.writeReg i w (v c) c.g)

/-- R97: a register instruction that traps with 0x25 when OVF is set and an exact result is out of range. -/
def arithEff (i : Instr) (w : Nat) (g : IntFmt) (ovf : Bool) (exact : Ctx → Nat → List Int) (c : Ctx) : Eff :=
  let outside := fun lane => (exact c lane).any g.outside
  let bad := c.lanes.filter outside
  if ovf && !bad.isEmpty then .raise 0x25 (maskOf fun i => bad.contains i).toNat
  else .next (c.writeReg i w (fun lane => packReduced g (satOf c.g i) (exact c lane)) c.g)

/-- R99: IADD and ISUB; `sub` says which. -/
def addEff (sub : Bool) (i : Instr) (c : Ctx) : Eff :=
  let f := Instr.long i
  let g := intFmtOf f
  let cc := ccBit f
  let cin := fun lane => if cc && (c.mask f.c).getLsbD lane then 1 else 0
  let op := fun lane (a b : Int) => if sub then a - b - (cin lane : Nat) else a + b + (cin lane : Nat)
  let e := if cc then 1 else fmtElems f.fmt
  let exact := fun (c : Ctx) lane => elemResults g e (op lane) (c.opA f lane) (c.opB f lane)
  if cc then
    let carry := fun lane =>
      let a : Int := (c.opA f lane % 2 ^ g.w : Nat)
      let b : Int := (c.opB f lane % 2 ^ g.w : Nat)
      let u := op lane a b
      decide (((2 ^ g.w : Nat) : Int) ≤ u) || decide (u < 0)
    let p := immF f 2 0
    let g' := c.g.setP p ((c.g.pReg p &&& ~~~c.active) ||| (c.active &&& maskOf carry))
    .next (c.writeReg i (intW f) (fun lane => packReduced g false (exact c lane)) (if f.nwb then c.g else g'))
  else arithEff i (intW f) g (ovfBit f) exact c

/-- R100: IMUL. -/
def mulEff (i : Instr) : Ctx → Eff :=
  let f := Instr.long i
  arithEff i (intW f) (intFmtOf f) (ovfBit f) fun c lane => elemResults (intFmtOf f) 1 (· * ·) (c.opA f lane) (c.opB f lane)

/-- R100: IMULH. -/
def mulhEff (i : Instr) : Ctx → Eff :=
  let f := Instr.long i
  let g := intFmtOf f
  valueEff i (intW f) fun c lane => wrap ((g.val (c.opA f lane) * g.val (c.opB f lane)) / ((2 ^ g.w : Nat) : Int)) g.w

/-- R101: IMAD, and with WIDE into 64 bits. -/
def imadEff (i : Instr) : Ctx → Eff :=
  let f := Instr.long i
  let g := intFmtOf f
  let g' : IntFmt := if ccBit f then ⟨64, g.signed⟩ else g
  arithEff i g'.w g' (ovfBit f) fun c lane => [g.val (c.opA f lane) * g.val (c.opB f lane) + g'.val (c.src f.lit f.c g'.w lane)]

/-- R102: IMIN and IMAX. -/
def minMaxEff (max : Bool) (i : Instr) : Ctx → Eff :=
  let f := Instr.long i
  let g := intFmtOf f
  valueEff i (intW f) fun c lane =>
    packReduced g false (elemResults g (fmtElems f.fmt) (fun a b => if decide (b < a) == max then a else b) (c.opA f lane) (c.opB f lane))

/-- R103: AND, OR and XOR. -/
def logicEff (op : Nat → Nat → Nat) (i : Instr) : Ctx → Eff :=
  let f := Instr.long i
  valueEff i (intW f) fun c lane => op (c.opA f lane) (c.opB f lane)

/-- R103, R139: entry a + 2b + 4c of a truth table. -/
def tableBit (t : Nat) (a b c : Bool) : Bool := t.testBit ((if a then 1 else 0) + (if b then 2 else 0) + (if c then 4 else 0))

/-- R103: TERN. -/
def ternEff (i : Instr) : Ctx → Eff :=
  let f := Instr.long i
  valueEff i (intW f) fun c lane =>
    let a := c.opA f lane
    let b := c.opB f lane
    let d := c.opC f lane
    (List.range (intW f)).foldl (fun r k => if tableBit (subN f) (a.testBit k) (b.testBit k) (d.testBit k) then r + 2 ^ k else r) 0

/-- R104: SHL. A count of 128 or more acts as 128 does. -/
def shlEff (i : Instr) : Ctx → Eff :=
  let f := Instr.long i
  let g := intFmtOf f
  arithEff i (intW f) g (ovfBit f) fun c lane => [g.val (c.opA f lane) * ((2 ^ min (c.opB32 f lane) 128 : Nat) : Int)]

/-- R104: SHR and SAR; `arith` says which. -/
def shrEff (arith : Bool) (i : Instr) : Ctx → Eff :=
  let f := Instr.long i
  let n := (intFmtOf f).w
  valueEff i (intW f) fun c lane =>
    let s := min (c.opB32 f lane) 64
    if arith then wrap (sext (c.opA f lane) n / ((2 ^ s : Nat) : Int)) n else c.opA f lane % 2 ^ n / 2 ^ s

/-- R105: the number of zero bits above the highest one, and below the lowest one. -/
def clz (n x : Nat) : Nat := if x = 0 then n else n - 1 - Nat.log2 x
def ctz (n x : Nat) : Nat := ((List.range n).find? fun k => x.testBit k).getD n
def popc (n x : Nat) : Nat := ((List.range n).filter fun k => x.testBit k).length
def brev (n x : Nat) : Nat := (List.range n).foldl (fun r k => if x.testBit k then r + 2 ^ (n - 1 - k) else r) 0
def byterev (n x : Nat) : Nat := (List.range (n / 8)).foldl (fun r k => r + elem x 8 k * 2 ^ (8 * (n / 8 - 1 - k))) 0

/-- R105: BITOP. -/
def bitopEff (i : Instr) : Ctx → Eff :=
  let f := Instr.long i
  let n := (intFmtOf f).w
  valueEff i (if subN f ≤ 2 then 32 else intW f) fun c lane =>
    let x := c.opA f lane
    match subN f with
    | 0 => popc n x
    | 1 => clz n x
    | 2 => ctz n x
    | 3 => brev n x
    | _ => byterev n x

/-- R106: the position and the effective length of a field descriptor at width n. -/
def fieldOf (n d : Nat) : Nat × Nat :=
  let pos := bits d 7 0
  let len := bits d 15 8
  (pos, if 0 < len ∧ pos < n then min len (n - pos) else 0)

/-- R106: BFE. -/
def bfeEff (i : Instr) : Ctx → Eff :=
  let f := Instr.long i
  let g := intFmtOf f
  valueEff i (intW f) fun c lane =>
    let (pos, len) := fieldOf g.w (if ovfBit f then immN f else c.opB32 f lane)
    let x := c.opA f lane >>> pos % 2 ^ len
    if len = 0 then 0 else if g.signed then wrap (sext x len) g.w else x

/-- R106: BFI. -/
def bfiEff (i : Instr) : Ctx → Eff :=
  let f := Instr.long i
  let n := (intFmtOf f).w
  valueEff i (intW f) fun c lane =>
    let (pos, len) := fieldOf n (if ovfBit f then immN f else c.src f.lit f.c 32 lane)
    let a := c.opA f lane
    if len = 0 then a
    else a % 2 ^ pos + (c.opB f lane % 2 ^ len) * 2 ^ pos + a / 2 ^ (pos + len) * 2 ^ (pos + len)

/-- R107: the conditions 000 to 101 of a comparison. -/
def condInt (cond : Nat) (a b : Int) : Bool :=
  match cond with
  | 0 => decide (a = b)
  | 1 => decide (a ≠ b)
  | 2 => decide (a < b)
  | 3 => decide (a ≤ b)
  | 4 => decide (b < a)
  | _ => decide (b ≤ a)

/-- R107: COMB. -/
def combine (comb : Nat) (r p : Bool) : Bool :=
  match comb with
  | 1 => r && p
  | 2 => r || p
  | _ => r

/-- R107: ICMP. -/
def icmpEff (i : Instr) : Ctx → Eff :=
  let f := Instr.long i
  let g := intFmtOf f
  valueEff i 32 fun c lane =>
    let r := condInt (subF f 2 0) (g.val (c.opA f lane)) (g.val (c.opB f lane))
    if combine (subF f 4 3) r ((c.mask f.c).getLsbD lane) then 1 else 0

/-- R108: SEL. -/
def selEff (i : Instr) : Ctx → Eff :=
  let f := Instr.long i
  valueEff i (intW f) fun c lane => if (c.mask f.c).getLsbD lane then c.opA f lane else c.opB f lane

/-- R109: MOV. -/
def movEff (i : Instr) : Ctx → Eff :=
  let f := Instr.long i
  valueEff i (intW f) fun c lane => c.opA f lane

/-- R109: MOV into an index register; the ring takes the value written. -/
def movToEff (i : Instr) (c : Ctx) : Eff :=
  let f := Instr.long i
  let v := fun lane => c.src f.lit f.a 32 lane % 2 ^ 24
  let g := if f.nwb then c.g else c.lanes.foldl (fun g lane => g.setX (subN f % 8) lane (BitVec.ofNat 32 (v lane))) c.g
  .next ((c.st.setGang c.k c.sl g).modCore c.k fun co => co.push c.sl c.f.fid (slicesOf c.f.mask) c.active v)

/-- R109: MOV out of an index register. -/
def movFromEff (i : Instr) : Ctx → Eff :=
  let f := Instr.long i
  valueEff i 32 fun c lane => (c.g.xReg (subN f % 8) lane).toNat

/-- R110: NOP has no effect and pushes nothing. -/
def nopEff (c : Ctx) : Eff := .next c.st

/-- R111: LEA. -/
def leaEff (i : Instr) : Ctx → Eff :=
  let f := Instr.long i
  let g := intFmtOf f
  let sh := subF f 2 0
  let imm := sext (immN f) 32
  if subF f 7 4 = 0 then
    valueEff i (intW f) fun c lane =>
      let b : Int := if f.sub.getLsbD 3 then (if g.signed then sext (c.opB32 f lane) 32 else (c.opB32 f lane : Nat)) else (c.opB f lane : Nat)
      wrap ((c.opA f lane : Nat) + b * ((2 ^ sh : Nat) : Int) + imm) g.w
  else
    valueEff i 32 fun c lane =>
      let x : Int := ((c.src f.lit f.a 32 lane + c.opB32 f lane * 2 ^ sh : Nat) : Int) + imm
      wrap x 20 + bits (c.src f.lit f.c 32 lane) 5 0 * 2 ^ 20 + 2 ^ 26

/-! The meanings. -/

def execNopShort (f : Short) (s : State) : Out := run (.nopShort f) nopEff s
def execNop (f : Long) (s : State) : Out := run (.nop f) nopEff s
def execIaddShort (f : Short) (s : State) : Out := run (.iaddShort f) (addEff false (.iaddShort f)) s
def execIadd (f : Long) (s : State) : Out := run (.iadd f) (addEff false (.iadd f)) s
def execIsubShort (f : Short) (s : State) : Out := run (.isubShort f) (addEff true (.isubShort f)) s
def execIsub (f : Long) (s : State) : Out := run (.isub f) (addEff true (.isub f)) s
def execImulShort (f : Short) (s : State) : Out := run (.imulShort f) (mulEff (.imulShort f)) s
def execImul (f : Long) (s : State) : Out := run (.imul f) (mulEff (.imul f)) s
def execImulhShort (f : Short) (s : State) : Out := run (.imulhShort f) (mulhEff (.imulhShort f)) s
def execImulh (f : Long) (s : State) : Out := run (.imulh f) (mulhEff (.imulh f)) s
def execImad (f : Long) (s : State) : Out := run (.imad f) (imadEff (.imad f)) s
def execIminShort (f : Short) (s : State) : Out := run (.iminShort f) (minMaxEff false (.iminShort f)) s
def execImin (f : Long) (s : State) : Out := run (.imin f) (minMaxEff false (.imin f)) s
def execImaxShort (f : Short) (s : State) : Out := run (.imaxShort f) (minMaxEff true (.imaxShort f)) s
def execImax (f : Long) (s : State) : Out := run (.imax f) (minMaxEff true (.imax f)) s
def execAndShort (f : Short) (s : State) : Out := run (.andShort f) (logicEff (· &&& ·) (.andShort f)) s
def execAnd (f : Long) (s : State) : Out := run (.and f) (logicEff (· &&& ·) (.and f)) s
def execOrShort (f : Short) (s : State) : Out := run (.orShort f) (logicEff (· ||| ·) (.orShort f)) s
def execOr (f : Long) (s : State) : Out := run (.or f) (logicEff (· ||| ·) (.or f)) s
def execXorShort (f : Short) (s : State) : Out := run (.xorShort f) (logicEff (· ^^^ ·) (.xorShort f)) s
def execXor (f : Long) (s : State) : Out := run (.xor f) (logicEff (· ^^^ ·) (.xor f)) s
def execTern (f : Long) (s : State) : Out := run (.tern f) (ternEff (.tern f)) s
def execShlShort (f : Short) (s : State) : Out := run (.shlShort f) (shlEff (.shlShort f)) s
def execShl (f : Long) (s : State) : Out := run (.shl f) (shlEff (.shl f)) s
def execShrShort (f : Short) (s : State) : Out := run (.shrShort f) (shrEff false (.shrShort f)) s
def execShr (f : Long) (s : State) : Out := run (.shr f) (shrEff false (.shr f)) s
def execSarShort (f : Short) (s : State) : Out := run (.sarShort f) (shrEff true (.sarShort f)) s
def execSar (f : Long) (s : State) : Out := run (.sar f) (shrEff true (.sar f)) s
def execBitop (f : Long) (s : State) : Out := run (.bitop f) (bitopEff (.bitop f)) s
def execBfe (f : Long) (s : State) : Out := run (.bfe f) (bfeEff (.bfe f)) s
def execBfi (f : Long) (s : State) : Out := run (.bfi f) (bfiEff (.bfi f)) s
def execIcmp (f : Long) (s : State) : Out := run (.icmp f) (icmpEff (.icmp f)) s
def execSel (f : Long) (s : State) : Out := run (.sel f) (selEff (.sel f)) s
def execMovShort (f : Short) (s : State) : Out := run (.movShort f) (movEff (.movShort f)) s
def execMov (f : Long) (s : State) : Out := run (.mov f) (movEff (.mov f)) s
def execMovToIndex (f : Long) (s : State) : Out := run (.movToIndex f) (movToEff (.movToIndex f)) s
def execMovFromIndex (f : Long) (s : State) : Out := run (.movFromIndex f) (movFromEff (.movFromIndex f)) s
def execLea (f : Long) (s : State) : Out := run (.lea f) (leaEff (.lea f)) s

end Sys2Proof.Machine
end

