-- ==== Sys2Proof/Machine/FpOps.lean ====
section
/-! DEFINITION. The floating-point, conversion, random-number and window instructions (spec/06, opcodes
0x18 to 0x35). -/
namespace Sys2Proof.Machine

/-- R113: FP16 or BF16, as FMT of the packed instructions selects. -/
def halfFmt (f : Long) : FpFmt := if fmtN f = 11 then .bf16 else .f16

/-- R115: an operand's element under an absolute-value bit and a negation bit. -/
def modElem (fm : FpFmt) (abs neg : Bool) (x : Nat) : Nat :=
  let y := if abs then x % fm.signBit else x % 2 ^ fm.w
  if neg then y ^^^ fm.signBit else y

/-- R114, R115: modified element j of operand A, B or C (p = 0, 1, 2) of a lane, read as a value (R49). -/
def Ctx.fpArg (c : Ctx) (f : Long) (fm : FpFmt) (w p lane j : Nat) : Val :=
  let code := if p = 0 then f.a else if p = 1 then f.b else f.c
  fm.read (ftzOf c.g.mode fm) (modElem fm (f.sub.getLsbD (3 + p)) (f.sub.getLsbD p) (elem (c.src f.lit code w lane) fm.w j))

/-- How result j of n of a lane is rounded (R44 to R46, R49). -/
def Ctx.rcfg (c : Ctx) (i : Instr) (fm : FpFmt) (lane n j : Nat) : RCfg :=
  let f := Instr.long i
  { rnd := rndOf c.g i, rbits := if f.rnd = 6 then randBits (c.src f.lit f.c 32 lane) n j else 0, sat := satOf c.g i,
    ftz := ftzOf c.g.mode fm }

/-- R50, R51: a register instruction whose lanes compute a value and flags. -/
def flagEff (i : Instr) (w : Nat) (v : Ctx → Nat → Nat × Flags) (c : Ctx) : Eff :=
  let fl := fun lane => (v c lane).2
  match flagTrap c.g.trapen c.lanes fl with
  | some (cause, value) => .raise cause value
  | none => .next (c.writeReg i w (fun lane => (v c lane).1) (c.g.raise c.st.cycle (unionFlags c.lanes fl)))

/-- R39: n results of a packed format with their flags. -/
def packResults (w n : Nat) (r : Nat → Nat × Flags) : Nat × Flags :=
  (packElems w ((List.range n).map fun j => (r j).1), (List.range n).foldl (fun a j => a ||| (r j).2) 0)

/-- R117: add, or multiply when `mul`. -/
def faddEff (mul : Bool) (fm : FpFmt) (w : Nat) (i : Instr) : Ctx → Eff :=
  let f := Instr.long i
  let n := w / fm.w
  flagEff i w fun c lane => packResults fm.w n fun j =>
    let a := c.fpArg f fm w 0 lane j
    let b := c.fpArg f fm w 1 lane j
    let cfg := c.rcfg i fm lane n j
    let x := if mul then Val.mul a b else Val.sum cfg.rnd [a, b]
    let y := fm.encode cfg x.1
    (y.1, x.2 ||| y.2)

/-- R118: fused multiply-add. -/
def ffmaEff (fm : FpFmt) (w : Nat) (i : Instr) : Ctx → Eff :=
  let f := Instr.long i
  let n := w / fm.w
  flagEff i w fun c lane => packResults fm.w n fun j =>
    let p := Val.mul (c.fpArg f fm w 0 lane j) (c.fpArg f fm w 1 lane j)
    let cfg := c.rcfg i fm lane n j
    let x := Val.sum cfg.rnd [p.1, c.fpArg f fm w 2 lane j]
    let y := fm.encode cfg x.1
    (y.1, p.2 ||| x.2 ||| y.2)

/-- R49: an operand's bits as read: a flushed subnormal is a zero of its sign. -/
def FpFmt.readBits (fm : FpFmt) (ftz : Bool) (x : Nat) : Nat :=
  if ftz && fm.isSub x then x % 2 ^ fm.w / fm.signBit * fm.signBit else x % 2 ^ fm.w

def Val.isNan : Val → Bool
  | .nan _ => true
  | _ => false
def Val.isZero : Val → Bool
  | .zero _ => true
  | _ => false

/-- R119: the order in which −0 is below +0. -/
def Val.below (a b : Val) : Bool :=
  if a.isZero && b.isZero then a.neg? && !b.neg? else decide (Val.cmp a b < 0)

/-- R119: the minimum, or the maximum when `max`, of two elements' bits. -/
def minMaxFp (max prop : Bool) (fm : FpFmt) (ftz : Bool) (x y : Nat) : Nat × Flags :=
  let a := fm.read ftz x
  let b := fm.read ftz y
  (if a.isNan && b.isNan then fm.qnan
   else if a.isNan || b.isNan then (if prop then fm.qnan else fm.readBits ftz (if a.isNan then y else x))
   else if (if max then a.below b else b.below a) then fm.readBits ftz y else fm.readBits ftz x, a.nv ||| b.nv)

/-- R119: minimum, or maximum when `max`. -/
def fminEff (max : Bool) (fm : FpFmt) (w : Nat) (i : Instr) : Ctx → Eff :=
  let f := Instr.long i
  flagEff i w fun c lane => packResults fm.w (w / fm.w) fun j =>
    minMaxFp max (f.sub.getLsbD 0) fm (ftzOf c.g.mode fm) (elem (c.src f.lit f.a w lane) fm.w j) (elem (c.src f.lit f.b w lane) fm.w j)

/-- R120: a condition. -/
def condFp (cond : Nat) (a b : Val) : Bool :=
  let un := a.isNan || b.isNan
  let k := Val.cmp a b
  match cond with
  | 0 => !un && decide (k = 0)
  | 1 => un || decide (k ≠ 0)
  | 2 => !un && decide (k < 0)
  | 3 => !un && decide (k ≤ 0)
  | 4 => !un && decide (0 < k)
  | 5 => !un && decide (0 ≤ k)
  | 6 => un
  | _ => !un

/-- R120: FCMP and DCMP; HCMP2 compares two elements. -/
def fcmpEff (fm : FpFmt) (w : Nat) (i : Instr) : Ctx → Eff :=
  let f := Instr.long i
  flagEff i 32 fun c lane =>
    let ftz := ftzOf c.g.mode fm
    let arg := fun code j => fm.read ftz (elem (c.src f.lit code w lane) fm.w j)
    let out := fun j => condFp (subF f 2 0) (arg f.a j) (arg f.b j)
    let fl := (List.range (w / fm.w)).foldl (fun a j => a ||| (arg f.a j).nv ||| (arg f.b j).nv) 0
    let p := (c.mask f.c).getLsbD lane
    let bit := fun (b : Bool) => if combine (subF f 4 3) b p then 1 else 0
    if fm.w = 16 then
      if isP f.d then
        (bit (match subF f 6 5 with
          | 0 => out 0
          | 1 => out 1
          | 2 => out 0 && out 1
          | _ => out 0 || out 1), fl)
      else (bit (out 0) + 65536 * bit (out 1), fl)
    else (bit (out 0), fl)

/-- R121: FFUNC and DFUNC. -/
def ffuncEff (fm : FpFmt) (w : Nat) (i : Instr) : Ctx → Eff :=
  let f := Instr.long i
  flagEff i w fun c lane =>
    let x := fnEval (subN f) (fm.read (ftzOf c.g.mode fm) (c.src f.lit f.a w lane))
    let y := fm.encode (c.rcfg i fm lane 1 0) x.1
    (y.1, x.2 ||| y.2)

/-- R122: `.roundi`. -/
def roundiOf (fm : FpFmt) (cfg : RCfg) (x : Val) : Nat × Flags :=
  match x with
  | .fin m e =>
    let neg := decide (m < 0)
    let n := (quantise cfg.rnd 0 neg m.natAbs e 0).1
    if n = 0 then (fm.signed neg 0, 0) else ((fm.encode cfg (.fin (if neg then -(n : Int) else n) 0)).1, 0)
  | x => ((fm.encode cfg x).1, x.nv)

/-- R122: `.fract`. -/
def fractOf (fm : FpFmt) (cfg : RCfg) (x : Val) : Nat × Flags :=
  match x with
  | .fin m e => if 0 ≤ e then (0, 0) else fm.encode { cfg with rnd := 2, sat := false } (.fin (m % ((2 ^ (-e).toNat : Nat) : Int)) e)
  | .zero _ => (0, 0)
  | .inf _ => (fm.qnan, Flags.nv)
  | .nan s => (fm.qnan, (Val.nan s).nv)

/-- R122: `.ldexp`. A power beyond ±5,000 rounds as ±5,000 does in both formats. -/
def ldexpOf (fm : FpFmt) (cfg : RCfg) (b : Int) (x : Val) : Nat × Flags :=
  match x with
  | .fin m e => fm.encode cfg (.fin m (e + max (-5000) (min 5000 b)))
  | x => ((fm.encode cfg x).1, x.nv)

/-- R122: `.getexp`. -/
def getexpOf (x : Val) : Nat × Flags :=
  match x with
  | .fin m e => (wrap ((Nat.log2 m.natAbs : Int) + e) 32, 0)
  | .zero _ => (0x80000000, 0)
  | .inf _ => (0x7FFFFFFF, 0)
  | .nan _ => (0x80000000, Flags.nv)

/-- R122: `.class`. -/
def classOf (fm : FpFmt) (x : Nat) : Nat :=
  match fm.decode x with
  | .nan s => if s then 2 ^ 8 else 2 ^ 9
  | .inf n => if n then 2 ^ 0 else 2 ^ 7
  | .zero n => if n then 2 ^ 3 else 2 ^ 4
  | .fin m _ => if m < 0 then (if fm.isSub x then 2 ^ 2 else 2 ^ 1) else (if fm.isSub x then 2 ^ 5 else 2 ^ 6)

/-- R122: FMISC and DMISC. -/
def fmiscEff (fm : FpFmt) (w : Nat) (i : Instr) : Ctx → Eff :=
  let f := Instr.long i
  let op := subN f
  flagEff i (if op = 3 ∨ op = 4 then 32 else w) fun c lane =>
    let bitsA := c.src f.lit f.a w lane
    let a := fm.read (ftzOf c.g.mode fm) bitsA
    let cfg := c.rcfg i fm lane 1 0
    match op with
    | 0 => roundiOf fm cfg a
    | 1 => fractOf fm cfg a
    | 2 => ldexpOf fm cfg (sext (c.opB32 f lane) 32) a
    | 3 => getexpOf a
    | _ => (if isP f.d then (if classOf fm bitsA &&& immF f 9 0 = 0 then 0 else 1) else classOf fm bitsA, 0)

/-- R123: FDOT2. -/
def fdot2Eff (i : Instr) : Ctx → Eff :=
  let f := Instr.long i
  let h := halfFmt f
  flagEff i 32 fun c lane =>
    let arg := fun code j => h.read (ftzOf c.g.mode h) (elem (c.src f.lit code 32 lane) 16 j)
    let p0 := Val.mul (arg f.a 0) (arg f.b 0)
    let p1 := Val.mul (arg f.a 1) (arg f.b 1)
    let cfg := c.rcfg i .f32 lane 1 0
    let x := Val.sum cfg.rnd [p0.1, p1.1, FpFmt.f32.read (ftzOf c.g.mode .f32) (c.src f.lit f.c 32 lane)]
    let y := FpFmt.f32.encode cfg x.1
    (y.1, p0.2 ||| p1.2 ||| x.2 ||| y.2)

/-- R124: IDOT4. -/
def idot4Eff (i : Instr) : Ctx → Eff :=
  let f := Instr.long i
  let g := intFmtOf f
  valueEff i 32 fun c lane =>
    let a := c.src f.lit f.a 32 lane
    let b := c.src f.lit f.b 32 lane
    let byte := fun (s : Bool) x j => (⟨8, s⟩ : IntFmt).val (elem x 8 j)
    let t := (List.range 4).foldl (fun t j => t + byte (f.sub.getLsbD 0) a j * byte (f.sub.getLsbD 1) b j) (g.val (c.src f.lit f.c 32 lane))
    g.reduce (satOf c.g i) t

/-- Replaces element j of n bits. -/
def insElem (old n j y : Nat) : Nat := old - elem old n j * 2 ^ (n * j) + y % 2 ^ n * 2 ^ (n * j)

/-- R44, R48, R61: the exact value x converted to a format. -/
def Fmt.convert (d : Fmt) (cfg : RCfg) (x : Val) : Nat × Flags :=
  match d with
  | .int g => g.round cfg x
  | .fp g => let r := g.encode cfg x; (r.1, r.2 ||| x.nv)
  | .w128 => (0, 0)

/-- R49: whether a format's results flush. -/
def Fmt.ftz (mode : Word) : Fmt → Bool
  | .fp g => ftzOf mode g
  | _ => false

/-- R49: an element's value as an operand of a conversion. -/
def Fmt.readVal (mode : Word) (s : Fmt) (x : Nat) : Val :=
  match s with
  | .fp g => g.read (ftzOf mode g) x
  | s => s.exact x

/-- R125: the conversion of one element. -/
def cvtElem (mode : Word) (cfg : RCfg) (s d : Fmt) (x : Nat) : Nat × Flags :=
  match s, d with
  | .int g, .int h => (h.reduce cfg.sat (g.val x), 0)
  | s, d => d.convert { cfg with ftz := d.ftz mode } (s.readVal mode x)

/-- R125: CVT. -/
def cvtEff (i : Instr) : Ctx → Eff :=
  let f := Instr.long i
  let sc : BitVec 4 := f.sub.extractLsb' 0 4
  let s := fmtOf sc
  let d := fmtOf f.fmt
  flagEff i (fmtWidth f.fmt) fun c lane =>
    let x := elem (c.src f.lit f.a (fmtWidth sc) lane) s.elemWidth (subF f 5 4)
    let r := cvtElem c.g.mode (c.rcfg i .f32 lane 1 0) s d x
    (insElem (c.src none f.d (fmtWidth f.fmt) lane) d.elemWidth (subF f 7 6) r.1, r.2)

/-- R126: PACK. -/
def packEff (i : Instr) : Ctx → Eff :=
  let f := Instr.long i
  valueEff i 32 fun c lane =>
    packElems 8 ((List.range 4).map fun j =>
      let k := elem (immN f) 4 j
      if k < 4 then elem (c.src f.lit f.a 32 lane) 8 k
      else if k < 8 then elem (c.src f.lit f.b 32 lane) 8 (k - 4)
      else 0)

/-- R127: UNPK. -/
def unpkEff (i : Instr) : Ctx → Eff :=
  let f := Instr.long i
  let e := fmtElems f.fmt
  let w := 32 / e
  valueEff i (32 * e) fun c lane =>
    let a := c.src f.lit f.a 32 lane
    packElems 32 ((List.range e).map fun j => match fmtOf f.fmt with
      | .int g => wrap (g.val (elem a w j)) 32
      | _ => elem a w j)

/-- R128: one round of Philox4x32. -/
def philoxRound (x : Nat × Nat × Nat × Nat) (k0 k1 : Nat) : Nat × Nat × Nat × Nat :=
  let p0 := 0xD2511F53 * x.1
  let p1 := 0xCD9E8D57 * x.2.2.1
  ((p1 / 2 ^ 32) ^^^ x.2.1 ^^^ k0, p1 % 2 ^ 32, (p0 / 2 ^ 32) ^^^ x.2.2.2 ^^^ k1, p0 % 2 ^ 32)

/-- R128: the n rounds that are left. -/
def philox : Nat → Nat × Nat × Nat × Nat → Nat → Nat → Nat × Nat × Nat × Nat
  | 0, x, _, _ => x
  | n + 1, x, k0, k1 => philox n (philoxRound x k0 k1) ((k0 + 0x9E3779B9) % 2 ^ 32) ((k1 + 0xBB67AE85) % 2 ^ 32)

/-- R128: Philox4x32-10 of a counter and a key. -/
def philoxOf (ctr key : Nat) : Nat :=
  let x := philox 10 (bits ctr 31 0, bits ctr 63 32, bits ctr 95 64, bits ctr 127 96) (bits key 31 0) (bits key 63 32)
  x.1 + 2 ^ 32 * x.2.1 + 2 ^ 64 * x.2.2.1 + 2 ^ 96 * x.2.2.2

/-- R128: RNG. -/
def rngEff (i : Instr) : Ctx → Eff :=
  let f := Instr.long i
  valueEff i 128 fun c lane => philoxOf (c.src f.lit f.a 128 lane) (c.src f.lit f.b 64 lane)

/-- R59, R129: adds contributions into a word: the word, NV and overflow. -/
def waddAll (anchor : Int) (w : Galley) : List (Contrib × Bool) → Galley × Bool × Bool
  | [] => (w, false, false)
  | (x, nv) :: t =>
    let r := wadd anchor w x
    let q := waddAll anchor r.1 t
    (q.1, r.2.1 || nv || q.2.1, r.2.2 || q.2.2)

/-- R129, R130: a register instruction whose lanes each leave a window, NV and overflow. -/
def windowEff (i : Instr) (v : Ctx → Nat → Galley × Bool × Bool) (c : Ctx) : Eff :=
  let outside := maskOf fun lane => c.active.getLsbD lane && (v c lane).2.2
  let nv := fun lane => if (v c lane).2.1 then Flags.nv else 0
  if c.g.govt && outside != 0 then .raise 0x26 outside.toNat
  else match flagTrap c.g.trapen c.lanes nv with
    | some (cause, value) => .raise cause value
    | none =>
      let fl := unionFlags c.lanes fun lane => nv lane ||| (if (v c lane).2.2 then Flags.ovf else 0)
      .next (c.writeReg i 128 (fun lane => (v c lane).1.toNat) (c.g.raise c.st.cycle fl))

/-- R129: the contributions of a lane. -/
def xaccContribs (c : Ctx) (f : Long) (lane : Nat) : List (Contrib × Bool) :=
  let w := fmtWidth f.fmt
  let fm := fmtOf f.fmt
  let el := fun code j => fm.exact (elem (c.src f.lit code w lane) fm.elemWidth j)
  match subF f 1 0 with
  | 0 => (List.range fm.elems).map fun j => (.val (el f.a j), false)
  | 1 => (List.range fm.elems).map fun j => let p := Val.mul (el f.a j) (el f.b j); (.val p.1, p.2 != 0)
  | _ => [(.word (BitVec.ofNat 128 (c.src f.lit f.a 128 lane)), false)]

/-- R129: XACC. -/
def xaccEff (i : Instr) : Ctx → Eff :=
  let f := Instr.long i
  windowEff i fun c lane =>
    waddAll (anchorVal (immF f 15 0)) (BitVec.ofNat 128 (c.src none f.d 128 lane)) (xaccContribs c f lane)

/-- R130: XCVT with DIR 0. -/
def xcvtToEff (i : Instr) : Ctx → Eff :=
  let f := Instr.long i
  let fm := fmtOf f.fmt
  windowEff i fun c lane =>
    wadd (anchorVal (immF f 15 0)) 0 (.val (fm.exact (elem (c.src f.lit f.a (fmtWidth f.fmt) lane) fm.elemWidth (subF f 5 4))))

/-- R130: XCVT with DIR 1. -/
def xcvtFromEff (i : Instr) : Ctx → Eff :=
  let f := Instr.long i
  let a := fun (c : Ctx) lane => Galley.value (anchorVal (immF f 15 0)) (BitVec.ofNat 128 (c.src f.lit f.a 128 lane))
  if fmtN f = 14 then windowEff i fun c lane => wadd (anchorVal (immF f 31 16)) 0 (.val (a c lane))
  else
    let d := fmtOf f.fmt
    flagEff i (fmtWidth f.fmt) fun c lane =>
      let r := d.convert { c.rcfg i .f32 lane 1 0 with ftz := d.ftz c.g.mode } (a c lane)
      (insElem (c.src none f.d (fmtWidth f.fmt) lane) d.elemWidth (subF f 5 4) r.1, r.2)

/-! The meanings. -/

def execFaddShort (f : Short) (s : State) : Out := run (.faddShort f) (faddEff false .f32 32 (.faddShort f)) s
def execFadd (f : Long) (s : State) : Out := run (.fadd f) (faddEff false .f32 32 (.fadd f)) s
def execFmulShort (f : Short) (s : State) : Out := run (.fmulShort f) (faddEff true .f32 32 (.fmulShort f)) s
def execFmul (f : Long) (s : State) : Out := run (.fmul f) (faddEff true .f32 32 (.fmul f)) s
def execFfma (f : Long) (s : State) : Out := run (.ffma f) (ffmaEff .f32 32 (.ffma f)) s
def execFminShort (f : Short) (s : State) : Out := run (.fminShort f) (fminEff false .f32 32 (.fminShort f)) s
def execFmin (f : Long) (s : State) : Out := run (.fmin f) (fminEff false .f32 32 (.fmin f)) s
def execFmaxShort (f : Short) (s : State) : Out := run (.fmaxShort f) (fminEff true .f32 32 (.fmaxShort f)) s
def execFmax (f : Long) (s : State) : Out := run (.fmax f) (fminEff true .f32 32 (.fmax f)) s
def execFcmp (f : Long) (s : State) : Out := run (.fcmp f) (fcmpEff .f32 32 (.fcmp f)) s
def execFfunc (f : Long) (s : State) : Out := run (.ffunc f) (ffuncEff .f32 32 (.ffunc f)) s
def execFmisc (f : Long) (s : State) : Out := run (.fmisc f) (fmiscEff .f32 32 (.fmisc f)) s
def execDaddShort (f : Short) (s : State) : Out := run (.daddShort f) (faddEff false .f64 64 (.daddShort f)) s
def execDadd (f : Long) (s : State) : Out := run (.dadd f) (faddEff false .f64 64 (.dadd f)) s
def execDmulShort (f : Short) (s : State) : Out := run (.dmulShort f) (faddEff true .f64 64 (.dmulShort f)) s
def execDmul (f : Long) (s : State) : Out := run (.dmul f) (faddEff true .f64 64 (.dmul f)) s
def execDfma (f : Long) (s : State) : Out := run (.dfma f) (ffmaEff .f64 64 (.dfma f)) s
def execDminShort (f : Short) (s : State) : Out := run (.dminShort f) (fminEff false .f64 64 (.dminShort f)) s
def execDmin (f : Long) (s : State) : Out := run (.dmin f) (fminEff false .f64 64 (.dmin f)) s
def execDmaxShort (f : Short) (s : State) : Out := run (.dmaxShort f) (fminEff true .f64 64 (.dmaxShort f)) s
def execDmax (f : Long) (s : State) : Out := run (.dmax f) (fminEff true .f64 64 (.dmax f)) s
def execDcmp (f : Long) (s : State) : Out := run (.dcmp f) (fcmpEff .f64 64 (.dcmp f)) s
def execDfunc (f : Long) (s : State) : Out := run (.dfunc f) (ffuncEff .f64 64 (.dfunc f)) s
def execDmisc (f : Long) (s : State) : Out := run (.dmisc f) (fmiscEff .f64 64 (.dmisc f)) s
def execHadd2Short (f : Short) (s : State) : Out := run (.hadd2Short f) (faddEff false .f16 32 (.hadd2Short f)) s
def execHadd2 (f : Long) (s : State) : Out := run (.hadd2 f) (faddEff false (halfFmt f) 32 (.hadd2 f)) s
def execHmul2Short (f : Short) (s : State) : Out := run (.hmul2Short f) (faddEff true .f16 32 (.hmul2Short f)) s
def execHmul2 (f : Long) (s : State) : Out := run (.hmul2 f) (faddEff true (halfFmt f) 32 (.hmul2 f)) s
def execHfma2 (f : Long) (s : State) : Out := run (.hfma2 f) (ffmaEff (halfFmt f) 32 (.hfma2 f)) s
def execHmin2Short (f : Short) (s : State) : Out := run (.hmin2Short f) (fminEff false .f16 32 (.hmin2Short f)) s
def execHmin2 (f : Long) (s : State) : Out := run (.hmin2 f) (fminEff false (halfFmt f) 32 (.hmin2 f)) s
def execHmax2Short (f : Short) (s : State) : Out := run (.hmax2Short f) (fminEff true .f16 32 (.hmax2Short f)) s
def execHmax2 (f : Long) (s : State) : Out := run (.hmax2 f) (fminEff true (halfFmt f) 32 (.hmax2 f)) s
def execHcmp2 (f : Long) (s : State) : Out := run (.hcmp2 f) (fcmpEff (halfFmt f) 32 (.hcmp2 f)) s
def execIdot4 (f : Long) (s : State) : Out := run (.idot4 f) (idot4Eff (.idot4 f)) s
def execFdot2 (f : Long) (s : State) : Out := run (.fdot2 f) (fdot2Eff (.fdot2 f)) s
def execCvt (f : Long) (s : State) : Out := run (.cvt f) (cvtEff (.cvt f)) s
def execPack (f : Long) (s : State) : Out := run (.pack f) (packEff (.pack f)) s
def execUnpk (f : Long) (s : State) : Out := run (.unpk f) (unpkEff (.unpk f)) s
def execRng (f : Long) (s : State) : Out := run (.rng f) (rngEff (.rng f)) s
def execXacc (f : Long) (s : State) : Out := run (.xacc f) (xaccEff (.xacc f)) s
def execXcvtTo (f : Long) (s : State) : Out := run (.xcvtTo f) (xcvtToEff (.xcvtTo f)) s
def execXcvtFrom (f : Long) (s : State) : Out := run (.xcvtFrom f) (xcvtFromEff (.xcvtFrom f)) s

end Sys2Proof.Machine
end

