-- ==== Sys2Proof/Machine/Track.lean ====
section
/-! DEFINITION. Writes at their home as proofs and migration see them: the metadata word (R386 to R388),
copy-on-write into the frozen record (R388, R390, R395, R397), and the write of a function (R381). -/
namespace Sys2Proof.Machine

/-- R387: the epochs' cycle. -/
def nextEpoch (e : BitVec 2) : BitVec 2 := if e = 3 then 1 else e + 1
def prevEpoch (e : BitVec 2) : BitVec 2 := if e = 1 then 3 else e - 1

def State.modPx (s : State) (fn : Nat) (h : Px → Px) : State := s.modFunc fn fun f => { f with px := h f.px }
def State.px (s : State) (fn : Nat) : Px := (s.func fn).px

/-- R390: the record area, and the end of the store. -/
def Px.area (p : Px) : Nat := p.base + 16 * p.foln
def Px.end_ (p : Px) : Nat := p.base + 65536 * p.len
/-- R390: the address lies in the proof store of an enabled context. -/
def State.inProofStore (s : State) (pa : Nat) : Bool :=
  s.funcs.any fun f => f.2.px.en && decide (f.2.px.base ≤ pa) && decide (pa < f.2.px.end_)

/-- R395: sizes rounded up to 4 KiB. -/
def pad4k (n : Nat) : Nat := (n + 4095) / 4096 * 4096
/-- R395: where slot s of a record lies. -/
def PxRecord.slotAddr (r : PxRecord) (p : Px) (i : Nat) : Nat := p.area + r.off + 4096 + pad4k (8 * r.nf) + 4096 * i
/-- R395: where log entry i lies. -/
def PxRecord.logAddr (r : PxRecord) (p : Px) (i : Nat) : Nat := r.slotAddr p r.nf + 256 * i

/-- Copies n bytes of memory from one place to another. -/
def Memory.move (m : Memory) (src dst n : Nat) : Memory :=
  (Memory.part m src n).foldl (fun m e => Memory.setByte m (dst + (e.1 - src)) e.2) (Cells.clear m dst n)

/-- R390: a hardware write to the proof store under the function's key; none when it is refused. -/
def State.storeBytes (s : State) (fn pa : Nat) (bs : List Byte) : Option State :=
  if s.keyOk (s.keyOf fn) pa then some (s.homeWrite (s.keyOf fn) pa bs) else none

/-- R397: the frozen record fails. -/
def State.failRecord (s : State) (fn : Nat) : State :=
  s.modPx fn fun p => { p with ecode := 6, frozen := p.frozen.map fun r => { r with failed := true, slots := [], ns := 0, chlog := [], nch := 0 } }

/-- R388, R396: copies a block to the next free slot of the frozen record and names it in the folio. -/
def State.copyBlock (s : State) (fn block : Nat) : State :=
  let p := s.px fn
  match p.frozen with
  | none => s
  | some r =>
    if r.failed then s
    else
      let dst := r.slotAddr p r.ns
      match (if s.keyOk (s.keyOf fn) dst then s.storeBytes fn (p.area + r.off + 4096 + 8 * r.ns) (toBytes 8 block) else none) with
      | none => s.failRecord fn
      | some s1 =>
        let s2 := s1.validate dst
        ({ s2 with mem := Memory.move s2.mem block dst 4096 } : State).modPx fn fun p =>
          { p with frozen := some { r with ns := r.ns + 1, slots := r.slots ++ [block] } }

/-- R386: GEN of a block. -/
def State.blockGen (s : State) (pa : Nat) : BitVec 2 := (s.frame pa).gen.extractLsb' (2 * blockOf pa) 2
def State.setBlockGen (s : State) (pa : Nat) (g : BitVec 2) : State :=
  let f := s.frame pa
  let old := (f.gen.toNat >>> (2 * blockOf pa)) % 4
  let f' := { f with gen := BitVec.ofNat 32 (f.gen.toNat - old * 4 ^ blockOf pa + g.toNat * 4 ^ blockOf pa) }
  { s with frames := Cells.put s.frames (pa / 65536) f' }

/-- R390, R397: appends a block to the open folio, in its buffer too, or finds the folio too small. -/
def State.appendFolio (s : State) (fn block : Nat) : State :=
  let p := s.px fn
  if p.dead then s
  else if p.openF.length < p.foln then
    let at0 := p.base + (if p.openB then 8 * p.foln else 0) + 8 * p.openF.length
    match s.storeBytes fn at0 (toBytes 8 block) with
    | some s1 => s1.modPx fn fun p => { p with openF := p.openF ++ [block] }
    | none => s.modPx fn fun p => { p with openF := p.openF ++ [block], openBad := true }
  else s.modPx fn fun p => { p with dead := true, ecode := 7, last := 0, first := 0 }

/-- R403: a migration session of the function is tracking. -/
def State.tracking (s : State) (fn : Nat) : Bool :=
  s.sessions.any fun p => decide (p.2.fn = fn) && !p.2.dir && decide (1 ≤ p.2.state) && decide (p.2.state ≤ 4)

/-- R388: what a write of a function does to the metadata of its block before it is performed. -/
def State.trackWrite (s : State) (fn pa : Nat) (pxmt : Bool) : State :=
  if s.inProofStore pa then s
  else
    let block := pa / 4096 * 4096
    let s1 := if s.tracking fn then s.markDirtyBlock pa else s
    let p := s1.px fn
    if !p.en || pxmt then s1
    else
      let g := s1.blockGen pa
      if g = prevEpoch p.e then ((s1.copyBlock fn block).setBlockGen pa p.e).appendFolio fn block
      else if g = 0 then (s1.setBlockGen pa p.e).appendFolio fn block
      else s1

/-- R381, R388: a write of a function at its home: refused and counted under another key. `al` says whether it may allocate in
L2 (R384); a write that no program's record makes is a write of class 1. -/
def State.fnWrite (s : State) (fn pa : Nat) (pxmt : Bool) (bs : List Byte) (al : Bool := s.allocates fn 1 1 0) : State :=
  if s.keyOk (s.keyOf fn) pa then (s.trackWrite fn pa pxmt).homeWrite (s.keyOf fn) pa bs al else s.countRefusal (s.partOf fn)

end Sys2Proof.Machine
end

