-- ==== Sys2Proof/Machine/MemOps.lean ====
section
/-! DEFINITION. The memory instructions (spec/08, opcodes 0x40 to 0x4B): what they do at issue, local
scratchpad accesses, the forming and sending of line requests (R299, R304) and parking (R162, R163). -/
namespace Sys2Proof.Machine

/-! Data. -/

/-- R165: a datum as a load writes it. -/
def loadValue (fmt raw : Nat) : Nat :=
  match fmt with
  | 6 => wrap (sext raw 8) 32
  | 4 => wrap (sext raw 16) 32
  | _ => raw

/-- R172 to R174: the new value of a memory word under an operation. -/
def atomicValue (op : Nat) (fmt : BitVec 4) (anchor old data expected : Nat) : Nat :=
  if op = 8 then
    let w : Galley := BitVec.ofNat 128 old
    let c : Contrib := if fmt = 14 then .word (BitVec.ofNat 128 data) else .val ((fmtOf fmt).exact data)
    (wadd (anchorVal anchor) w c).1.toNat
  else match fmtOf fmt with
    | .int g =>
      let x := g.val old
      let y := g.val data
      match op with
      | 0 => wrap (x + y) g.w
      | 1 => if y < x then data % 2 ^ g.w else old
      | 2 => if x < y then data % 2 ^ g.w else old
      | 3 => old &&& data % 2 ^ g.w
      | 4 => old ||| data % 2 ^ g.w
      | 5 => old ^^^ data % 2 ^ g.w
      | 6 => data % 2 ^ g.w
      | _ => if old = expected % 2 ^ g.w then data % 2 ^ g.w else old
    | .fp g =>
      let one := fun a b =>
        match op with
        | 0 => (g.encode ⟨1, 0, false, false⟩ (Val.sum 1 [g.decode a, g.decode b]).1).1
        | 1 => (minMaxFp false false g false a b).1
        | _ => (minMaxFp true false g false a b).1
      packElems g.w ((List.range (if g.w = 16 then 2 else 1)).map fun j => one (elem old g.w j) (elem data g.w j))
    | .w128 => old

/-- R172: the anchor field of an atomic. -/
def atomAnchor (f : Long) : Nat := immF f 15 0

/-- R165, R175, R178: the width in bits of a lane's destination. -/
def dstWidth (k : MemKind) (f : Long) : Nat :=
  match k with
  | .load => fmtWidth f.fmt
  | .atomic => if subN f = 8 then 128 else fmtWidth f.fmt
  | .nmx => match subF f 2 0 with
    | 0 => 256
    | 1 => 64
    | _ => 128
  | _ => 0

/-- Writes a lane's destination from the register its access names (R25); an s destination's slice when
`code` is an s code. -/
def Gang.putDst (g : Gang) (code : BitVec 8) (dst w lane v : Nat) : Gang :=
  if isIx code then putWords (fun g r x => g.setV r lane x) g dst (w / 32) v
  else g.putLane code w lane v

/-- R22: the lanes whose data an instruction's destination takes. -/
def dstLanes (code : BitVec 8) (active : Mask) : List Nat := if isS code then sliceLeaders active else lanesOf active

/-- R326: what an instruction sets ACQF for. -/
def setsAcq (i : Instr) : Bool :=
  (isMem i && isAcq (accOrd i)) || (match i with | .atom _ | .atoms _ | .nmx _ => true | _ => false)

def Gang.noteAcq (g : Gang) (i : Instr) : Gang := if setsAcq i then { g with acqf := true } else g

/-! Local scratchpad. -/

/-- R326: the record of the lines an access touches. -/
def Group.noteWrite (g : Group) (weak : Option (Nat × Nat × Nat)) (a n : Nat) : Group :=
  (List.range ((a % 32 + n + 31) / 32)).foldl (fun g j =>
    { g with wid := match weak with
               | some (k, sl, gen) => Cells.put g.wid (a / 32 + j) (k, sl, gen, g.sep)
               | none => Cells.del g.wid (a / 32 + j) }) g

/-- One lane's access to a group's scratchpad: the group, and the value read. -/
def Group.access (g : Group) (k : MemKind) (f : Long) (weak : Option (Nat × Nat × Nat)) (a : LaneAcc) : Group × Nat :=
  let n := accSize k f
  let old := Memory.read g.scratch a.addr n
  match k with
  | .store => (({ g with scratch := Memory.write g.scratch a.addr n a.data }).noteWrite weak a.addr n, old)
  | .atomic =>
    let new := atomicValue (subN f) f.fmt (atomAnchor f) old a.data a.data2
    (({ g with scratch := Memory.write g.scratch a.addr n new }).noteWrite none a.addr n, old)
  | _ => (g, old)

/-- R161, R171, R177: the lanes' accesses in increasing lane order, with the values read. -/
def State.scratchAccess (s : State) (gk : Nat) (k : MemKind) (f : Long) (weak : Option (Nat × Nat × Nat)) (l : List LaneAcc) :
    State × List (Nat × LaneAcc) :=
  match s.group? gk with
  | none => (s, l.map fun a => (0, a))
  | some g =>
    let r := l.foldl (fun (p : Group × List (Nat × LaneAcc)) a =>
      let x := p.1.access k f weak a
      (x.1, p.2 ++ [(x.2, a)])) (g, [])
    (s.modGroup gk fun _ => r.1, r.2)

/-- Writes the lanes' destinations of a load or an atomic: `l` gives the raw values. -/
def Gang.putLoads (g : Gang) (i : Instr) (k : MemKind) (active : Mask) (l : List (Nat × LaneAcc)) : Gang :=
  let f := Instr.long i
  let w := dstWidth k f
  if w = 0 then g
  else
    let lanes := dstLanes f.d active
    l.foldl (fun g p =>
      if lanes.contains p.2.lane then g.putDst f.d p.2.dst w p.2.lane (if k = .load then loadValue (fmtN f) p.1 else p.1) else g) g

/-- R153: of the values that a load brings, those of lanes that have not exited. -/
def Gang.arriving (g : Gang) (l : List (Nat × LaneAcc)) : List (Nat × LaneAcc) := l.filter fun p => g.mask.getLsbD p.2.lane

/-! Requests. -/

/-- A fresh identity. -/
def State.bumpId (s : State) : State := { s with nextId := s.nextId + 1 }

/-- R402: what a VDN resolves to through this module's redirect table. -/
def State.resolve (s : State) (vdn : Nat) : Option (Nat × Nat) :=
  let w := Cells.getD s.redirect vdn 0
  if w.getLsbD 31 then some (bits w.toNat 19 16, bits w.toNat 5 0) else none

/-- R432, R370: module m can be reached over links that are up and whose gateways the requester has: by a direct link, or by a
detour through a module that has an up link to m, which the oracle denies (log 10). -/
def State.reaches (s : State) (q : Requester) (m : Nat) : Bool :=
  let ok := fun (l : Nat) => (Cells.getD s.links l Link.reset).up && (s.portMask q).getLsbD (40 + l / 3)
  (List.range 18).any fun l => ok l && (decide ((Cells.getD s.links l Link.reset).farMod = m) || !s.choice.testBit 100)

/-- R349, R370, R432, R305: the module a request of a function to a VDN is sent to; none when no route exists. -/
def State.route? (s : State) (q : Requester) (fn vdn : Nat) : Option Nat :=
  match s.resolve vdn with
  | none => none
  | some (m, _) => if (s.func fn).vdnValid && (if m = s.modNo then gatewayOk (s.portMask q) else s.reaches q m) then some m else none

/-- R305, R375: the fabric timeout of a partition, in cycles of the arithmetic clock. -/
def State.timeoutCycles (s : State) (fn : Nat) : Nat :=
  let f := (s.part (s.partOf fn)).fto
  1100 * (if f = 0 then 2000 else f)

/-- R391: the colour of a function's packets. -/
def State.colour (s : State) (fn : Nat) : BitVec 2 := if (s.px fn).en then (s.px fn).e else 0

/-- R304, R395: the kind of a request. -/
def Req.op (r : Req) : PeerOp :=
  match r.own with
  | .piece _ _ => if r.wr then .copyPiece else .load
  | .signal _ _ | .landing _ _ _ | .batch _ => if r.wr then .store else .load
  | .moved _ _ op => op
  | .gang =>
    match r.kind with
    | .store | .cstr => .store
    | .atomic => .atomic
    | .reduction => .reduction
    | .nmx => .nmx
    | _ => .load

/-- R179: an `.enq` or a `.chase`, which follows pointers. -/
def Req.walks (r : Req) : Bool :=
  r.kind == .nmx && (decide (subF (Instr.long r.instr) 2 0 = 1) || decide (subF (Instr.long r.instr) 2 0 = 2))

/-- The bytes of a line that lanes' data fill, from byte `lo` of the line: a byte map. -/
def lineBytes (r : Req) : Memory × BitVec 128 :=
  r.lanes.foldl (fun (p : Memory × BitVec 128) a =>
    (List.range r.size).foldl (fun (p : Memory × BitVec 128) j =>
      let at0 := a.addr % 128 + j
      (Cells.put p.1 at0 (BitVec.ofNat 8 (a.data >>> (8 * j))), p.2 ||| BitVec.ofNat 128 (2 ^ at0))) p) ([], 0)

/-- R304: the requests that leave for a line: at a peer, each lane's atomic, reduction or near-memory operation is one of its own. -/
def Req.parts (r : Req) : List Req :=
  match r.tgt with
  | .peer _ _ =>
    if (r.op == .atomic || r.op == .reduction) && decide (1 < r.lanes.length) then r.lanes.map fun a => { r with lanes := [a], part := true } else [r]
  | _ => [r]

/-- R304, R395, R179: the packet of a request to an intermediate address at its home. The second operand of an operation that
follows pointers is its offset, with the bounds of its record (log 17). -/
def State.packet (s : State) (tag vdn ia : Nat) (r : Req) : PeerReq :=
  let f := Instr.long r.instr
  let lb := lineBytes r
  let base : PeerReq :=
    { src := (s.func r.fn).vdn.toNat, dst := vdn, op := r.op, ia := ia, sub := f.sub, fmt := f.fmt, imm := f.imm, mask := lb.2, data := [],
      data2 := [], colour := s.colour r.fn, tag := tag, pxmt := r.pxmt, cls := r.cls }
  match r.op, r.lanes with
  | .load, [] => { base with mask := BitVec.allOnes 128 }
  | .load, _ => base
  | .store, _ | .copyPiece, _ => { base with data := (List.range 128).map fun j => Cells.getD lb.1 j 0 }
  | _, [] => base
  | _, a :: _ =>
    let b := bufRec r.buf
    { base with ia := ia + a.addr % 128, data := toBytes 32 a.data,
                data2 := toBytes 32 (if r.walks then a.off + b.extent * 2 ^ 64 + b.base * 2 ^ 128 + b.swz * 2 ^ 192 else a.data2) }

/-- R388: a write-kind request. -/
def peerWrites (p : PeerReq) : Bool := p.op != .load && !(p.op == .nmx && decide (p.sub.toNat % 8 = 2))

/-- R393: counts a write-kind packet sent to a member. -/
def State.countSent (s : State) (fn : Nat) (p : PeerReq) : State :=
  if !peerWrites p || !(s.px fn).en then s
  else s.modPx fn fun x => { x with sent := Cells.put x.sent p.dst (Cells.getD x.sent p.dst 0 + 1) }

/-- What a completion on this device brings. -/
def Arrival.here : Arrival := ⟨0, 0, []⟩

/-- The request reads a whole line. -/
def Req.fetches (r : Req) : Bool := !r.wr && (r.kind == .load || r.kind == .ldbr)

/-- The event that completes a request. -/
def Req.completion (r : Req) (id : Nat) : Instr :=
  if isMma r.instr then .l2DirectOperandReply id r.line Arrival.here
  else if r.own != .gang then (if r.wr then .storePerformed ⟨id, Arrival.here⟩ else .loadDataReturn id Arrival.here)
  else match r.tgt, r.kind with
    | .scratch _, _ => .remoteScratchComplete id
    | _, .load => .loadDataReturn id Arrival.here
    | _, .ldbr => .ldbrLoaded id Arrival.here
    | _, .atomic => .atomicReply id Arrival.here
    | _, .nmx => .nmxReply id Arrival.here
    | _, _ => .storePerformed ⟨id, Arrival.here⟩

/-- R261: how long an access takes on an unloaded device. -/
def Target.latency : Target → Nat
  | .dev pa => if inHbm pa then 700 else 1500
  | .scratch _ => 90
  | _ => 700

/-- R261: how long an access takes: the oracle adds cycles, and finds a line of HBM in L2 or not (log 10). -/
def State.delay (s : State) (t : Target) : Nat :=
  let c := s.choice / 2 % 2 ^ 31
  match t with
  | .dev pa => (if inHbm pa && decide (c % 2 = 1) then 260 else t.latency) + c / 2
  | t => t.latency + c

/-- R309, R310, R429: the class that a global request of a function is carried in: one of class 0 spends express credit, or is
carried in class 1. -/
def State.spend (s : State) (fn cls : Nat) : State × Nat :=
  let t := s.partOf fn
  if cls ≠ 0 then (s, cls)
  else if 1408 ≤ (s.part t).credit then (s.modPart t fun p => { p with credit := p.credit - 1408 }, 0)
  else (s.modPart t fun p => { p with xdem := satUp p.xdem }, 1)
def State.carry (s : State) (r : Req) : State × Req :=
  match r.tgt with
  | .scratch _ => (s, r)
  | _ => ((s.spend r.fn r.cls).1, { r with cls := (s.spend r.fn r.cls).2 })

/-! Tags (R305, R307). -/

/-- R305: identities from here on stand for a tag with its generation. -/
def wireBase : Nat := 2 ^ 40

/-- R305, R279: the number of the sender whose tags a request takes: its core, its cluster's yarder, or an agent of its function. -/
def Req.port (r : Req) : Nat :=
  match r.own with
  | .landing _ _ _ => 4160 + r.core / 64
  | .signal _ _ | .batch _ | .moved _ _ _ => 4096 + r.fn
  | _ => if r.core < 1024 then r.core else 4096 + r.fn

/-- R307: the generation in which a tag may be sent, when no request of it with that generation was in flight within four
timeouts. -/
def TagUse.next? (u : TagUse) (now timeout : Nat) : Option Nat :=
  let g := (u.gen + 1) % 4
  if u.use.isNone && (match Cells.find? u.last g with
      | some t => decide (t + 4 * timeout ≤ now)
      | none => true) then some g
  else none

def State.tagUse (s : State) (key : Nat) : TagUse := Cells.getD s.tags key ⟨0, none, []⟩

/-- R305: the first tag of a sender that may be sent, with its generation; none when all 1,024 are taken. -/
def State.freeTag? (s : State) (r : Req) : Option (Nat × Nat) :=
  (List.range 1024).findSome? fun t =>
    let key := 1024 * r.port + t
    ((s.tagUse key).next? s.cycle (s.timeoutCycles r.fn)).map fun g => (key, g)

/-- R305: a request under an identity takes a tag for its packet. -/
def State.takeTag (s : State) (id vdn ia : Nat) (r : Req) : Option (State × PeerReq) :=
  (s.freeTag? r).map fun x =>
    let p := s.packet (wireBase + 4 * x.1 + x.2) vdn ia r
    ({ s with tags := Cells.put s.tags x.1 { s.tagUse x.1 with gen := x.2, use := some ⟨id, p⟩ } }, p)

/-- R307: the request that a tag with its generation carries. -/
def State.flight? (s : State) (n : Nat) : Option Flight :=
  let u := s.tagUse ((n - wireBase) / 4)
  if wireBase ≤ n ∧ u.gen = (n - wireBase) % 4 then u.use else none

/-- R307: the tag of a request is free again. -/
def State.freeTag (s : State) (id : Nat) : State :=
  { s with tags := s.tags.map fun p => if (p.2.use.map (·.id)) = some id then
      (p.1, { p.2 with use := none, last := Cells.put p.2.last p.2.gen s.cycle }) else p }

/-! Order. -/

/-- The accesses that a request of a gang may stand behind; those in flight of a gang that has ended too. -/
def State.priorAt (s : State) (k sl gen level : Nat) : List Req :=
  match s.gang? k sl with
  | some g => if s.gen k sl = gen then g.priorTo level (s.gangReqs k sl) else s.reqsOf k sl gen
  | none => s.reqsOf k sl gen
def State.priorOf (s : State) (r : Req) : List Req := s.priorAt r.core r.slot r.gen r.level

/-- R161, R164, R316, R317: an earlier access of the request's gang has still to be performed, and one of rows 1 and 3 to 7, the
order of lanes or that of replays puts it first; or the request would be seen out of another gang's order. Order that is not owed
to every party holds unless the oracle has the access go early. Row 2 holds because a register is interlocked until its access
completes (R260). -/
def State.before (s : State) (r : Req) : Bool :=
  ((s.priorOf r).any fun x => decide (4 ≤ x.owed r) || x.laneBefore r || x.turnBefore r || (x.orders r && !s.goEarly)) || s.barred r

/-- R190, R322: an access that the gang made before a place in its order has still to be performed; of what is parked, and stands
behind it, only for an order of level 0 (R240). -/
def State.accessBefore (s : State) (k sl gen seq level : Nat) : Bool := (s.priorAt k sl gen level).any fun r => decide (r.seq < seq)

/-- R317, R322: what the request is for has to wait for earlier accesses of its gang. -/
def State.mustWait (s : State) (r : Req) : Bool :=
  (r.own == .gang && isAccess r.instr && s.before r) || (isMma r.instr && s.accessBefore r.core r.slot r.gen r.seq r.level)

/-- R300: a replayed request waits for a miss-status entry. -/
def State.lacksEntry (s : State) (r : Req) : Bool :=
  takesEntries r.instr && r.own == .gang && !r.entry &&
    decide (512 ≤ s.entriesUsed r.core + (match (s.core r.core).resv with | some v => v.held | none => 0))

/-- The request leaves the device. -/
def Target.away : Target → Bool
  | .peer _ _ | .host _ => true
  | _ => false

/-- R304, R305, R368: puts a request that has its identity on its way, and on the agenda what ends it. A request to a peer that
finds no tag is tried again. -/
def State.transmit (s : State) (q : Requester) (id : Nat) (r : Req) : State :=
  let r1 := { r with sent := some s.cycle, entry := r.entry || (takesEntries r.instr && r.own == .gang) }
  let s1 := { (if r.tgt.away then s.noteEarly r (s.priorOf r) else s) with reqs := Cells.put s.reqs id r1 }
  match r.tgt with
  | .peer vdn ia =>
    match s.route? q r.fn vdn with
    | none => s1.after 1 (.fabricUnreachable id)
    | some m =>
      match s1.takeTag id vdn ia r with
      | none => ({ s with reqs := Cells.put s.reqs id { r1 with sent := none } } : State).after 1 (r.completion id)
      | some (s2, p) => ((s2.send (.request p.tag m p)).countSent r.fn p).after (s.timeoutCycles r.fn) (.fabricTimeout id)
  | .host a =>
    if r.fetches then (s1.send (.hostRead r.fn id a 128)).after (s.timeoutCycles r.fn) (.fabricTimeout id)
    else s1.after 700 (r.completion id)
  | t => s1.after (s.delay t) (r.completion id)

/-- R299, R304, R317: one request takes an identity; one that leaves the device is sent once the accesses that come before it
have been performed, and a replay once its gang's other replays are known too. -/
def State.sendOne (s : State) (q : Requester) (r : Req) : State :=
  let id := s.nextId
  let (s1, r1) := s.bumpId.carry r
  if decide (0 < r.turn) || (r.tgt.away && s.mustWait r) || s.lacksEntry r then ({ s1 with reqs := Cells.put s1.reqs id { r1 with sent := none } } : State).after 1 (r.completion id)
  else s1.transmit q id r1

/-- R33, R304: sends a line request, which completes once all of its parts have. -/
def State.sendReq (s : State) (q : Requester) (r : Req) : State :=
  let ps := r.parts
  let s1 := if ps.length = 1 then s
    else s.modGang r.core r.slot fun g => { g with fly := g.fly.map fun x => if x.seq = r.seq then { x with left := x.left + ps.length - 1 } else x }
  ps.foldl (fun s p => s.sendOne q p) s1

/-- The line requests of a global instruction, before translation. -/
def Ctx.lineReqs (c : Ctx) (i : Instr) (k : MemKind) (a : Accs) : List Req :=
  (byLine (k == .nmx) a.lanes).map fun p => c.mkReq i k (c.g.bReg (bufNo (Instr.long i))) p.1 (.dev 0) p.2

/-- R162: translates the lines of an instruction: the requests with their targets, and the lines that
fault with their causes. -/
def State.translateLines (s : State) (k : Nat) (rights : Rights) : List Req → State × List Req × List (Req × BitVec 6)
  | [] => (s, [], [])
  | r :: t =>
    match s.translate (.core k) r.fn r.line rights with
    | .ok (tgt, e) =>
      let x := (s.keepTlb (.core k) e).translateLines k rights t
      (x.1, { r with tgt := tgt } :: x.2.1, x.2.2)
    | .error cause =>
      let x := (s.noteWalk (.core k) r.fn r.line).translateLines k rights t
      (x.1, x.2.1, (r, cause) :: x.2.2)

/-- R33: counts an instruction on a path; one with nothing to wait for falls at once, behind those before it. -/
def Gang.fly1 (g : Gang) (p : Path) (left : Nat) : Gang := { g with fly := retire [] (g.fly ++ [⟨g.seq, p, left⟩]) }

/-- R261: how long a translation that fails takes, as long as a load of HBM (log 69). -/
def walkCycles : Nat := 700

/-- R162, R163: parks the lines that fault as one entry of the operand log. -/
def Gang.park (g : Gang) (seq now : Nat) (bad : List (Req × BitVec 6)) : Gang :=
  match bad with
  | [] => g
  | (r, cause) :: _ =>
    { g with olog := g.olog ++ [⟨seq, bad.map fun p => { p.1 with entry := false }, none, cause, r.line, false, now + walkCycles⟩] }

/-- R160, R168: the destinations of lanes that a record's bounds drop are written 0: the record of an LDBR too. -/
def Gang.zeroDropped (g : Gang) (c : Ctx) (i : Instr) (k : MemKind) (l : List Nat) : Gang :=
  if k = .ldbr then (if l.isEmpty then g else g.setB (subF (Instr.long i) 3 0) 0)
  else g.putLoads i k c.active (l.map fun lane => (0, { lane := lane, addr := 0, off := 0, dst := c.dstId (Instr.long i).d lane, data := 0, data2 := 0 }))

/-- R159 to R163, R240: a global memory instruction at issue. -/
def globalEff (i : Instr) (k : MemKind) (c : Ctx) : Eff :=
  let f := Instr.long i
  match globalAccs c k f with
  | .error (cause, v) => .raise cause v
  | .ok a =>
    match watchMatch c false (watchRead k) (accWrite k f) (a.lanes.map fun x => (x.addr, accSize k f)) with
    | some w => .raise 0x0F w
    | none =>
      let rs := c.lineReqs i k a
      let (s1, good, bad) := c.st.translateLines c.k (accRights k f) rs
      match (if 0 < c.g.level then bad else []) with
      | (r, cause) :: _ => .raise cause r.line
      | [] =>
        let g := (((c.g.noteAcq i).zeroDropped c i k a.dropped).fly1 k.path rs.length).park c.g.seq c.st.cycle bad
        .next (good.foldl (fun s r => s.sendReq (.core c.k) r) (s1.setGang c.k c.sl g))

/-- R170, R171, R177: a scratchpad instruction at issue: local accesses are performed (log 15), remote
ones are sent, the lanes of a store to one scratchpad as one request (R161). An access with REM 1 that names the gang's own core
is a local one (log 72). -/
def scratchEff (i : Instr) (k : MemKind) (c : Ctx) : Eff :=
  let f := Instr.long i
  match scratchAccs c k f with
  | .error (cause, v) => .raise cause v
  | .ok l =>
    match watchMatch c true (watchRead k) (accWrite k f) (l.map fun p => (p.2.off, accSize k f)) with
    | some w => .raise 0x0F w
    | none =>
      let here := (l.filter fun p => decide (p.1 = c.g.group)).map (·.2)
      let far := l.filter fun p => decide (p.1 ≠ c.g.group)
      let gen := c.st.gen c.k c.sl
      let weak := if ordOf f = 0 then some (c.k, c.sl, gen) else none
      let prior := c.g.priorTo c.g.level (c.st.gangReqs c.k c.sl)
      let (s1, vals) := c.st.scratchAccess c.g.group k f weak here
      let ids := if here.isEmpty then [] else here.flatMap fun a => (List.range (dstWidth k f / 32)).map fun j => a.dst + j
      let g0 := (c.g.noteAcq i).putLoads i k c.active vals
      let far1 := if k = .store then (far.map (·.1)).eraseDups.map fun t => (t, (far.filter fun p => decide (p.1 = t)).map (·.2))
        else far.map fun p => (p.1, [p.2])
      let g1 := if far.isEmpty then g0 else g0.fly1 .s far1.length
      let g2 := { g1 with busy := ids.foldl (fun m r => Cells.put m r (c.st.cycle + 20)) g1.busy }
      let reqs := far1.map fun p => c.mkReq i k 0 ((p.2.map (·.off)).headD 0) (.scratch p.1) p.2
      let s2 := s1.setGang c.k c.sl g2
      let s3 := if here.isEmpty then s2 else s2.noteEarly (c.mkReq i k 0 0 (.scratch c.g.group) here) prior
      .next (reqs.foldl (fun s r => s.sendReq (.core c.k) r) s3)

/-- R180: FENCE takes its place in gang order. -/
def fenceEff (i : Instr) (c : Ctx) : Eff :=
  let o := accOrd i
  let live := c.g.fences.filter fun x => (c.st.gangReqs c.k c.sl ++ c.g.parkedReqs ++ c.g.packets).any fun r => decide (r.seq < x.seq)
  .next (c.st.setGang c.k c.sl { c.g with fences := live ++ [⟨c.g.seq, o, scopeOf (Instr.long i)⟩], acqf := c.g.acqf || isAcq o })

/-- R168: LDBR from registers. -/
def ldbrEff (i : Instr) (c : Ctx) : Eff :=
  let f := Instr.long i
  let n := subF f 3 0
  if !c.acts then .next c.st
  else
    let w : Galley := BitVec.ofNat 128 (c.src f.lit f.a 128 (lowest c.active))
    if bufReserved w then .raise 0x11 n else .next (c.st.setGang c.k c.sl (c.g.setB n w))

/-- R169, R300: PREF changes no value and checks nothing. It takes free miss-status entries for lines of this device's memory, and
drops the rest. -/
def prefEff (i : Instr) (c : Ctx) : Eff :=
  let rec0 := c.g.bReg (bufNo (Instr.long i))
  let rs := (prefLines c (Instr.long i)).map fun l => { c.mkReq i .pref rec0 l (.dev 0) [] with entry := true }
  let (s1, good, _) := c.st.translateLines c.k ⟨true, false, false⟩ rs
  let held := match (c.st.core c.k).resv with | some v => v.held | none => 0
  .next (good.foldl (fun (s : State) r =>
    match r.tgt with
    | .dev _ => if s.entriesUsed c.k + held < 512 then s.sendReq (.core c.k) r else s
    | _ => s) s1)

def execLd (f : Long) (s : State) : Out := run (.ld f) (globalEff (.ld f) .load) s
def execSt (f : Long) (s : State) : Out := run (.st f) (globalEff (.st f) .store) s
def execLds (f : Long) (s : State) : Out := run (.lds f) (scratchEff (.lds f) .load) s
def execSts (f : Long) (s : State) : Out := run (.sts f) (scratchEff (.sts f) .store) s
def execAtom (f : Long) (s : State) : Out := run (.atom f) (globalEff (.atom f) .atomic) s
def execRed (f : Long) (s : State) : Out := run (.red f) (globalEff (.red f) .reduction) s
def execAtoms (f : Long) (s : State) : Out := run (.atoms f) (scratchEff (.atoms f) .atomic) s
def execCstr (f : Long) (s : State) : Out := run (.cstr f) (globalEff (.cstr f) .cstr) s
def execFence (f : Long) (s : State) : Out := run (.fence f) (fenceEff (.fence f)) s
def execLdbr (f : Long) (s : State) : Out := run (.ldbr f) (ldbrEff (.ldbr f)) s
def execLdbrM (f : Long) (s : State) : Out := run (.ldbrM f) (globalEff (.ldbrM f) .ldbr) s
def execNmx (f : Long) (s : State) : Out := run (.nmx f) (globalEff (.nmx f) .nmx) s
def execPref (f : Long) (s : State) : Out := run (.pref f) (prefEff (.pref f)) s

end Sys2Proof.Machine
end

