-- ==== Sys2Proof/Machine/Home.lean ====
section
/-! DEFINITION. Accesses as their home performs them (R313): loads, stores, atomics and near-memory operations
on device memory (R165, R166, R172 to R179, R381, R388), for a request of this device and for one that a peer
sends (R304, R367), the channel log (R394, R395), and a write of the host (R323). -/
namespace Sys2Proof.Machine

/-- R178, R179: where a pointer leads: a device address in HBM, or the status of a chase that cannot follow. -/
abbrev Walker := State → Nat → Rights → Except Nat Nat

/-- R178, R179: follows a pointer of this device's function through its buffer record; `foff` is FOFF. -/
def walkLocal (k fn : Nat) (b : BufRec) (foff : Nat) : Walker := fun s x acc =>
  if b.extent < x + foff + 8 ∨ x % 8 ≠ 0 then .error 2
  else match s.translate (.core k) fn (swizzle b.swz (b.base + x + foff)) acc with
    | .error _ => .error 4
    | .ok (.dev pa, _) => if inHbm pa then .ok pa else .error 3
    | .ok (_, _) => .error 3

/-- R178: follows a pointer at the home of a peer's request through the record that the packet describes, whose first location has
the offset `e` and the intermediate address `ia` there (log 17). -/
def walkPeer (fn ia e : Nat) (b : BufRec) (foff : Nat) : Walker := fun s x acc =>
  let va := fun (p : Nat) => (swizzle b.swz (b.base + p + foff) : Int)
  if b.extent < x + foff + 8 ∨ x % 8 ≠ 0 then .error 2
  else match s.translateIa (.agent fn) fn (wrap ((ia : Int) + va x - va e) 52) acc with
    | .error _ => .error 4
    | .ok (.dev pa) => if inHbm pa then .ok pa else .error 3
    | .ok _ => .error 3

/-- R178: NIL. -/
def nil64 : Nat := 2 ^ 64 - 1

/-- R179: `.chase`: the fuel is how many hops are left; `q` is the quad at p + FOFF. The value, and the places of the quads that it
reads on its way. -/
def chaseFrom (w : Walker) (s : State) (fn : Nat) : Nat → Nat → Nat → Nat → Nat × List Nat
  | 0, p, h, _ => (p + h * 2 ^ 64, [])
  | n + 1, p, h, q =>
    if q = nil64 then (p + h * 2 ^ 64 + 2 ^ 96, [])
    else match w s q ⟨true, false, false⟩ with
      | .error st => (p + h * 2 ^ 64 + st * 2 ^ 96, [])
      | .ok pa =>
        let x := chaseFrom w s fn n q (h + 1) (s.homeRead (s.keyOf fn) pa 8)
        (x.1, pa :: x.2)

/-- R178: the near-memory agent writes the bytes in memory; no copy of their line stays in L2. -/
def State.agentWrite (s : State) (fn pa : Nat) (pxmt : Bool) (v n : Nat) : State :=
  ((s.cleanLine pa).fnWrite fn pa pxmt (toBytes n v) false).cleanLine pa

/-- R179: `.enq`: the old tail, or none when a pointer fails. -/
def State.enqueue (s : State) (w : Walker) (fn pa n : Nat) (pxmt : Bool) : State × Option Nat :=
  let tail := s.homeRead (s.keyOf fn) (pa + 8) 8
  let put := fun (s : State) (at0 v : Nat) => s.agentWrite fn at0 pxmt v 8
  let acc : Rights := ⟨true, true, false⟩
  match w s n acc, (if tail = nil64 then .ok pa else w s tail acc) with
  | .ok pn, .ok pt => ((put (put (put s pn nil64) pt n) (pa + 8) n).countRow pn, some tail)
  | _, _ => (s, none)

/-- R384: the class and the CPOL that a request travels with. -/
abbrev Policy := Nat × Nat

/-- One lane's access at a device physical address whose frame has the function's key: the state, the value
it returns (none when an `.enq` fails). -/
def State.homeLane (s : State) (fn : Nat) (k : MemKind) (f : Long) (pxmt : Bool) (pol : Policy) (w : Walker) (pa : Nat) (a : LaneAcc) :
    State × Option Nat :=
  let n := accSize k f
  let old := s.homeRead (s.keyOf fn) pa n
  let store := fun (kind v : Nat) => s.fnWrite fn pa pxmt (toBytes n v) (s.allocates fn pol.1 kind pol.2)
  match k with
  | .store | .cstr => (store 1 a.data, some 0)
  | .atomic | .reduction =>
    if subN f = 7 ∧ old ≠ a.data2 % 2 ^ (8 * n) then (s.trackWrite fn pa pxmt, some old)
    else (store 2 (atomicValue (subN f) f.fmt (atomAnchor f) old a.data a.data2), some old)
  | .nmx =>
    let s := s.cleanLine pa
    match subF f 2 0 with
    | 0 =>
      let m := 2 ^ (64 * (subF f 4 3 + 1))
      if old % m = a.data2 % m then (s.agentWrite fn pa pxmt (old - old % m + a.data % m) n, some old) else (s.trackWrite fn pa pxmt, some old)
    | 1 => s.enqueue w fn pa a.data pxmt
    | 2 =>
      let x := chaseFrom w s fn (subF f 6 3 + 1) a.off 0 old
      (x.2.foldl (fun s h => ((s.cleanLine h).fnReadNote fn h).countRow h) s, some x.1)
    | _ => (s.agentWrite fn pa pxmt (atomicValue 8 f.fmt (atomAnchor f) old a.data 0) n, some old)
  | _ => (s, some old)

/-- R161, R381: the lanes of one line in increasing order, at the line's device physical address; under
another key reads return zeros, writes are dropped and the refusal is counted. -/
def State.homeLine (s : State) (fn : Nat) (k : MemKind) (f : Long) (pxmt : Bool) (pol : Policy) (w : Walker) (pa : Nat) (l : List LaneAcc) :
    State × List (Option Nat × LaneAcc) :=
  let s := s.countRow pa
  if s.keyOk (s.keyOf fn) pa then
    l.foldl (fun (p : State × List (Option Nat × LaneAcc)) a =>
      let x := p.1.homeLane fn k f pxmt pol w (pa + a.addr % 128) a
      (x.1, p.2 ++ [(x.2, a)])) (s, [])
  else (s.countRefusal (s.partOf fn), l.map fun a => (some 0, a))

/-! Requests of peers. -/

/-- The instruction fields that a packet carries (R395). -/
def peerLong (p : PeerReq) : Long :=
  { pg := 0, pn := false, nwb := false, d := 0, a := 0, b := 0, c := 0, fmt := p.fmt, rnd := 0, sat := false, sub := p.sub,
    imm := p.imm, lit := none }
def peerKind : PeerOp → MemKind
  | .load => .load
  | .store | .copyPiece => .store
  | .reduction => .reduction
  | .atomic => .atomic
  | .nmx => .nmx

/-- R366: the rights a packet needs at its home. -/
def peerRights (p : PeerReq) : Rights :=
  match p.op with
  | .load => ⟨true, false, false⟩
  | .store | .copyPiece => ⟨false, true, false⟩
  | .nmx => ⟨true, peerWrites p, false⟩
  | _ => ⟨true, true, false⟩

/-- R304, R367: a packet performed at its home by the function: the bytes of its reply, or the cause it is
refused with. -/
def State.performPeer (s0 : State) (fn : Nat) (p : PeerReq) : Except (BitVec 6) (State × List Byte) :=
  match s0.translateIa (.agent fn) fn p.ia (peerRights p) with
  | .error c => .error c
  | .ok (.dev pa) =>
    let s := s0.keepIa fn p.ia
    let f := peerLong p
    let reads := p.op != .store && p.op != .copyPiece
    if reads && s.spoilt fn pa then .error 0x1B
    else if p.op == .nmx && inBulk pa then .error 0x1E
    else match p.op with
      | .load => .ok ((s.fnReadNote fn pa).countRow pa, s.homeBytes (s.keyOf fn) pa 128)
      | .store | .copyPiece =>
        let s := s.countRow pa
        if s.keyOk (s.keyOf fn) pa then
          .ok ((List.range 128).foldl (fun s j =>
            if p.mask.getLsbD j then s.fnWrite fn (pa + j) p.pxmt [p.data.getD j 0] (s.allocates fn p.cls 1 0) else s) s, [])
        else .ok (s.countRefusal (s.partOf fn), [])
      | _ =>
        let d2 := ofBytes p.data2
        let e := if p.op == .nmx then d2 % 2 ^ 64 else 0
        let b : BufRec := { bufRec 0 with extent := bits d2 127 64, base := bits d2 191 128, swz := bits d2 195 192 }
        let w := walkPeer fn p.ia e b (accExtra (peerKind p.op) f)
        let a : LaneAcc := { lane := 0, addr := pa, off := e, dst := 0, data := ofBytes p.data, data2 := d2 }
        let r := s.homeLine fn (peerKind p.op) f p.pxmt (p.cls, 0) w (pa / 128 * 128) [a]
        match r.2 with
        | [(some v, _)] => .ok (r.1, toBytes 32 v)
        | _ => .error 0x1E
  | .ok _ => .error 0x16

/-! The channel log. -/

/-- R395: the KIND of a log entry. -/
def logKind : PeerOp → Nat
  | .reduction => 2
  | .atomic => 3
  | .nmx => 4
  | .copyPiece => 5
  | _ => 1

/-- R395: the 256 bytes of a log entry. -/
def logEntry (p : PeerReq) : List Byte :=
  let pad := fun (n : Nat) (l : List Byte) => (List.range n).map fun j => l.getD j 0
  toBytes 8 (logKind p.op + p.src * 2 ^ 16) ++ toBytes 8 p.ia ++ toBytes 16 p.mask.toNat ++ toBytes 4 p.sub.toNat ++
    toBytes 4 p.fmt.toNat ++ toBytes 4 p.imm.toNat ++ toBytes 20 0 ++ pad 128 p.data ++ pad 64 p.data2

/-- R389: CHLMAX, 0 meaning 4,096. -/
def Px.chl (p : Px) : Nat := if p.chlmax = 0 then 4096 else p.chlmax

/-- R394, R397: appends a packet to the channel log of the frozen record. -/
def State.logRequest (s : State) (fn : Nat) (q : PeerReq) : State :=
  let p := s.px fn
  match p.frozen with
  | none => s
  | some r =>
    if r.failed then s
    else if p.chl ≤ r.nch then s.failRecord fn
    else match s.storeBytes fn (r.logAddr p r.nch) (logEntry q) with
      | none => s.failRecord fn
      | some s1 => s1.modPx fn fun p => { p with frozen := some { r with nch := r.nch + 1, chlog := r.chlog ++ [q] } }

/-- R389: a VDN that PXMEM lists. -/
def Px.isMember (p : Px) (vdn : Nat) : Bool :=
  (List.range 16).any fun k => p.mem.getLsbD (16 * k + 15) && decide ((p.mem.extractLsb' (16 * k) 12).toNat = vdn)

/-- R349: the function of this module that holds a VDN. -/
def State.fnOfVdn (s : State) (vdn : Nat) : Option Nat :=
  (List.find? (fun p => p.2.vdnValid && decide (p.2.vdn.toNat = vdn)) s.funcs).map (·.1)

/-- R392: a trigger of the next proof point has arrived; ORIGIN is 01 once a PROOF command is among them. -/
def State.trigger (s : State) (fn origin : Nat) : State :=
  let p := s.px fn
  if !p.en then s
  else
    let o := if origin = 1 then 1 else if p.pend then p.origin else origin
    s.modPx fn fun p => { p with pend := true, origin := o }

/-- R391, R394: a packet of this colour from a member waits until the proof point of its epoch is established here. -/
def State.aheadOf (s : State) (fn vdn : Nat) (colour : BitVec 2) : Bool :=
  (s.px fn).en && (s.px fn).isMember vdn && decide (colour = nextEpoch (s.px fn).e)

/-! The host. -/

/-- R323: bytes that the host writes into a function's memory, one line at a time. -/
def State.hostBytes (s : State) (fn ia : Nat) : List Byte → State
  | [] => s
  | b :: t =>
    let s1 := match s.translateIa (.agent fn) fn ia ⟨false, true, false⟩ with
      | .ok (.dev pa) => s.fnWrite fn pa false [b]
      | _ => s
    s1.hostBytes fn (ia + 1) t

end Sys2Proof.Machine
end

