-- ==== Sys2Proof/Machine/Packets.lean ====
section
/-! DEFINITION. The packets of a gang state record (R254, R256): their layout in the frame, and the answers that are written into
them (R209, R255). The places and widths of a body's parts that R256 does not give are the model's (log 21). -/
namespace Sys2Proof.Machine

/-! Memory by intermediate address. -/

/-- Writes up to 128 bytes within a line of a function's intermediate space, where it can be reached. -/
def State.iaWrite (s : State) (q : Requester) (fn ia : Nat) (bs : List Byte) : State :=
  match s.translateIa q fn ia ⟨false, true, false⟩ with
  | .ok (.dev pa) => (s.fnWrite fn pa false bs).countRow pa
  | _ => s

/-- Reads n bytes within a line of a function's intermediate space. -/
def State.iaRead (s : State) (q : Requester) (fn ia n : Nat) : Nat :=
  match s.translateIa q fn ia ⟨true, false, false⟩ with
  | .ok (.dev pa) => s.homeRead (s.keyOf fn) pa n
  | _ => 0

/-! The layout. -/

/-- A field: its offset, its bytes and its value. -/
abbrev Field := Nat × Nat × Nat

/-- The bytes of a list of fields. -/
def fieldBytes (l : List Field) : Memory := l.foldl (fun m x => Memory.write m x.1 x.2.1 x.2.2) []

/-- A multiple of 16. -/
def pad16 (n : Nat) : Nat := (n + 15) / 16 * 16

/-- R256: a packet: what it stands for, its length and its fields. -/
structure Packet where
  ref : PacketRef
  len : Nat
  fields : List Field
deriving DecidableEq, Repr

/-- R256: a packet from the fields of its header and its body. -/
def mkPacket (ref : PacketRef) (kind state cause : Nat) (active performed : Mask) (i : Instr) (len : Nat) (body : List Field) : Packet :=
  let w := encode i
  { ref := ref, len := 32 + pad16 len,
    fields := [(0, 4, 32 + pad16 len), (4, 4, kind + state * 16 + cause * 256), (8, 4, active.toNat), (12, 4, performed.toNat),
      (16, 4, (w.getD 0 0).toNat), (20, 4, (w.getD 1 0).toNat), (24, 4, (w.getD 2 0).toNat)] ++ body.map fun x => (32 + x.1, x.2) }

/-- The bytes per lane of an access's B and C data, and of the value it returns. -/
def Req.dataBytes (r : Req) : Nat := dataWidth r.kind (Instr.long r.instr) / 8
def Req.valueBytes (r : Req) : Nat := dstWidth r.kind (Instr.long r.instr) / 8

/-- R256: where the B data, the C data and what follows them lie in the body of an access packet. -/
def bodyB : Nat := 256
def Req.bodyC (r : Req) : Nat := bodyB + 32 * r.dataBytes
def Req.bodyEnd (r : Req) : Nat := bodyB + 64 * r.dataBytes

/-- The lanes of an instruction's requests that they do not still hold. -/
def performedOf (active : Mask) (rs : List Req) : Mask := active &&& ~~~(maskOf fun i => rs.any fun r => r.lanes.any fun a => decide (a.lane = i))

/-- R256: the body of an access packet up to the end of its C data. -/
def laneFields (rs : List Req) : List Field :=
  rs.flatMap fun r => r.lanes.flatMap fun a =>
    [(8 * a.lane, 8, a.off), (bodyB + r.dataBytes * a.lane, r.dataBytes, a.data), (r.bodyC + r.dataBytes * a.lane, r.dataBytes, a.data2)]

/-- R256: the packet of an instruction's requests; `extra` are the bytes of its tail, with these fields. -/
def accessPacket (ref : PacketRef) (state cause : Nat) (rs : List Req) (extra : Nat) (tail : List Field) : Option Packet :=
  rs.head?.map fun r =>
    mkPacket ref 1 state cause r.active (performedOf r.active rs) r.instr (r.bodyEnd + extra)
      (laneFields rs ++ tail.map fun x => (r.bodyEnd + x.1, x.2))

/-- R256: the tail of a packet in state 11: a value per lane, and a report per request. -/
def Req.tailBytes (r : Req) (n : Nat) : Nat := 32 * r.valueBytes + 16 * n

/-- Requests of a gang by instruction, in gang order. -/
def bySeq (l : List (Nat × Req)) : List (List (Nat × Req)) :=
  ((l.foldl (fun (m : Cells (List (Nat × Req))) p => Cells.put m p.2.seq (Cells.getD m p.2.seq [] ++ [p])) []).map (·.2))

/-- R254, R256: the packets of a gang, in record order: what is parked, what was not sent or was read and dropped, what awaits its
acknowledgement, copies, EMITs, CREDs and SNAPs. -/
def State.packetsOf (s : State) (k sl : Nat) (g : Gang) : List Packet :=
  let gen := s.gen k sl
  let mine := fun (c sl' gen' : Nat) => decide (c = k) && decide (sl' = sl) && decide (gen' = gen)
  let sent := s.reqs.filter fun p => p.2.isOf k sl gen && p.2.own == .gang && isAccess p.2.instr
  (g.olog.filterMap fun e =>
    match e.mx with
    | some m => some (mkPacket (.parked e.seq) 6 (if e.cause ≠ 0 then 2 else if m.lines.isEmpty then 0 else 1) e.cause.toNat m.active 0 m.instr 16
        [(0, 4, if subF (Instr.long m.instr) 6 5 = 1 then m.a else m.b)])
    | none => accessPacket (.parked e.seq) 2 e.cause.toNat e.lines 16 [(0, 8, e.va)]) ++
  ((bySeq (g.packets.map fun r => (0, r))).filterMap fun l =>
    let rs := l.map (·.2)
    accessPacket (.again ((rs.map (·.seq)).headD 0)) (if rs.any fun r => r.sent.isSome then 1 else 0) 0 rs 0 []) ++
  ((bySeq sent).filterMap fun l =>
    let rs := l.map (·.2)
    accessPacket (.awaited (l.map (·.1))) 3 0 rs ((rs.map fun r => r.tailBytes l.length).headD 0) []) ++
  (s.copies.filterMap fun p =>
    if mine p.2.core p.2.slot p.2.gen then
      let low := p.2.left.foldl Nat.min (p.2.left.headD p.2.forme.pieces)
      some (mkPacket (.copy p.1) 2 0 0 1 0 p.2.instr 64
        [(0, 8, (wrap p.2.origin 64)), (8, 4, p.2.dense), (12, 4, p.2.xbar.getD 0), (16, 4, p.2.batch.toNat), (24, 8, low),
         (32, 32, (List.range 256).foldl (fun n j => if low + j < p.2.forme.pieces && !p.2.left.contains (low + j) then n + 2 ^ j else n) 0)])
    else none) ++
  (s.emits.filterMap fun p =>
    if mine p.2.core p.2.slot p.2.gen then
      some (mkPacket (.emit p.1) 3 0 0 p.2.active 0 p.2.instr 256 (p.2.addrs.mapIdx fun j a => (8 * j, 8, a)))
    else none) ++
  (s.creds.filterMap fun p => if mine p.2.core p.2.slot p.2.gen then some (mkPacket (.cred p.1) 4 3 0 p.2.active 0 p.2.instr 528 []) else none) ++
  (s.snaps.filterMap fun p => if mine p.2.core p.2.slot p.2.gen then some (mkPacket (.snap p.1) 5 3 0 p.2.active 0 p.2.instr 528 []) else none)

/-! Answers that reach a halted gang. -/

/-- R253, R254: the gang's record has been written, or its restore is not complete: what arrives for its
own accesses is written into the frame. -/
def Gang.away (g : Gang) : Bool := decide (g.level = 2) && (match g.halt with | some h => h.taken | none => false)

/-- R253: the address of the gang's frame. -/
def Gang.frameBase (g : Gang) : Nat := (g.halt.map (·.frame)).getD 0

/-- The place of a packet in the frame. -/
def Gang.placeOf (g : Gang) (ref : PacketRef) : Option Nat := (g.pkts.find? fun p => decide (p.1 = ref)).map (·.2)
/-- The packet that awaits a request's answer: its requests and its place. -/
def Gang.awaiting (g : Gang) (id : Nat) : Option (List Nat × Nat) :=
  g.pkts.findSome? fun p => match p.1 with
    | .awaited ids => if ids.contains id then some (ids, p.2) else none
    | _ => none

/-- Reads and writes fields of a gang's frame, as the device's gateway does; a write's 16-byte parts are each aligned. -/
def State.frameGet (s : State) (g : Gang) (at0 n : Nat) : Nat := s.iaRead (.agent g.fn) g.fn (g.frameBase + at0) n
def State.frameSet (s : State) (g : Gang) (at0 n v : Nat) : State :=
  (List.range ((n + 15) / 16)).foldl (fun (s : State) j =>
    s.iaWrite (.agent g.fn) g.fn (g.frameBase + at0 + 16 * j) (toBytes (min 16 (n - 16 * j)) (v / 2 ^ (128 * j)))) s

/-- R256: notes in a packet's header lanes that are performed, and DONE. -/
def State.markPacket (s : State) (g : Gang) (at0 : Nat) (lanes : Mask) (done : Bool) : State :=
  let s1 := s.frameSet g (at0 + 12) 4 (s.frameGet g (at0 + 12) 4 ||| lanes.toNat)
  if done then s1.frameSet g (at0 + 4) 4 (s1.frameGet g (at0 + 4) 4 ||| 65536) else s1

/-- R254: the answer to a request of a halted gang is written into its packet: values of lanes, or a report. The request has left
flight. -/
def State.answerPacket (s : State) (id : Nat) (r : Req) (vals : List (Nat × LaneAcc)) (rep : Option (BitVec 6 × Nat)) : State :=
  match s.gang? r.core r.slot with
  | none => s
  | some g =>
    match g.awaiting id with
    | none => s
    | some (ids, at0) =>
      let body := at0 + 32 + r.bodyEnd
      let s1 := vals.foldl (fun (s : State) v => s.frameSet g (body + r.valueBytes * v.2.lane) r.valueBytes v.1) s
      let s2 := match rep with
        | some (c, v) =>
          let at1 := body + 32 * r.valueBytes + 16 * ids.findIdx fun j => decide (j = id)
          (s1.frameSet g at1 4 (c.toNat + 128)).frameSet g (at1 + 8) 8 v
        | none => s1
      (s2.markPacket g at0 (if rep.isNone then maskOf fun i => r.lanes.any fun a => decide (a.lane = i) else 0)
        (ids.all fun j => (Cells.find? s.reqs j).isNone)).modGang r.core r.slot fun g => { g with results := g.results ++ [(id, r)] }

/-- R254, R200, R204: the answer to a CRED or a SNAP of a halted gang: a value per lane, the lanes that take it, and the status. -/
def State.answerSync (s : State) (g : Gang) (ref : PacketRef) (lanes : Mask) (vals : List Nat) (status : Nat) : State :=
  match g.placeOf ref with
  | none => s
  | some at0 =>
    (((lanesOf lanes).foldl (fun (s : State) i => s.frameSet g (at0 + 32 + 16 * i) 16 (vals.getD i 0)) s).frameSet g (at0 + 544) 4 status).markPacket
      g at0 lanes true

/-- R257: the values that a packet holds for lanes of a request. -/
def State.packetValues (s : State) (g : Gang) (at0 : Nat) (r : Req) : List (Nat × LaneAcc) :=
  let done := BitVec.ofNat 32 (s.frameGet g (at0 + 12) 4)
  (r.lanes.filter fun a => done.getLsbD a.lane).map fun a => (s.frameGet g (at0 + 32 + r.bodyEnd + r.valueBytes * a.lane) r.valueBytes, a)

/-- R257: the report that a packet holds for a request. -/
def State.packetReport (s : State) (g : Gang) (at0 : Nat) (ids : List Nat) (id : Nat) (r : Req) : Option Report :=
  let at1 := at0 + 32 + r.bodyEnd + 32 * r.valueBytes + 16 * ids.findIdx fun j => decide (j = id)
  let w := s.frameGet g at1 4
  if w.testBit 7 then some ⟨BitVec.ofNat 6 w, BitVec.ofNat 64 (s.frameGet g (at1 + 8) 8)⟩ else none

/-- R257: what a packet holds for a CRED or a SNAP: whether it is done, the lanes, their values and the status. -/
def State.syncAnswer (s : State) (g : Gang) (ref : PacketRef) : Option (Mask × List Nat × Nat) :=
  match g.placeOf ref with
  | none => none
  | some at0 =>
    if (s.frameGet g (at0 + 4) 4).testBit 16 then
      some (BitVec.ofNat 32 (s.frameGet g (at0 + 12) 4), (List.range 32).map fun i => s.frameGet g (at0 + 32 + 16 * i) 16, s.frameGet g (at0 + 544) 4)
    else none

end Sys2Proof.Machine
end

