-- ==== Sys2Proof/Machine/MemEvents.lean ====
section
/-! DEFINITION. What ends a memory request: the replies and acknowledgements of its lines, the reports that a
later stage makes (R162). A request is performed in the event that completes it. -/
namespace Sys2Proof.Machine

/-! The end of a request. -/

/-- R301: an entry freed on a core goes to the reservation that waits for it. The parts of a line share its entry. -/
def State.freeEntry (s : State) (r : Req) : State :=
  if r.entry && !(r.part && s.reqs.any fun p => p.2.part && p.2.isOf r.core r.slot r.gen && decide (p.2.seq = r.seq) && decide (p.2.line = r.line)) then
    s.modCore r.core fun c => { c with resv := c.resv.map fun v => { v with held := min v.need (v.held + 1) } }
  else s

/-- R33: the path a request counts on. -/
def Req.path (r : Req) : Path :=
  if isMma r.instr then .m
  else match r.tgt with
    | .scratch _ => .s
    | _ => r.kind.path

/-- R375: the partition whose REQ holds a core's requester port. -/
def State.partOfCore (s : State) (k : Nat) : Nat :=
  ((List.range 16).find? fun t => (s.part t).valid && (s.part t).req.getLsbD (k / 16)).getD 0

/-- R255, R436 LATE: a reply whose generation is not its slot's is dropped and counted. -/
def State.late (s : State) (k : Nat) : State := s.modPart (s.partOfCore k) fun p => { p with late := satUp p.late }

/-- R307, R436 STALE: a reply whose tag is not in use, or not with its generation, is dropped and counted on the link it came by. -/
def State.stale (s : State) (l : Nat) : State :=
  let x := Cells.getD s.links l Link.reset
  { s with links := Cells.put s.links l { x with stale := satUp x.stale } }

/-- R255: the gang that issued the request still holds its slot. -/
def State.live (s : State) (r : Req) : Bool := decide (s.gen r.core r.slot = r.gen) && (s.gang? r.core r.slot).isSome

/-- Takes a request out of flight, and frees its tag. -/
def State.dropReq (s : State) (id : Nat) (r : Req) : State :=
  let s1 := ({ s with reqs := Cells.del s.reqs id } : State).freeEntry r
  match r.tgt with
  | .peer _ _ => s1.freeTag id
  | _ => s1

/-- R254, R255: requests leave flight without an effect. What comes for them later is discarded; their tags stay in use until then. -/
def State.abandon (s : State) (ids : List Nat) : State :=
  ids.foldl (fun (s : State) id => match Cells.find? s.reqs id with
    | some r => ({ s with reqs := Cells.del s.reqs id } : State).freeEntry r
    | none => s) s

/-- R254: the answer to the request goes to a packet. -/
def State.inFrame (s : State) (r : Req) : Bool :=
  s.live r && decide (r.level < 2) && (match s.gang? r.core r.slot with | some g => g.away | none => false)

/-- R33: takes a request out of flight and lowers its counter, or notes it in the packet of a halted gang; a dropped reply that
would have written registers is counted. -/
def State.finish (s : State) (id : Nat) (r : Req) : State :=
  let s1 := s.dropReq id r
  if s.inFrame r then s1.answerPacket id r [] none
  else if s1.live r then s1.land r.core r.slot r.gen r.path r.seq
  else if r.rd && r.kind != .reduction then s1.late r.core
  else s1

/-- R25, R164: ends a request with its lanes' values: they go to their registers, or into the packet of a halted gang. -/
def State.deliver (s : State) (id : Nat) (r : Req) (vals : List (Nat × LaneAcc)) : State :=
  if s.inFrame r then (s.dropReq id r).answerPacket id r vals none
  else (if s.live r then s.modGang r.core r.slot fun g => g.putLoads r.instr r.kind r.active (g.arriving vals) else s).finish id r

/-- R162: ends a request with a deferred report of its own; its lanes get no data. -/
def State.failLane (s : State) (id : Nat) (r : Req) (cause : BitVec 6) : State :=
  if r.mute then s.finish id r
  else if s.inFrame r then (s.dropReq id r).answerPacket id r [] (some (cause, r.line))
  else (s.report r.core r.slot r.gen cause r.line).finish id r

/-- R162: ends a request with the deferred report of its line: the line's lanes get no data, and those of them that are requests of
their own (R178) make no other report. -/
def State.failReq (s : State) (id : Nat) (r : Req) (cause : BitVec 6) : State :=
  let same := fun (x : Req) => x.isOf r.core r.slot r.gen && decide (x.seq = r.seq) && decide (x.line = r.line) && x.kind == r.kind
  ({ s with reqs := s.reqs.map fun p => if same p.2 then (p.1, { p.2 with mute := true }) else p } : State).failLane id r cause

/-- R434: ends a request with an uncorrectable error. -/
def State.failData (s : State) (id : Nat) (r : Req) : State := (s.countUncorrectable (s.partOf r.fn)).failReq id r 0x1B

/-- Who makes a request: its core, or an agent of its function. -/
def Req.requester (r : Req) : Requester :=
  match r.own with
  | .signal _ _ | .landing _ _ _ | .batch _ | .moved _ _ _ => .agent r.fn
  | _ => if r.core < 1024 then .core r.core else .agent r.fn

/-- R404, R407: the function's record is on its way to another device, or has been sent and the device has not taken over. -/
def State.inTransit (s : State) (fn : Nat) : Bool :=
  s.sessions.any fun p => decide (p.2.fn = fn) && !p.2.dir && decide (4 ≤ p.2.state) && decide (p.2.state ≤ 5)

/-- R394: a reply whose request's function sees it ahead of its own epoch waits for the proof point, which it triggers; so does
one of a function that is on its way to another device, until it is there (R407). Its request's timer has stopped. -/
def State.holdReply (s : State) (f : Flight) (p : Arrival) : Option State :=
  match s.fnOfVdn f.req.src with
  | none => none
  | some fn =>
    if s.inTransit fn then some { s with reqs := Cells.modify s.reqs f.id fun r => { r with sent := some s.cycle } }
    else if s.aheadOf fn f.req.dst p.colour then
      some { s.trigger fn 2 with reqs := Cells.modify s.reqs f.id fun r => { r with sent := some s.cycle } }
    else none

/-- R254, R407: the answer to a request of a function that has left follows it. -/
def State.carryOn (s : State) (id : Nat) (r : Req) (modNo vdn : Nat) (cause : BitVec 6) (data : List Byte) : State :=
  (s.dropReq id r).send (.carry modNo vdn id cause data)

/-- The cause that an answer brings. -/
def answerCause (i : Instr) : BitVec 6 := match i with
  | .peerRefusal _ c _ => c
  | _ => 0

/-- R305, R307, R394: what is done with an answer for a tag or an identity: `go` at the request it is for. An answer that its proof
point holds back comes again; one for a request that was dropped (R254) frees its tag. -/
def State.answered (s : State) (n : Nat) (p : Arrival) (again : Instr) (go : State → Nat → Req → State) : State :=
  if n < wireBase then
    match Cells.find? s.reqs n with
    | none => s
    | some r => go s n r
  else match s.flight? n with
    | none => s.stale p.link
    | some f =>
      match s.holdReply f p, Cells.find? s.reqs f.id with
      | some s1, _ => s1.after 1 again
      | none, some r =>
        match r.own with
        | .moved m v _ => s.carryOn f.id r m v (answerCause again) p.data
        | _ => go s f.id r
      | none, none => s.freeTag f.id

/-- An answer to a request is taken once the request's order lets it be performed; `peer` says that it was performed at a peer or has
come from the host. -/
def State.due (s : State) (n : Nat) (p : Arrival) (again : Instr) (go : State → Nat → Req → State) : State :=
  s.answered n p again fun s id r =>
    if r.mute then s.finish id r
    else if r.sent.isNone then
      (if (r.tgt.away && s.mustWait r) || s.lacksEntry r then s.after 1 again else s.transmit r.requester id r)
    else if decide (wireBase ≤ n) || (r.tgt.away && r.fetches) then go s id r
    else if s.mustWait r then s.after 1 again
    else go (if r.own == .gang && isAccess r.instr then s.noteEarly r (s.priorOf r) else s) id r

/-- The data bytes of a lane in a reply that carries the line. -/
def lineValue (peer : List Byte) (size : Nat) (a : LaneAcc) : Nat := ofBytes ((peer.drop (a.addr % 128)).take size)

/-- The pointers of a request of this device. -/
def Req.walker (r : Req) : Walker := walkLocal r.core r.fn (bufRec r.buf) (accExtra r.kind (Instr.long r.instr))

/-- R384: the class and the CPOL of a request. -/
def Req.policy (r : Req) : Policy := (r.cls, (bufRec r.buf).cpol)

/-- The access of a request's lanes at its home on this device. -/
def State.atHome (s : State) (r : Req) (pa : Nat) : State × List (Option Nat × LaneAcc) :=
  s.homeLine r.fn r.kind (Instr.long r.instr) r.pxmt r.policy r.walker pa r.lanes

/-- R165, R168: the values that a read of a line returns, from its home or from the reply's bytes; none
for an error. -/
def State.readLine (s : State) (r : Req) (peer : List Byte) : Option (State × List (Nat × LaneAcc)) :=
  match r.tgt with
  | .dev pa =>
    if s.spoilt r.fn pa then none
    else
      let x := s.atHome r pa
      some (x.1, x.2.map fun v => (v.1.getD 0, v.2))
  | _ => if peer.isEmpty then none else some (s, r.lanes.map fun a => (lineValue peer r.size a, a))

/-- R165: the data of a gang's load return. -/
def State.loadReturned (s : State) (id : Nat) (r : Req) (peer : List Byte) : State :=
  match r.tgt with
  | .notify _ _ => s.failReq id r 0x19
  | _ =>
    match s.readLine r peer with
    | none => s.failData id r
    | some (s1, vals) => s1.deliver id r vals

/-- R168: LDBR_LOADED. -/
def execLdbrLoaded (id : Nat) (peer : Arrival) (s : State) : Out :=
  .next (s.due id peer (.ldbrLoaded id peer) fun s id r =>
    let n := subF (Instr.long r.instr) 3 0
    match r.tgt with
    | .notify _ _ => s.failReq id r 0x19
    | _ =>
      match s.readLine r peer.data with
      | none => s.failData id r
      | some (s1, vals) =>
        let w : Galley := BitVec.ofNat 128 ((vals.map (·.1)).headD 0)
        if bufReserved w then (s1.report r.core r.slot r.gen 0x11 n).finish id r
        else (if s1.live r then s1.modGang r.core r.slot fun g => g.setB n w else s1).finish id r)

/-- R352: the value that a gang's stores write to a notify register, when each is accepted. -/
def notifyValue (r : Req) : Option Nat :=
  let f := Instr.long r.instr
  if r.kind = .store ∧ fmtN f ≤ 3 ∧ (r.lanes.all fun a => decide (a.addr % 4096 = 0)) then
    r.lanes.getLast?.map fun a => a.data % 2 ^ 32
  else none

/-- Consecutive bytes of a byte map, as (first address, bytes). -/
def byteRuns (m : Memory) : List (Nat × List Byte) :=
  (m.foldl (fun (l : List (Nat × List Byte)) c =>
    match l with
    | (a, bs) :: t => if a + bs.length = c.1 then (a, bs ++ [c.2]) :: t else (c.1, [c.2]) :: l
    | [] => [(c.1, [c.2])]) []).reverse

/-- R161, R323: the bytes that a request's lanes store to the host; of lanes that share one, the highest lane's. -/
def State.hostStore (s : State) (r : Req) (h : Nat) : State :=
  (byteRuns (lineBytes r).1).foldl (fun s x => s.send (.hostWrite r.fn (h + x.1) x.2)) s

/-- R166, R176, R169: a gang's store or reduction is performed, or the fetch of a PREF is over. -/
def State.storeDone (s : State) (id : Nat) (r : Req) : State :=
  if r.kind = .pref then s.dropReq id r
  else match r.tgt with
    | .dev pa =>
      if r.kind = .reduction ∧ s.spoilt r.fn pa then s.failData id r
      else (s.atHome r pa).1.finish id r
    | .host h => if r.kind = .reduction then s.failReq id r 0x19 else (s.hostStore r h).finish id r
    | .notify fn q =>
      match notifyValue r with
      | some t => (s.later (.notifyWrite fn q (BitVec.ofNat 32 t))).finish id r
      | none => s.failReq id r 0x19
    | _ => s.finish id r

/-- The value that a peer's reply to an atomic or a near-memory operation carries. -/
def replyValue (peer : List Byte) (n : Nat) (l : List LaneAcc) : List (Nat × LaneAcc) := l.map fun a => (ofBytes (peer.take n), a)

/-- R175: ATOMIC_REPLY. -/
def execAtomicReply (id : Nat) (peer : Arrival) (s : State) : Out :=
  .next (s.due id peer (.atomicReply id peer) fun s id r =>
    match r.tgt with
    | .dev pa =>
      if s.spoilt r.fn pa then s.failData id r
      else
        let x := s.atHome r pa
        x.1.deliver id r (x.2.map fun v => (v.1.getD 0, v.2))
    | .peer _ _ =>
      if peer.data.isEmpty then s.failData id r else s.deliver id r (replyValue peer.data r.size r.lanes)
    | _ => s.failReq id r 0x19)

/-- R178, R179: NMX_REPLY. -/
def execNmxReply (id : Nat) (peer : Arrival) (s : State) : Out :=
  .next (s.due id peer (.nmxReply id peer) fun s id r =>
    match r.tgt with
    | .dev pa =>
      if inBulk pa then s.failReq id r 0x1E
      else if s.spoilt r.fn pa then s.failData id r
      else
        let x := s.atHome r pa
        match x.2 with
        | [(some v, a)] => x.1.deliver id r [(v, a)]
        | _ => x.1.failLane id r 0x1E
    | .peer _ _ =>
      if peer.data.isEmpty then s.failData id r else s.deliver id r (replyValue peer.data 32 r.lanes)
    | _ => s.failReq id r 0x1E)

/-- R170: REMOTE_SCRATCH_COMPLETE. -/
def execRemoteScratchComplete (id : Nat) (s : State) : Out :=
  .next (s.due id Arrival.here (.remoteScratchComplete id) fun s id r =>
    match r.tgt with
    | .scratch gk =>
      let weak := if r.ord = 0 then some (r.core, r.slot, r.gen) else none
      let x := s.scratchAccess gk r.kind (Instr.long r.instr) weak r.lanes
      x.1.deliver id r x.2
    | _ => s.finish id r)

/-- R226: one fetched line of an operand, as the matrix operation keeps it; none for an error, which `told` says is reported
already. -/
def MxOp.take (m : MxOp) (r : Req) (bs : Option (List Byte)) (told : Bool) : MxOp :=
  { m with lines := m.lines.filter fun p => decide (p.1 ≠ r.line),
           l2 := match bs with
             | some l => Memory.writeBytes m.l2 r.line l
             | none => m.l2,
           bad := if bs.isNone && m.bad.isNone then some (if told then none else some (BitVec.ofNat 64 r.line)) else m.bad }

/-- The matrix operation that a request fetches for. -/
def MxOp.isFor (m : MxOp) (r : Req) : Bool := decide (m.slot = r.slot) && decide (m.gen = r.gen) && decide (m.seq = r.seq)

/-- R226, R227: a line of an operand is done with. -/
def State.takeLine (s : State) (id : Nat) (r : Req) (bs : Option (List Byte)) (told : Bool := false) : State :=
  (s.dropReq id r).modCore r.core fun co => { co with mxOps := co.mxOps.map fun m => if m.isFor r then m.take r bs told else m }

/-- R226: L2_DIRECT_OPERAND_REPLY. -/
def execL2DirectOperandReply (id line : Nat) (peer : Arrival) (s : State) : Out :=
  .next (s.due id peer (.l2DirectOperandReply id line peer) fun s id r =>
    match r.tgt with
    | .dev pa =>
      if s.spoilt r.fn pa then (s.countUncorrectable (s.partOf r.fn)).takeLine id r none
      else ((s.fnReadNote r.fn pa).countRow pa).takeLine id r (some (s.homeBytes (s.keyOf r.fn) pa 128))
    | .notify _ _ => (s.report r.core r.slot r.gen 0x19 r.line).takeLine id r none true
    | _ => if peer.data.isEmpty then (s.countUncorrectable (s.partOf r.fn)).takeLine id r none else s.takeLine id r (some peer.data))

end Sys2Proof.Machine
end

