-- ==== Sys2Proof/Machine/CopySync.lean ====
section
/-! DEFINITION. Copies (R184 to R190), batches (R191 to R193), byte barriers (R194 to R197), named barriers
(R198, R199) and WAITC (R206). -/
namespace Sys2Proof.Machine

/-! Byte barriers. -/

/-- R194: `check`; answers whether a phase completed. -/
def Xbar.check (x : Xbar) : Xbar × Bool :=
  if x.arr = x.exp then
    if x.count = 0 then
      let g := (x.gen + 1) % 65536
      ({ x with gen := g, phase := g % 2 = 1, arr := 0 }, true)
    else ({ x with err := x.err || decide (x.count < 0) }, false)
  else (x, false)

def int32Ok (t : Int) : Bool := decide (-((2 ^ 31 : Nat) : Int) ≤ t) && decide (t < ((2 ^ 31 : Nat) : Int))

/-- R195: the barrier before XARV; none is 0x2B. -/
def Xbar.arrive (x : Xbar) (bytes : Int) : Option (Xbar × Bool) :=
  let t := x.count + bytes
  if decide (x.rsv ≠ 0) || x.phase != decide (x.gen % 2 = 1) || decide (x.exp = 0) || x.err || decide (x.arr = x.exp) || !int32Ok t then none
  else some ({ x with count := t, arr := (x.arr + 1) % 65536 } : Xbar).check

/-- R196: a piece of n bytes. -/
def Xbar.deliver (x : Xbar) (n : Nat) : Xbar × Bool :=
  if int32Ok (x.count - n) then ({ x with count := x.count - n } : Xbar).check else ({ x with err := true }, false)

/-- The barrier at an offset of a group's scratchpad. -/
def Group.xbar (g : Group) (off : Nat) : Xbar := Xbar.ofNat (Memory.read g.scratch off 16)

/-- R194, R326: stores an updated barrier; a completed phase raises the group's epoch. -/
def State.putXbar (s : State) (gk off : Nat) (x : Xbar × Bool) : State :=
  let s1 := s.modGroup gk fun g => ({ g with scratch := Memory.write g.scratch off 16 x.1.toNat } : Group).noteWrite none off 16
  if x.2 then s1.phaseDone gk else s1

/-- R195: XARV. -/
def xarvEff (i : Instr) (c : Ctx) : Eff :=
  let f := Instr.long i
  if !c.acts then .next c.st
  else
    let lo := lowest c.active
    let a := c.barAddr f
    match c.scratchCause a 16 16 lo false, (c.st.scratchTarget c.g.group a).bind fun gk => (c.st.group? gk).map fun g => (gk, g) with
    | some (cause, v), _ => .raise cause v
    | none, none => .raise 0x18 (2 ^ lo)
    | none, some (gk, g) =>
      let x := g.xbar (bits a 19 0)
      match x.arrive (sext (c.src f.lit f.b 32 lo) 32) with
      | none => .raise 0x2B a
      | some y =>
        .next ((c.st.modGang c.k c.sl fun g => g.putAll f.d 32 c.active fun _ => x.gen).putXbar gk (bits a 19 0) y)

/-- R197: XWAIT, once it is ready. -/
def xwaitEff (i : Instr) (c : Ctx) : Eff :=
  let f := Instr.long i
  if !c.acts then .next c.st
  else
    let lo := lowest c.active
    let a := c.barAddr f
    match c.scratchCause a 16 16 lo true, c.st.group? c.g.group with
    | some (cause, v), _ => .raise cause v
    | none, none => .next c.st
    | none, some g =>
      if (g.xbar (bits a 19 0)).err then .raise 0x2B a
      else .next (c.st.modGang c.k c.sl fun g => { g with acqf := true })

/-! Batches. -/

/-- R191: an operation of a batch of a gang is in flight. -/
def State.batchBusy (s : State) (k sl gen : Nat) (b : Word) : Bool :=
  (s.copies.any fun p => decide (p.2.core = k) && decide (p.2.slot = sl) && decide (p.2.gen = gen) && p.2.batch == b) ||
  (s.emits.any fun p => decide (p.2.core = k) && decide (p.2.slot = sl) && decide (p.2.gen = gen) && p.2.batch == b)

/-- R191: the oldest sealed batches that have no operation in flight finish. -/
def State.settleBatches (s : State) (k sl gen : Nat) : State :=
  if s.gen k sl = gen then s.modGang k sl fun g => { g with sealed := g.sealed.dropWhile fun b => !s.batchBusy k sl gen b } else s

/-- R191: SEAL. -/
def sealEff (i : Instr) (c : Ctx) : Eff :=
  let f := Instr.long i
  if !c.acts then .next c.st
  else if c.g.sealed.length = 15 then .raise 0x2D 0
  else
    let n := c.g.sealNo + 1
    let g := ({ c.g with sealNo := n, sealed := c.g.sealed ++ [n], openOps := 0 } : Gang).putAll f.d 32 c.active fun _ => n.toNat
    .next ((c.st.setGang c.k c.sl g).settleBatches c.k c.sl (c.st.gen c.k c.sl))

/-- R192, R206: WAITB and WAITC, once they are ready: acquires. -/
def acquireEff (c : Ctx) : Eff :=
  if !c.acts then .next c.st else .next (c.st.modGang c.k c.sl fun g => { g with acqf := true })

/-! Copies. -/

/-- R185: the offset of element m from the origin. -/
def Forme.step (f : Forme) (m : Nat) : Int :=
  (f.dims.foldl (fun (p : Int × Nat) d => (p.1 + ((p.2 % d.1 : Nat) : Int) * d.2, p.2 / d.1)) (0, m)).1

/-- R189: the elements and the bytes of a piece. -/
def Forme.pieceElems (f : Forme) (p : Nat) : List Nat :=
  (List.range (128 / f.esize)).filterMap fun j => let m := p * (128 / f.esize) + j; if m < f.elems then some m else none
def Forme.pieceBytes (f : Forme) (p : Nat) : Nat := (f.pieceElems p).length * f.esize

/-- R186, R187: the kinds of copy. -/
def Copy.global (c : Copy) : Bool := match c.instr with | .cpytS _ => false | _ => true
def Copy.out (c : Copy) : Bool := match c.instr with | .cpyOut _ => true | _ => false

/-- R185, R187: element m is in bounds. -/
def Copy.inBounds (c : Copy) (scratch m : Nat) : Bool :=
  let e := c.origin + c.forme.step m
  decide (0 ≤ e) && decide (e + c.forme.esize ≤ (if c.global then ((bufRec c.buf).extent : Int) else scratch))

/-- R185, R297: the virtual address of an element that is in bounds. -/
def Copy.va (c : Copy) (m : Nat) : Nat :=
  let b := bufRec c.buf
  swizzle b.swz (b.base + (c.origin + c.forme.step m).toNat)

/-- Where an element of the global side lies. -/
inductive Place where
  | fill
  | skip
  | faulty (cause : BitVec 6) (va : Nat)
  | at (t : Target) (va : Nat)
deriving DecidableEq, Repr

/-- R185, R189: places element m of a copy; a page of the fix-up list is skipped. -/
def State.placeElem (s : State) (c : Copy) (pages : List Nat) (m : Nat) : State × Place :=
  if !c.inBounds 0 m then (s, .fill)
  else
    let va := c.va m
    if pages.contains (va / 65536) then (s, .skip)
    else match s.translate (.core c.core) c.fn va (if c.out then ⟨false, true, false⟩ else ⟨true, false, false⟩) with
      | .ok (t, e) => (s.keepTlb (.core c.core) e, .at t va)
      | .error cause => (s.noteWalk (.core c.core) c.fn va, .faulty cause va)

def State.placeElems (s : State) (c : Copy) (pages : List Nat) : List Nat → State × List (Nat × Place)
  | [] => (s, [])
  | m :: t =>
    let x := s.placeElem c pages m
    let y := x.1.placeElems c pages t
    (y.1, (m, x.2) :: y.2)

/-- R185: the fill value's bytes. -/
def Copy.fillBytes (c : Copy) : List Byte := toBytes c.forme.esize c.forme.fill

/-- R186, R187: writes an element's bytes on the dense side of a copy in. -/
def State.putDense (s : State) (c : Copy) (m : Nat) (bs : List Byte) : State :=
  match c.instr with
  | .cpyt _ | .cpytS _ =>
    let n0 := (c.forme.dims.headD (1, 0)).1
    let row := c.row + m / n0
    s.modCore c.core fun co => { co with tile := Memory.writeBytes co.tile (512 * row + c.col + c.forme.esize * (m % n0)) bs,
                                         tileWritten := co.tileWritten ||| BitVec.ofNat 512 (2 ^ row) }
  | _ =>
    match s.scratchTarget c.group c.dense with
    | none => s
    | some gk =>
      let off := bits c.dense 19 0 + c.forme.esize * m
      s.modGroup gk fun g => ({ g with scratch := Memory.writeBytes g.scratch off bs } : Group).noteWrite none off bs.length

/-- R186: the bytes of an element on the dense side of a copy out. -/
def State.getDense (s : State) (c : Copy) (m : Nat) : List Byte :=
  match (s.scratchTarget c.group c.dense).bind s.group? with
  | none => toBytes c.forme.esize 0
  | some g => toBytes c.forme.esize (Memory.read g.scratch (bits c.dense 19 0 + c.forme.esize * m) c.forme.esize)

/-- A deferred report of a copy to the gang that issued it. -/
def State.copyReport (s : State) (c : Copy) (cause : BitVec 6) (v : Nat) : State := s.report c.core c.slot c.gen cause v

/-- R309: the class of a copy's requests. -/
def Copy.cls (c : Copy) : Nat := qosOf c.buf

/-- R186, R323: moves one element that has its place; the data of a peer's or the host's element have come already, and a
write to a peer has been made. -/
def State.moveElem (s : State) (c : Copy) (m : Nat) : Place → State
  | .fill => if c.out then s else s.putDense c m c.fillBytes
  | .at (.dev pa) _ =>
    if c.out then s.fnWrite c.fn pa (bufRec c.buf).pxmt (s.getDense c m) (s.allocates c.fn c.cls 1 (bufRec c.buf).cpol)
    else s.putDense c m (s.homeBytes (s.keyOf c.fn) pa c.forme.esize)
  | .at (.host a) _ => if c.out then s.send (.hostWrite c.fn a (s.getDense c m)) else s.putDense c m (Cells.getD c.got m [])
  | .at (.peer _ _) _ => if c.out then s else s.putDense c m (Cells.getD c.got m [])
  | _ => s

def Place.isRemote (out : Bool) : Place → Bool
  | .at (.peer _ _) _ => true
  | .at (.host _) _ => !out
  | _ => false

/-- R189: the first uncorrectable error among the elements that a copy reads. -/
def State.copyPoison (s : State) (c : Copy) (l : List (Nat × Place)) : Option Nat :=
  if c.out then none
  else l.findSome? fun p => match p.2 with
    | .at (.dev pa) va => if s.spoilt c.fn pa then some (va / 128 * 128) else none
    | _ => none

/-- R352: the first element that lies in a notify register. -/
def notifyElem (l : List (Nat × Place)) : Option Nat :=
  l.findSome? fun p => match p.2 with
    | .at (.notify _ _) va => some va
    | _ => none

def State.modCopy (s : State) (id : Nat) (h : Copy → Copy) : State := { s with copies := Cells.modify s.copies id h }

/-- R189, R196: a piece counts as delivered. -/
def State.delivered (s : State) (id : Nat) (c : Copy) (p : Nat) : State :=
  let s1 := s.modCopy id fun c => { c with left := c.left.filter (· ≠ p), fixups := c.fixups.filter (· ≠ p),
                                           asked := c.asked.filter fun a => decide (a.2 ≠ p),
                                           got := c.got.filter fun e => !(c.forme.pieceElems p).contains e.1 }
  match c.xbar with
  | none => s1
  | some a =>
    match (s1.scratchTarget c.group a).bind fun gk => (s1.group? gk).map fun g => (gk, g) with
    | none => s1
    | some (gk, g) => s1.putXbar gk (bits a 19 0) ((g.xbar (bits a 19 0)).deliver (c.forme.pieceBytes p))

/-- The agenda holds the next turn of a copy of the core. -/
def State.copyTurn (s : State) (core id : Nat) : Bool :=
  s.agenda.any fun e => match e.2 with
    | .copyPieceDelivered k i _ | .copyFixupReplay k i => decide (k = core) && decide (i = id)
    | _ => false

/-- R256: a copy engine delivers no piece 256 or more above the lowest that is not delivered. -/
def Copy.window (c : Copy) : Nat := c.left.foldl Nat.min (c.left.headD 0) + 256

/-- R189, R190: what a copy does next: another piece d cycles on, its fix-up list once every other piece is delivered, or its
end. A translation that fails takes its time (log 69). -/
def State.copyNextIn (s : State) (d id : Nat) : State :=
  match Cells.find? s.copies id with
  | none => s
  | some c =>
    if c.halted || s.copyTurn c.core id then s
    else
      let free := c.left.filter fun p => decide (p < c.window) && !c.fixups.contains p && !(c.asked.any fun a => decide (a.2 = p))
      match free with
      | _ :: _ => s.after d (.copyPieceDelivered c.core id (free.getD (s.choice % free.length) 0))
      | [] =>
        if !c.asked.isEmpty then s
        else if !c.fixups.isEmpty then s.after walkCycles (.copyFixupReplay c.core id)
        else ({ s with copies := Cells.del s.copies id } : State).settleBatches c.core c.slot c.gen

/-- R189: what a copy does next, at once. -/
def State.copyNext (s : State) (id : Nat) : State := s.copyNextIn 1 id

/-- R232: a CPYT waits while a matrix instruction that the engine has still to execute reads a row it would write. -/
def State.tileBusy (s : State) (c : Copy) (p : Nat) : Bool :=
  match c.instr with
  | .cpyt _ | .cpytS _ =>
    let n0 := (c.forme.dims.headD (1, 0)).1
    (s.core c.core).mxOps.any fun m => !m.ran && (c.forme.pieceElems p).any fun e => m.readsRow (c.row + e / n0)
  | _ => false

/-- The line of a peer's or the host's memory that a place lies in, as a key. -/
def Place.lineKey : Place → Nat
  | .at (.peer vdn ia) _ => vdn * 2 ^ 52 + ia / 128
  | .at (.host a) _ => 2 ^ 70 + a / 128
  | _ => 0

/-- R304, R395: the request for a piece's elements in one line, each a lane of it: a read for a copy in. -/
def State.pieceReq (s : State) (cid : Nat) (c : Copy) (p : Nat) (l : List (Nat × Place)) : Option Req :=
  match l.head? with
  | some (_, .at t va) =>
    some { core := c.core, slot := c.slot, gen := c.gen, fn := c.fn, group := c.group, seq := c.seq, instr := c.instr, active := 0,
           lanes := l.map fun e => { lane := e.1, addr := c.va e.1, off := 0, dst := 0, data := if c.out then ofBytes (s.getDense c e.1) else 0, data2 := 0 },
           buf := c.buf, size := c.forme.esize, line := va / 128 * 128,
           tgt := match t with
             | .peer v ia => .peer v (ia / 128 * 128)
             | .host a => .host (a / 128 * 128)
             | t => t,
           rd := !c.out, wr := c.out, ord := 0, scope := 3, pxmt := (bufRec c.buf).pxmt, level := c.level, sent := none, mute := false,
           own := .piece cid p, cls := c.cls, fences := [], turn := 0, entry := false, part := false }
  | _ => none

/-- Sends the requests for elements of a piece that lie on peers or, for a copy in, in host memory: one for each line. -/
def State.askPiece (s : State) (cid : Nat) (c : Copy) (p : Nat) (l : List (Nat × Place)) : State :=
  ((l.map fun e => e.2.lineKey).eraseDups).foldl (fun (s : State) key =>
    match s.pieceReq cid c p (l.filter fun e => decide (e.2.lineKey = key)) with
    | some r => (s.modCopy cid fun c => { c with asked := (s.nextId, p) :: c.asked }).sendOne (.core c.core) r
    | none => s) s

/-- The pages and causes that a piece newly finds to fault. -/
def faultyPages (l : List (Nat × Place)) : List (Nat × BitVec 6 × Nat) :=
  l.foldl (fun m e => match e.2 with
    | .faulty cause va => if m.any fun x => decide (x.1 = va / 65536) then m else m ++ [(va / 65536, cause, va)]
    | _ => m) []

/-- R381, R385, R309: what the lines of this device that elements lie in cost: an activation each, a refused key, express credit. -/
def State.noteLines (s : State) (c : Copy) (l : List (Nat × Place)) : State :=
  ((l.filterMap fun e => match e.2 with
    | .at (.dev pa) _ => some (pa / 128 * 128)
    | _ => none).eraseDups).foldl (fun (s : State) pa =>
      ((if c.out then s else s.fnReadNote c.fn pa).countRow pa |>.spend c.fn c.cls).1) s

/-- R189, R352: the errors that drop a piece, with the value that each reports. -/
def State.pieceErrors (s : State) (c : Copy) (l : List (Nat × Place)) : List (BitVec 6 × Nat) :=
  (match s.copyPoison c l with | some va => [(0x1B, va)] | none => []) ++ (match notifyElem l with | some va => [(0x19, va)] | none => [])

/-- Makes reports of a copy; uncorrectable errors are counted (R434). -/
def State.copyReports (s : State) (c : Copy) (l : List (BitVec 6 × Nat)) : State :=
  l.foldl (fun (s : State) x => (if x.1 = 0x1B then s.countUncorrectable (s.partOf c.fn) else s).copyReport c x.1 x.2) s

/-- R189: writes a piece whose requests have been answered, unless it is dropped, and settles it. A piece with elements of pages
that fault waits for the fix-up list. -/
def State.writePiece (s : State) (id : Nat) (c : Copy) (p : Nat) (l : List (Nat × Place)) : State :=
  let bad := faultyPages l
  let errs := if c.dropped.contains p then [] else s.pieceErrors c l
  let gone := c.dropped.contains p || !errs.isEmpty
  let s1 := bad.foldl (fun s x => s.copyReport c x.2.1 x.2.2) ((s.noteLines c l).copyReports c errs)
  let s2 := if gone then s1 else l.foldl (fun s e => s.moveElem c e.1 e.2) s1
  let skipped := l.any fun e => match e.2 with
    | .skip | .faulty _ _ => true
    | _ => false
  if skipped then
    s2.modCopy id fun c => { c with pages := c.pages ++ bad.map (·.1), fixups := c.fixups ++ [p], dropped := if gone then p :: c.dropped else c.dropped }
  else s2.delivered id c p

/-- R187: a piece of a copy within the scratchpad and the tile store. -/
def State.localPiece (s : State) (id : Nat) (c : Copy) (p : Nat) : State :=
  let mem := match s.group? c.group with | some g => (g.scratch, g.kern.scratch) | none => ([], 0)
  ((c.forme.pieceElems p).foldl (fun s m =>
    s.putDense c m (if c.inBounds mem.2 m then toBytes c.forme.esize (Memory.read mem.1 (c.origin + c.forme.step m).toNat c.forme.esize)
      else c.fillBytes)) s).delivered id c p

/-- The elements on peers or, for a copy in, in host memory that have still to be asked for. -/
def Copy.toAsk (c : Copy) (l : List (Nat × Place)) : List (Nat × Place) :=
  l.filter fun e => e.2.isRemote c.out && (Cells.find? c.got e.1).isNone

/-- R189: COPY_PIECE_DELIVERED: a piece whose elements lie on this device, or have come, is written; else they are asked for. -/
def execCopyPieceDelivered (core id p : Nat) (s : State) : Out :=
  match Cells.find? s.copies id with
  | none => .next s
  | some c =>
    if c.core ≠ core || c.halted || !c.left.contains p || c.fixups.contains p || c.asked.any (fun a => decide (a.2 = p)) then .next s
    else if s.accessBefore c.core c.slot c.gen c.seq c.level || s.tileBusy c p then .next (s.after 1 (.copyPieceDelivered c.core id p))
    else if !c.global then .next ((s.localPiece id c p).copyNext id)
    else
      let (s1, l) := s.placeElems c c.pages (c.forme.pieceElems p)
      let ask := if c.dropped.contains p || !(s.pieceErrors c l).isEmpty then [] else c.toAsk l
      if ask.isEmpty then .next ((s1.writePiece id c p l).copyNextIn (if (faultyPages l).isEmpty then 1 else walkCycles) id)
      else .next ((s1.askPiece id c p ask).copyNext id)

/-- R189: the pages that fault again are abandoned. -/
def abandoned (l : List (Nat × Place)) : List (Nat × Nat) := (faultyPages l).map fun x => (x.1, x.2.2)

/-- R189: the elements of the pages on the fix-up list. -/
def Copy.fixElems (c : Copy) : List Nat :=
  (c.fixups.flatMap c.forme.pieceElems).filter fun m => c.inBounds 0 m && c.pages.contains (c.va m / 65536)

/-- R185: the piece that element m lies in. -/
def Forme.pieceOf (f : Forme) (m : Nat) : Nat := m / (128 / f.esize)

/-- R189: the pieces on the fix-up list that their elements now drop, with what they report. -/
def State.fixErrors (s : State) (c : Copy) (l : List (Nat × Place)) : List (Nat × List (BitVec 6 × Nat)) :=
  (c.fixups.filter fun p => !c.dropped.contains p).map fun p => (p, s.pieceErrors c (l.filter fun e => decide (c.forme.pieceOf e.1 = p)))

/-- R189: the second and last try of the fix-up list, once the requests that it needs have been answered. -/
def State.replayFix (s : State) (id : Nat) (c : Copy) (l : List (Nat × Place)) : State :=
  let errs := (s.fixErrors c l).filter fun x => !x.2.isEmpty
  let s1 := (abandoned l).foldl (fun s x => s.copyReport c 0x2A x.2) (s.noteLines c l)
  let s2 := errs.foldl (fun s x => s.copyReports c x.2) s1
  let ok := l.filter fun e => !c.dropped.contains (c.forme.pieceOf e.1) && !(errs.any fun x => decide (x.1 = c.forme.pieceOf e.1))
  let s3 := ok.foldl (fun (s : State) e => s.moveElem c e.1 e.2) s2
  (c.fixups.foldl (fun (s : State) p => s.delivered id c p) s3).copyNext id

/-- R189: COPY_FIXUP_REPLAY: the elements of the pages on the list are tried once more. Requests to peers
stand under the piece number past the last. -/
def execCopyFixupReplay (core id : Nat) (s : State) : Out :=
  match Cells.find? s.copies id with
  | none => .next s
  | some c =>
    if c.core ≠ core || c.halted || c.fixups.isEmpty || !c.asked.isEmpty then .next s
    else
      let (s1, l) := s.placeElems c [] c.fixElems
      let ask := c.toAsk (l.filter fun e => !c.dropped.contains (c.forme.pieceOf e.1))
      if ask.isEmpty then .next (s1.replayFix id c l) else .next (s1.askPiece id c c.forme.pieces ask)

/-! Answers to the requests of copies. -/

/-- R189: a piece whose requests have all been answered goes on; the number past the last stands for the fix-up list. -/
def State.pieceGoesOn (s : State) (cid p : Nat) : State :=
  match Cells.find? s.copies cid with
  | none => s
  | some c =>
    if c.asked.any fun a => decide (a.2 = p) then s
    else s.later (if p = c.forme.pieces then .copyFixupReplay c.core cid else .copyPieceDelivered c.core cid p)

/-- R189: the answer to a request of a copy: the bytes of a line that was read, or that a write is performed. -/
def State.pieceAnswered (s : State) (id cid p : Nat) (r : Req) (line : List Byte) : State :=
  ((s.dropReq id r).modCopy cid fun c =>
    { c with asked := c.asked.filter (fun a => decide (a.1 ≠ id)),
             got := r.lanes.foldl (fun m a => Cells.put m a.lane (if r.wr then [] else (line.drop (a.addr % 128)).take r.size)) c.got }).pieceGoesOn cid p

/-- R189, R305: a request of a copy has failed, and the failure is reported: the pieces that its elements feed are not written. -/
def State.pieceFailed (s : State) (id cid p : Nat) (r : Req) (cause : BitVec 6) : State :=
  match Cells.find? s.copies cid with
  | none => s.dropReq id r
  | some c =>
    (((s.dropReq id r).copyReports c [(cause, r.line)]).modCopy cid fun c =>
      { c with asked := c.asked.filter (fun a => decide (a.1 ≠ id)), dropped := (r.lanes.map fun a => c.forme.pieceOf a.lane).eraseDups ++ c.dropped }).pieceGoesOn cid p

/-- R189, R367: a home's stage 2 refuses a request of a copy: the copy skips the segment that it lies in, or abandons it when the
fix-up list is replayed, and goes on. -/
def State.pieceRefused (s : State) (id cid p : Nat) (r : Req) (cause : BitVec 6) : State :=
  match Cells.find? s.copies cid with
  | none => s.dropReq id r
  | some c =>
    let again := decide (p = c.forme.pieces)
    let va := (r.lanes.map (·.addr)).headD r.line
    let seg := va / 65536
    ((((s.dropReq id r).copyReport c (if again then 0x2A else cause) va).modCopy cid fun c =>
      { c with asked := c.asked.filter (fun a => decide (a.1 ≠ id)),
               pages := if again then c.pages.filter (fun x => decide (x ≠ seg)) else if c.pages.contains seg then c.pages else c.pages ++ [seg] })).pieceGoesOn cid p

/-- R186 to R188, R191: CPY and CPYT at issue. -/
def copyEff (i : Instr) (c : Ctx) : Eff :=
  let f := Instr.long i
  if !c.acts then .next c.st
  else match c.copyCause i, (c.st.group? c.g.group).bind fun g => g.kern.formes[copyForme i]? with
    | some (cause, v), _ => .raise cause v
    | none, none => .raise 0x02 (c.st.reportWords i)
    | none, some fo =>
      let cp : Copy :=
        { core := c.k, slot := c.sl, gen := c.st.gen c.k c.sl, fn := c.g.fn, group := c.g.group, seq := c.g.seq, instr := i, forme := fo,
          origin := c.copyOrigin i, dense := c.copyDense i, xbar := c.copyXbar i, batch := c.g.sealNo + 1, row := immF f 17 9, col := immF f 8 0,
          buf := c.g.bReg fo.buf, left := List.range fo.pieces, pages := [], fixups := [], asked := [], got := [], dropped := [], halted := false, level := c.g.level }
      let id := c.st.nextId
      .next (({ (c.st.setGang c.k c.sl { c.g with openOps := c.g.openOps + 1 }).bumpId with
                  copies := Cells.put c.st.copies id cp } : State).copyNextIn (if cp.global then Target.latency (.dev 0) else 1) id)

/-! Named barriers. -/

/-- R198: BAR: the fragment waits at it. -/
def barEff (i : Instr) (c : Ctx) : Eff :=
  let f := Instr.long i
  if !c.acts then .next c.st
  else
    let b : BarArg := { arv := f.sub.getLsbD 0, id := immF f 3 0, count := immF f 9 4, scope := immF f 24 22 }
    .placed ((c.st.modGang c.k c.sl fun g => g.modFrag c.f.fid fun x =>
      ({ x with wait := .bar b, waitCyc := 0, chead := x.pc, chainRd := [], chainX := false, defer := 0, urg := none } : Frag).stepped
        c.g.stepping (pcAddr x.pc)).later (.barArrival c.k c.sl))

/-- R199: the fragments of a gang that wait at a BAR, with its operands. -/
def Gang.barWaits (g : Gang) : List (Frag × BarArg) :=
  g.frags.filterMap fun f => match f.wait with
    | .bar b => some (f, b)
    | _ => none

/-- R199: every fragment of the gang waits at a BAR or is at its join. -/
def Gang.allAtBar (g : Gang) : Bool :=
  !g.barWaits.isEmpty && g.frags.all fun f => match f.wait with
    | .bar _ | .join => true
    | _ => false

/-- R199: the fragment that came to its BAR last. -/
def Gang.lastAtBar (g : Gang) : Option (Frag × BarArg) :=
  g.barWaits.foldl (fun m x => match m with
    | none => some x
    | some y => if x.1.waitCyc < y.1.waitCyc then some x else some y) none

/-- R198, R199: 0x2C, reported to a fragment; it stands at its BAR again when the gang returns. -/
def State.barMismatch (s : State) (k sl : Nat) (f : Frag) (id : Nat) : State :=
  (s.modGang k sl fun g => g.modFrag f.fid fun x => { x with wait := .run }).trap k sl f.fid 0x2C id (pcAddr f.pc) 0 0

/-- R199: BAR_ARRIVAL. -/
def execBarArrival (k sl : Nat) (s : State) : Out :=
  match s.gang? k sl with
  | none => .next s
  | some g =>
    match g.lastAtBar, s.group? g.group with
    | some (f, b), some grp =>
      if g.stopped || (g.halt.map (·.taken)).getD false then .next s
      else if g.barWaits.any fun x => x.2 != b then .next (s.barMismatch k sl f b.id)
      else if !g.allAtBar then .next s
      else if (decide (g.level = 0) && !g.olog.isEmpty) || !(g.priorTo g.level (s.gangReqs k sl)).isEmpty then .next (s.after 1 (.barArrival k sl))
      else
        let bar := grp.bar b.id
        if grp.kern.gangs < b.count || (bar.count.isSome && bar.count != some b.count) then .next (s.barMismatch k sl f b.id)
        else
          let bar1 := { bar with arrived := bar.arrived ++ [g.gid], count := some b.count,
                                 waiting := if b.arv then bar.waiting else bar.waiting ++ [g.gid] }
          let s1 := s.modGroup g.group fun x => { x with bars := Cells.set Bar.empty x.bars b.id bar1 }
          let s2 := s1.modGang k sl fun g =>
            { g with frags := g.frags.map fun x => match x.wait with
                       | .bar _ => if b.arv then x.resume g.level else { x with wait := .arrived b }
                       | _ => x }
          .next (s2.tryBar g.group b.id)
    | _, _ => .next s

/-! The meanings. -/

def execCpyIn (f : Long) (s : State) : Out := run (.cpyIn f) (copyEff (.cpyIn f)) s
def execCpyOut (f : Long) (s : State) : Out := run (.cpyOut f) (copyEff (.cpyOut f)) s
def execCpyt (f : Long) (s : State) : Out := run (.cpyt f) (copyEff (.cpyt f)) s
def execCpytS (f : Long) (s : State) : Out := run (.cpytS f) (copyEff (.cpytS f)) s
def execSeal (f : Long) (s : State) : Out := run (.seal f) (sealEff (.seal f)) s
def execWaitb (f : Long) (s : State) : Out := run (.waitb f) acquireEff s
def execXarv (f : Long) (s : State) : Out := run (.xarv f) (xarvEff (.xarv f)) s
def execXwait (f : Long) (s : State) : Out := run (.xwait f) (xwaitEff (.xwait f)) s
def execWaitc (f : Long) (s : State) : Out := run (.waitc f) acquireEff s
def execBarWait (f : Long) (s : State) : Out := run (.barWait f) (barEff (.barWait f)) s
def execBarNote (f : Long) (s : State) : Out := run (.barNote f) (barEff (.barNote f)) s

end Sys2Proof.Machine
end

