-- ==== Sys2Proof/Machine/Fabric.lean ====
section
/-! DEFINITION. The fabric (R304 to R307, R349, R367, R391 to R394, R407): refusals, timeouts and moves of the
requests this device sends, and the arrival of a peer's request here. -/
namespace Sys2Proof.Machine

/-! Refusals, timeouts and moves. -/

/-- R163: the operand log has room for an instruction's lines. -/
def Gang.mayPark (g : Gang) (seq : Nat) : Bool := decide (g.olog.length < 4) || g.olog.any fun p => decide (p.seq = seq)

/-- R163: parks a line of an instruction, in its entry of the log if it has one. -/
def Gang.parkLine (g : Gang) (r : Req) (cause : BitVec 6) : Gang :=
  let r1 := { r with sent := none, entry := false }
  if g.olog.any fun p => decide (p.seq = r.seq) then
    { g with olog := g.olog.map fun p => if p.seq = r.seq then { p with lines := p.lines ++ [r1] } else p }
  else { g with olog := g.olog ++ [⟨r.seq, [r1], none, cause, r.line, false, 0⟩] }

/-- R226: the requests of the lines of a matrix operand that are in flight. -/
def State.operandReqs (s : State) (r : Req) : List (Nat × Req) :=
  s.reqs.filter fun p => isMma p.2.instr && p.2.isOf r.core r.slot r.gen && decide (p.2.seq = r.seq)

/-- R226: the whole matrix instruction parks: it keeps its place in the engine, which waits for its operand, and its lines in flight
are dropped. -/
def State.parkMma (s : State) (id : Nat) (r : Req) (cause : BitVec 6) : State :=
  let rs := s.operandReqs r
  let op := (s.core r.core).mxOps.find? fun m => m.isFor r
  let s1 := (s.dropReq id r).abandon (rs.map (·.1))
  (s1.modCore r.core fun co =>
    { co with mxOps := co.mxOps.map fun m => if m.isFor r then { m with lines := (r.line, r.tgt) :: m.lines, l2 := [], bad := none } else m }).modGang
    r.core r.slot fun g => { g with olog := g.olog ++ [⟨r.seq, rs.map (·.2), op, cause, r.line, false, 0⟩] }

/-- R162, R226: a gang's request that the fabric fails: a deferred report, and no data. -/
def State.fabricFail (s : State) (id : Nat) (r : Req) (cause : BitVec 6) : State :=
  if isMma r.instr then (s.report r.core r.slot r.gen cause r.line).takeLine id r none true
  else if r.walks && cause == 0x1E then s.failLane id r cause
  else s.failReq id r cause

/-- R163, R367: a home's stage 2 refuses a gang's request: at level 0 its line parks, once the log has room and the gang is not
halted; above it the refusal is a deferred report (R240). -/
def State.refused (s : State) (id : Nat) (r : Req) (cause : BitVec 6) (again : Instr) : State :=
  if !s.live r then s.finish id r
  else if 0 < r.level then s.fabricFail id r cause
  else if s.inFrame r || (match s.gang? r.core r.slot with | some g => !g.mayPark r.seq | none => false) then
    ({ s with reqs := Cells.put s.reqs id { r with sent := some s.cycle } } : State).after walkCycles again
  else if isMma r.instr then s.parkMma id r cause
  else (s.dropReq id r).modGang r.core r.slot fun g => g.parkLine r cause

/-- R305: WAIT_REPLY restarts the timer. -/
def execWaitReply (reply : Reply) (s : State) : Out :=
  match s.flight? reply.id with
  | none => .next (s.stale reply.peer.link)
  | some f =>
    match s.holdReply f reply.peer with
    | some s1 => .next (s1.after 1 (.waitReply reply))
    | none => .next { s with reqs := Cells.modify s.reqs f.id fun r => { r with sent := some s.cycle } }

/-- R305: 50 µs in cycles of the arithmetic clock. -/
def waitCycles : Nat := 55000

/-- R305, R391: a home that holds a request answers it with WAIT. -/
def State.sendWait (s : State) (q : PeerReq) : State :=
  s.send (.waitReply q.src q.tag (match s.fnOfVdn q.dst with | some fn => s.colour fn | none => 0))

/-- R305: HOME_WAIT_TIMER: a home that still holds a request sends WAIT, and again 50 µs later. -/
def execHomeWaitTimer (n : Nat) (s : State) : Out :=
  match List.find? (fun (q : PeerReq) => decide (q.tag = n)) s.held with
  | none => .next s
  | some q => .next ((s.sendWait q).after waitCycles (.homeWaitTimer n))

/-- R306, R407: the redirect entry of a number takes a new module. -/
def State.moveEntry (s : State) (vdn modNo : Nat) : State :=
  { s with redirect := Cells.put s.redirect vdn (BitVec.ofNat 32 (2 ^ 31 + modNo % 16 * 65536 + bits (Cells.getD s.redirect vdn 0).toNat 5 0)) }

/-! Requests of peers. -/

/-- R404: the function is in its migration stop phase on this device. -/
def State.stopPhase (s : State) (fn : Nat) : Bool :=
  s.sessions.any fun p => decide (p.2.fn = fn) && !p.2.dir && decide (2 ≤ p.2.state) && decide (p.2.state ≤ 5)

/-- R407: the module to which a number has moved, while its forwarding window is open. -/
def State.window? (s : State) (vdn : Nat) : Option Nat :=
  (List.find? (fun (w : Nat × Nat × Nat) => decide (w.1 = vdn)) s.windows).map (·.2.1)

/-- R305: holds a peer's request; a held load, atomic or store is answered with WAIT until it is served. -/
def State.hold (s : State) (q : PeerReq) : State :=
  (({ s with held := s.held ++ [q] } : State).sendWait q).after waitCycles (.homeWaitTimer q.tag)

/-- R394: counts a write-kind packet of the current or the closed epoch, and logs one of the closed epoch while
its channel is open. -/
def State.colourCount (s : State) (fn : Nat) (q : PeerReq) : State :=
  let key := 4 * q.src + q.colour.toNat
  let s1 := s.modPx fn fun p => { p with recvd := Cells.put p.recvd key (Cells.getD p.recvd key 0 + 1) }
  let p := s1.px fn
  if q.colour = prevEpoch p.e && p.frozen.isSome && !p.closed.contains q.src then s1.logRequest fn q else s1

/-- R394: a channel closes when its marker for the closed epoch is here and the count is reached. -/
def State.closeChannels (s : State) (fn : Nat) : State :=
  s.modPx fn fun p =>
    { p with closed := p.closed ++ (p.marks.filter fun m =>
        decide (m.1 % 4 = (prevEpoch p.e).toNat) && !p.closed.contains (m.1 / 4) && decide (Cells.getD p.recvd m.1 0 = m.2)).map (·.1 / 4) }

/-- R304, R367: performs a packet and answers it. -/
def State.serve (s : State) (fn : Nat) (q : PeerReq) : State :=
  match s.performPeer fn q with
  | .error c => s.send (.refusal q.src q.tag (s.colour fn) c q.ia)
  | .ok (s1, bs) => s1.send (.reply q.src q.tag (s1.colour fn) bs)

/-- R394: the colour rules apply to a packet from a member while the context is enabled. -/
def State.coloured (s : State) (fn : Nat) (q : PeerReq) : State :=
  let p := s.px fn
  if s.aheadOf fn q.src q.colour then (s.trigger fn 2).hold q
  else if p.en && p.isMember q.src && (q.colour = prevEpoch p.e || q.colour = p.e) && peerWrites q then
    ((s.colourCount fn q).serve fn q).closeChannels fn
  else s.serve fn q

/-- R304, R349, R407: FABRIC_REQUEST_ARRIVAL: for a function that holds the number here; else the module forwards the request while
its window is open, and answers that the function has moved once it is not. -/
def execFabricRequestArrival (q : PeerReq) (s : State) : Out :=
  match s.fnOfVdn q.dst, List.find? (fun (w : Nat × Nat × Nat) => decide (w.1 = q.dst)) s.windows, s.resolve q.dst with
  | some fn, _, _ =>
    if (s.part (s.partOf fn)).stop then .next (s.send (.unreachable q.src q.tag))
    else if s.stopPhase fn then .next (s.hold q)
    else .next (s.coloured fn q)
  | none, some w, _ => .next (s.send (.request q.tag w.2.1 q))
  | none, none, some (m, _) =>
    if m = s.modNo then .next (s.send (.unreachable q.src q.tag)) else .next (s.send (.moved q.src q.tag m))
  | none, none, none => .next (s.send (.unreachable q.src q.tag))

end Sys2Proof.Machine
end

