-- ==== Sys2Proof/Machine/Matrix.lean ====
section
/-! DEFINITION. The matrix instructions at issue (spec/10, opcodes 0x60 to 0x66): ownership of the engine
(R213 to R216), the checks of R223, L2-direct operands (R226) and MOUT (R231). -/
namespace Sys2Proof.Machine

/-- R214, R216: the gang takes the engine of its core, when it does not own it. -/
def State.takeEngine (s : State) (k sl : Nat) : State :=
  (s.modCore k fun co => { co with mxOwner := some sl, mxq := co.mxq.filter fun p => decide (p.1 ≠ sl) }).modGang k sl
    fun g => { g with reown := false }

/-- R213, R212, R223 orders 1 and 2. -/
def Ctx.mxCause (c : Ctx) (i : Instr) : Option (BitVec 6 × Nat) :=
  match c.st.group? c.g.group with
  | none => some (0x29, 1)
  | some g =>
    let gal := galOf i
    if g.kern.galleys.isEmpty then some (0x29, 1)
    else if !(c.ownsMx || c.g.reown) then some (0x28, 0)
    else if g.kern.galleys.length ≤ gal then some (0x29, 1)
    else if !anchorOk (c.st.anchorNow c.k c.g.group gal) || g.headBad gal (c.st.mancAhead c.k c.g.group gal) then some (0x29, 2)
    else none

/-- R222, R223: a tile address that cannot name 32 rows of `n` bytes, aligned to `al`. -/
def tileBad (x al n : Nat) : Bool :=
  bits x 31 18 ≠ 0 || decide (480 < bits x 17 9) || decide (bits x 8 0 % al ≠ 0) || decide (512 < bits x 8 0 + n)

/-- R222: which operand comes from memory. -/
def l2Sel (i : Instr) : Nat := subF (Instr.long i) 6 5

/-- R226: the bytes of a row of the L2-direct operand. -/
def l2Row (i : Instr) : Nat := if l2Sel i = 1 then mxRowA i else mxRowB i

/-- R223 order 6: the checks of R226; the rows that fail stand for the lane mask (log 19). -/
def l2Cause (b : BufRec) (buf e0 n : Nat) : Option (BitVec 6 × Nat) :=
  let e := fun r => e0 + r * b.stride
  let out := maskOf fun r => decide (b.extent < e r + n)
  let mis := maskOf fun r => decide ((b.base + e r) % 32 ≠ 0)
  if 2 ^ 57 < b.base + b.extent ∨ 3 < b.swz then some (0x11, buf)
  else if out != 0 then some (0x10, out.toNat)
  else if mis != 0 then some (0x12, mis.toNat)
  else none

/-- R223 orders 3 to 6. -/
def Ctx.mmaCause (c : Ctx) (i : Instr) : Option (BitVec 6 × Nat) :=
  let f := Instr.long i
  let lo := lowest c.active
  let a := c.src f.lit f.a 32 lo
  let b := c.src f.lit f.b 32 lo
  let m := match i with | .mmas _ => c.src f.lit f.c 32 lo | _ => 0
  let buf := immF f 29 26
  if l2Sel i ≠ 1 && tileBad a (mxEs i) (mxRowA i) then some (0x29, 3)
  else if l2Sel i ≠ 2 && tileBad b (mxEs i) (mxRowB i) then some (0x29, 4)
  else if (match i with | .mmas _ => tileBad m (mxMetaGroup i) (mxMetaRow i) | _ => false) then some (0x29, 5)
  else if l2Sel i = 0 then none
  else l2Cause (bufRec (c.g.bReg buf)) buf (if l2Sel i = 1 then a else b) (l2Row i)

/-- The matrix operation that an instruction issues (R212, R220). -/
def Ctx.mxOp (c : Ctx) (i : Instr) : MxOp :=
  let f := Instr.long i
  let lo := lowest c.active
  let rd := fun code => c.src f.lit code 32 lo
  let two := isMma i
  { instr := i, slot := c.sl, gen := c.st.gen c.k c.sl, group := c.g.group, seq := c.g.seq, active := c.active,
    a := if two then rd f.a else 0, b := if two then rd f.b else 0, c := match i with | .mmas _ => rd f.c | _ => 0,
    anchor := c.st.anchorNow c.k c.g.group (galOf i), mode := c.g.mode, level := c.g.level,
    buf := if two && l2Sel i ≠ 0 then c.g.bReg (immF f 29 26) else 0, lines := [], l2 := [], bad := none, ran := false, folded := false }

/-- R226: the lines of an L2-direct operand, in increasing order. -/
def MxOp.l2Lines (m : MxOp) : List Nat :=
  let b := bufRec m.buf
  let e0 := if l2Sel m.instr = 1 then m.a else m.b
  if l2Sel m.instr = 0 then []
  else
    let ls := (List.range 32).foldl (fun (ls : Cells Unit) r =>
      let lo := (b.base + e0 + r * b.stride) / 128
      let hi := (b.base + e0 + r * b.stride + l2Row m.instr - 1) / 128
      (List.range (hi + 1 - lo)).foldl (fun ls j => Cells.put ls (lo + j) ()) ls) []
    ls.map fun p => 128 * p.1

/-- R224, R262: how long the engine takes for an operation: K over the products it forms in a cycle. -/
def mxCycles (i : Instr) : Nat :=
  if isMma i then
    let rate := (if mxEs i = 1 then 8 else 4) * (24 / mxKept i)
    (mxK i + rate - 1) / rate
  else 1

/-- R212, R218: puts an operation into the engine of its core, in issue order. -/
def State.queueMx (s : State) (k : Nat) (m : MxOp) : State :=
  let s1 := s.modCore k fun co =>
    let before := fun (x : MxOp) => decide (x.slot ≠ m.slot) || decide (x.gen ≠ m.gen) || decide (x.seq < m.seq)
    { co with mxOps := co.mxOps.takeWhile before ++ [m] ++ co.mxOps.dropWhile before }
  ({ s1 with tokenLast := if isMma m.instr then k else s.tokenLast } : State).after (mxCycles m.instr) (.engineBlockProduct k)

/-- R226: a line request of an L2-direct operand. -/
def MxOp.lineReq (m : MxOp) (k fn line : Nat) : Req :=
  { core := k, slot := m.slot, gen := m.gen, fn := fn, group := m.group, seq := m.seq, instr := m.instr, active := m.active, lanes := [],
    buf := m.buf, size := 128, line := line, tgt := .dev 0, rd := false, wr := false, ord := 0, scope := 3,
    pxmt := (bufRec m.buf).pxmt, level := m.level, sent := none, mute := false, own := .gang, cls := qosOf m.buf, fences := [], turn := 0,
    entry := false, part := false }

/-- R226: fetches the operand of an operation that is in the engine, or answers the lines that fault; the engine waits for them. -/
def State.fetchOperand (s : State) (k fn : Nat) (m : MxOp) : State × Option (List Req × BitVec 6 × Nat) :=
  let rs := m.l2Lines.map (m.lineReq k fn)
  let (s1, good, bad) := s.translateLines k ⟨true, false, false⟩ rs
  let set := fun (s : State) (ls : List (Nat × Target)) => s.modCore k fun co =>
    { co with mxOps := co.mxOps.map fun x => if x.slot = m.slot ∧ x.gen = m.gen ∧ x.seq = m.seq then { x with lines := ls, l2 := [], bad := none } else x }
  match bad with
  | (r, cause) :: _ => (set s1 (rs.map fun r => (r.line, r.tgt)), some (rs, cause, r.line))
  | [] => (good.foldl (fun s r => s.sendReq (.core k) r) (set s1 (good.map fun r => (r.line, r.tgt))), none)

/-- R33, R212: counts a matrix instruction on path M. -/
def Gang.flyM (g : Gang) : Gang := g.fly1 .m 1

/-- R214: MXACQ, once it is ready. -/
def mxacqEff (c : Ctx) : Eff :=
  if !c.acts then .next c.st
  else if !c.isMatrixGroup then .raise 0x29 1
  else
    let s := if c.ownsMx then c.st else c.st.takeEngine c.k c.sl
    .next (s.modGang c.k c.sl fun g => { g with acqf := true })

/-- R215: MXREL. -/
def mxrelEff (c : Ctx) : Eff :=
  if !c.acts then .next c.st
  else if !c.isMatrixGroup then .raise 0x29 1
  else if !(c.ownsMx || c.g.reown) then .raise 0x28 0
  else .next ((c.st.releaseEngine c.k c.sl).modGang c.k c.sl fun g => { g with reown := false })

/-- R222 to R228: MMA and MMAS. -/
def mmaEff (i : Instr) (c : Ctx) : Eff :=
  if !c.acts then .next c.st
  else match c.mxCause i with
    | some (cause, v) => .raise cause v
    | none =>
      match c.mmaCause i with
      | some (cause, v) => .raise cause v
      | none =>
        let s := if c.ownsMx then c.st else c.st.takeEngine c.k c.sl
        let m := c.mxOp i
        match (s.queueMx c.k m).fetchOperand c.k c.g.fn m with
        | (s1, none) => .next (s1.modGang c.k c.sl Gang.flyM)
        | (s1, some (rs, cause, va)) =>
          if 0 < c.g.level then .raise cause va
          else .next (s1.modGang c.k c.sl fun g =>
            { g.flyM with olog := g.olog ++ [⟨g.seq, rs, some m, cause, va, false, c.st.cycle + walkCycles⟩] })

/-- R229, R230: MZERO and MANC. -/
def mxEff (i : Instr) (c : Ctx) : Eff :=
  if !c.acts then .next c.st
  else match c.mxCause i with
    | some (cause, v) => .raise cause v
    | none =>
      let s := if c.ownsMx then c.st else c.st.takeEngine c.k c.sl
      .next ((s.queueMx c.k (c.mxOp i)).modGang c.k c.sl Gang.flyM)

/-- R231: the sticky bits of a lane's row. -/
def moutRow (i : Instr) (g : Group) (lane : Nat) : Flags :=
  (if (g.galHead (galOf i) 1).testBit lane then Flags.ovf else 0) ||| (if (g.galHead (galOf i) 2).testBit lane then Flags.nv else 0)

/-- R231: what a lane's columns become: the registers' values, lowest first, and the flags of the conversion. -/
def moutConv (c : Ctx) (i : Instr) (g : Group) (lane : Nat) : List Nat × Flags :=
  let f := Instr.long i
  let d := fmtOf f.fmt
  let gal := galOf i
  let anchor := anchorVal (bits (g.galHead gal 0) 31 16)
  let cfg := { c.rcfg i .f32 lane 1 0 with ftz := d.ftz c.g.mode }
  let conv := fun n => Galley.convert anchor d cfg (g.galWord gal lane (immF f 8 4 + n))
  let e := fmtElems f.fmt
  let regs := (List.range (moutCols f / e)).map fun r => packResults d.elemWidth e fun j => conv (e * r + j)
  if fmtN f = 14 then ((List.range (moutCols f)).map fun n => (g.galWord gal lane (immF f 8 4 + n)).toNat, 0)
  else (regs.map (·.1), regs.foldl (fun a r => a ||| r.2) 0)

/-- R231: a lane's values, and the flags it raises: those of the conversion and of its row. -/
def moutLane (c : Ctx) (i : Instr) (g : Group) (lane : Nat) : List Nat × Flags :=
  let r := moutConv c i g lane
  (r.1, r.2 ||| moutRow i g lane)

/-- R51, R231: the flags of a lane that may trap: the overflow of its row does not. -/
def moutTrap (c : Ctx) (i : Instr) (g : Group) (lane : Nat) : Flags := (moutConv c i g lane).2 ||| (moutRow i g lane &&& ~~~Flags.ovf)

/-- R231: MOUT, which issues once the gang's earlier matrix instructions have completed (log 20). -/
def moutEff (i : Instr) (c : Ctx) : Eff :=
  let f := Instr.long i
  if !c.acts then .next c.st
  else match c.mxCause i, c.st.group? c.g.group with
    | some (cause, v), _ => .raise cause v
    | none, none => .raise 0x29 1
    | none, some g =>
      let r := fun lane => moutLane c i g lane
      match flagTrap c.g.trapen c.lanes (moutTrap c i g) with
      | some (cause, v) => .raise cause v
      | none =>
        let s := if c.ownsMx then c.st else c.st.takeEngine c.k c.sl
        let w := fmtWidth f.fmt
        let s1 := s.modGang c.k c.sl fun x =>
          (c.lanes.foldl (fun (x : Gang) lane =>
            ((r lane).1.foldl (fun (y : Gang × Nat) v =>
              (putWords (fun g r x => g.setV r lane x) y.1 y.2 (w / 32) v, y.2 + w / 32)) (x, f.d.toNat)).1)
            (x.raise c.st.cycle (unionFlags c.lanes fun lane => (r lane).2))).flyM
        .next ((s1.modCore c.k fun co => { co with mxOps := co.mxOps ++ [{ c.mxOp i with ran := true }] }).after
          (40 + moutCols f) (.matrixComplete c.k))

def execMxacq (f : Long) (s : State) : Out := run (.mxacq f) mxacqEff s
def execMxrel (f : Long) (s : State) : Out := run (.mxrel f) mxrelEff s
def execMma (f : Long) (s : State) : Out := run (.mma f) (mmaEff (.mma f)) s
def execMmas (f : Long) (s : State) : Out := run (.mmas f) (mmaEff (.mmas f)) s
def execMzero (f : Long) (s : State) : Out := run (.mzero f) (mxEff (.mzero f)) s
def execMout (f : Long) (s : State) : Out := run (.mout f) (moutEff (.mout f)) s
def execManc (f : Long) (s : State) : Out := run (.manc f) (mxEff (.manc f)) s

end Sys2Proof.Machine
end

