-- ==== Sys2Proof/Machine/Frame.lean ====
section
/-! DEFINITION. The save frame (R253 to R258): the gang state record and its packets, moving a gang
off its core and back, and the replay of parked accesses (R164, R244). -/
namespace Sys2Proof.Machine

/-! Special registers that the record holds. -/

/-- R32: INFLT. -/
def Gang.inflt (g : Gang) : Word :=
  BitVec.ofNat 32 (g.inflight .g + g.inflight .w * 2 ^ 6 + g.inflight .s * 2 ^ 12 + g.inflight .m * 2 ^ 18 + g.inflight .n * 2 ^ 24)

/-- R193: BATCH. -/
def State.batchReg (s : State) (k sl : Nat) (g : Gang) : Word :=
  BitVec.ofNat 32 (g.sealNo.toNat % 65536 * 65536 + s.copiesOf k sl * 32 + (if g.openOps = 0 then 0 else 16) + g.sealed.length)

/-! The record (R256). -/

def Gang.arrivedAt (g : Gang) : Option BarArg :=
  g.frags.findSome? fun f => match f.wait with
    | .arrived b => some b
    | _ => none

/-- A split-table entry: its fields as (offset, bytes, value). -/
def Frag.entry (f : Frag) (age : Nat) : List (Nat × Nat × Nat) :=
  let w := match f.wait with
    | .join => 1
    | .rgang => 2
    | .arrived _ => 3
    | _ => 0
  let l := f.loop.getD ⟨0, 0, 0, 0, []⟩
  [(0, 8, pcAddr f.pc), (8, 8, pcAddr f.chead), (16, 8, pcAddr f.join), (24, 4, f.mask.toNat),
   (28, 4, age + (if f.jv then 32 else 0) + w * 256 + (if f.loop.isSome then 2048 else 0)),
   (32, 8, l.body), (40, 4, l.count), (44, 4, l.k), (48, 4, l.len)]

/-- R256: the record's fields. -/
def State.recordFields (s : State) (k sl : Nat) (g : Gang) (cause : BitVec 6) (pkts : List Packet) : List Field :=
  let bar := match g.arrivedAt with
    | some b => 2 ^ 31 + (if b.arv then 2 ^ 20 else 0) + b.id * 65536 + b.count * 16
    | none => 0
  [(0, 4, 0x00010000),
   (4, 4, g.nblk + g.level * 16 + (if g.reown then 64 else 0) + g.frags.length * 256 + cause.toNat * 65536 +
     (if g.canc.isSome then 2 ^ 24 else 0) + (if g.lost then 2 ^ 25 else 0) + (g.canc.getD 0).toNat * 2 ^ 26),
   (8, 4, g.mask.toNat), (0xC, 4, g.mode.toNat), (0x10, 4, g.inflt.toNat), (0x14, 4, (s.batchReg k sl g).toNat),
   (0x18, 4, g.sealNo.toNat), (0x1C, 4, bar), (0x20, 8, g.t1.epc.toNat), (0x28, 8, g.t1.tval.toNat),
   (0x30, 8, g.t1.scratch.toNat), (0x38, 4, g.t1.cause.toNat), (0x3C, 4, g.t1.status.toNat), (0x40, 4, pkts.length),
   (0x44, 4, pkts.foldl (fun n p => n + p.len) 0)] ++
  (g.defq.mapIdx fun j r => [(0x80 + 16 * j, 8, r.cause.toNat + 128), (0x88 + 16 * j, 8, r.value.toNat)]).flatten ++
  (g.frags.mapIdx fun j f => (f.entry j).map fun x => (0x100 + 64 * j + x.1, x.2)).flatten ++
  ((List.range 8).flatMap fun j => (List.range 4).map fun r => (0x900 + 16 * j + 4 * r, 4, (g.sReg (28 + r) j).toNat))

/-- R256: the places of packets in a frame, packed from 0x8000. -/
def placePackets : Nat → List Packet → List (Packet × Nat)
  | _, [] => []
  | at0, p :: t => (p, at0) :: placePackets (at0 + p.len) t

/-- R253 step 3: the core writes the record and the packets into the frame, and the gang keeps where each packet stands. -/
def State.writeRecord (s : State) (k sl : Nat) (g : Gang) (cause : BitVec 6) (frame : Nat) : State :=
  let pkts := s.packetsOf k sl g
  let placed := placePackets 0x8000 pkts
  let m := fieldBytes (s.recordFields k sl g cause pkts ++ placed.flatMap fun p => p.1.fields.map fun x => (p.2 + x.1, x.2))
  let lines := (List.range 32).map (fun j => 128 * j) ++
    (List.range (((pkts.foldl (fun n p => n + p.len) 0) + 127) / 128)).map fun j => 0x8000 + 128 * j
  let s1 := lines.foldl (fun s o => s.iaWrite (.core k) g.fn (frame + o) ((List.range 128).map fun j => Memory.byte m (o + j))) s
  s1.modGang k sl fun g => { g with pkts := placed.map fun p => (p.1.ref, p.2) }

/-- R257, R8: a record that is rejected: another major VERSION, or a reserved field that is not zero. -/
def State.recordBad (s : State) (k fn frame : Nat) : Bool :=
  let rd := fun (o n : Nat) => s.iaRead (.core k) fn (frame + o) n
  let ghdr := rd 4 4
  let cnt := bits ghdr 13 8
  rd 0 4 / 65536 ≠ 1 || ghdr.testBit 7 || bits ghdr 15 14 ≠ 0 || bits ghdr 23 22 ≠ 0 || bits ghdr 31 28 ≠ 0 || cnt = 0 || decide (32 < cnt) ||
    bits (rd 0x14 4) 15 12 ≠ 0 || bits (rd 0x1C 4) 30 21 ≠ 0 || bits (rd 0x1C 4) 15 10 ≠ 0 || bits (rd 0x1C 4) 3 0 ≠ 0 ||
    ((List.range 14).any fun j => rd (0x48 + 4 * j) 4 ≠ 0) || ((List.range 416).any fun j => rd (0x980 + 4 * j) 4 ≠ 0) ||
    bits (rd 0xC 4) 31 21 ≠ 0 || bits (rd 0x10 4) 31 30 ≠ 0 || bits (rd 0x38 4) 31 6 ≠ 0 || rd 0x3C 4 &&& 0x80FF ≠ 0 ||
    ((List.range 8).any fun j => rd (0x80 + 16 * j) 4 &&& 0xFFFFFF40 ≠ 0 || rd (0x84 + 16 * j) 4 ≠ 0) ||
    ((List.range 32).any fun j => rd (0x11C + 64 * j) 4 &&& 0xFFFFF0C0 ≠ 0) ||
    ((List.range 32).any fun j => if j < cnt then ((List.range 3).any fun i => rd (0x134 + 64 * j + 4 * i) 4 ≠ 0)
      else (List.range 16).any fun i => rd (0x100 + 64 * j + 4 * i) 4 ≠ 0)

/-! Moving a gang. -/

/-- R254: what the gang of a slot has in flight passes to another slot. -/
def State.retarget (s : State) (k sl gen k' sl' gen' : Nat) : State :=
  let mine := fun (c sl0 g : Nat) => decide (c = k) && decide (sl0 = sl) && decide (g = gen)
  { s with
    reqs := s.reqs.map fun p => if mine p.2.core p.2.slot p.2.gen then (p.1, { p.2 with core := k', slot := sl', gen := gen' }) else p
    copies := s.copies.map fun p => if mine p.2.core p.2.slot p.2.gen then (p.1, { p.2 with core := k', slot := sl', gen := gen' }) else p
    emits := s.emits.map fun p => if mine p.2.core p.2.slot p.2.gen then (p.1, { p.2 with core := k', slot := sl', gen := gen' }) else p
    creds := s.creds.map fun p => if mine p.2.core p.2.slot p.2.gen then (p.1, { p.2 with core := k', slot := sl', gen := gen' }) else p
    snaps := s.snaps.map fun p => if mine p.2.core p.2.slot p.2.gen then (p.1, { p.2 with core := k', slot := sl', gen := gen' }) else p
    early := s.early.map fun e => if mine e.core e.slot e.gen then { e with core := k', slot := sl', gen := gen', req := { e.req with core := k', slot := sl', gen := gen' } } else e }

def Req.to (r : Req) (k sl gen : Nat) : Req := { r with core := k, slot := sl, gen := gen }

/-- The gang's own packets under another place. -/
def Gang.to (g : Gang) (k sl gen : Nat) : Gang :=
  { g with olog := g.olog.map fun e => { e with lines := e.lines.map fun r => r.to k sl gen, mx := e.mx.map fun m => { m with slot := sl, gen := gen } },
           packets := g.packets.map fun r => r.to k sl gen, results := g.results.map fun p => (p.1, p.2.to k sl gen),
           credRes := g.credRes.map fun p => (p.1, { p.2 with core := k, slot := sl, gen := gen }),
           snapRes := g.snapRes.map fun p => (p.1, { p.2 with core := k, slot := sl, gen := gen }) }

/-- R247, R253 step 5: the saved gang leaves its core and its slot is freed. -/
def State.leaveCore (s : State) (k sl : Nat) : State :=
  match s.gang? k sl with
  | none => s
  | some g =>
    let k' := savedCore g.group
    let gen' := s.gen k' g.gid
    let s1 := (s.retarget k sl (s.gen k sl) k' g.gid gen').setGang k' g.gid (g.to k' g.gid gen')
    s1.modCore k fun co => { co.loseRings sl with gangs := Cells.del co.gangs sl, gens := Cells.put co.gens sl (Cells.getD co.gens sl 0 + 1) }

/-! Replay. -/

/-- R164: the order in which parked entries are performed: that in which they parked, or gang order where R317 puts one before an
entry that parked earlier (log 21). -/
def replayOrder (l : List Parked) : List Parked :=
  let bySeq := (l.foldl (fun (m : Cells Parked) e => Cells.put m e.seq e) []).map (·.2)
  let clash := l.any fun a => l.any fun b => decide (l.findIdx (fun e => decide (e.seq = a.seq)) < l.findIdx fun e => decide (e.seq = b.seq)) &&
    b.lines.any fun x => a.lines.any fun r => x.orders r
  if clash then bySeq else l

/-- R164, R257, R162: performs a request again: it is translated anew, parks where that faults, and waits for its turn otherwise. -/
def State.sendAgain (s : State) (k sl : Nat) (r : Req) (turn : Nat) : State :=
  let r0 := { r with turn := turn, sent := none, entry := false }
  match r.tgt with
  | .scratch _ => s.sendReq (.core k) r0
  | _ =>
    let (s1, good, bad) := s.translateLines k (accRights r.kind (Instr.long r.instr)) [r0]
    let s2 := match bad with
      | (b, cause) :: _ => s1.modGang k sl fun g =>
          if g.olog.any fun p => decide (p.seq = b.seq) then
            { g with olog := g.olog.map fun p => if p.seq = b.seq then { p with lines := p.lines ++ [b] } else p }
          else { g with olog := g.olog ++ [⟨b.seq, [b], none, cause, b.line, false, s.cycle + walkCycles⟩] }
      | [] => s1
    good.foldl (fun s r => s.sendReq (.core k) r) s2

/-- R226: a parked matrix instruction fetches its operand again; one that a halt took out of the engine takes its place there. -/
def State.replayMx (s : State) (k sl : Nat) (e : Parked) (m : MxOp) : State :=
  let fn := match s.gang? k sl with | some g => g.fn | none => 0
  let s1 := if (s.core k).mxOps.any fun x => decide (x.slot = m.slot) && decide (x.gen = m.gen) && decide (x.seq = m.seq) then s else s.queueMx k m
  match s1.fetchOperand k fn m with
  | (s2, none) => s2
  | (s2, some (rs, cause, va)) => s2.modGang k sl fun g => { g with olog := g.olog ++ [⟨e.seq, rs, some m, cause, va, false, s.cycle + walkCycles⟩] }

/-- R164, R216, R244: replays one parked entry with its turn. A matrix instruction of a gang that has to own the engine again waits for
that. -/
def State.replayEntry (s : State) (k sl : Nat) (e : Parked) (turn : Nat) : State :=
  match e.mx with
  | some m =>
    if (match s.gang? k sl with | some g => g.reown | none => false) then
      (s.modGang k sl fun g => { g with olog := g.olog ++ [{ e with taken := true }] }).after 1 (.engineBlockProduct k)
    else s.replayMx k sl e m
  | none => e.lines.foldl (fun (s : State) r => s.sendAgain k sl r turn) s

/-- R164, R257, R325: performs again the parked entries of a gang, and packets of its record. They take their places in gang order, each
with its turn. -/
def State.performAgain (s : State) (k sl : Nat) (parked : List Parked) (packets : List Req) : State :=
  let n := s.nextId
  let acts : List (Nat × (Parked ⊕ Req) × Nat) :=
    ((replayOrder parked).mapIdx fun j e => (e.seq, .inl e, 2 * (n + j))) ++ packets.mapIdx fun j r => (r.seq, .inr r, 2 * (n + j) + 1)
  let sorted := (acts.foldl (fun (m : Cells (List ((Parked ⊕ Req) × Nat))) a => Cells.put m a.1 (Cells.getD m a.1 [] ++ [a.2])) []).flatMap (·.2)
  sorted.foldl (fun (s : State) a => match a.1 with
    | .inl e => s.replayEntry k sl e a.2
    | .inr r => s.sendAgain k sl r a.2) { s with nextId := n + acts.length }

/-- R244: replays every parked entry of a gang. -/
def State.replayAll (s : State) (k sl : Nat) : State :=
  match s.gang? k sl with
  | none => s
  | some g => (s.setGang k sl { g with olog := [] }).performAgain k sl g.olog []

/-- R216: a restored gang that is at the head of the queue takes the engine that is free again, and its matrix instructions take
their places there; until then it waits. -/
def State.regain (s : State) (k : Nat) : State :=
  match (s.core k).mxq with
  | [] => s
  | (sl, _) :: _ =>
    match s.gang? k sl with
    | none => s
    | some g =>
      let mine := g.olog.filter fun e => e.mx.isSome
      if !g.reown || mine.isEmpty || g.away then s
      else if !s.mayOwn k sl then s.after 1 (.engineBlockProduct k)
      else ((mine.foldl (fun (m : Cells Parked) e => Cells.put m e.seq e) []).map (·.2)).foldl (fun (s : State) e => s.replayEntry k sl e 0)
        ((s.takeEngine k sl).modGang k sl fun g => { g with olog := g.olog.filter fun e => e.mx.isNone })

/-- R224: ENGINE_BLOCK_PRODUCT: the engine executes the oldest matrix instruction it has not executed, once its L2-direct
operand is there and the gang's earlier accesses have been performed (R221, R322). -/
def execEngineBlockProduct (k : Nat) (s0 : State) : Out :=
  let s := s0.regain k
  match (s.core k).mxOps.find? fun m => !m.ran with
  | none => .next s
  | some m =>
    if !m.lines.isEmpty || s.accessBefore k m.slot m.gen m.seq m.level then .next (s.after 1 (.engineBlockProduct k)) else .next (s.execMx k m)

/-! Restore. -/

/-- R256, R257: entry j of the record's split table as a fragment. -/
def State.readFrag (s : State) (k fn lk frame : Nat) (bar : BarArg) (j : Nat) : Frag :=
  let rd := fun (o n : Nat) => s.iaRead (.core k) fn (frame + 0x100 + 64 * j + o) n
  let w := rd 28 4
  let wait := match bits w 10 8 with
    | 1 => Wait.join
    | 2 => Wait.rgang
    | 3 => Wait.arrived bar
    | _ => Wait.run
  let body := rd 32 8
  let n := rd 48 4
  { pc := toPc (if wait == .run then rd 8 8 else rd 0 8), chead := toPc (rd 8 8), jv := w.testBit 5, join := toPc (rd 16 8),
    mask := BitVec.ofNat 32 (rd 24 4), wait := wait,
    loop := if w.testBit 11 then some { body := body, len := n, count := rd 40 4, k := rd 44 4, addrs := s.bodyAddrs k fn lk n body } else none,
    fid := j, waitCyc := 0, defer := 0, urg := none, skip := 0, chainRd := [], chainX := false, pass := none,
    stepDue := false, lost := false, latchAt := [], unit := 0, unitAt := 0 }

/-- R191, R193: the numbers of the last n batches sealed. -/
def lastSealed (sealNo n : Nat) : List Word := (List.range n).map fun j => BitVec.ofNat 32 sealNo - BitVec.ofNat 32 (n - 1 - j)

/-- R257 step 1: the gang's control state from its record. -/
def State.readControl (s : State) (k : Nat) (g : Gang) (frame : Nat) : Gang :=
  let rd := fun (o n : Nat) => s.iaRead (.core k) g.fn (frame + o) n
  let ghdr := rd 4 4
  let bs := rd 0x1C 4
  let bar : BarArg := { arv := bs.testBit 20, id := bits bs 19 16, count := bits bs 9 4, scope := 1 }
  let level := bits ghdr 5 4
  let defs := (List.range 8).filterMap fun j =>
    let c := rd (0x80 + 16 * j) 4
    if c.testBit 7 then some (⟨BitVec.ofNat 6 c, BitVec.ofNat 64 (rd (0x88 + 16 * j) 8)⟩ : Report) else none
  let waits := match s.group? g.group with
    | some x => (x.bar bar.id).waiting.contains g.gid
    | none => true
  let frags := (List.range (bits ghdr 13 8)).map fun j =>
    let f := s.readFrag k g.fn (s.launchOf g) frame bar j
    match f.wait with
    | .arrived _ => if waits then f else f.resume level
    | _ => f
  let ssys := (List.range 32).foldl (fun (m : Cells Word) j =>
    Cells.set 0 m (regKey (28 + j % 4) (j / 4)) (BitVec.ofNat 32 (rd (0x900 + 4 * j) 4))) g.s
  { g with frags := frags, nextFid := frags.length, level := level, mode := modeStored (BitVec.ofNat 32 (rd 0xC 4)),
           sealNo := BitVec.ofNat 32 (rd 0x18 4), sealed := lastSealed (rd 0x18 4) (bits (rd 0x14 4) 3 0),
           openOps := if (rd 0x14 4).testBit 4 then max 1 g.openOps else 0, reown := ghdr.testBit 6, s := ssys,
           t1 := { cause := BitVec.ofNat 32 (rd 0x38 4), epc := BitVec.ofNat 64 (rd 0x20 8), tval := BitVec.ofNat 64 (rd 0x28 8),
                   scratch := BitVec.ofNat 64 (rd 0x30 8), status := BitVec.ofNat 32 (rd 0x3C 4) },
           defq := (defs ++ g.defq).take 8, lost := g.lost || ghdr.testBit 25 || decide (8 < (defs ++ g.defq).length),
           canc := if g.canc.isSome then g.canc else if ghdr.testBit 24 then some (BitVec.ofNat 2 (bits ghdr 27 26)) else none,
           k := [], fly := g.fly.filter fun x => decide (x.left ≠ 0), halt := none, dbgRef := false, entry1 := false }

/-- R200: the value that a report of a CRED carries. -/
def CredOp.value (o : CredOp) : Nat := o.cslot + o.round.toNat * 2 ^ 32

/-- R200: writes a CRED's result to the gang: D in the lanes that a counted contribution held, pSP in its
ACTIVE lanes. -/
def Gang.putCred (g : Gang) (o : CredOp) (mask : Mask) (vals : List Nat) (status : Bool) : Gang :=
  let f := Instr.long o.instr
  let w := if subF f 2 0 = 6 then 128 else fmtWidth f.fmt
  let sp := immF f 15 13
  let lanes := (dstLanes f.d o.active).filter fun i => mask.getLsbD i
  let g1 := lanes.foldl (fun g i =>
    g.putDst f.d ((o.dsts.find? fun d => decide (d.1 = i)).map (·.2) |>.getD f.d.toNat) w i (vals.getD i 0)) g
  g1.setP sp ((g1.pReg sp &&& ~~~o.active) ||| (if status then o.active else 0))

/-- R204: writes a SNAP's proof number. -/
def Gang.putSnap (g : Gang) (o : SnapOp) (n : Nat) : Gang :=
  let f := Instr.long o.instr
  (dstLanes f.d o.active).foldl (fun g i =>
    g.putDst f.d ((o.dsts.find? fun d => decide (d.1 = i)).map (·.2) |>.getD f.d.toNat) 64 i n) g

/-- R257 step 2: takes from a packet what it holds for a request that has been answered: its values, or a report. -/
def State.takeAnswer (s : State) (k sl : Nat) (at0 : Nat) (ids : List Nat) (id : Nat) : State :=
  match s.gang? k sl with
  | none => s
  | some g =>
    match g.results.find? fun p => decide (p.1 = id) with
    | none => s
    | some (_, r) =>
      let g1 := match s.packetReport g at0 ids id r with
        | some x => g.report x.cause x.value.toNat
        | none => g.putLoads r.instr r.kind r.active (g.arriving (s.packetValues g at0 r))
      s.setGang k sl (g1.land r.path r.seq)

/-- R257 step 2: takes what a packet of the record holds. -/
def State.takePacket (s : State) (k sl : Nat) (x : PacketRef × Nat) : State :=
  match x.1, s.gang? k sl with
  | .awaited ids, some _ => ids.foldl (fun s id => s.takeAnswer k sl x.2 ids id) s
  | .cred id, some g =>
    (match g.credRes.find? (fun p => decide (p.1 = id)), s.syncAnswer g x.1 with
     | some (_, o), some (m, vals, st) =>
       let cause := BitVec.ofNat 6 (st / 256)
       s.setGang k sl ((if cause = 0 then g.putCred o m vals (st.testBit 0) else g.report cause o.value).land .n o.seq)
     | _, _ => s)
  | .snap id, some g =>
    (match g.snapRes.find? (fun p => decide (p.1 = id)), s.syncAnswer g x.1 with
     | some (_, o), some (m, vals, st) =>
       s.setGang k sl (if st = 0 then g.putSnap o (vals.getD (lowest m) 0) else g.report (BitVec.ofNat 6 (st / 256)) 0)
     | _, _ => s)
  | _, _ => s

/-- R209, R257: the pieces that a copy has still to deliver, by its packet. -/
def State.copyLeft (s : State) (g : Gang) (c : Copy) (at0 : Nat) : List Nat :=
  let low := s.frameGet g (at0 + 56) 8
  let map := s.frameGet g (at0 + 64) 32
  (List.range c.forme.pieces).filter fun p => decide (low ≤ p) && !map.testBit (p - low)

/-- R247, R257: an RTE completes the restore of a gang. -/
def State.finishRestore (s : State) (k sl : Nat) : State :=
  match s.gang? k sl with
  | none => s
  | some g0 =>
    let g1 := { s.readControl k g0 g0.frameBase with halt := g0.halt }
    let s1 := g0.pkts.foldl (fun s x => s.takePacket k sl x) (s.setGang k sl g1)
    let s2 := (s1.modGang k sl fun g => { g with halt := none, results := [], credRes := [], snapRes := [], packets := [], olog := [], pkts := [] }).modCore k
      fun co => { co.loseRings sl with mxq := if g1.reown then co.mxq ++ [(sl, s.cycle)] else co.mxq }
    let s3 := s2.performAgain k sl g0.olog g0.packets
    let gen := s.gen k sl
    let mine := (s3.copies.filter fun p => decide (p.2.core = k) && decide (p.2.slot = sl) && decide (p.2.gen = gen)).map (·.1)
    let s4 := mine.foldl (fun s id => (s.modCopy id fun c =>
      { c with halted := false, left := match g0.placeOf (.copy id) with | some at0 => s1.copyLeft g0 c at0 | none => c.left }).copyNext id) s3
    (s4.emits.filter fun p => decide (p.2.core = k) && decide (p.2.slot = sl) && decide (p.2.gen = gen)).foldl
      (fun s p => s.later (.emitRecordEntry p.1)) s4

end Sys2Proof.Machine
end

