-- ==== Sys2Proof/Machine/System.lean ====
section
/-! DEFINITION. The system instructions (spec/11, opcodes 0x78 to 0x7E): TRAP, RTE (R247), SRD and SWR over
the special registers (R32 to R37, R217, R219, R237 to R239, R413, R414), BKPT, CTXS and CTXR (R251). -/
namespace Sys2Proof.Machine

/-! The debug mailbox. -/

/-- R413: a post: accepted when OUT holds no unacknowledged post; R412: the vector of IEN. -/
def State.dbgPost (s : State) (k sl : Nat) (v : Quad) : State :=
  if s.dbgOutf then s.modGang k sl fun g => { g with dbgRef := true }
  else
    let s1 := ({ s with dbgOut := v.extractLsb' 0 62, dbgOutf := true } : State).modGang k sl fun g => { g with dbgRef := false }
    if s.dbgIen then s1.sendMsix 0 s.dbgVec else s1

/-- R413: the acknowledgement of IN. -/
def State.dbgAck (s : State) : State := { s with dbgInf := false }

/-- R413: an SWR of DBGMB. -/
def State.dbgWrite (s : State) (k sl : Nat) (v : Quad) : State :=
  let s1 := if v.getLsbD 63 then s.dbgPost k sl v else s
  if v.getLsbD 62 then s1.dbgAck else s1

/-! Special registers. -/

/-- R36: the launch of the context's gang. -/
def Ctx.launch? (c : Ctx) : Option Launch := (c.st.group? c.g.group).bind fun g => c.st.launch? g.launch

/-- R36: PROOF and ROLLBK of the gang's job. -/
def Ctx.proofReg (c : Ctx) (h : Px → Nat) : Nat :=
  match c.launch? with
  | some l => if (c.st.px c.g.fn).job = l.job then h (c.st.px c.g.fn) else 0
  | none => 0

/-- R216, R217: MXSTAT. OWN of a restored gang that owned the engine reads 1 while the gang stands in the queue again, and it takes
the engine when its next matrix instruction issues (log 72). -/
def Ctx.mxstat (c : Ctx) : Nat :=
  let co := c.st.core c.k
  min co.mxq.length 63 * 1024 + (match co.queuePos c.sl with
    | some n => n * 32 + 2
    | none => 0) + (if c.ownsMx || c.g.reown then 1 else 0)

/-- R37, R439: guest time in ns from pod time in ticks of 1/11 ns. -/
def State.guestTime (s : State) (fn : Nat) : Nat := (s.pod + (s.func fn).timeOff) / 11

/-- R36: what SRD of register n reads. -/
def Ctx.srd (c : Ctx) (n : Nat) : Nat :=
  let s := c.st
  let f := s.func c.g.fn
  let grp := s.group? c.g.group
  match n with
  | 0x001 => c.g.gid
  | 0x002 => (grp.map (·.groupId)).getD 0
  | 0x003 => (grp.map (·.kern.gangs)).getD 0
  | 0x004 => (c.launch?.map (·.lid.toNat)).getD 0
  | 0x005 => (c.launch?.bind (·.nodeId)).getD 0xFFFFFFFF
  | 0x006 => (grp.map (·.recCount)).getD 0
  | 0x007 => c.k % 64
  | 0x008 => c.k / 64
  | 0x009 => if f.vdnValid then f.vdn.toNat else 0xFFFFFFFF
  | 0x00A => s.guestTime c.g.fn
  | 0x00B => s.cycle - Cells.getD s.powered (c.k / 16) 0
  | 0x00C => c.g.mode.toNat
  | 0x00D => c.f.mask.toNat
  | 0x00E => c.g.mask.toNat
  | 0x00F => c.proofReg (·.proof)
  | 0x010 => c.proofReg (·.rollbk)
  | 0x011 => (s.batchReg c.k c.sl c.g).toNat
  | 0x012 => c.g.inflt.toNat
  | 0x013 => c.mxstat
  | 0x100 => f.gtvec.toNat
  | 0x101 => c.g.t1.cause.toNat
  | 0x102 => c.g.t1.epc.toNat
  | 0x103 => c.g.t1.tval.toNat
  | 0x104 => c.g.t1.scratch.toNat
  | 0x105 => c.g.t1.status.toNat
  | 0x200 => s.dtvec.toNat
  | 0x201 => c.g.t2.cause.toNat
  | 0x202 => c.g.t2.epc.toNat
  | 0x203 => c.g.t2.tval.toNat
  | 0x204 => c.g.t2.scratch.toNat
  | 0x205 => c.g.t2.status.toNat
  | 0x206 => f.deleg.toNat
  | 0x207 => f.ctxbase.toNat
  | 0x208 => s.tokensUsed % 2048 * 65536 + s.ptoken
  | 0x209 => (s.core c.k).watchA.toNat
  | 0x20A => (s.core c.k).watchM.toNat
  | 0x20B => (s.core c.k).bkptctl.toNat
  | 0x20C => (if s.dbgInf then 2 ^ 63 else 0) + (if s.dbgOutf then 2 ^ 62 else 0) + (if c.g.dbgRef then 2 ^ 61 else 0) + s.dbgIn.toNat
  | _ => 0

/-- R34, R35, R418: a write of MODE: STEP stays at level 0, and the flags raised in this cycle are set in
the value written. -/
def Gang.writeMode (g : Gang) (cycle : Nat) (v : Word) : Gang :=
  let m := modeStored v
  let m1 := if g.level = 0 then (m &&& ~~~0x00080000#32) ||| (g.mode &&& 0x00080000#32) else m
  { g with mode := if g.newFlAt = cycle then modeOr m1 g.newFl else m1 }

/-- R238: a write of GSTATUS, and of DSTATUS with PLVL. -/
def statusWrite (old v : Word) (plvl : Bool) : Word :=
  let keep := old &&& (if plvl then 0xFFFFDFCF#32 else 0xFFFFDFFF#32) &&& ~~~(v &&& 0x1000#32)
  keep ||| (v &&& 0x2000#32) ||| (if plvl && bits v.toNat 5 4 ≠ 0 then 0x10#32 else 0)

/-- R237: the bits of DELEG that a write changes. -/
def delegMask : Quad := 0x001FFF7F7FFFFFFE#64
/-- R239: the bits of xTVEC that a write changes. -/
def vecMask : Quad := 0x01FFFFFFFFFFFFFC#64
/-- R414: a written WATCHA. -/
def watchAStored (v : Quad) : Quad :=
  let w := v &&& 0xF9FFFFFFFFFFFFFF#64
  if bits w.toNat 62 61 = 3 then w &&& 0x19FFFFFFFFFFFFFF#64 else w
/-- R414: a written BKPTCTL. -/
def bkptStored (v : Word) : Word := v &&& 0x19F#32
/-- R219: PTOKEN.SIZE as it stores a value. -/
def sizeStored (n : Nat) : Nat := if n = 0 then 1 else min n 1024
/-- R219: a written PTOKEN.SIZE. -/
def ptokenStored (v : Word) : Nat := sizeStored (bits v.toNat 10 0)

/-- R36, R250: SWR of register n. A register that nothing may write is left alone. -/
def State.swr (s : State) (k sl n : Nat) (v : Quad) : State :=
  match s.gang? k sl with
  | none => s
  | some g =>
    let w := v.setWidth 32
    let t1 := fun (h : TrapRegs → TrapRegs) => s.setGang k sl { g with t1 := h g.t1 }
    let t2 := fun (h : TrapRegs → TrapRegs) => s.setGang k sl { g with t2 := h g.t2 }
    match n with
    | 0x00C => s.setGang k sl (g.writeMode s.cycle w)
    | 0x100 => s.modFunc g.fn fun f => { f with gtvec := v &&& vecMask }
    | 0x101 => t1 fun t => { t with cause := w &&& 0x3F#32 }
    | 0x102 => t1 fun t => { t with epc := v }
    | 0x103 => t1 fun t => { t with tval := v }
    | 0x104 => t1 fun t => { t with scratch := v }
    | 0x105 => t1 fun t => { t with status := statusWrite t.status w false }
    | 0x200 => { s with dtvec := v &&& vecMask }
    | 0x201 => t2 fun t => { t with cause := w &&& 0x3F#32 }
    | 0x202 => t2 fun t => { t with epc := v }
    | 0x203 => t2 fun t => { t with tval := v }
    | 0x204 => t2 fun t => { t with scratch := v }
    | 0x205 => t2 fun t => { t with status := statusWrite t.status w true }
    | 0x206 => s.modFunc g.fn fun f => { f with deleg := v &&& delegMask }
    | 0x207 => s.modFunc g.fn fun f => { f with ctxbase := v }
    | 0x208 => { s with ptoken := ptokenStored w }
    | 0x209 => ({ s with dbgUsed := s.dbgUsed || (watchAStored v).getLsbD 63 } : State).modCore k fun co => { co with watchA := watchAStored v }
    | 0x20A => s.modCore k fun co => { co with watchM := v &&& 0x01FFFFFFFFFFFFFF#64 }
    | 0x20B => s.modCore k fun co => { co with bkptctl := bkptStored w, bkptGroup := some g.group }
    | 0x20C => s.dbgWrite k sl v
    | _ => s

/-- R250: SRD. -/
def srdEff (i : Instr) (c : Ctx) : Eff :=
  let f := Instr.long i
  let n := immF f 11 0
  let w := ((srInfo n).map (·.w)).getD 32
  if !c.acts then .next c.st
  else .next (c.st.setGang c.k c.sl (c.g.putAll f.d w c.active fun _ => c.srd n))

/-- R250: SWR. -/
def swrEff (i : Instr) (c : Ctx) : Eff :=
  let f := Instr.long i
  let n := immF f 11 0
  let w := ((srInfo n).map (·.w)).getD 32
  if !c.acts then .next c.st
  else .next (c.st.swr c.k c.sl n (BitVec.ofNat 64 (c.src f.lit f.a w (lowest c.active))))

/-- R249: TRAP and BKPT. -/
def trapEff (cause : BitVec 6) (i : Instr) (c : Ctx) : Eff :=
  if !c.acts then .next c.st else .raise cause (immF (Instr.long i) 15 0)

/-! RTE. -/

/-- R417: the pass address that an RTE to level 0 gives. -/
def TrapRegs.passAddr (t : TrapRegs) : Option Nat :=
  if (t.cause = 0x0D && t.tval.getLsbD 63) || t.cause = 0x0F then some (t.epc.toNat + 4 * bits t.status.toNat 31 16) else none

/-- R247: the last case of RTE: the fragment goes on at xEPC at level P. -/
def Ctx.resumeAt (c : Ctx) (t : TrapRegs) (p : Nat) : State :=
  let pc := toPc t.epc.toNat
  let s1 := (c.st.modGang c.k c.sl fun g =>
    { g.loseChains c.f.fid with level := p, entry1 := false }.modFrag c.f.fid fun f =>
      (({ f with pc := pc, chead := pc, chainRd := [], chainX := false, defer := 0, urg := none, wait := .run, lost := false,
                 loop := f.loop.map (c.st.refreshLoop c.k c.g.fn (c.st.launchOf c.g)),
                 pass := if p = 0 && t.passAddr.isSome then t.passAddr else f.pass } : Frag).leaveLoop p).settle p).modCore c.k fun co => co.loseRings c.sl
  if p = 0 then s1.replayAll c.k c.sl else s1

/-- R247: RTE. Every CTXS has been performed when the next instruction issues, so KIND 011 never waits. -/
def rteEff (c : Ctx) : Eff :=
  let t := if c.g.level = 2 then c.g.t2 else c.g.t1
  let kind := bits t.status.toNat 10 8
  let p := if c.g.level = 2 then bits t.status.toNat 5 4 else 0
  if !c.acts then .next c.st
  else if kind = 3 then .placed (c.st.leaveCore c.k c.sl)
  else if kind = 4 then .placed (c.st.finishRestore c.k c.sl)
  else if t.status.getLsbD 13 || t.status.getLsbD 14 then .placed (c.st.gangEnd c.k c.sl)
  else if t.epc.toNat % 4 ≠ 0 then .raise 0x08 t.epc.toNat
  else if 2 ^ 57 ≤ t.epc.toNat then .raise 0x09 t.epc.toNat
  else .placed (c.resumeAt t p)

/-! CTXS and CTXR. -/

/-- R251: where the first word of a class lies in the frame, and how many words there are. -/
def ctxArea (f : Long) : Nat × Nat :=
  match subF f 2 0 with
  | 0 => (0x1000 + 0x800 * immF f 3 0, 512)
  | 1 => (0x6800, 256)
  | 2 => (0x6C04, 7)
  | 3 => (0x6C40, 64)
  | _ => (0x7000, 256)

/-- R251: word n of a class, as the gang holds it; none for a word that is not saved. -/
def Gang.ctxWord (g : Gang) (f : Long) (n : Nat) : Option Word :=
  match subF f 2 0 with
  | 0 => some (g.vReg (16 * immF f 3 0 + n / 32) (n % 32))
  | 1 => if n % 32 < 28 then some (g.sReg (n % 32) (n / 32)) else none
  | 2 => some (g.pReg (n + 1))
  | 3 => some ((g.bReg (n / 4)).extractLsb' (32 * (n % 4)) 32)
  | _ => some (g.xReg (n / 32) (n % 32))

/-- R251: puts word n of a class into the gang; the reserved bits of a buffer record become zero. -/
def Gang.putCtxWord (g : Gang) (f : Long) (n : Nat) (w : Word) : Gang :=
  match subF f 2 0 with
  | 0 => g.setV (16 * immF f 3 0 + n / 32) (n % 32) w
  | 1 => if n % 32 < 28 then g.setS (n % 32) (n / 32) w else g
  | 2 => g.setP (n + 1) w
  | 3 =>
    let m : Word := if n % 4 = 3 then w &&& 0x0FFFFFFF#32 else if n % 4 = 1 then w &&& 0x7FFFFFFF#32 else w
    let old := (g.bReg (n / 4)).toNat
    let sh := 2 ^ (32 * (n % 4))
    g.setB (n / 4) (BitVec.ofNat 128 (old - old / sh % 2 ^ 32 * sh + m.toNat * sh))
  | _ => g.setX (n / 32) (n % 32) w

/-- R251, R252: the class's place in memory, or the cause and the address of the word that fails. The area
lies in one 64 KiB page. A frame that stage 2 does not place in device memory is refused (log 23). -/
def Ctx.ctxPlace (c : Ctx) (f : Long) (acc : Rights) : Except (BitVec 6 × Nat) Nat :=
  let a := c.src f.lit f.a 64 (lowest c.active)
  let (o, n) := ctxArea f
  if a % 131072 ≠ 0 then .error (0x12, a)
  else match c.st.translateIa (.core c.k) c.g.fn (a + o) acc with
    | .error cause => .error (cause, a + o)
    | .ok (.dev pa) =>
      match (if acc.rd then (List.range n).find? fun j => (c.g.ctxWord f j).isSome && c.st.spoilt c.g.fn (pa + 4 * j) else none) with
      | some j => .error (0x1B, a + o + 4 * j)
      | none => .ok pa
    | .ok _ => .error (0x16, a + o)

/-- R251: CTXS. -/
def ctxsEff (i : Instr) (c : Ctx) : Eff :=
  let f := Instr.long i
  if !c.acts then .next c.st
  else match c.ctxPlace f ⟨false, true, false⟩ with
    | .error (cause, v) => .raise cause v
    | .ok pa => .next ((List.range (ctxArea f).2).foldl (fun s n => match c.g.ctxWord f n with
        | some w => s.fnWrite c.g.fn (pa + 4 * n) false (toBytes 4 w.toNat)
        | none => s) c.st)

/-- R251: CTXR. -/
def ctxrEff (i : Instr) (c : Ctx) : Eff :=
  let f := Instr.long i
  if !c.acts then .next c.st
  else match c.ctxPlace f ⟨true, false, false⟩ with
    | .error (cause, v) => .raise cause v
    | .ok pa =>
      let s := c.st.fnReadNote c.g.fn pa
      .next (s.setGang c.k c.sl ((List.range (ctxArea f).2).foldl (fun g n =>
        g.putCtxWord f n (BitVec.ofNat 32 (s.homeRead (s.keyOf c.g.fn) (pa + 4 * n) 4))) c.g))

def execTrap (f : Long) (s : State) : Out := run (.trap f) (trapEff 0x0C (.trap f)) s
def execRte (f : Long) (s : State) : Out := run (.rte f) rteEff s
def execSrd (f : Long) (s : State) : Out := run (.srd f) (srdEff (.srd f)) s
def execSwr (f : Long) (s : State) : Out := run (.swr f) (swrEff (.swr f)) s
def execBkpt (f : Long) (s : State) : Out := run (.bkpt f) (trapEff 0x0D (.bkpt f)) s
def execCtxs (f : Long) (s : State) : Out := run (.ctxs f) (ctxsEff (.ctxs f)) s
def execCtxr (f : Long) (s : State) : Out := run (.ctxr f) (ctxrEff (.ctxr f)) s

/-- R413: DBGMB_POST. -/
def execDbgmbPost (k sl : Nat) (v : Quad) (s : State) : Out := .next (s.dbgPost k sl v)
/-- R413: DBGMB_ACKNOWLEDGE. -/
def execDbgmbAcknowledge (s : State) : Out := .next s.dbgAck

end Sys2Proof.Machine
end

