-- ==== Sys2Proof/Machine/Work.lean ====
section
/-! DEFINITION. Work (spec/13): memory of the queue controller (R351), jobs and phases (R268, R269), graphs and
cord bins (R272 to R275), placement (R276 to R278), staging (R279 to R286), run-time limits (R270), ends of
groups and units, and cancels (R208). What the scheduler and the queue controller do by themselves is a list
of offers, each an event that may happen now. -/
namespace Sys2Proof.Machine

/-! Memory as the device's agents reach it. -/

/-- R351: the target of a virtual address for an agent that serves a function. -/
def State.vaTarget (s : State) (fn va : Nat) (acc : Rights) : Except (BitVec 6) Target :=
  match s.translate (.agent fn) fn va acc with
  | .ok (t, _) => .ok t
  | .error c => .error c

/-- R372: a translation that an agent makes is walked, and kept. -/
def State.vaKeep (s : State) (fn va : Nat) (acc : Rights) : State :=
  match s.translate (.agent fn) fn va acc with
  | .ok (_, e) => s.keepTlb (.agent fn) e
  | .error _ => s.noteWalk (.agent fn) fn va

/-- R381, R385: what the controllers count of an agent's read of a line of its function. -/
def State.noteVaLine (s : State) (fn va : Nat) : State :=
  match s.vaTarget fn va ⟨true, false, false⟩ with
  | .ok (.dev pa) => (((s.vaKeep fn va ⟨true, false, false⟩).fnReadNote fn pa).countRow pa)
  | _ => s.vaKeep fn va ⟨true, false, false⟩
/-- The same for n bytes from an address on. -/
def State.noteVa (s : State) (fn va n : Nat) : State :=
  (List.range ((va % 128 + n + 127) / 128)).foldl (fun s j => s.noteVaLine fn (va / 128 * 128 + 128 * j)) s

/-- R351, R360: a quad aligned to 8, or none when it does not translate or has an uncorrectable error. What a
peer or the host holds is a free value (log 8). -/
def State.vaQuad (s : State) (fn va : Nat) : Option Nat :=
  match s.vaTarget fn va ⟨true, false, false⟩ with
  | .ok (.dev pa) => if s.spoilt fn pa then none else some (s.homeRead (s.keyOf fn) pa 8)
  | .ok (.peer _ ia) => some (ofBytes ((List.range 8).map fun j => Config.freeByte (s.free + ia + j)))
  | .ok (.host h) => some (ofBytes ((List.range 8).map fun j => Config.freeByte (s.free + h + j)))
  | _ => none

/-- The 2n words from an address aligned to 8. -/
def State.vaWords (s : State) (fn va : Nat) : Nat → Option (List Nat)
  | 0 => some []
  | n + 1 =>
    match s.vaQuad fn va, s.vaWords fn (va + 8) n with
    | some q, some l => some (q % 2 ^ 32 :: q / 2 ^ 32 :: l)
    | _, _ => none

/-- A request of an agent of a function: lanes of `size` bytes in one line, or a read of the line. -/
def agentReq (fn core : Nat) (own : Owner) (i : Instr) (wr : Bool) (cls va : Nat) (t : Target) (size : Nat) (lanes : List LaneAcc) : Req :=
  { core := core, slot := 32, gen := 0, fn := fn, group := 0, seq := 0, instr := i, active := 0, lanes := lanes, buf := 0, size := size,
    line := va / 128 * 128, tgt := t, rd := !wr, wr := wr, ord := 0, scope := 3, pxmt := false, level := 0, sent := none, mute := false, own := own,
    cls := cls, fences := [], turn := 0, entry := false, part := false }

/-- The first location of the line that a target on a peer or the host lies in. -/
def Target.lineStart : Target → Target
  | .peer vdn ia => .peer vdn (ia / 128 * 128)
  | .host a => .host (a / 128 * 128)
  | t => t

/-- An agent writes bytes in one line, where they can be reached: what lies at a peer takes a request (R304). -/
def State.agentStore (s : State) (fn : Nat) (own : Owner) (i : Instr) (va : Nat) (bs : List Byte) : State :=
  let s1 := s.vaKeep fn va ⟨false, true, false⟩
  match s.vaTarget fn va ⟨false, true, false⟩ with
  | .ok (.dev pa) => (s1.countRow pa).fnWrite fn pa false bs
  | .ok (.host h) => s1.send (.hostWrite fn h bs)
  | .ok (.peer vdn ia) =>
    s1.sendOne (.agent fn) (agentReq fn 1024 own i true 1 va (Target.peer vdn ia).lineStart bs.length [⟨0, va, 0, 0, ofBytes bs, 0⟩])
  | _ => s1

/-- Bytes from an address on, cut at the ends of lines. -/
def byLines (va : Nat) (bs : List Byte) : List (Nat × List Byte) :=
  (List.range ((va % 128 + bs.length + 127) / 128)).map fun j =>
    let lo := 128 * j - va % 128
    (va + lo, (bs.drop lo).take (128 * (j + 1) - va % 128 - lo))

/-- R274: the queue controller writes a batch of a launch to its buffer. -/
def State.writeBatch (s : State) (fn lk va : Nat) (bs : List Byte) : State :=
  (byLines va bs).foldl (fun s x => s.agentStore fn (.batch lk) (.binQuiescenceFlush lk) x.1 x.2) s

/-! Jobs and phases. -/

def State.job? (s : State) (fn job : Nat) : Option Job := Cells.find? s.jobs (jobKey fn job)
def State.modJob (s : State) (fn job : Nat) (h : Job → Job) : State := { s with jobs := Cells.modify s.jobs (jobKey fn job) h }
def State.queue (s : State) (fn q : Nat) : Queue := Cells.getD (s.func fn).queues q Queue.reset
def State.modQueue (s : State) (fn q : Nat) (h : Queue → Queue) : State :=
  s.modFunc fn fun f => { f with queues := Cells.put f.queues q (h (Cells.getD f.queues q Queue.reset)) }

/-- R356: a queue that takes part in its job's phases. -/
def Queue.active (q : Queue) : Bool := q.en || q.err || !q.pending.isEmpty

/-- R269, R356, R208: phase p of a job has ended on this device's queues and graphs. -/
def State.phaseOver (s : State) (fn job p : Nat) : Bool :=
  (s.graphs.all fun g => !(decide (g.2.fn = fn) && decide (g.2.job = job) && decide (g.2.phase = p))) &&
  (s.func fn).queues.all fun q =>
    !(decide (q.2.job = job) && q.2.active) || decide (p < q.2.phends) || q.2.skipJob ||
      (match q.2.skipPhase with
       | some n => decide (p ≤ n)
       | none => false)

/-- R269: the job goes on to the first phase that has not ended; a PROOF at its boundary triggers (R356). -/
def State.settleJob (s : State) (fn job : Nat) : State :=
  match s.job? fn job with
  | none => s
  | some j =>
    let n := ((List.range (j.known - j.phase)).takeWhile fun i => s.phaseOver fn job (j.phase + i)).length
    let s1 := s.modJob fn job fun j => { j with phase := j.phase + n }
    if j.proofAt.any fun p => decide (p < j.phase + n) then s1.trigger fn 1 else s1

/-- R356: a processed command has completed. -/
def State.pendingDone (s : State) (fn job : Nat) : Pending → Bool
  | .launch k => match s.launch? k with
    | some l => l.done
    | none => true
  | .graph k => (s.graph? k).isNone
  | .phase p => match s.job? fn job with
    | some j => decide (p < j.phase)
    | none => true
  | .proof p => match s.job? fn job with
    | some j => !j.proofAt.contains p
    | none => true
  | .job => s.graphs.all fun g => !(decide (g.2.fn = fn) && decide (g.2.job = job))
  | .signal _ _ _ _ _ _ => false

/-- R350: IDLE. -/
def Queue.idle (q : Queue) : Bool := q.head == q.tail && q.pending.isEmpty

/-- R354: a queue gives up its slot when it is IDLE or has stopped. -/
def Queue.release (q : Queue) : Queue := if q.idle || q.err then { q with slot := false, again := false, holdEnd := none } else q

/-- R356: commands of a function's queues that have completed are forgotten, and slots are given up. -/
def State.settleQueues (s : State) (fn : Nat) : State :=
  s.modFunc fn fun f => { f with queues := f.queues.map fun q =>
    (q.1, ({ q.2 with pending := q.2.pending.filter fun p => !s.pendingDone fn q.2.job p } : Queue).release) }

/-! Graphs and launches. -/

/-- R272: the groups of every launch of a graph have ended, and no EMIT of it is in flight; a graph that a
GRAPH command opened is not looked at before a queue launch has joined it or its phase's PHEND (log 24). -/
def State.quiet (s : State) (gk : Nat) : Bool :=
  match s.graph? gk with
  | none => false
  | some g =>
    let mine := s.launches.filter fun p => decide (p.2.graph = gk)
    (mine.all fun p => decide (p.2.groups = p.2.ended)) && (s.emits.all fun e => decide (e.2.graph ≠ gk)) &&
      (g.gid.isNone || g.cancelled || (mine.any fun p => p.2.nodeId.isNone) || decide (g.phase < (s.queue g.fn g.queue).phends))

/-- R268, R272: launches of a graph that have ended, and the graph with them. -/
def State.settleGraph (s : State) (gk : Nat) : State :=
  match s.graph? gk with
  | none => s
  | some g =>
    let finished := s.quiet gk && g.nodes.all fun n => n.bin.isEmpty
    let s1 := { s with launches := s.launches.map fun (p : Nat × Launch) =>
      if p.2.graph = gk && decide (p.2.groups = p.2.ended) && (p.2.nodeId.isNone || finished) then (p.1, { p.2 with done := true, lands := [] }) else p }
    if finished && (s1.launches.all fun p => !decide (p.2.graph = gk) || p.2.done) then
      (({ s1 with graphs := Cells.del s1.graphs gk, launches := s1.launches.filter fun p => decide (p.2.graph ≠ gk) } : State).settleJob g.fn
        g.job).settleQueues g.fn
    else s1.settleQueues g.fn

/-! Cord bins. -/

/-- R275: the bytes of a graph's records that stand in overflow space. -/
def Graph.spilled (g : Graph) : Nat :=
  g.nodes.foldl (fun n x => n + (x.bin.length * x.node.recSize - Config.binOnChip)) 0

/-- R275: a record of a node finds room. -/
def Graph.room (g : Graph) (n : Nat) : Bool :=
  match g.nodes[n]? with
  | none => false
  | some x => decide ((x.bin.length + 1) * x.node.recSize ≤ Config.binOnChip) || decide (g.spilled + x.node.recSize ≤ g.ovfLen)

/-- R273: a record enters a bin. -/
def Graph.enter (g : Graph) (n now : Nat) (bs : List Byte) : Graph :=
  { g with nodes := g.nodes.mapIdx fun i x => if i = n then { x with bin := x.bin ++ [⟨bs, now⟩] } else x }

/-- R208, R272: the node launch has been cancelled: its records are discarded. -/
def State.nodeOff (s : State) (g : Graph) (n : Nat) : Bool :=
  match (g.nodes[n]?).bind fun x => s.launch? x.launch with
  | some l => l.cancelled
  | none => false

/-- R280: staging of the node's L2 landings is due when its bin first holds a record after being empty. -/
def State.dueStaging (s : State) (g : Graph) (n : Nat) : State :=
  match g.nodes[n]? with
  | some x => if x.bin.isEmpty then s.modLaunch x.launch fun l => { l with staged := [] } else s
  | none => s

/-- R274: batch buffers of a graph in use, those of saved groups too, as (address, bytes). -/
def State.batchBuffers (s : State) (gk : Nat) : List (Nat × Nat) :=
  (s.launches.flatMap fun p =>
    if p.2.graph = gk then p.2.batches.map fun b =>
      (b.1, b.2 * (match (s.graph? gk).bind fun g => p.2.nodeId.bind fun n => g.nodes[n]? with
        | some x => x.node.recSize
        | none => 0))
    else []) ++
  (s.groups.map (·.2) ++ s.saved.map fun p => p.2.group).flatMap fun p =>
    match s.launch? p.launch with
    | some l => if l.graph = gk && l.nodeId.isSome && !p.ended then [((bufRec p.b1).base, (bufRec p.b1).extent)] else []
    | none => []

/-- R274: room for n bytes in a graph's bin space. -/
def State.findBuffer (s : State) (gk : Nat) (g : Graph) (n : Nat) : Option Nat :=
  let used := s.batchBuffers gk
  (g.bins :: used.map fun u => u.1 + u.2).find? fun a =>
    decide (g.bins ≤ a) && decide (a + n ≤ g.bins + g.binLen) && used.all fun u => !overlap a n u.1 u.2

/-- R273, R274: node n's oldest records, at most COUNT, become a batch of its launch; nothing happens while
the bin space has no room. -/
def State.flushBin (s : State) (gk n : Nat) : State :=
  match s.graph? gk with
  | none => s
  | some g =>
    match g.nodes[n]? with
    | none => s
    | some x =>
      let k := min x.node.count x.bin.length
      match (if k = 0 then none else s.findBuffer gk g (k * x.node.recSize)) with
      | none => s
      | some a =>
        let s1 := (s.modGraph gk fun g => { g with nodes := g.nodes.mapIdx fun i y => if i = n then { y with bin := y.bin.drop k } else y }).modLaunch
          x.launch fun l => { l with groups := l.groups + 1, batches := l.batches ++ [(a, k)] }
        s1.writeBatch g.fn x.launch a ((x.bin.take k).flatMap fun r => r.bytes)

/-- R273: the node's bin holds COUNT records. -/
def Graph.full (g : Graph) (n : Nat) : Bool :=
  match g.nodes[n]? with
  | some x => decide (x.node.count ≤ x.bin.length)
  | none => false
/-- R273: TIMER ns have passed since the bin's oldest record entered. -/
def Graph.timedOut (g : Graph) (n now : Nat) : Bool :=
  match g.nodes[n]? with
  | some x => x.node.timer ≠ 0 && (match x.bin with
    | r :: _ => decide (r.entered + 11 * x.node.timer ≤ now)
    | [] => false)
  | none => false

/-- A gang that is being halted, or is saved. -/
def State.isHalted (s : State) (k sl gen : Nat) : Bool :=
  decide (s.gen k sl = gen) && (match s.gang? k sl with
    | some g => (g.halt.map (·.taken)).getD false
    | none => false)

/-- R205: the records of an EMIT that find room enter the bin; the others wait. -/
def State.enterRecords (s : State) (gk node scratch : Nat) : List Nat → State × List Nat
  | [] => (s, [])
  | a :: t =>
    match s.graph? gk, s.group? scratch with
    | some g, some grp =>
      if s.nodeOff g node then s.enterRecords gk node scratch t
      else if g.room node then
        let n := match g.nodes[node]? with | some x => x.node.recSize | none => 0
        let bs := (List.range n).map fun j => Memory.byte grp.scratch (a + j)
        let s1 := (s.dueStaging g node).modGraph gk fun g => g.enter node s.pod bs
        let s2 := match s1.graph? gk with
          | some g1 => if g1.full node then s1.flushBin gk node else s1
          | none => s1
        s2.enterRecords gk node scratch t
      else (s, a :: t)
    | _, _ => (s, [])

/-- R205, R273, R275: EMIT_RECORD_ENTRY. -/
def execEmitRecordEntry (id : Nat) (s : State) : Out :=
  match Cells.find? s.emits id with
  | none => .next s
  | some e =>
    if s.isHalted e.core e.slot e.gen then .next s
    else if s.accessBefore e.core e.slot e.gen e.seq e.level then .next (s.after 1 (.emitRecordEntry id))
    else
      let (s1, left) := s.enterRecords e.graph e.node e.group e.addrs
      if left.isEmpty then
        let s2 := ({ s1 with emits := Cells.del s1.emits id } : State).settleBatches e.core e.slot e.gen
        .next (s2.modGraph e.graph fun g => { g with waiting := s2.emits.any fun x => decide (x.2.graph = e.graph) && g.waiting })
      else
        let s2 := { s1 with emits := Cells.put s1.emits id { e with addrs := left } }
        let fn := match s.graph? e.graph with | some g => g.fn | none => 0
        .next (((s2.modGraph e.graph fun g => { g with waiting := true }).raiseEvt fn 2).after 1 (.emitRecordEntry id))

/-- R273: BIN_TIMER_FLUSH. -/
def execBinTimerFlush (gk n : Nat) (s : State) : Out :=
  match s.graph? gk with
  | some g => if g.timedOut n s.pod || g.full n then .next (s.flushBin gk n) else .next s
  | none => .next s

/-- R273: BIN_QUIESCENCE_FLUSH. -/
def execBinQuiescenceFlush (gk : Nat) (s : State) : Out :=
  match s.graph? gk with
  | some g => if s.quiet gk then .next ((List.range g.nodes.length).foldl (fun s n => s.flushBin gk n) s) else .next s
  | none => .next s

/-! Placement. -/

/-- R375: the requester ports of a function's partition reach a core. -/
def State.coreOf (s : State) (fn k : Nat) : Bool :=
  let p := s.part (s.partOf fn)
  p.valid && !p.stop && decide (k < 1024) && p.req.getLsbD (k / 16)

/-- R255: a slot that a new gang may take: it is empty, and nothing in flight carries the generation that it would have. -/
def State.slotClean (s : State) (k sl : Nat) : Bool :=
  let mine := fun (c sl' gen : Nat) => decide (c = k) && decide (sl' = sl) && decide (gen = s.gen k sl)
  (s.gang? k sl).isNone && !(s.reqs.any fun r => mine r.2.core r.2.slot r.2.gen) && !(s.creds.any fun c => mine c.2.core c.2.slot c.2.gen) &&
    !(s.snaps.any fun c => mine c.2.core c.2.slot c.2.gen)

/-- R255: the slots that new gangs may take. -/
def State.freeSlots (s : State) (k : Nat) : List Nat := (List.range 32).filter fun sl => s.slotClean k sl

/-- R276: a core meets a group's needs. -/
def State.fits (s : State) (fn : Nat) (kern : Kernel) (k : Nat) : Bool :=
  let here := (s.groups.filter fun p => decide (p.2.core = k)).map (·.2)
  let live := here.filter fun g => !g.ended
  s.coreOf fn k &&
    decide ((live.map (·.kern.gangs)).sum + kern.gangs ≤ 32) && decide (kern.gangs ≤ (s.freeSlots k).length) &&
    decide ((live.map fun g => g.kern.gangs * g.kern.nblk).sum + kern.gangs * kern.nblk ≤ 256) &&
    decide ((here.map (·.kern.scratch)).sum + kern.scratch ≤ 1048576) &&
    (kern.galleys.isEmpty || live.all fun g => g.kern.galleys.isEmpty)

/-- R269, R274, R356, R354: the next group or set of a launch may be placed now, as far as its own order goes. -/
def State.inTurn (s : State) (lk : Nat) (l : Launch) : Bool :=
  let earlier := s.launches.filter fun p => decide (p.2.fn = l.fn) && decide (p.2.queue = l.queue) && decide (p.1 < lk)
  !l.cancelled && !l.done && decide (l.placed < l.groups) &&
    (match s.job? l.fn l.job with
     | some j => decide (j.phase = l.phase) && j.proofAt.all fun p => decide (l.phase ≤ p)
     | none => false) &&
    !(s.queue l.fn l.queue).again && !s.stopPhase l.fn && !(s.reqs.any fun r => decide (r.2.own = .batch lk)) &&
    (l.nodeId.isSome || earlier.all fun p => p.2.nodeId.isSome || decide (0 < p.2.placed)) &&
    (!l.depq || earlier.all fun p => p.2.nodeId.isSome || p.2.done)

/-- R275: an EMIT waits for room in the bin of the launch's node. -/
def State.nodeWaits (s : State) (l : Launch) : Bool :=
  match s.graph? l.graph, l.nodeId with
  | some g, some n => g.waiting && !g.room n && s.emits.any fun e => decide (e.2.graph = l.graph) && decide (e.2.node = n)
  | _, _ => false

/-- R275: the queued groups of a node that waits go ahead of every other launch of the partition. -/
def State.placeable (s : State) (lk : Nat) (l : Launch) : Bool :=
  s.inTurn lk l && (s.nodeWaits l || s.launches.all fun p =>
    !(decide (s.partOf p.2.fn = s.partOf l.fn) && s.nodeWaits p.2 && s.inTurn p.1 p.2))

/-- R28: a buffer record from its fields. -/
def mkBuf (base extent stride qos : Nat) (ronly : Bool) : Galley :=
  BitVec.ofNat 128 (base % 2 ^ 57 + qos * 2 ^ 59 + (if ronly then 2 ^ 61 else 0) + extent % 2 ^ 40 * 2 ^ 64 + stride % 2 ^ 16 * 2 ^ 104)

/-- R286: the argument quad that a range of a launch starts from, and its address. -/
def Launch.argAt (l : Launch) (d : Decl) : Nat := l.args + 8 * d.argq

/-- R279, R282, R286: the filling of a landing by a cluster's yarder. -/
def State.newFill (s : State) (l : Launch) (yarder : Nat) (d : Decl) : Fill :=
  let f : Fill := { base := l.argAt d + 2 ^ 63, bad := true, len := d.len, soff := d.soff, left := [], asked := [], yarder := yarder, began := s.nextId }
  match s.vaQuad l.fn (l.argAt d) with
  | some q => { f with base := (q + d.off) % 2 ^ 64, bad := false, left := List.range (d.len / 128) }
  | none => f

/-- R286: the values of the STAGE_FAULTs of ranges whose quads cannot be read. -/
def badFills (l : List Fill) : List Quad := (l.filter (·.bad)).map fun f => BitVec.ofNat 64 f.base

/-- R276, R213: places one group of a launch on a core. -/
def State.placeGroup (s : State) (lk : Nat) (l : Launch) (gid k : Nat) : State :=
  let fills := (l.kern.decls.filter (·.scratch)).map (s.newFill l (k / 64))
  let rec1 := match l.nodeId, l.batches with
    | some n, b :: _ => match ((s.graph? l.graph).bind fun g => g.nodes[n]?) with
      | some x => mkBuf b.1 (b.2 * x.node.recSize) x.node.recSize 1 true
      | none => 0
    | _, _ => 0
  let g : Group :=
    { fn := l.fn, launch := lk, groupId := gid, core := k, live := [], kern := l.kern, setsz := l.setsz, scratch := [], bars := [], sep := 0,
      wid := [], b0 := mkBuf l.args l.argLen 8 1 true, b1 := rec1,
      recCount := match l.nodeId, l.batches with | some _, b :: _ => b.2 | _, _ => 0,
      fills := fills, sfaults := badFills fills, started := false, ended := false,
      halting := false, debug := false, slots := [] }
  let s0 := (l.kern.decls.filter (·.scratch)).foldl (fun s d => s.noteVa l.fn (l.argAt d) 8) s
  let s1 := { s0.bumpId with groups := Cells.put s.groups s.nextId g }
  let s2 := if l.kern.galleys.isEmpty then s1 else s1.modCore k fun co => { co with tile := [], tileWritten := 0 }
  s2.modLaunch lk fun l => { l with batches := l.batches.drop 1 }

/-- R276, R278: GROUP_PLACEMENT: the launch's next group, or cluster set, takes cores from one on. -/
def execGroupPlacement (lk k : Nat) (s : State) : Out :=
  match s.launch? lk with
  | none => .next s
  | some l =>
    if s.placeable lk l && decide (k % l.setsz = 0) && (List.range l.setsz).all fun j => s.fits l.fn l.kern (k + j) then
      let s1 := (List.range l.setsz).foldl (fun s j => match s.launch? lk with
        | some l => s.placeGroup lk l (l.placed + j) (k + j)
        | none => s) s
      .next (s1.modLaunch lk fun l => { l with placed := l.placed + l.setsz })
    else .next s

/-- R276: a core, or the first core of a set, that the launch's next group may take. -/
def State.coreFor (s : State) (l : Launch) : Option Nat :=
  (List.range (1024 / l.setsz)).findSome? fun m =>
    if (List.range l.setsz).all fun j => s.fits l.fn l.kern (m * l.setsz + j) then some (m * l.setsz) else none

/-! Starting a group. -/

/-- R17, R15: a gang at its start. -/
def newGang (g : Group) (gk gid : Nat) : Gang :=
  let f : Frag :=
    { pc := toPc g.kern.entry, chead := toPc g.kern.entry, jv := false, join := 0, mask := BitVec.allOnes 32, wait := .run, loop := none,
      fid := 0, waitCyc := 0, defer := 0, urg := none, skip := 0, chainRd := [], chainX := false, pass := none, stepDue := false,
      lost := false, latchAt := [], unit := 0, unitAt := 0 }
  { fn := g.fn, group := gk, gid := gid, nblk := g.kern.nblk, level := 0, sysFid := 0, frags := [f], nextFid := 1, v := [], k := [], s := [],
    x := [], p := [], b := Cells.set 0 (Cells.set 0 [] 0 g.b0) 1 g.b1, mode := modeStored g.kern.mode, t1 := TrapRegs.zero, t2 := TrapRegs.zero,
    fly := [], fences := [], seq := 0, olog := [], defq := g.sfaults.map fun v => ⟨0x33, v⟩, canc := none, lost := false, sealNo := 0,
    sealed := [], openOps := 0, reown := false, stopped := false, halt := none, acqf := false, gwait := 0, yieldEnd := 0, busy := [],
    entry1 := false, dbgRef := false, newFl := 0, newFlAt := 0, packets := [], results := [], credRes := [], snapRes := [], pkts := [] }

/-- R75, R277: writes the galley headers of a group. -/
def Group.initGalleys (g : Group) : Group :=
  { g with scratch := g.kern.galleys.foldl (fun m x => Memory.write (Cells.clear m x.1 64) x.1 4 (x.2 * 65536)) g.scratch }

/-- R276, R282: GROUP_START: every gang of a placed group starts once its landings are filled. -/
def execGroupStart (gk : Nat) (s : State) : Out :=
  match s.group? gk with
  | none => .next s
  | some g =>
    let slots := (s.freeSlots g.core).take g.kern.gangs
    if g.started || g.ended || g.halting || (g.fills.any fun f => !f.left.isEmpty) || decide (slots.length < g.kern.gangs) then .next s
    else
      let g1 := { g.initGalleys with started := true, live := List.range g.kern.gangs, slots := slots }
      .next ((({ s with groups := Cells.put s.groups gk g1 } : State).modCore g.core fun co =>
        { co with gangs := (slots.mapIdx fun j sl => (sl, newGang g1 gk j)).foldl (fun m p => Cells.put m p.1 p.2) co.gangs }))

/-! The end of a group. -/

/-- The gangs of a group: on its core, and those that are saved. -/
def State.gangsOf (s : State) (gk : Nat) : List (Nat × Nat) :=
  let on := fun (k : Nat) => ((s.core k).gangs.filter fun p => decide (p.2.group = gk)).map fun p => (k, p.1)
  (match s.group? gk with
   | some g => on g.core
   | none => []) ++ on (savedCore gk)

/-- R268: something that the group's gangs issued has still to complete. -/
def State.groupBusy (s : State) (gk : Nat) : Bool :=
  (s.reqs.any fun r => decide (r.2.group = gk) && r.2.wr) || (s.copies.any fun c => decide (c.2.group = gk)) ||
    (s.emits.any fun e => decide (e.2.group = gk)) || (s.creds.any fun c => decide (c.2.group = gk)) ||
    s.cores.any fun c => c.2.mxOps.any fun m => decide (m.group = gk)

/-- R277, R278: frees a group; the members of a cluster set keep their scratchpads until all have ended. -/
def State.freeGroup (s : State) (gk : Nat) (g : Group) : State :=
  let s1 := s.modGroup gk fun g => { g with ended := true }
  let set := s1.groups.filter fun p => decide (p.2.launch = g.launch) && decide (p.2.groupId / g.setsz = g.groupId / g.setsz)
  if set.all fun p => p.2.ended then { s1 with groups := set.foldl (fun m p => Cells.del m p.1) s1.groups } else s1

/-- R268: GROUP_END. -/
def execGroupEnd (gk : Nat) (s : State) : Out :=
  match s.group? gk with
  | none => .next s
  | some g =>
    if g.started && !g.ended && g.live.isEmpty && !s.groupBusy gk then
      let s1 := (s.freeGroup gk g).modLaunch g.launch fun l => { l with ended := l.ended + 1 }
      match s.launch? g.launch with
      | some l => .next (s1.settleGraph l.graph)
      | none => .next s1
    else .next s

/-! Staging. -/

/-- R280: range r of a launch is an L2 landing whose staging may begin. -/
def State.mayStage (s : State) (lk r : Nat) : Bool :=
  match s.launch? lk with
  | none => false
  | some l =>
    (match l.kern.decls[r]? with
     | some d => !d.scratch
     | none => false) && !l.staged.contains r && !l.cancelled && !l.done &&
    (l.nodeId.isSome ||
      (let ahead := s.launches.filter fun p => decide (p.2.fn = l.fn) && decide (p.2.queue = l.queue) && decide (p.1 < lk) &&
         p.2.nodeId.isNone && decide (p.2.placed < p.2.groups)
       decide (ahead.length < 2) && decide (l.placed < l.groups)))

/-- R283, R376: the bytes of held L2 landings a partition may have, and the bytes its staging may have in flight. -/
def Partition.stgL2 (p : Partition) : Nat :=
  min (bits p.stg.toNat 31 0 * 65536)
    (((List.range 16).filter fun w => p.qos.getLsbD (32 + w)).length * 25165824)
def Partition.stgFly (p : Partition) : Nat := 1024 * (if bits p.stg.toNat 63 32 = 0 then 1024 else bits p.stg.toNat 63 32)

/-- R281: the bytes of a launch's L2 landings that are held. -/
def Launch.held (l : Launch) : Nat := (l.lands.map fun p => p.2.len).sum

/-- The requests for staged lines that are in flight. -/
def State.stagingReqs (s : State) : List Req :=
  (s.reqs.filter fun p => match p.2.own with
    | .landing _ _ _ => true
    | _ => false).map (·.2)
/-- R283, R279: the bytes that a partition's staging, and a yarder, have in flight. -/
def State.flyOf (s : State) (t : Nat) : Nat := 128 * (s.stagingReqs.filter fun r => decide (s.partOf r.fn = t)).length
def State.yarderFly (s : State) (c : Nat) : Nat := 128 * (s.stagingReqs.filter fun r => decide (r.core / 64 = c)).length

/-- R279: the yarder that fills an L2 landing of a launch: that of a cluster with a group of it, or else the one with the fewest
bytes in flight among the clusters of the partition. -/
def State.yarderFor (s : State) (lk : Nat) (l : Launch) : Nat :=
  match List.find? (fun (p : Nat × Group) => decide (p.2.launch = lk)) s.groups with
  | some p => p.2.core / 64
  | none =>
    let cs := (List.range 16).filter fun c => bits (s.part (s.partOf l.fn)).req.toNat (4 * c + 3) (4 * c) ≠ 0
    cs.foldl (fun b c => if s.yarderFly c < s.yarderFly b then c else b) (cs.headD 0)

/-- R280, R281, R283, R286: STAGING_BEGIN. An L2 landing changes no value that a program reads. A range that is held already stays
as it is. -/
def execStagingBegin (lk r : Nat) (s : State) : Out :=
  match s.launch? lk with
  | none => .next s
  | some l =>
    match (if s.mayStage lk r then l.kern.decls[r]? else none) with
    | none => .next s
    | some d =>
      let f := s.newFill l (s.yarderFor lk l) d
      let held := s.launches.foldl (fun n p => if s.partOf p.2.fn = s.partOf l.fn then n + p.2.held else n) 0
      let ok := !f.bad && (Cells.find? l.lands r).isNone && decide (held + d.len ≤ (s.part (s.partOf l.fn)).stgL2)
      .next (((s.noteVa l.fn (l.argAt d) 8).bumpId).modLaunch lk fun l =>
        { l with staged := l.staged ++ [r], lands := if ok then Cells.put l.lands r f else l.lands })

/-- A landing's line is done with; and one of its requests has been answered. -/
def Fill.doneLine (f : Fill) (line : Nat) : Fill := { f with left := f.left.filter (· ≠ line), asked := f.asked.filter (· ≠ line) }
def Fill.answer (f : Fill) (line : Nat) : Fill :=
  if (f.asked.erase line).contains line then { f with asked := f.asked.erase line } else f.doneLine line

def Group.modFill (g : Group) (r : Nat) (h : Fill → Fill) : Group :=
  { g with fills := g.fills.mapIdx fun i x => if i = r then h x else x }

/-- The landing r of a group that has not started, or of a launch, with its function. -/
def State.fill? (s : State) (key r : Nat) : Option (Nat × Fill) :=
  match s.group? key with
  | some g => if g.started then none else (g.fills[r]?).map fun f => (g.fn, f)
  | none => (s.launch? key).bind fun l => (Cells.find? l.lands r).map fun f => (l.fn, f)
def State.modFill (s : State) (key r : Nat) (h : Fill → Fill) : State :=
  (s.modGroup key fun g => g.modFill r h).modLaunch key fun l => { l with lands := Cells.modify l.lands r h }

/-- R286: a line of a landing fails: its bytes stay zero, and the gangs of a group take STAGE_FAULT. -/
def State.stageFault (s : State) (key r line : Nat) (f : Fill) : State :=
  let v := BitVec.ofNat 64 f.base
  (s.modGroup key fun g => { g with scratch := Memory.writeBytes g.scratch (f.soff + 128 * line) (List.replicate 128 0),
                                    sfaults := if g.sfaults.contains v then g.sfaults else g.sfaults ++ [v] }).modFill key r fun x => x.doneLine line

/-- R282: bytes of a landing come, from an address on; a landing in L2 keeps none. -/
def State.stageBytes (s : State) (key va : Nat) (f : Fill) (bs : List Byte) : State :=
  s.modGroup key fun g => { g with scratch := Memory.writeBytes g.scratch (f.soff + (va - f.base)) bs }

/-- The parts of a line of a landing by lines of memory: addresses and lengths. -/
def Fill.parts (f : Fill) (line : Nat) : List (Nat × Nat) :=
  let va := f.base + 128 * line
  if va % 128 = 0 then [(va, 128)] else [(va, 128 - va % 128), (va / 128 * 128 + 128, va % 128)]

/-- R284: the class that a line is carried in: 3, or 1 while a scratchpad fill's core has no running group, or its launch is the
partition's next to be placed while a core of the partition holds no group. -/
def State.stageClass (s : State) (key : Nat) : Nat :=
  match s.group? key with
  | none => 3
  | some g =>
    let t := s.partOf g.fn
    let next := List.find? (fun (p : Nat × Launch) => decide (s.partOf p.2.fn = t) && decide (p.2.placed < p.2.groups) && !p.2.cancelled) s.launches
    let idle := s.groups.all fun p => !(decide (p.2.core = g.core) && p.2.started && !p.2.ended)
    let spare := (List.range 1024).any fun k => s.coreOf g.fn k && s.groups.all fun p => decide (p.2.core ≠ k)
    if idle || ((next.map (·.1)) == some g.launch && spare) then 1 else 3

/-- R282, R286: what a part of a line reads: its bytes on this device, the place where they must be asked for, or nothing where
it fails. -/
def State.stagePart (s : State) (fn va n : Nat) : Option (List Byte ⊕ Target) :=
  match s.vaTarget fn va ⟨true, false, false⟩ with
  | .ok (.dev pa) => if s.spoilt fn pa then none else some (.inl (s.homeBytes (s.keyOf fn) pa n))
  | .ok (.notify _ _) => none
  | .ok t => some (.inr t)
  | .error _ => none

/-- R282, R304: one part of a line is written, or asked for. -/
def State.askPart (s : State) (key r line : Nat) (fn : Nat) (f : Fill) (va n : Nat) : State :=
  match s.stagePart fn va n with
  | some (.inl bs) => (s.noteVaLine fn va).stageBytes key va f bs
  | some (.inr t) =>
    ((s.noteVaLine fn va).modFill key r fun x => { x with asked := x.asked ++ [line] }).sendOne (.agent fn)
      (agentReq fn (64 * f.yarder) (.landing key r line) (.stagedLineWritten f.yarder key r line) false (s.stageClass key) va t.lineStart 128 [])
  | none => s

/-- R279, R282, R286: STAGED_LINE_WRITTEN: the landing's yarder turns to line `line` of landing `r` of a placed group or of a launch. What lies on
this device is written; what lies on a peer or in host memory is asked for. -/
def execStagedLineWritten (yarder key r line : Nat) (s : State) : Out :=
  match s.fill? key r with
  | none => .next s
  | some (fn, f) =>
    if f.yarder ≠ yarder || !f.left.contains line || f.asked.contains line then .next s
    else
      let parts := f.parts line
      if parts.any fun p => (s.stagePart fn p.1 p.2).isNone then .next (s.stageFault key r line f)
      else
        let s1 := parts.foldl (fun s p => s.askPart key r line fn f p.1 p.2) s
        .next (s1.modFill key r fun x => if x.asked.contains line then x else x.doneLine line)

/-- R282, R286: a request for a line of a landing has been answered: with the bytes of a line of memory, or with none where it has
failed. -/
def State.stageAnswered (s : State) (id key r line : Nat) (q : Req) (bs : List Byte) : State :=
  let s1 := s.dropReq id q
  match s1.fill? key r with
  | none => s1
  | some (_, f) =>
    if !f.asked.contains line then s1
    else if bs.isEmpty then s1.stageFault key r line f
    else match (f.parts line).find? fun p => decide (p.1 / 128 * 128 = q.line) with
      | none => s1
      | some p => (s1.stageBytes key p.1 f ((bs.drop (p.1 % 128)).take p.2)).modFill key r fun x => x.answer line

/-- R285: requests for a unit's landings that have been sent complete, and their data is discarded. -/
def State.orphanLines (s : State) (key : Nat) : State :=
  { s with reqs := s.reqs.map fun p => match p.2.own with
      | .landing k r line => if k = key then (p.1, { p.2 with own := .landing 0 r line }) else p
      | _ => p }

/-- R283: the landings of a partition with lines still to be asked for, in the order in which they are served. -/
def State.waitingFills (s : State) (t : Nat) : List (Nat × Nat × Fill) :=
  let order := fun (l : List (Nat × Nat × Fill)) =>
    (l.foldl (fun (m : Cells (List (Nat × Nat × Fill))) x => Cells.put m x.2.2.began (Cells.getD m x.2.2.began [] ++ [x])) []).flatMap (·.2)
  let more := fun (x : Nat × Nat × Fill) => x.2.2.left.any fun l => !x.2.2.asked.contains l
  order ((s.groups.flatMap fun p => if s.partOf p.2.fn = t && !p.2.started && !p.2.halting then p.2.fills.mapIdx fun i f => (p.1, i, f) else []).filter more) ++
    order ((s.launches.flatMap fun p => if s.partOf p.2.fn = t then p.2.lands.map fun x => (p.1, x.1, x.2) else []).filter more)

/-- R283: the next line that a partition's staging asks for, while its bytes in flight allow it. -/
def State.nextLine (s : State) (t : Nat) : Option Instr :=
  if (s.part t).stgFly < s.flyOf t + 256 then none
  else ((s.waitingFills t).head?).bind fun x =>
    (x.2.2.left.find? fun l => !x.2.2.asked.contains l).map fun l => .stagedLineWritten x.2.2.yarder x.1 x.2.1 l

/-! Run-time limits. -/

/-- R270: a group of the launch is resident on a core. -/
def State.resident (s : State) (lk : Nat) : Bool := s.groups.any fun p => decide (p.2.launch = lk) && p.2.started && !p.2.ended

/-- R270: the launch has run for RUNLIM. -/
def Launch.expired (l : Launch) : Bool := l.runlim ≠ 0 && !l.watched && decide (l.runlim * 11000 ≤ l.run)

/-- R270: WATCHDOG. -/
def execWatchdog (lk : Nat) (s : State) : Out :=
  match s.launch? lk with
  | none => .next s
  | some l =>
    if l.expired then
      let gangs := (s.groups.filter fun p => decide (p.2.launch = lk)).flatMap fun p => s.gangsOf p.1
      .next (gangs.foldl (fun s x => s.modGang x.1 x.2 fun g => g.report 0x34 l.runlim) (s.modLaunch lk fun l => { l with watched := true }))
    else .next s

/-! Cancels (R208). -/

/-- The keys of a launch's groups, the saved ones too. -/
def State.groupsOf (s : State) (lk : Nat) : List Nat :=
  (s.groups.filter fun p => decide (p.2.launch = lk)).map (·.1) ++ (s.saved.filter fun p => decide (p.2.group.launch = lk)).map (·.1)

/-- R208, R245: a gang of a cancelled unit: it takes 0x31, and one that has stopped ends. -/
def State.cancelGang (s : State) (level k sl : Nat) : State :=
  match s.gang? k sl with
  | none => s
  | some g => if g.stopped then s.gangEnd k sl else s.setGang k sl (g.report 0x31 level)

/-- R208: the records in the bin of a node launch are discarded. -/
def State.emptyBin (s : State) (l : Launch) : State :=
  match l.nodeId with
  | some n => s.modGraph l.graph fun g => { g with nodes := g.nodes.mapIdx fun i x => if i = n then { x with bin := [] } else x }
  | none => s

/-- R208, R285: a launch is cancelled: what has not started counts as ended, and running gangs take 0x31. -/
def State.cancelLaunch (s : State) (level lk : Nat) : State :=
  match s.launch? lk with
  | none => s
  | some l =>
    if l.cancelled || l.done then s
    else
      let keys := s.groupsOf lk
      let waiting := keys.filter fun gk => match s.group? gk, Cells.find? s.saved gk with
        | some g, _ => !g.started
        | none, some x => !x.group.started
        | none, none => false
      let s1 := { s with groups := waiting.foldl (fun m gk => Cells.del m gk) s.groups, saved := waiting.foldl (fun m gk => Cells.del m gk) s.saved }
      let s2 := (s1.emptyBin l).modLaunch lk fun l =>
        { l with cancelled := true, ended := l.ended + (l.groups - l.placed) + waiting.length, placed := l.groups, batches := [], lands := [] }
      ((keys.filter fun gk => !waiting.contains gk).flatMap s2.gangsOf).foldl (fun s x => s.cancelGang level x.1 x.2) s2

/-- R208: a graph is cancelled with its launches and records. -/
def State.cancelGraph (s : State) (level gk : Nat) : State :=
  let s1 := s.modGraph gk fun g => { g with cancelled := true, waiting := false, nodes := g.nodes.map fun n => { n with bin := [] } }
  let s2 := { s1 with emits := s1.emits.filter fun e => decide (e.2.graph ≠ gk) }
  ((s2.launches.filter fun p => decide (p.2.graph = gk)).foldl (fun s p => s.cancelLaunch level p.1) s2).settleGraph gk

/-- The graphs of a job that a test selects. -/
def State.graphsOf (s : State) (fn job : Nat) (h : Graph → Bool) : List Nat :=
  (s.graphs.filter fun p => decide (p.2.fn = fn) && decide (p.2.job = job) && h p.2).map (·.1)

/-- A change to every queue of a job; a queue that nothing has set up is one of job 0. -/
def State.modJobQueues (s : State) (fn job : Nat) (h : Queue → Queue) : State :=
  s.modFunc fn fun f =>
    let all := if job = 0 then (List.range 256).foldl (fun m q => if (Cells.find? m q).isNone then Cells.put m q Queue.reset else m) f.queues else f.queues
    { f with queues := all.map fun q => if q.2.job = job then (q.1, h q.2) else q }

/-- R208: the current phase of a job is cancelled, whether or not a command of it has been processed. -/
def State.cancelPhase (s : State) (fn job : Nat) : State :=
  match s.job? fn job with
  | none => s
  | some j =>
    let s1 := (s.modJob fn job fun j => { j with known := max j.known (j.phase + 1) }).modJobQueues fn job fun q =>
      if q.phends ≤ j.phase then { q with skipPhase := some j.phase } else q
    ((s1.graphsOf fn job fun g => decide (g.phase = j.phase)).foldl (fun s gk => s.cancelGraph 2 gk) s1 |>.settleJob fn job).settleQueues fn

/-- R208: a job is cancelled. A PROOF that waits for the boundary is dropped with it (log 72). -/
def State.cancelJob (s : State) (fn job : Nat) : State :=
  let s1 := (s.modJob fn job fun j => { j with cancelled := true, proofAt := [] }).modJobQueues fn job fun q => { q with skipJob := true }
  ((s1.graphsOf fn job fun _ => true).foldl (fun s gk => s.cancelGraph 3 gk) s1 |>.settleJob fn job).settleQueues fn

/-- R207, R208: cancels the unit of a level that a launch belongs to. -/
def State.cancelUnit (s : State) (level lk : Nat) : State :=
  match s.launch? lk with
  | none => s
  | some l =>
    match level with
    | 0 => (s.cancelLaunch 0 lk).settleGraph l.graph
    | 1 => s.cancelGraph 1 l.graph
    | 2 => s.cancelPhase l.fn l.job
    | _ => s.cancelJob l.fn l.job

/-! Offers. -/

/-- What the scheduler, the queue controller and the yarders may do now (log 22). -/
def State.workOffers (s : State) : List Instr :=
  (s.groups.flatMap fun p =>
    if p.2.ended || p.2.halting then []
    else if p.2.started then (if p.2.live.isEmpty && !s.groupBusy p.1 then [Instr.groupEnd p.1] else [])
    else if (p.2.fills.all fun f => f.left.isEmpty) then [Instr.groupStart p.1]
    else []) ++
  ((List.range 16).filterMap s.nextLine) ++
  (s.graphs.flatMap fun p =>
    (if s.quiet p.1 && (p.2.nodes.any fun n => !n.bin.isEmpty) then [Instr.binQuiescenceFlush p.1] else []) ++
    ((List.range p.2.nodes.length).filter fun n => p.2.timedOut n s.pod || p.2.full n).map fun n => Instr.binTimerFlush p.1 n) ++
  (s.launches.flatMap fun p =>
    (if p.2.expired then [Instr.watchdog p.1] else []) ++
    ((List.range p.2.kern.decls.length).filter fun r => s.mayStage p.1 r).map (fun r => Instr.stagingBegin p.1 r) ++
    (if s.placeable p.1 p.2 then
      match s.coreFor p.2 with
      | some k => [Instr.groupPlacement p.1 k]
      | none => []
     else []))

end Sys2Proof.Machine
end

