-- ==== Sys2Proof/Machine/Collect.lean ====
section
/-! DEFINITION. Collectives (R200 to R203, R340, R409), SNAP (R204), EMIT (R205) and CNTR (R207). -/
namespace Sys2Proof.Machine

/-! What a round gives. -/

/-- R201: the result of one lane from the values of the contributions in which it was ACTIVE. -/
def credLane (op : Nat) (prop : Bool) (fmt : BitVec 4) (anchor : Nat) (l : List Nat) : Nat :=
  if op = 6 then
    (l.foldl (fun (w : Galley) v =>
      (wadd (anchorVal anchor) w (if fmt = 14 then .word (BitVec.ofNat 128 v) else .val ((fmtOf fmt).exact v))).1) 0).toNat
  else
    let abs := fun (g : FpFmt) (v : Nat) => if op = 3 then v % 2 ^ (g.w - 1) else v
    match fmtOf fmt, l with
    | _, [] => 0
    | .int g, x :: t =>
      t.foldl (fun a b =>
        match op with
        | 0 => wrap (g.val a + g.val b) g.w
        | 1 => if g.val b < g.val a then b else a
        | 2 => if g.val a < g.val b then b else a
        | 4 => a &&& b
        | _ => a ||| b) x
    | .fp g, x :: t => t.foldl (fun a b => (minMaxFp (op ≠ 1) prop g false a (abs g b)).1) (minMaxFp (op ≠ 1) prop g false (abs g x) (abs g x)).1
    | .w128, x :: _ => x

/-- R200, R201: the lanes that some contribution held, and each one's result. -/
def credResult (cons : List Contribution) : Mask × List Galley :=
  match cons with
  | [] => (0, [])
  | c :: _ =>
    (cons.foldl (fun m x => m ||| x.mask) 0,
     (List.range 32).map fun i => BitVec.ofNat 128
       (credLane c.op.toNat c.prop c.fmt c.anchor.toNat ((cons.filter fun x => x.mask.getLsbD i).map fun x => (x.vals.getD i 0).toNat)))

/-- R202: the fields in which the contributions of a round agree. -/
def conSig (c : Contribution) : BitVec 3 × Bool × BitVec 4 × BitVec 16 := (c.op, c.prop, c.fmt, c.anchor)

/-! A member. -/

def State.cslot? (s : State) (n : Nat) : Option CSlot := Cells.find? s.cslots n
def State.modSlot (s : State) (n : Nat) (h : CSlot → CSlot) : State := { s with cslots := Cells.modify s.cslots n h }
/-- R340: the root of a slot. -/
def CSlot.root (c : CSlot) : Nat := c.members.foldl Nat.min (c.members.headD 0)
/-- The virtual device number of the slot's function on this device. -/
def State.ownVdn (s : State) (c : CSlot) : Nat := (s.func c.fn).vdn.toNat

/-- R200, R202, R254: a CRED that has left flight is answered: with a report of a cause, or with its result. The answer of a halted
gang goes into its packet. -/
def State.credAnswer (s : State) (id : Nat) (o : CredOp) (cause : BitVec 6) (mask : Mask) (vals : List Nat) (status : Bool) : State :=
  match (if s.gen o.core o.slot = o.gen then s.gang? o.core o.slot else none) with
  | none => s.late o.core
  | some g =>
    if g.away then
      (s.answerSync g (.cred id) (if cause = 0 then mask else 0) vals ((if status then 1 else 0) + 256 * cause.toNat)).modGang o.core o.slot
        fun g => { g with credRes := g.credRes ++ [(id, o)] }
    else
      (if cause = 0 then s.modGang o.core o.slot fun g => g.putCred o mask vals status
       else s.report o.core o.slot o.gen cause o.value).land o.core o.slot o.gen .n o.seq

/-- R200, R202: a CRED receives what its round, or an answer, gives. -/
def State.credDone (s : State) (id : Nat) (res : RoundResult) : State :=
  match Cells.find? s.creds id with
  | none => s
  | some o =>
    let s1 := { s with creds := Cells.del s.creds id }
    let cause : BitVec 6 := if res.mismatch then 0x2F else if res.status && o.credt then 0x2E else 0
    s1.credAnswer id o cause res.mask (res.vals.map (·.toNat)) res.status

/-- R356: a slot that CCLOSE waits for closes once no CRED of this device awaits a result and, at the root,
its open round holds no contribution. -/
def State.tryClose (s : State) (n : Nat) : State :=
  match s.cslot? n with
  | none => s
  | some c =>
    if c.closing && (s.creds.all fun p => decide (p.2.cslot ≠ n)) && c.counted.isEmpty && c.held.isEmpty then { s with cslots := Cells.del s.cslots n }
    else s

/-- The answer for a contribution that no round counts (R202, R340). -/
def badAnswer (con : Contribution) : RoundResult :=
  { answer := true, who := [(con.vdn, con.tag)], slot := con.slot, round := con.round, status := false, mismatch := true, mask := 0, vals := [],
    job := con.job, root := 0, colour := 0 }

/-- R349, R391: a message of the root of a slot: one of a function without a virtual device number is not sent. -/
def State.sendResult (s : State) (fn vdn : Nat) (go : RoundResult → OutMsg) (res : RoundResult) : State :=
  let f := s.func fn
  if f.vdnValid && decide (vdn ≠ f.vdn.toNat) then s.send (go { res with root := f.vdn.toNat, colour := s.colour fn }) else s

/-- The CRED of this device that an answer names by its member and its tag; one whose gang has moved here keeps its tag (R254, R407). -/
def State.credKey (s : State) (vdn tag : Nat) : Option Nat :=
  (List.find? (fun (p : Nat × CredOp) => decide (p.2.con.vdn = vdn) && decide (p.2.con.tag = tag)) s.creds).map (·.1)

/-- R340: the closing message of a round reaches this device: its slot takes the round as closed, and the
CREDs the message is for receive it. -/
def State.takeResult (s : State) (res : RoundResult) : State :=
  match s.cslot? res.slot with
  | none => s
  | some c =>
    let own := s.ownVdn c
    let s1 := if res.answer || decide (c.round ≠ res.round) || decide (c.job ≠ res.job) then s
      else s.modSlot res.slot fun c => { c with round := c.round + 1, prev := some res }
    ((res.who.filter fun w => decide (w.1 = own)).foldl (fun s w => match s.credKey own w.2 with
      | some id => s.credDone id res
      | none => s) s1).tryClose res.slot

/-- R391, R394, R407: a collective message of a member to a slot comes ahead of the slot's function, and waits for the proof point, which it
triggers; or the function is on its way to another device, and it waits until it is there. -/
def State.slotAhead (s : State) (n vdn : Nat) (colour : BitVec 2) : Option State :=
  (s.cslot? n).bind fun c => if s.inTransit c.fn then some s else if s.aheadOf c.fn vdn colour then some (s.trigger c.fn 2) else none

/-- R407, R409: the VDN that a slot's messages of a job are forwarded to: its function has left this device. -/
def State.slotLeft (s : State) (n job : Nat) : Option Nat :=
  match Cells.find? s.movedSlots n with
  | some (vdn, j) => if j = job ∧ ((s.cslot? n).all fun c => decide (c.job ≠ job)) then some vdn else none
  | none => none

/-- R407: a root's message for a member that has left is forwarded within its window. -/
def State.forwardResult (s : State) (vdn : Nat) (res : RoundResult) : State :=
  if (s.window? vdn).isNone then s
  else s.send (if res.answer then .answer vdn (res.who.headD (0, 0)).2 res else .result vdn res)

/-- R340, R407: CRED_RESULT_ARRIVAL. -/
def execCredResultArrival (res : RoundResult) (s : State) : Out :=
  match s.slotAhead res.slot res.root res.colour with
  | some s1 => .next (s1.after 1 (.credResultArrival res))
  | none =>
    match s.slotLeft res.slot res.job with
    | some vdn => .next (s.forwardResult vdn res)
    | none => .next (s.takeResult res)

/-! The root. -/

/-- R340: answers one contribution: on this device at once, or with a message. -/
def State.answerOne (s : State) (c : CSlot) (con : Contribution) (res : RoundResult) : State :=
  if con.vdn = s.ownVdn c then s.takeResult res else s.sendResult c.fn con.vdn (fun r => .answer con.vdn con.tag r) res

/-- R340: closes the open round: the result goes to every member, and the slot goes to its next round. -/
def State.closeRound (s : State) (n : Nat) (status mismatch : Bool) : State :=
  match s.cslot? n with
  | none => s
  | some c =>
    let r := credResult c.counted
    let res : RoundResult :=
      { answer := false, who := c.counted.map fun x => (x.vdn, x.tag), slot := n, round := c.round, status := status, mismatch := mismatch,
        mask := if mismatch then 0 else r.1, vals := if mismatch then [] else r.2, job := c.job, root := s.ownVdn c, colour := 0 }
    let s1 := s.modSlot n fun c => { c with counted := [], start := none }
    let s2 := c.members.foldl (fun s m => s.sendResult c.fn m (fun r => .result m r) res) s1
    s2.takeResult res

/-- R200, R202, R340: counts a contribution in the open round, and closes the round when it is full or the
contribution differs. The timeout of a round whose contributions were held starts when the first of them is counted (log 72). -/
def State.countOne (s : State) (n : Nat) (con : Contribution) : State :=
  match s.cslot? n with
  | none => s
  | some c =>
    let first := c.counted.isEmpty
    let s1 := s.modSlot n fun c => { c with counted := c.counted ++ [con], start := if first then some s.cycle else c.start }
    let s2 := if first then s1.after (1100 * c.timeout + 1) (.credRoundTimeout n) else s1
    if c.counted.any fun x => conSig x != conSig con then s2.closeRound n false true
    else if c.p ≤ c.counted.length + 1 then s2.closeRound n false false
    else s2

/-- R340, R407, R409: a contribution for a slot that is not open here: it follows a root that has left, within its window, and is answered
"moved" after it; any other receives 0x2F. -/
def State.strayContribution (s : State) (n : Nat) (con : Contribution) : State :=
  match s.slotLeft n con.job with
  | none => s.send (.answer con.vdn con.tag (badAnswer con))
  | some vdn =>
    if (s.window? vdn).isSome then s.send (.contribute vdn con)
    else match s.resolve vdn with
      | some (m, _) => s.send (.moved con.vdn con.tag m)
      | none => s.send (.answer con.vdn con.tag (badAnswer con))

/-- R202, R340: what the root does with a contribution. Jobs are numbered by function, so one of another function than the slot's
members are is of another job. -/
def State.rootTake (s : State) (n : Nat) (con : Contribution) : State :=
  match s.cslot? n with
  | none => s.strayContribution n con
  | some c =>
    if c.job ≠ con.job || c.root ≠ s.ownVdn c || !c.members.contains con.vdn then s.answerOne c con (badAnswer con)
    else if con.round = c.round then s.countOne n con
    else if con.round = c.round + 1 then s.modSlot n fun c => { c with held := c.held ++ [con] }
    else match c.prev with
      | some res =>
        if con.round = res.round && res.status then s.answerOne c con { res with answer := true, who := [(con.vdn, con.tag)] }
        else s.answerOne c con (badAnswer con)
      | none => s.answerOne c con (badAnswer con)

/-- R202: contributions held for a round that is now open are handled again: counted until they close it, and answered after. -/
def State.takeHeld (s : State) (n : Nat) : State :=
  match s.cslot? n with
  | none => s
  | some c => c.held.foldl (fun s con => s.rootTake n con) (s.modSlot n fun c => { c with held := [] })

/-- R340, R394: CRED_CONTRIBUTION_ARRIVAL at the root of its slot. -/
def execCredContributionArrival (con : Contribution) (s : State) : Out :=
  match s.slotAhead con.slot con.vdn con.colour with
  | some s1 => .next (s1.after 1 (.credContributionArrival con))
  | none => .next ((s.rootTake con.slot con).takeHeld con.slot)

/-- R340, R409: CRED_ROUND_TIMEOUT: the round closes by timeout, unless the slot is paused. -/
def execCredRoundTimeout (n : Nat) (s : State) : Out :=
  match s.cslot? n with
  | none => .next s
  | some c =>
    match c.start with
    | none => .next s
    | some t =>
      if c.paused || decide (s.cycle ≤ t + 1100 * c.timeout) then .next s
      else .next ((s.closeRound n true false).takeHeld n)

/-- R409: SLOT_PAUSE. -/
def execSlotPause (n : Nat) (s : State) : Out := .next (s.modSlot n fun c => { c with paused := true })

/-- R409: SLOT_RESUME: the timeout of the open round starts again. -/
def execSlotResume (n : Nat) (s : State) : Out :=
  match s.cslot? n with
  | none => .next s
  | some c =>
    if c.paused then
      let s1 := s.modSlot n fun c => { c with paused := false, start := c.start.map fun _ => s.cycle }
      .next (if c.start.isSome then s1.after (1100 * c.timeout + 1) (.credRoundTimeout n) else s1)
    else .next s

/-! CRED. -/

/-- R349: a CRED whose contribution cannot be sent is reported with a cause (log 72). -/
def State.credFail (s : State) (id : Nat) (cause : BitVec 6) : State :=
  match Cells.find? s.creds id with
  | none => s
  | some o => ({ s with creds := Cells.del s.creds id } : State).credAnswer id o cause 0 [] false

/-- R200, R202, R340, R349: the slot of a member handles a CRED's contribution. -/
def State.contribute (s : State) (n id : Nat) (con : Contribution) : State :=
  match s.cslot? n with
  | none => s
  | some c =>
    let b := con.round
    let late := match c.prev with
      | some res => if b = res.round && b + 1 = c.round && res.status then some res else none
      | none => none
    match late with
    | some res => s.credDone id { res with answer := true }
    | none =>
      if b = c.round || b = c.round + 1 then
        if c.root = s.ownVdn c then s.after 1 (.credContributionArrival con)
        else if (s.func c.fn).vdnValid then s.send (.contribute c.root con)
        else s.credFail id 0x1D
      else s.credDone id (badAnswer con)

/-- R306, R393: a request that was not performed goes out again: under a new tag, with the colour that it had, and counted once. -/
def State.resend (s : State) (n modNo : Nat) (f : Flight) (r : Req) : State :=
  match r.tgt, s.route? r.requester r.fn f.req.dst with
  | .peer vdn ia, some m =>
    (match (s.freeTag f.id).takeTag f.id vdn ia r with
     | none => s.after 1 (.movedReply n modNo)
     | some (s1, p) =>
       let q := { p with colour := f.req.colour }
       (({ s1 with reqs := Cells.put s1.reqs f.id { r with sent := some s.cycle },
                   tags := s1.tags.map fun t => if t.2.use = some ⟨f.id, p⟩ then (t.1, { t.2 with use := some ⟨f.id, q⟩ }) else t } : State).send
         (.request q.tag m q)).after (s.timeoutCycles r.fn) (.fabricTimeout f.id))
  | _, _ => (s.freeTag f.id).after 1 (.fabricUnreachable f.id)

/-- R306, R407, R409: MOVED_REPLY: the sender notes where the number is now, and sends the request, or the contribution, again. -/
def execMovedReply (id modNo : Nat) (s : State) : Out :=
  if id < wireBase then
    match List.find? (fun (p : Nat × CredOp) => decide (p.2.con.tag = id)) s.creds with
    | none => .next s
    | some (key, o) =>
      match s.cslot? o.cslot with
      | none => .next s
      | some c => .next ((s.moveEntry c.root modNo).contribute o.cslot key o.con)
  else match s.flight? id with
    | none => .next s
    | some f =>
      let s1 := s.moveEntry f.req.dst modNo
      match Cells.find? s.reqs f.id with
      | none => .next (s1.freeTag f.id)
      | some r => .next (s1.resend id modNo f r)

/-- R200 to R203: CRED. -/
def credEff (i : Instr) (c : Ctx) : Eff :=
  let f := Instr.long i
  let n := immF f 5 0
  if !c.acts then .next c.st
  else
    let round := BitVec.ofNat 32 (c.src f.lit f.b 32 (lowest c.active))
    match c.st.cslot? n, c.launch? with
    | some sl, some l =>
      if sl.fn = c.g.fn ∧ sl.job = l.job then
        let w := fmtWidth f.fmt
        let id := c.st.nextId
        let con : Contribution :=
          { slot := n, job := l.job, vdn := c.st.ownVdn sl, round := round, op := BitVec.ofNat 3 (subF f 2 0),
            prop := f.sub.getLsbD 3 && decide (1 ≤ subF f 2 0) && decide (subF f 2 0 ≤ 3), fmt := f.fmt,
            anchor := if subF f 2 0 = 6 ∧ fmtN f ≠ 14 then BitVec.ofNat 16 (immF f 31 16) else 0, mask := c.active,
            vals := (List.range 32).map fun lane => if c.active.getLsbD lane then BitVec.ofNat 128 (c.src f.lit f.a w lane) else 0, tag := id,
            colour := c.st.colour c.g.fn }
        let op : CredOp :=
          { core := c.k, slot := c.sl, gen := c.st.gen c.k c.sl, fn := c.g.fn, group := c.g.group, seq := c.g.seq, instr := i, active := c.active,
            dsts := c.lanes.map fun lane => (lane, c.dstId f.d lane), cslot := n, round := round, credt := c.g.credt, con := con }
        let s1 := { (c.st.setGang c.k c.sl (c.g.fly1 .n 1)).bumpId with creds := Cells.put c.st.creds id op }
        .next (s1.contribute n id con)
      else .raise 0x2F (n + round.toNat * 2 ^ 32)
    | _, _ => .raise 0x2F (n + round.toNat * 2 ^ 32)

/-! SNAP, EMIT, CNTR. -/

/-- R204: SNAP. -/
def snapEff (i : Instr) (c : Ctx) : Eff :=
  let f := Instr.long i
  if !c.acts then .next c.st
  else
    let p := c.st.px c.g.fn
    match c.launch? with
    | some l =>
      if p.en && decide (p.job = l.job) then
        let op : SnapOp :=
          { core := c.k, slot := c.sl, gen := c.st.gen c.k c.sl, fn := c.g.fn, seq := c.g.seq, active := c.active,
            dsts := c.lanes.map fun lane => (lane, c.dstId f.d lane), instr := i, joined := true, level := c.g.level }
        .next (({ c.st.bumpId with snaps := Cells.put c.st.snaps c.st.nextId op } : State).trigger c.g.fn 0)
      else .raise 0x32 0
    | none => .raise 0x32 0

/-- R205: EMIT. -/
def emitEff (i : Instr) (c : Ctx) : Eff :=
  let f := Instr.long i
  let n := immF f 15 0
  if !c.acts then .next c.st
  else
    match c.launch?, c.launch?.bind fun l => (c.st.graph? l.graph).bind fun g => g.nodes[l.nbase + n]? with
    | some l, some x =>
      let a := fun lane => c.src f.lit f.a 32 lane
      let scr := match c.st.group? c.g.group with | some g => g.kern.scratch | none => 0
      let rng := c.lanes.filter fun lane => decide (a lane / 2 ^ 20 ≠ 0) || decide (scr < a lane + x.node.recSize)
      let mis := c.lanes.filter fun lane => decide (a lane % 16 ≠ 0)
      if !rng.isEmpty then .raise 0x17 (maskOf fun i => rng.contains i).toNat
      else if !mis.isEmpty then .raise 0x12 (maskOf fun i => mis.contains i).toNat
      else
        let e : EmitOp :=
          { core := c.k, slot := c.sl, gen := c.st.gen c.k c.sl, group := c.g.group, seq := c.g.seq, graph := l.graph, node := l.nbase + n,
            addrs := c.lanes.map a, batch := c.g.sealNo + 1, instr := i, active := c.active, level := c.g.level }
        let s1 := (c.st.setGang c.k c.sl { c.g with openOps := c.g.openOps + 1 }).bumpId
        .next (({ s1 with emits := Cells.put s1.emits c.st.nextId e } : State).after 1 (.emitRecordEntry c.st.nextId))
    | _, _ => .raise 0x30 n

/-- R207: `cntr.rd`. -/
def cntrRdEff (i : Instr) (c : Ctx) : Eff :=
  let f := Instr.long i
  if !c.acts then .next c.st
  else
    let v := c.st.pend c.g.group (subF f 5 4)
    .next (c.st.setGang c.k c.sl (c.g.putAll f.d 32 c.active fun _ => v))

/-- R207, R208: `cntr.cancel`. -/
def cntrCancelEff (i : Instr) (c : Ctx) : Eff :=
  if !c.acts then .next c.st
  else match c.st.group? c.g.group with
    | some g => .next (c.st.cancelUnit (subF (Instr.long i) 5 4) g.launch)
    | none => .next c.st

def execCred (f : Long) (s : State) : Out := run (.cred f) (credEff (.cred f)) s
def execSnap (f : Long) (s : State) : Out := run (.snap f) (snapEff (.snap f)) s
def execEmit (f : Long) (s : State) : Out := run (.emit f) (emitEff (.emit f)) s
def execCntrRd (f : Long) (s : State) : Out := run (.cntrRd f) (cntrRdEff (.cntrRd f)) s
def execCntrCancel (f : Long) (s : State) : Out := run (.cntrCancel f) (cntrCancelEff (.cntrCancel f)) s

end Sys2Proof.Machine
end

