-- ==== Sys2Proof/Machine/Replies.lean ====
section
/-! DEFINITION. What answers a request, for whatever it serves: data (R165), acknowledgements (R166), refusals of a home's stage 2
(R367), timeouts (R305) and modules that hold no such function (R349). -/
namespace Sys2Proof.Machine

/-- R356: the write of a queue's SIGNAL is over. -/
def State.setSignal (s : State) (fn q : Nat) (failed : Bool) : State :=
  s.modQueue fn q fun x => { x with pending := x.pending.map fun p => match p with
    | .signal id a v irq vec .sent => .signal id a v irq vec (.answered failed)
    | p => p }

/-- R165, R189, R282: LOAD_DATA_RETURN: the data of a load, of a copy's line or of a staged line. -/
def execLoadDataReturn (id : Nat) (peer : Arrival) (s : State) : Out :=
  .next (s.due id peer (.loadDataReturn id peer) fun s id r =>
    match r.own with
    | .gang => s.loadReturned id r peer.data
    | .piece c p => if peer.data.isEmpty then s.pieceFailed id c p r 0x1B else s.pieceAnswered id c p r peer.data
    | .landing key rg line => s.stageAnswered id key rg line r peer.data
    | _ => s.dropReq id r)

/-- R166, R189, R356: STORE_PERFORMED: a store of a gang, of a copy, of a SIGNAL or of a batch is performed. -/
def execStorePerformed (reply : Reply) (s : State) : Out :=
  .next (s.due reply.id reply.peer (.storePerformed reply) fun s id r =>
    match r.own with
    | .gang => s.storeDone id r
    | .piece c p => s.pieceAnswered id c p r []
    | .signal fn q => (s.dropReq id r).setSignal fn q false
    | _ => s.dropReq id r)

/-- R162, R189, R286, R356: a request fails: what it serves takes the report, or goes without. -/
def State.requestFails (s : State) (id : Nat) (r : Req) (cause : BitVec 6) : State :=
  match r.own with
  | .gang => s.fabricFail id r cause
  | .piece c p => s.pieceFailed id c p r cause
  | .signal fn q => (s.dropReq id r).setSignal fn q true
  | .landing key rg line => s.stageAnswered id key rg line r []
  | .batch _ => s.dropReq id r
  | .moved m v _ => s.carryOn id r m v cause []

/-- R367: PEER_REFUSAL: the home's stage 2 refuses a request with 0x15 or 0x16, which parks a gang's line or skips a copy's segment;
with any other cause the request has failed. -/
def execPeerRefusal (reply : Reply) (cause : BitVec 6) (ia : Nat) (s : State) : Out :=
  .next (s.answered reply.id reply.peer (.peerRefusal reply cause ia) fun s id r =>
    if cause ≠ 0x15 ∧ cause ≠ 0x16 then s.requestFails id r cause
    else match r.own with
      | .gang => s.refused id r cause (.peerRefusal reply cause ia)
      | .piece c p => s.pieceRefused id c p r cause
      | _ => s.requestFails id r cause)

/-- R305: FABRIC_TIMEOUT: the timer of a request in flight expires: 0x1C. A timer that was restarted runs on; that of a request that
has been dropped frees its tag. -/
def execFabricTimeout (id : Nat) (s : State) : Out :=
  match Cells.find? s.reqs id with
  | none => .next (s.freeTag id)
  | some r =>
    match r.sent with
    | none => .next s
    | some t =>
      let n := s.timeoutCycles r.fn
      if s.inTransit r.fn then .next (s.after 1 (.fabricTimeout id))
      else if s.cycle < t + n then .next (s.after (t + n - s.cycle) (.fabricTimeout id)) else .next (s.requestFails id r 0x1C)

/-- R349, R305: FABRIC_UNREACHABLE: no route leads to the home, or no function there holds the number: 0x1D. -/
def execFabricUnreachable (id : Nat) (s : State) : Out :=
  let n := if id < wireBase then id else match s.flight? id with
    | some f => f.id
    | none => id
  match Cells.find? s.reqs n with
  | none => .next (s.freeTag n)
  | some r => if s.inTransit r.fn then .next (s.after 1 (.fabricUnreachable id)) else .next (s.requestFails n r 0x1D)

end Sys2Proof.Machine
end

