-- ==== Sys2Proof/Machine/Fetch.lean ====
section
/-! DEFINITION. Fetching and decoding the next instruction of a fragment (R80, R81, R90, R94 orders 1 to 6) with
the steps of a LOOP (R150). -/
namespace Sys2Proof.Machine

/-- What stands at a fragment's address. -/
inductive Fetched where
  /-- orders 1 and 3: the fetch of the word at an address fails -/
  | fault (cause : BitVec 6) (va : Nat)
  /-- order 2 -/
  | illegal (w0 : Word)
  /-- orders 4 to 6, with the instruction as written -/
  | bad (cause : BitVec 6) (i : Instr) (w0 w1 : Word)
  | good (i : Instr) (w0 w1 : Word)
deriving DecidableEq, Repr

/-- R381, R385: what the controllers count of the fetch of the line at an address. -/
def State.noteFetch (s : State) (k fn va : Nat) : State :=
  match s.translate (.core k) fn va ⟨false, false, true⟩ with
  | .ok (.dev pa, _) => (s.fnReadNote fn pa).countRow pa
  | _ => s

/-- R80: fetches n words, keeping the translations it makes. -/
def State.fetchWords (s : State) (k fn lk va : Nat) : Nat → Except (BitVec 6 × Nat) (State × List Word)
  | 0 => .ok (s, [])
  | n + 1 =>
    match s.fetchWord k fn lk va with
    | .error c => .error (c, va)
    | .ok (w, e) =>
      match ((if va % 128 = 0 then s.noteFetch k fn va else s).keepTlb (.core k) e).fetchWords k fn lk (va + 4) n with
      | .error x => .error x
      | .ok (s1, l) => .ok (s1, w :: l)

/-- R150: the step word of the body instruction at a fragment's address, and the iteration. -/
def Frag.stepWord (f : Frag) (level : Nat) : Option (Nat × Nat) :=
  match f.loop with
  | some l =>
    if f.inBody level then some (l.body - 4 * l.len + 4 * l.addrs.findIdx (fun a => decide (a = pcAddr f.pc)), l.k) else none
  | none => none

/-- R80, R90, R94 orders 1 to 6, R150: fetches and decodes the instruction at a fragment's address. -/
def State.fetchInstr (s : State) (k : Nat) (g : Gang) (f : Frag) : State × Fetched :=
  let fn := g.fetchFn
  let lk := s.launchOf g
  let pc := pcAddr f.pc
  match (if pc % 128 = 0 then s else s.noteFetch k fn pc).fetchWords k fn lk pc 1 with
  | .error (c, va) => (s.noteWalk (.core k) fn va, .fault c va)
  | .ok (s1, ws) =>
    let w0 := ws.headD 0
    if !opcAssigned w0 then (s1, .illegal w0)
    else match s1.fetchWords k fn lk (pc + 4) (lenWords w0 - 1) with
      | .error (c, va) => (s1.noteWalk (.core k) fn va, .fault c va)
      | .ok (s2, rest) =>
        match parse w0 rest with
        | none => (s2, .illegal w0)
        | some i =>
          let w1 := if isLongForm w0 then rest.headD 0 else 0
          match f.stepWord g.level with
          | none =>
            match decodeCause (highBits w0) i with
            | some c => (s2, .bad c i w0 w1)
            | none => (s2, .good i w0 w1)
          | some (va, it) =>
            match s2.fetchWords k fn lk va 1 with
            | .error (c, va) => (s2.noteWalk (.core k) fn va, .fault c va)
            | .ok (s3, st) =>
              match stepInstr (highBits w0) i (st.headD 0) it with
              | .error c => (s3, .bad c i w0 w1)
              | .ok j => (s3, .good j w0 w1)

/-- R80: FETCH_FAULT: the cause is raised for the fragment that issues. -/
def execFetchFault (cause : BitVec 6) (va : Quad) (s : State) : Out :=
  match s.gang? s.cur.core s.cur.slot with
  | none => .next s
  | some g =>
    match g.frag? s.cur.fid with
    | none => .next s
    | some f => .next ((s.trapFetch s.cur.core s.cur.slot g f cause va.toNat).noteIssue s.cur.core s.cur.slot)

/-- R90: ILLEGAL_OPC, raised from word 0 alone for the fragment that issues. -/
def execIllegalOpc (w0 : Word) (s : State) : Out :=
  match s.gang? s.cur.core s.cur.slot with
  | none => .next s
  | some g =>
    match g.frag? s.cur.fid with
    | none => .next s
    | some f => .next ((s.trapSync s.cur.core s.cur.slot f true 0x01 w0.toNat).noteIssue s.cur.core s.cur.slot)

end Sys2Proof.Machine
end

