-- ==== Sys2Proof/Machine/LaneOps.lean ====
section
/-! DEFINITION. The lane and predicate instructions (spec/07, opcodes 0x38 to 0x3E). -/
namespace Sys2Proof.Machine

/-- R134: the lane a SHFL reads, when it is valid. -/
def shflSource (mode seg b lane : Nat) : Option Nat :=
  let w := 2 ^ seg
  let base := lane - lane % w
  let r : Int := (lane % w : Nat)
  match mode with
  | 0 => some (base + b % w)
  | 1 =>
    let t := r - sext b 32
    if 0 ≤ t ∧ t < (w : Int) then some (base + t.toNat) else none
  | 2 => some (base + ((r - sext b 32) % (w : Int)).toNat)
  | _ => some (base + ((lane % w) ^^^ (b % w)))

/-- R134: SHFL. -/
def shflEff (i : Instr) : Ctx → Eff :=
  let f := Instr.long i
  valueEff i (intW f) fun c lane =>
    match shflSource (subF f 1 0) (immF f 2 0) (c.opB32 f lane) lane with
    | some t => c.opA f (if c.active.getLsbD t then t else lane)
    | none => c.opA f lane

/-- R135: VOTE. -/
def voteEff (i : Instr) : Ctx → Eff :=
  let f := Instr.long i
  valueEff i 32 fun c _ =>
    let m := c.mask f.a &&& c.active
    match subN f with
    | 0 => if m = 0 then 0 else 1
    | 1 => if m = c.active then 1 else 0
    | 2 => if m = 0 ∨ m = c.active then 1 else 0
    | _ => m.toNat

/-- R136: MATCH. -/
def matchEff (i : Instr) : Ctx → Eff :=
  let f := Instr.long i
  valueEff i 32 fun c lane =>
    let same := fun l => (maskOf fun t => c.active.getLsbD t && decide (c.opA f t = c.opA f l)).toNat
    if subN f = 0 then same lane else if same (lowest c.active) = c.active.toNat then c.active.toNat else 0

/-- R137: a partial result of a reduction: its bits, the flags met, and whether a window overflowed. -/
structure Part where
  val : Nat
  fl : Flags
  outside : Bool
deriving DecidableEq, Repr

/-- R137: a lane's operand as it enters the tree; a galley word that is not finite has M zero (R57). -/
def redOperand (mode : Word) (fm : Fmt) (x : Nat) : Part :=
  match fm with
  | .fp g =>
    let v := g.read (ftzOf mode g) x
    ⟨if v.isNan then g.qnan else g.readBits (ftzOf mode g) x, v.nv, false⟩
  | .w128 => ⟨if bits x 127 126 = 0 then x else (Galley.ofCls (bits x 127 126)).toNat, 0, false⟩
  | .int _ => ⟨x, 0, false⟩

/-- R137: one combination. -/
def redCombine (op : Nat) (fm : Fmt) (cfg : RCfg) (a b : Part) : Part :=
  let fl := a.fl ||| b.fl
  let outside := a.outside || b.outside
  match fm with
  | .int g =>
    let x := g.val a.val
    let y := g.val b.val
    ⟨match op with
     | 0 => g.reduce cfg.sat (x + y)
     | 1 => if y < x then b.val else a.val
     | 2 => if x < y then b.val else a.val
     | 3 => a.val &&& b.val
     | 4 => a.val ||| b.val
     | _ => a.val ^^^ b.val, fl, outside⟩
  | .fp g =>
    if op = 0 then
      let s := Val.sum cfg.rnd [g.read cfg.ftz a.val, g.read cfg.ftz b.val]
      let r := g.encode cfg s.1
      ⟨r.1, fl ||| s.2 ||| r.2, outside⟩
    else
      let r := minMaxFp (decide (op = 2)) false g cfg.ftz a.val b.val
      ⟨r.1, fl ||| r.2, outside⟩
  | .w128 =>
    let r := wadd 0 (BitVec.ofNat 128 a.val) (.word (BitVec.ofNat 128 b.val))
    ⟨r.1.toNat, fl ||| (if r.2.1 then Flags.nv else 0), outside || r.2.2⟩

/-- R55: one level of the tree; an absent lane contributes nothing. -/
def redPairs (cmb : Part → Part → Part) : List (Option Part) → List (Option Part)
  | some a :: some b :: t => some (cmb a b) :: redPairs cmb t
  | some a :: none :: t => some a :: redPairs cmb t
  | none :: b :: t => b :: redPairs cmb t
  | l => l

/-- R55: the tree over 32 lanes. -/
def redTree (cmb : Part → Part → Part) (l : List (Option Part)) : Option Part :=
  (redPairs cmb (redPairs cmb (redPairs cmb (redPairs cmb (redPairs cmb l))))).headD none

/-- R137: the end of a REDX or SCAN: overflow and flags of the whole instruction, then the results. -/
def redEnd (i : Instr) (c : Ctx) (w : Nat) (fl : Flags) (outside : Bool) (v : Nat → Nat) : Eff :=
  if c.g.govt && outside then .raise 0x26 c.active.toNat
  else match flagTrap c.g.trapen c.lanes (fun _ => fl) (some c.active) with
    | some (cause, value) => .raise cause value
    | none => .next (c.writeReg i w v (c.g.raise c.st.cycle (fl ||| (if outside then Flags.ovf else 0))))

/-- The rounding of a combination. -/
def Ctx.redCfg (c : Ctx) (i : Instr) : RCfg :=
  { rnd := rndOf c.g i, rbits := 0, sat := satOf c.g i, ftz := Fmt.ftz c.g.mode (fmtOf (Instr.long i).fmt) }

/-- R137: REDX. -/
def redxEff (i : Instr) (c : Ctx) : Eff :=
  let f := Instr.long i
  let fm := fmtOf f.fmt
  let w := fmtWidth f.fmt
  let node := fun lane => if c.active.getLsbD lane then some (redOperand c.g.mode fm (c.src f.lit f.a w lane)) else none
  match redTree (redCombine (subF f 2 0) fm (c.redCfg i)) ((List.range 32).map node) with
  | none => redEnd i c w 0 false fun _ => 0
  | some p => redEnd i c w p.fl p.outside fun _ => p.val

/-- R56, R138: the running values after each lane of a list. -/
def scanRuns (cmb : Part → Part → Part) (opnd : Nat → Part) : Option Part → List Nat → List (Nat × Part)
  | _, [] => []
  | run, l :: t =>
    let r := match run with
      | none => opnd l
      | some p => cmb p (opnd l)
    (l, r) :: scanRuns cmb opnd (some r) t

/-- R138: SCAN. -/
def scanEff (i : Instr) (c : Ctx) : Eff :=
  let f := Instr.long i
  let fm := fmtOf f.fmt
  let w := fmtWidth f.fmt
  let excl := f.sub.getLsbD 3
  let lanes := if excl then c.lanes.dropLast else c.lanes
  let runs := scanRuns (redCombine (subF f 2 0) fm (c.redCfg i)) (fun l => redOperand c.g.mode fm (c.src f.lit f.a w l)) none lanes
  let fin : Part := ((runs.getLast?).map (·.2)).getD ⟨0, 0, false⟩
  let at? := fun l => ((List.find? (fun p => decide (p.1 = l)) runs).map fun p => p.2.val).getD 0
  redEnd i c w fin.fl fin.outside fun l =>
    if excl then
      if l = lowest c.active then c.src f.lit f.b w l
      else at? ((c.lanes.filter (· < l)).getLastD 0)
    else at? l

/-- R139: PLOP. -/
def plopEff (i : Instr) : Ctx → Eff :=
  let f := Instr.long i
  valueEff i 32 fun c lane =>
    if tableBit (subN f) ((c.mask f.a).getLsbD lane) ((c.mask f.b).getLsbD lane) ((c.mask f.c).getLsbD lane) then 1 else 0

/-- R140: `pmov.save`. -/
def pmovSaveEff (i : Instr) : Ctx → Eff :=
  valueEff i 32 fun c lane => (List.range 8).foldl (fun a n => if (c.g.pReg n).getLsbD lane then a + 2 ^ n else a) 0

/-- R140: `pmov.load`; the ring takes the bits that the mask names. -/
def pmovLoadEff (i : Instr) (c : Ctx) : Eff :=
  let f := Instr.long i
  let a := fun lane => c.src f.lit f.a 32 lane
  let ld := fun (g : Gang) n =>
    if f.imm.getLsbD n then g.setP n ((g.pReg n &&& ~~~c.active) ||| (c.active &&& maskOf fun l => (a l).testBit n)) else g
  let g := if f.nwb then c.g else (List.range 8).foldl ld c.g
  .next ((c.st.setGang c.k c.sl g).modCore c.k fun co =>
    co.push c.sl c.f.fid (slicesOf c.f.mask) c.active fun l => bits (a l) 7 0 &&& immN f)

def execShfl (f : Long) (s : State) : Out := run (.shfl f) (shflEff (.shfl f)) s
def execVote (f : Long) (s : State) : Out := run (.vote f) (voteEff (.vote f)) s
def execMatch (f : Long) (s : State) : Out := run (.match f) (matchEff (.match f)) s
def execRedx (f : Long) (s : State) : Out := run (.redx f) (redxEff (.redx f)) s
def execScan (f : Long) (s : State) : Out := run (.scan f) (scanEff (.scan f)) s
def execPlop (f : Long) (s : State) : Out := run (.plop f) (plopEff (.plop f)) s
def execPmovSave (f : Long) (s : State) : Out := run (.pmovSave f) (pmovSaveEff (.pmovSave f)) s
def execPmovLoad (f : Long) (s : State) : Out := run (.pmovLoad f) (pmovLoadEff (.pmovLoad f)) s

end Sys2Proof.Machine
end

