-- ==== Sys2Proof/Machine/GangEvents.lean ====
section
/-! DEFINITION. What happens to gangs between instructions: issue points (R242 to R246, R415, R418, R419),
merging (R146 to R148), the selector's clocks (R288, R290), halts, saves and restores (R253 to R258, R292). -/
namespace Sys2Proof.Machine

/-! Issue points. -/

/-- R419: the gang stands at level 2 in a debug trap. -/
def Gang.inDebugTrap (g : Gang) : Bool :=
  decide (g.level = 2) && (g.t2.cause == 0x0D || g.t2.cause == 0x0E || g.t2.cause == 0x0F)

/-- R253: the halt has been taken. -/
def Gang.isHalted (g : Gang) : Bool := (g.halt.map (·.taken)).getD false

/-- R292: the groups of a group's cluster set. -/
def State.setOf (s : State) (gk : Nat) : List Nat :=
  match s.group? gk with
  | none => []
  | some g => (s.groups.filter fun p => decide (p.2.launch = g.launch) && decide (p.2.groupId / g.setsz = g.groupId / g.setsz)).map (·.1)

/-- The saved gangs of a group, and those of them whose record has not been rejected. -/
def State.savedGangs (s : State) (gk : Nat) : List Nat := ((s.core (savedCore gk)).gangs.map (·.1))
def State.toRestore (s : State) (gk : Nat) : List Nat := ((s.core (savedCore gk)).gangs.filter fun p => !p.2.stopped).map (·.1)

/-- R292: a gang of the group, or of a group of its cluster set, is halted or not yet restored. -/
def State.setWaits (s : State) (gk : Nat) : Bool :=
  (s.setOf gk).any fun x => !(s.toRestore x).isEmpty || (match s.group? x with
    | some g => (s.core g.core).gangs.any fun p => decide (p.2.group = x) && p.2.isHalted && !p.2.stopped
    | none => false)

/-- R419, R292: the group is held. -/
def State.groupHeld (s : State) (gk : Nat) : Bool :=
  (s.dbgHold && (match s.group? gk with
    | some grp => (s.core grp.core).gangs.any fun p => decide (p.2.group = gk) && p.2.inDebugTrap
    | none => false)) || s.setWaits gk

/-- R240, R245: the fragment may act at its gang's level. -/
def Gang.mayAct (g : Gang) (f : Frag) : Bool := !g.stopped && (decide (g.level = 0) || decide (f.fid = g.sysFid))

/-- R242: the fragment is at an issue point: about to issue, or waiting under a readiness condition. -/
def Frag.atIssue (f : Frag) : Bool :=
  match f.wait with
  | .run => true
  | .bar _ => true
  | _ => false

/-- R242: a halt request is waiting. -/
def Gang.haltDue (g : Gang) : Bool := match g.halt with | some h => !h.taken | none => false

/-- R243: the fragment takes a deferred report now. -/
def State.takesReport (s : State) (g : Gang) (f : Frag) : Bool :=
  decide (g.level < 2) && g.mayAct f && !g.haltDue && !g.isHalted && !s.groupHeld g.group &&
    (g.canc.isSome || (!g.defq.isEmpty && f.atIssue))

/-- R243: DEFERRED_REPORT_TAKEN. -/
def execDeferredReportTaken (k sl fid : Nat) (s : State) : Out :=
  match s.gang? k sl with
  | none => .next s
  | some g =>
    match g.frag? fid with
    | none => .next s
    | some f =>
      if s.takesReport g f then
        let g1 := g.modFrag fid fun f => { f with wait := .run }
        match g.canc, g.defq with
        | some v, _ =>
          .next ((s.setGang k sl { g1 with canc := none, lost := false }).trap k sl fid 0x31 v.toNat (pcAddr f.chead) 0 1 g.lost)
        | none, r :: t =>
          .next ((s.setGang k sl { g1 with defq := t, lost := false }).trap k sl fid r.cause r.value.toNat (pcAddr f.chead) 0 1 g.lost)
        | none, [] => .next s
      else .next s

/-- The next instruction of a fragment, when it is legal. -/
def State.nextInstr (s : State) (k : Nat) (g : Gang) (f : Frag) : Option Instr :=
  match (s.fetchInstr k g f).2 with
  | .good i _ _ => some i
  | _ => none

/-- The context of a fragment that is about to issue an instruction. -/
def State.ctxOf (s : State) (k sl : Nat) (g : Gang) (f : Frag) (i : Instr) : Ctx :=
  { st := s, k := k, sl := sl, g := g, f := f, active := guardMask g f (Instr.long i) }

/-- R244: the fragment takes a parked cause now; one whose local scratchpad access R317 puts after a parked access
waits as well (log 15). -/
def State.takesParked (s : State) (k sl : Nat) (g : Gang) (f : Frag) : Bool :=
  decide (g.level = 0) && g.mayAct f && !g.haltDue && !g.isHalted && !s.groupHeld g.group && f.atIssue && (match g.olog.find? fun e => !e.taken with | some e => decide (e.due ≤ s.cycle) | none => false) &&
    (match s.nextInstr k g f with
     | some i =>
       let c := s.ctxOf k sl g f i
       c.parkedWait i || (c.acts && c.localWaitOn i g.parkedReqs)
     | none => false)

/-- Marks the oldest entry that is not yet taken, and answers it. -/
def markTaken : List Parked → Option (Parked × List Parked)
  | [] => none
  | e :: t =>
    if e.taken then (markTaken t).map fun x => (x.1, e :: x.2) else some (e, { e with taken := true } :: t)

/-- R244: PARKED_CAUSE_TAKEN. -/
def execParkedCauseTaken (k sl fid : Nat) (s : State) : Out :=
  match s.gang? k sl with
  | none => .next s
  | some g =>
    match g.frag? fid, markTaken g.olog with
    | some f, some (e, l) =>
      if s.takesParked k sl g f then
        .next ((s.setGang k sl (({ g with olog := l } : Gang).modFrag fid fun f => { f with wait := .run })).trap k sl fid e.cause e.va
          (pcAddr f.chead) 0 2)
      else .next s
    | _, _ => .next s

/-- R418: the fragment takes its step trap now. -/
def State.takesStep (s : State) (k : Nat) (g : Gang) (f : Frag) : Bool :=
  g.stepping && f.stepDue && g.mayAct f && !g.haltDue && !g.isHalted && f.wait == .run && !s.groupHeld g.group &&
    (match s.nextInstr k g f with
     | some i => !readsLatch i
     | none => true)

/-- R418: SINGLE_STEP. -/
def execSingleStep (k sl fid : Nat) (s : State) : Out :=
  match s.gang? k sl with
  | none => .next s
  | some g =>
    match g.frag? fid with
    | none => .next s
    | some f =>
      if s.takesStep k g f then
        .next ((s.setGang k sl (g.modFrag fid fun f => { f with stepDue := false, chead := f.pc })).trap k sl fid 0x0E (pcAddr f.pc) (pcAddr f.pc) 0 0)
      else .next s

/-- R415: the comparator matches the fragment's address. -/
def State.breaks (s : State) (k : Nat) (g : Gang) (f : Frag) : Bool :=
  let co := s.core k
  let w := co.watchA.toNat
  let m := bits co.watchM.toNat 56 0
  decide (g.level = 0) && g.mayAct f && !g.haltDue && !g.isHalted && f.wait == .run && !s.groupHeld g.group && w.testBit 63 &&
    decide (bits w 62 61 = 2) && passesFilter co g && f.pass != some (pcAddr f.pc) && decide (pcAddr f.pc &&& m = bits w 56 0 &&& m)

/-- R415: HARDWARE_BREAKPOINT. -/
def execHardwareBreakpoint (k sl fid : Nat) (s : State) : Out :=
  match s.gang? k sl with
  | none => .next s
  | some g =>
    match g.frag? fid with
    | none => .next s
    | some f =>
      if s.breaks k g f then
        .next (s.trap k sl fid 0x0D (pcAddr f.pc + 2 ^ 63) (pcAddr f.chead) ((pcAddr f.pc - pcAddr f.chead) / 4) 0)
      else .next s

/-- R252: MACHINE_CHECK: an uncorrectable error in a gang's control state. -/
def execMachineCheck (k sl : Nat) (s : State) : Out := .next (s.modGang k sl fun g => g.report 0x3F 1)

/-! Merging and the selector's clocks. -/

/-- R146, R240: a gang whose fragments may merge. -/
def Gang.merges (g : Gang) : Bool := decide (g.level = 0) && !g.stopped && !g.isHalted

/-- R146: JOIN_RELEASE. -/
def execJoinRelease (k sl : Nat) (s : State) : Out :=
  .next (s.modGang k sl fun g => match (if g.merges then g.joinDue else none) with
    | some a => g.releaseJoin a
    | none => g)

/-- R147: RGANG_RELEASE, at each address where a fragment waits; a join release that is due comes first. -/
def execRgangRelease (k sl : Nat) (s : State) : Out :=
  .next (s.modGang k sl fun g =>
    if g.merges && g.joinDue.isNone then g.rgangDue.foldl Gang.releaseRgang g else g)

/-- R148: EARLY_RELEASE. -/
def execEarlyRelease (k sl fid : Nat) (s : State) : Out :=
  .next (s.modGang k sl fun g =>
    match g.frag? fid with
    | some f =>
      if g.merges && decide (4096 ≤ f.waitCyc) then
        match f.wait with
        | .join => g.releaseJoin (pcAddr f.pc)
        | .rgang => g.releaseRgang (pcAddr f.pc)
        | _ => g
      else g
    | none => g)

/-- R288: FRAGMENT_URGENT. -/
def execFragmentUrgent (k sl fid : Nat) (s : State) : Out :=
  .next (s.modGang k sl fun g => g.modFrag fid fun f => if 8 ≤ f.defer && f.urg.isNone then { f with urg := some s.cycle } else f)

/-- R290: YIELD_WINDOW_END. -/
def execYieldWindowEnd (k sl : Nat) (s : State) : Out :=
  .next (s.modGang k sl fun g => if g.yieldEnd < s.cycle then { g with yieldEnd := 0 } else g)

/-! Halts. -/

/-- R253: a halt request reaches a gang; its frame is number `frame` of the area at CTXBASE. -/
def State.requestHalt (s : State) (k sl : Nat) (cause : BitVec 6) (frame : Nat) : State :=
  s.modGang k sl fun g =>
    if g.halt.isSome || g.stopped then g
    else { g with halt := some ⟨cause, ((s.func g.fn).ctxbase.toNat + 131072 * frame) % 2 ^ 64, false⟩ }

/-- R292: the gangs that a halt of a gang reaches, after the gang itself: the others of its group's cluster set. -/
def State.othersOf (s : State) (gk k sl : Nat) : List (Nat × Nat) :=
  ((s.setOf gk).flatMap s.gangsOf).filter fun x => decide (x.1 < 1024) && !(decide (x.1 = k) && decide (x.2 = sl))

/-- R253, R292: HALT_REQUEST, by pre-emption, a migration stop or the debugger, with the number of the gang's frame. Every gang of its
group, and of the group's cluster set, is halted with it, each with a frame of its own (log 21). -/
def execHaltRequest (k sl : Nat) (cause : BitVec 6) (frame : Nat) (s : State) : Out :=
  match s.gang? k sl with
  | none => .next s
  | some g =>
    if 1024 ≤ k || !(cause == 0x35 || cause == 0x36 || cause == 0x37) then .next s
    else
      let s1 := ((s.othersOf g.group k sl).foldl (fun (p : State × Nat) x => (p.1.requestHalt x.1 x.2 cause p.2, p.2 + 1))
        (s.requestHalt k sl cause frame, frame + 1)).1
      .next ((s.setOf g.group).foldl (fun s x => s.modGroup x fun y => { y with halting := true, debug := y.debug || cause == 0x37 }) s1)

/-- R254: a request that a halt turns into a packet: a read that was sent, or one that has not been sent, or that R317 holds back
here (log 15). -/
def State.becomesPacket (s : State) (r : Req) : Bool :=
  r.kind == .load || r.kind == .ldbr || r.sent.isNone || (!r.tgt.away && s.before r)

/-- R254: the matrix operations of a gang that wait for an operand from memory, and those behind them. -/
def MxOp.waiting (l : List MxOp) : List MxOp := l.dropWhile fun m => m.lines.isEmpty || m.ran

/-- R209, R254: a copy stops. Reads of lines are dropped and their data is fetched again; writes that were sent are not repeated. -/
def Copy.stop (c : Copy) : Copy := if c.out then { c with halted := true } else { c with halted := true, asked := [], got := [] }

/-- R253, R417, R418: a fragment of a gang that is halted; one that waits at a BAR stands before it again. -/
def Frag.park (f : Frag) : Frag :=
  let w := match f.wait with
    | .bar _ => .run
    | w => w
  { f with pass := none, stepDue := false, skip := 0, lost := false, latchAt := [], unitAt := 0, chainRd := [], chainX := false, wait := w }

/-- R253 step 2, R254, R216: the work in flight of a gang is captured: what becomes packets leaves flight, copies stop, and matrix
instructions that wait for an operand, with those behind them, leave the engine. -/
def State.capture (s : State) (k sl : Nat) (g : Gang) : State :=
  let gen := s.gen k sl
  let mine := s.reqs.filter fun p => p.2.isOf k sl gen
  let acc := mine.filter fun p => p.2.own == .gang && isAccess p.2.instr && s.becomesPacket p.2
  let ops := MxOp.waiting (s.mxOf k sl)
  let others := mine.filter fun p => (p.2.own == .gang && p.2.kind == .pref && !isMma p.2.instr) || (isMma p.2.instr && ops.any fun m => decide (m.seq = p.2.seq)) ||
    (match p.2.own with
     | .piece _ _ => !p.2.wr
     | _ => false)
  let s1 := (s.abandon ((acc ++ others).map (·.1))).modCore k fun co =>
    { co with mxOps := co.mxOps.filter fun m => !(decide (m.slot = sl) && decide (m.gen = gen) && ops.any fun x => decide (x.seq = m.seq)) }
  let s2 : State := { s1 with copies := s1.copies.map fun (p : Nat × Copy) =>
    if p.2.core = k ∧ p.2.slot = sl ∧ p.2.gen = gen then (p.1, p.2.stop) else p }
  let byMx := (ops.filter fun m => !(g.olog.any fun e => decide (e.seq = m.seq))).map fun m =>
    (⟨m.seq, (others.filter fun p => isMma p.2.instr && decide (p.2.seq = m.seq)).map (·.2), some m, 0, 0, true, 0⟩ : Parked)
  s2.modGang k sl fun g =>
    { g with packets := acc.map fun p => if p.2.kind == .load || p.2.kind == .ldbr then p.2 else { p.2 with sent := none }, olog := g.olog ++ byMx }

/-- R253 steps 1 and 2: HALT_TAKEN. -/
def execHaltTaken (k sl fid : Nat) (s : State) : Out :=
  match s.gang? k sl with
  | none => .next s
  | some g =>
    match g.halt, g.frag? fid with
    | some h, some _ =>
      if h.taken || decide (2 ≤ g.level) || g.stopped then .next s
      else
        let owns := (s.core k).mxOwner == some sl
        let s1 := ((s.capture k sl g).releaseEngine k sl).modCore k fun co => co.loseRings sl
        .next (s1.modGang k sl fun g =>
          { g.clearWait with halt := some { h with taken := true }, reown := g.reown || owns, frags := g.clearWait.frags.map Frag.park })
    | _, _ => .next s

/-- R253 step 3: nothing that the step waits for is left: requests homed on the device, and matrix
instructions. -/
def State.quiesced (s : State) (k sl : Nat) : Bool :=
  ((s.gangReqs k sl).all fun r => match r.tgt with
    | .dev _ => false
    | .scratch _ => false
    | .notify _ _ => false
    | _ => true) && (s.mxOf k sl).isEmpty

/-- R253 steps 3 and 4, R257: the gang at level 2 as one fragment at DTVEC. -/
def Gang.enterDevice (g : Gang) (mask : Mask) (fid vec : Nat) (cause : BitVec 6) (frame kind plvl : Nat) : Gang :=
  let pc := toPc vec
  let f : Frag :=
    { pc := pc, chead := pc, jv := false, join := 0, mask := mask, wait := .run, loop := none, fid := fid, waitCyc := 0, defer := 0, urg := none,
      skip := 0, chainRd := [], chainX := false, pass := none, stepDue := false, lost := false, latchAt := [], unit := 0, unitAt := 0 }
  { g with frags := [f], nextFid := fid + 1, sysFid := fid, level := 2, entry1 := false, t2 := g.t2.enter cause 0 frame 0 kind plvl false false }

/-- R253 step 3: HALT_SAVE_ENTRY. -/
def execHaltSaveEntry (k sl : Nat) (s : State) : Out :=
  match s.gang? k sl with
  | none => .next s
  | some g =>
    match g.halt with
    | none => .next s
    | some h =>
      if !h.taken || decide (2 ≤ g.level) || !s.quiesced k sl then .next s
      else
        let fid := g.frags.findIdx fun f => decide (f.fid = g.sysFid)
        .next ((s.writeRecord k sl g h.cause h.frame).modGang k sl fun y =>
          { y with defq := [], canc := none, lost := false }.enterDevice g.mask fid (vecEntry s.dtvec) h.cause h.frame 3 g.level)

/-! Restore. -/

/-- R257: RESTORE_ENTRY: saved gang `saved` (32 × group + GANGID) is placed in a slot with a frame, and enters level 2, or its record is
rejected. -/
def execRestoreEntry (k sl : Nat) (saved : SavedGang) (s : State) : Out :=
  let gk := saved.group
  let gid := saved.gang
  let frame := saved.frame
  let k' := savedCore gk
  match s.group? gk, s.gang? k' gid with
  | some grp, some g =>
    if grp.core ≠ k || !(s.freeSlots k).contains sl then .next s
    else
      let h := g.halt.getD ⟨0x35, 0, true⟩
      if g.stopped then .next s
      else if s.recordBad k g.fn frame then
        .next (((s.modGang k' gid fun g => { g with stopped := true }).logStop g.fn k sl 0x3F frame).raiseEvt 0 4)
      else
        let gen := s.gen k sl
        let s1 := (s.retarget k' gid (s.gen k' gid) k sl gen).modCore k' fun co => { co with gangs := Cells.del co.gangs gid }
        let g1 := { g.to k sl gen with v := [], k := [], s := [], x := [], p := [], b := [], busy := [], dbgRef := false, gwait := 0, yieldEnd := 0,
                                       halt := some { h with frame := frame } }
        .next ((s1.modGroup gk fun x => { x with slots := x.slots ++ [sl] }).setGang k sl
          (g1.enterDevice g.mask g.sysFid (vecEntry s.dtvec) h.cause frame 4 0))
  | _, _ => .next s

/-! Groups (R292). -/

/-- R285: a group that has not started keeps nothing of its fills. -/
def Group.unfill (g : Group) : Group := if g.started then g else { g with scratch := [], fills := [], sfaults := [] }
/-- R285: when it is placed again, its fills start afresh. -/
def State.refill (s : State) (k : Nat) (g : Group) : Group :=
  match s.launch? g.launch with
  | some l =>
    let fills := (g.kern.decls.filter (·.scratch)).map (s.newFill l (k / 64))
    if g.started then g else { g with fills := fills, sfaults := badFills fills }
  | none => g

/-- R292, R285: every gang of a halted group has been saved; one that has not started has none. -/
def State.groupReady (s : State) (gk : Nat) : Bool :=
  match s.group? gk with
  | some g => !g.started || g.ended || (g.halting && g.live.all fun gid => (s.savedGangs gk).contains gid)
  | none => false

/-- R281: the L2 landings of a launch with no group left on a core are released. -/
def State.releaseLands (s : State) (lk : Nat) : State :=
  if s.groups.any fun p => decide (p.2.launch = lk) && !p.2.ended then s else s.modLaunch lk fun l => { l with lands := [] }

/-- R292: GROUP_SAVE: the firmware saves a halted group's scratchpad and tile store, and its resources are
freed. A cluster set is saved as a whole. -/
def execGroupSave (gk frame : Nat) (s : State) : Out :=
  if (s.setOf gk).isEmpty || !(s.setOf gk).all s.groupReady then .next s
  else .next ((s.setOf gk).foldl (fun s x => match s.group? x with
    | some g =>
      let co := s.core g.core
      let m := !g.kern.galleys.isEmpty && !g.ended
      (({ s with groups := Cells.del s.groups x,
                 saved := Cells.put s.saved x ⟨g.unfill, frame, if m then co.tile else [], if m then co.tileWritten else 0⟩ } : State).orphanLines
        x).releaseLands g.launch
    | none => s) s)

/-- R292: the saved groups that are restored together. -/
def State.savedSet (s : State) (gk : Nat) : List (Nat × Saved) :=
  match Cells.find? s.saved gk with
  | none => []
  | some x => s.saved.filter fun p => decide (p.2.group.launch = x.group.launch) &&
      decide (p.2.group.groupId / x.group.setsz = x.group.groupId / x.group.setsz)

/-- R292, R278, R420: a saved group, with its cluster set, may be restored onto a core. -/
def State.restorable (s : State) (gk k : Nat) : Bool :=
  match Cells.find? s.saved gk with
  | none => false
  | some x =>
    decide (k % x.group.setsz = x.group.groupId % x.group.setsz) && (decide (x.group.setsz = 1) || decide (k % 64 = x.group.core % 64)) &&
      decide (s.stopPhase x.group.fn = false) &&
      (s.savedSet gk).all fun p => !p.2.group.debug &&
        s.fits p.2.group.fn p.2.group.kern (k - k % x.group.setsz + p.2.group.groupId % x.group.setsz)

/-- R292: GROUP_RESTORE: a halted group is restored whole, onto the same core numbers within a cluster; no line
of its scratchpad has a recorded writer then (R326). -/
def execGroupRestore (gk k : Nat) (s : State) : Out :=
  if s.restorable gk k then
    .next ((s.savedSet gk).foldl (fun s p =>
      let g := p.2.group
      let k1 := k - k % g.setsz + g.groupId % g.setsz
      let s1 := { s with saved := Cells.del s.saved p.1, groups := Cells.put s.groups p.1 { s.refill k1 g with core := k1, halting := false, debug := false, slots := [], wid := [] } }
      if g.kern.galleys.isEmpty || g.ended then s1
      else s1.modCore k1 fun co => { co with tile := p.2.tile, tileWritten := p.2.tileWritten }) s)
  else .next s

/-! Offers. -/

/-- A core onto which a saved group may be restored. -/
def State.coreForSaved (s : State) (gk : Nat) : Option Nat := (List.range 1024).find? fun k => s.restorable gk k

/-- What the firmware and the cores may do now about halts and restores (log 22). -/
def State.haltOffers (s : State) : List Instr :=
  (s.cores.flatMap fun c => if 1024 ≤ c.1 then [] else c.2.gangs.flatMap fun p =>
    if p.2.isHalted && decide (p.2.level < 2) && s.quiesced c.1 p.1 then [Instr.haltSaveEntry c.1 p.1] else []) ++
  (s.groups.flatMap fun p =>
    (if p.2.halting && !p.2.ended && (s.setOf p.1).all s.groupReady then [Instr.groupSave p.1 0] else []) ++
    (if p.2.halting then []
     else (((s.toRestore p.1).zip (s.freeSlots p.2.core)).map fun x =>
       Instr.restoreEntry p.2.core x.2 ⟨p.1, x.1, match s.gang? (savedCore p.1) x.1 with
         | some g => g.frameBase
         | none => 0⟩))) ++
  s.saved.flatMap fun p =>
    match s.coreForSaved p.1 with
    | some k => [Instr.groupRestore p.1 k]
    | none => []

end Sys2Proof.Machine
end

