-- ==== Sys2Proof/Machine/Queues.lean ====
section
/-! DEFINITION. The queue controller (spec/18): notify registers (R352, R353), slots and hold limits (R354,
R355), command packets and their checks (R351, R356, R360), signals (R357), cancels through JCAN (R359), and
the virtual device numbers of functions (R349). -/
namespace Sys2Proof.Machine

/-! Structures in memory. -/

/-- R351: n quads as 2n words from an address that need not be aligned; none when one cannot be read. -/
def State.readWords (s : State) (fn a n : Nat) : Option (List Nat) :=
  if a % 8 = 0 then s.vaWords fn a n
  else
    (s.vaWords fn (a / 8 * 8) (n + 1)).map fun l =>
      let bs := l.flatMap fun w => toBytes 4 w
      (List.range (2 * n)).map fun i => ofBytes ((bs.drop (a % 8 + 4 * i)).take 4)

/-- R356: a 64-bit field of a packet or descriptor, low word first. -/
def pair (w : List Nat) (i : Nat) : Nat := w.getD i 0 + 2 ^ 32 * w.getD (i + 1) 0

/-- R72, R74: a working-set entry in use, for a kernel with that much scratchpad. -/
def declBad (scr : Nat) (w : List Nat) : Bool :=
  let w0 := w.getD 0 0
  let soff := w.getD 1 0
  let off := w.getD 2 0
  let len := w.getD 3 0
  bits w0 29 24 ≠ 0 || bits w0 15 0 ≠ 0 || bits soff 31 20 ≠ 0 || off % 128 ≠ 0 || len % 128 ≠ 0 || decide (len < 128) ||
    (match bits w0 31 30 with
     | 1 => soff ≠ 0
     | 2 => soff % 256 ≠ 0 || decide (scr < soff + len)
     | _ => true)

/-- R74: the entry as the launch keeps it. -/
def declOf (w : List Nat) : Decl :=
  { scratch := decide (bits (w.getD 0 0) 31 30 = 2), argq := bits (w.getD 0 0) 23 16, soff := w.getD 1 0, off := w.getD 2 0, len := w.getD 3 0 }

/-- The words of entry i of the eight that start at word `at0` of a descriptor. -/
def declWords (w : List Nat) (at0 i : Nat) : List Nat := (w.drop (at0 + 4 * i)).take 4

/-- R74: the entries of a descriptor: those in use, and whether one breaks a limit. An entry beyond the count must be zero, of a
node descriptor too (R73, R76; log 72). -/
def declsOf (w : List Nat) (at0 n scr : Nat) : List Decl × Bool :=
  ((List.range (min n 8)).map fun i => declOf (declWords w at0 i),
   decide (8 < n) || (List.range 8).any fun i => if i < n then declBad scr (declWords w at0 i) else (declWords w at0 i).any (· ≠ 0))

/-- R73: a kernel descriptor breaks a limit. -/
def kernelBad (w : List Nat) (addr : Nat) : Bool :=
  let x := fun i => w.getD i 0
  let scr := bits (x 4) 20 0
  let nforme := bits (x 5) 12 6
  let ngal := bits (x 0) 7 4
  addr % 64 ≠ 0 || x 0 / 2 ^ 24 ≠ 1 || bits (x 0) 23 22 ≠ 0 || bits (x 0) 3 0 ≠ 0 ||
    decide (bits (x 0) 21 16 = 0) || decide (32 < bits (x 0) 21 16) || decide (bits (x 0) 15 12 = 0) || decide (11 < bits (x 0) 15 12) ||
    decide (8 < ngal) || bits (x 1) 31 21 ≠ 0 || (x 1).testBit 19 ||
    bits (pair w 2) 1 0 ≠ 0 || bits (pair w 2) 63 57 ≠ 0 ||
    bits (x 4) 31 21 ≠ 0 || scr % 256 ≠ 0 || decide (1048576 < scr) ||
    bits (x 5) 31 13 ≠ 0 || (x 5).testBit 5 || decide (64 < nforme) || decide (28 < bits (x 5) 4 0) ||
    pair w 6 % 64 ≠ 0 || (decide (nforme = 0) && pair w 6 ≠ 0) ||
    (List.range 8).any fun i =>
      if i < ngal then bits (x (8 + i)) 15 14 ≠ 0 || decide (scr < 64 * bits (x (8 + i)) 13 0 + 16448) else x (8 + i) ≠ 0

/-- R184: a forme's record breaks a limit. -/
def formeBad (w : List Nat) : Bool :=
  let x := fun i => w.getD i 0
  let nd := bits (x 0) 10 8
  let esz := bits (x 0) 6 4
  bits (x 0) 31 11 ≠ 0 || (x 0).testBit 7 || decide (nd = 0) || decide (5 < nd) || decide (4 < esz) || x 1 ≠ 0 ||
    decide (2 ^ (8 * 2 ^ esz) ≤ pair w 2 + 2 ^ 64 * pair w 4) ||
    (List.range 5).any fun k => if k < nd then bits (x (6 + 2 * k)) 31 16 ≠ 0 else x (6 + 2 * k) ≠ 0 || x (7 + 2 * k) ≠ 0

/-- R184: the forme. -/
def formeOf (w : List Nat) : Forme :=
  let x := fun i => w.getD i 0
  { esz := bits (x 0) 6 4, buf := bits (x 0) 3 0, fill := pair w 2 + 2 ^ 64 * pair w 4,
    dims := (List.range (bits (x 0) 10 8)).map fun k => (bits (x (6 + 2 * k)) 15 0 + 1, sext (x (7 + 2 * k)) 32) }

/-- R73: the kernel that a descriptor gives. -/
def kernelOf (w : List Nat) (formes : List Forme) : Kernel :=
  let x := fun i => w.getD i 0
  { gangs := bits (x 0) 21 16, nblk := bits (x 0) 15 12, mode := BitVec.ofNat 32 (x 1), entry := pair w 2, scratch := bits (x 4) 20 0,
    decls := (declsOf w 16 (bits (x 0) 11 8) (bits (x 4) 20 0)).1, formes := formes,
    galleys := (List.range (min (bits (x 0) 7 4) 8)).map fun i => (64 * bits (x (8 + i)) 13 0, bits (x (8 + i)) 31 16) }

/-- R351: a kernel descriptor with its forme table: the kernel, and the codes of R360 that it fails with. -/
def State.readKernel (s : State) (fn addr : Nat) : Kernel × List Nat :=
  match s.readWords fn addr 24 with
  | none => (kernelOf [] [], [4])
  | some w =>
    let nf := bits (w.getD 5 0) 12 6
    let dbad := (declsOf w 16 (bits (w.getD 0 0) 11 8) (bits (w.getD 4 0) 20 0)).2
    let bad := if kernelBad w addr || dbad then [0x10] else []
    match (if nf = 0 then some [] else s.readWords fn (pair w 6) (8 * nf)) with
    | none => (kernelOf w [], 4 :: bad)
    | some fw =>
      let recs := (List.range nf).map fun i => (fw.drop (16 * i)).take 16
      (kernelOf w (recs.map formeOf), bad ++ if recs.any formeBad then [0x11] else [])

/-- R76: a node descriptor breaks a limit. -/
def nodeBad (w : List Nat) (addr : Nat) : Bool :=
  let x := fun i => w.getD i 0
  let r := bits (x 0) 15 0
  let c := bits (x 1) 12 0
  addr % 64 ≠ 0 || x 0 / 2 ^ 24 ≠ 1 || bits (x 0) 19 16 ≠ 0 || r % 16 ≠ 0 || decide (r < 16) || decide (4096 < r) ||
    bits (x 1) 31 13 ≠ 0 || decide (c = 0) || decide (4096 < c) || (x 2 ≠ 0 && (decide (x 2 < 1000) || decide (10000000 < x 2))) ||
    bits (x 3) 31 16 ≠ 0 || pair w 6 ≠ 0

/-- R76, R351: a node descriptor with its kernel, and the codes of R360 that it fails with. -/
def State.readNode (s : State) (fn addr : Nat) : Node × List Decl × List Nat :=
  match s.readWords fn addr 20 with
  | none => (⟨kernelOf [] [], 16, 1, 0, 0⟩, [], [4])
  | some w =>
    let k := s.readKernel fn (pair w 4)
    let ds := declsOf w 8 (bits (w.getD 0 0) 23 20) k.1.scratch
    (⟨k.1, bits (w.getD 0 0) 15 0, bits (w.getD 1 0) 12 0, w.getD 2 0, bits (w.getD 3 0) 15 0⟩, ds.1,
     k.2 ++ if nodeBad w addr || ds.2 then [0x15] else [])

/-- R276, R360 0x14: some core, or set of cores, of the function's partition can hold a group of the kernel. -/
def State.everFits (s : State) (fn : Nat) (k : Kernel) (setsz : Nat) : Bool :=
  decide (k.gangs ≤ 32) && decide (k.gangs * k.nblk ≤ 256) && decide (k.scratch ≤ 1048576) &&
    (List.range (1024 / setsz)).any fun m => (List.range setsz).all fun j => (s.part (s.partOf fn)).req.getLsbD ((m * setsz + j) / 16)

/-- R360 0x12: the argument block does not reach the highest argq. -/
def argsShort (ds : List Decl) (len : Nat) : Bool := decide (len = 0) || ds.any fun d => decide (len < 8 * (d.argq + 1))

/-! Processing. -/

/-- R354, R351: the queue's next packet may be processed: it holds a slot, is enabled and has not stopped. -/
def State.canProcess (s : State) (fn q : Nat) : Bool :=
  let qu := s.queue fn q
  let p := s.part (s.partOf fn)
  qu.slot && qu.en && !qu.err && qu.head != qu.tail && p.valid && !p.stop && !s.stopPhase fn

/-- R351: the 16 words of the packet at HEAD. -/
def State.packetAt (s : State) (fn q idx : Nat) : Option (List Nat) :=
  let qu := s.queue fn q
  s.vaWords fn (qu.base + 64 * (idx % 2 ^ qu.log2)) 8

/-- R360: the queue stops with an error. -/
def State.queueError (s : State) (fn q code : Nat) : State :=
  (s.modQueue fn q fun x => { x with err := true, ecode := code, slot := false, holdEnd := none }).raiseEvt fn 0

/-- R268: the job record of a queue's job. -/
def State.ensureJob (s : State) (fn job : Nat) : State :=
  if (s.job? fn job).isSome then s
  else { s with jobs := Cells.put s.jobs (jobKey fn job) { fn := fn, job := job, phase := 0, known := 0, cancelled := false, proofAt := [], lids := [] } }

/-- R351: HEAD goes past a packet that has been processed, and what has completed is settled. -/
def State.processed (s : State) (fn q : Nat) : State :=
  let job := (s.queue fn q).job
  ((s.modQueue fn q fun x => { x with head := x.head + 1 }).settleJob fn job).settleQueues fn

/-- R206: a command of phase p has been processed. -/
def State.notePhase (s : State) (fn job p : Nat) : State := s.modJob fn job fun j => { j with known := max j.known (p + 1) }

/-- R206: the job and the phase of the command at a queue's HEAD are known to the queue controller. A PROOF belongs to the boundary
that its queue's last PHEND made (log 49). -/
def State.noteCommand (s : State) (fn q cmd : Nat) : State :=
  let qu := s.queue fn q
  let s1 := s.ensureJob fn qu.job
  if cmd = 4 then s1 else s1.notePhase fn qu.job qu.phends

/-- R351: the ranges that a kernel descriptor names: itself and its forme table. -/
def State.kernelRanges (s : State) (fn addr : Nat) : List (Nat × Nat) :=
  (addr, 96) :: (match s.readWords fn addr 24 with
    | some w => [(pair w 6, 64 * bits (w.getD 5 0) 12 6)]
    | none => [])
/-- The same for a node descriptor. -/
def State.nodeRanges (s : State) (fn addr : Nat) : List (Nat × Nat) :=
  (addr, 80) :: (match s.readWords fn addr 20 with
    | some w => s.kernelRanges fn (pair w 4)
    | none => [])
/-- R351: what the queue controller reads for a packet. -/
def State.packetRanges (s : State) (fn q : Nat) (w : List Nat) : List (Nat × Nat) :=
  let qu := s.queue fn q
  (qu.base + 64 * (qu.head.toNat % 2 ^ qu.log2), 64) ::
    match w.getD 0 0 % 256 with
    | 1 => s.kernelRanges fn (pair w 4)
    | 2 =>
      let n := bits (w.getD 2 0) 28 16
      (pair w 4, 8 * n) :: (match s.readWords fn (pair w 4) n with
        | some t => (List.range n).flatMap fun i => s.nodeRanges fn (pair t (2 * i))
        | none => [])
    | _ => []
/-- R381, R385, R372: what those reads count, and the translations they keep. -/
def State.noteReads (s : State) (fn : Nat) (l : List (Nat × Nat)) : State := l.foldl (fun s x => s.noteVa fn x.1 x.2) s

/-- R360: processes the packet at HEAD when it holds command `cmd`. `check` gives the codes it fails with in
any order, the first of the table being the least; `go` is its effect. -/
def State.process (s : State) (fn q cmd : Nat) (check : List Nat → List Nat) (go : List Nat → State → State) : State :=
  if !s.canProcess fn q then s
  else match s.packetAt fn q (s.queue fn q).head.toNat with
    | none => s.queueError fn q 4
    | some w =>
      let w0 := w.getD 0 0
      if w0 / 2 ^ 24 ≠ 1 || decide (9 < w0 % 256) then s.queueError fn q 2
      else if w0 % 256 ≠ cmd then s
      else
        let s1 := s.noteReads fn (s.packetRanges fn q w)
        match check w with
        | [] => (go w (s1.noteCommand fn q cmd)).processed fn q
        | c :: t => s1.queueError fn q (t.foldl Nat.min c)

/-- R208: the queue skips what is cancelled. -/
def Queue.skips (q : Queue) : Bool := q.skipPhase.isSome || q.skipJob
/-- R208: a command that completes at once with no effect while the queue skips. -/
def State.unlessSkip (s : State) (fn q cmd : Nat) (check : List Nat → List Nat) (go : List Nat → State → State) : State :=
  if (s.queue fn q).skips then s.process fn q cmd (fun _ => []) fun _ s => s else s.process fn q cmd check go

/-- R356: words of a packet that are reserved: word i masked by m must be zero. -/
def reservedBad (w : List Nat) (l : List (Nat × Nat)) : Bool := l.any fun p => (w.getD p.1 0) &&& p.2 ≠ 0
/-- All of words a to b. -/
def allOf (a b : Nat) : List (Nat × Nat) := (List.range (b + 1 - a)).map fun i => (a + i, 0xFFFFFFFF)

/-- Adds a command to those of its queue that have not completed. -/
def State.addPending (s : State) (fn q : Nat) (p : Pending) : State := s.modQueue fn q fun x => { x with pending := x.pending ++ [p] }

/-- R356: NOP. -/
def execCmdNop (fn q : Nat) (s : State) : Out :=
  .next (s.process fn q 0 (fun w => if reservedBad w ((0, 0xFFFF00) :: allOf 1 15) then [3] else []) fun _ s => s)

/-- The graph that INGR names: open on this queue and of the queue's current phase. -/
def State.openGraph (s : State) (fn q gid : Nat) : Option Nat :=
  (List.find? (fun (p : Nat × Graph) => decide (p.2.fn = fn) && decide (p.2.queue = q) && p.2.gid == some gid && !p.2.cancelled &&
    decide (p.2.job = (s.queue fn q).job) && decide (p.2.phase = (s.queue fn q).phends)) s.graphs).map (·.1)

/-- The graph of a GID that is open for the queue's job. -/
def State.jobGraph (s : State) (fn q gid : Nat) : Option Nat :=
  (List.find? (fun (p : Nat × Graph) => decide (p.2.fn = fn) && p.2.gid == some gid && decide (p.2.job = (s.queue fn q).job)) s.graphs).map (·.1)

/-- R356, R360: the checks of a LAUNCH. -/
def State.launchCodes (s : State) (fn q : Nat) (w : List Nat) : List Nat :=
  let ingr := (w.getD 0 0).testBit 9
  let groups := w.getD 2 0
  let setsz := bits (w.getD 3 0) 6 0
  let gid := bits (w.getD 3 0) 31 16
  let k := s.readKernel fn (pair w 4)
  let nnode := if ingr then match (s.openGraph fn q gid).bind s.graph? with | some g => g.nodes.length | none => 0 else 0
  (if reservedBad w ([(0, 0xFFFC00), (2, 0xFF000000), (3, 0xFF80), (10, 0xFFFF0000)] ++ allOf 11 15) || (!ingr && gid ≠ 0) ||
      pair w 6 % 8 ≠ 0 || w.getD 8 0 % 8 ≠ 0 then [3] else []) ++ k.2 ++
  (if argsShort k.1.decls (w.getD 8 0) then [0x12] else []) ++
  (if decide (groups = 0) || !([1, 2, 4, 8, 16, 32, 64].contains setsz) || groups % setsz ≠ 0 then [0x13] else []) ++
  (if s.everFits fn k.1 setsz then [] else [0x14]) ++
  (if (ingr && (s.openGraph fn q gid).isNone) || decide (nnode < w.getD 10 0) then [0x15] else [])

/-- R271, R356: the launch that a LAUNCH makes. -/
def State.launchGo (s : State) (fn q : Nat) (w : List Nat) : State :=
  let qu := s.queue fn q
  let lk := s.nextId
  let ingr := (w.getD 0 0).testBit 9
  let own : Graph :=
    { fn := fn, job := qu.job, phase := qu.phends, queue := q, gid := none, nodes := [], args := pair w 6, argLen := w.getD 8 0, bins := 0,
      binLen := 0, ovfLen := 0, waiting := false, cancelled := false, ended := false }
  let gk := if ingr then (s.openGraph fn q (bits (w.getD 3 0) 31 16)).getD lk else lk
  let s1 := if ingr then s else { s with graphs := Cells.put s.graphs lk own }
  let lid := BitVec.ofNat 32 (w.getD 1 0)
  let l : Launch :=
    { fn := fn, job := qu.job, phase := qu.phends, queue := q, graph := gk, lid := lid, nodeId := none, kern := (s.readKernel fn (pair w 4)).1,
      args := pair w 6, argLen := w.getD 8 0, groups := w.getD 2 0, setsz := bits (w.getD 3 0) 6 0, runlim := w.getD 9 0, nbase := w.getD 10 0,
      depq := (w.getD 0 0).testBit 8, placed := 0, ended := 0, batches := [], run := 0, watched := false, cancelled := false, done := false,
      lands := [], staged := [] }
  (({ s1.bumpId with launches := Cells.put s1.launches lk l } : State).addPending fn q (.launch lk)).modJob fn qu.job fun j => { j with lids := if j.lids.contains lid then j.lids else j.lids ++ [lid] }

/-- R356: LAUNCH. -/
def execCmdLaunch (fn q : Nat) (s : State) : Out := .next (s.unlessSkip fn q 1 (s.launchCodes fn q) fun w s => s.launchGo fn q w)

/-- R356: the node descriptors that a GRAPH names; none when its node table cannot be read. -/
def State.graphNodes (s : State) (fn : Nat) (w : List Nat) : Option (List (Node × List Decl × List Nat)) :=
  (s.readWords fn (pair w 4) (bits (w.getD 2 0) 28 16)).map fun t =>
    (List.range (bits (w.getD 2 0) 28 16)).map fun i => s.readNode fn (pair t (2 * i))

/-- R356, R360: the checks of a GRAPH. -/
def State.graphCodes (s : State) (fn q : Nat) (w : List Nat) : List Nat :=
  let nn := bits (w.getD 2 0) 28 16
  (if reservedBad w [(0, 0xFFFF00), (2, 0xE0000000), (9, 0xFFFFFFFF), (15, 0xFFFFFFFF)] || decide (nn = 0) || decide (4096 < nn) ||
      w.getD 3 0 % 65536 ≠ 0 || w.getD 12 0 % 65536 ≠ 0 || pair w 6 % 8 ≠ 0 || w.getD 8 0 % 8 ≠ 0 then [3] else []) ++
  (match s.graphNodes fn w with
   | none => [4]
   | some ns => ns.flatMap fun x => x.2.2 ++ (if argsShort (x.1.kern.decls ++ x.2.1) (w.getD 8 0) then [0x12] else []) ++
       if s.everFits fn x.1.kern 1 then [] else [0x14]) ++
  (match s.graphNodes fn w with
   | none => []
   | some ns => if ns.any fun x => decide (nn < x.1.nbase) then [0x15] else []) ++
  (if decide (w.getD 8 0 = 0) then [0x12] else []) ++ if (s.jobGraph fn q (bits (w.getD 2 0) 15 0)).isSome then [0x15] else []

/-- R272, R356: the graph that a GRAPH opens, with a node launch for each node. -/
def State.graphGo (s : State) (fn q : Nat) (w : List Nat) : State :=
  let qu := s.queue fn q
  let gk := s.nextId
  let ns := (s.graphNodes fn w).getD []
  let g : Graph :=
    { fn := fn, job := qu.job, phase := qu.phends, queue := q, gid := some (bits (w.getD 2 0) 15 0),
      nodes := ns.mapIdx fun i x => ⟨x.1, gk + 1 + i, []⟩, args := pair w 6, argLen := w.getD 8 0, bins := pair w 10, binLen := w.getD 12 0,
      ovfLen := w.getD 3 0, waiting := false, cancelled := false, ended := false }
  let lid := fun (i : Nat) => BitVec.ofNat 32 (w.getD 1 0 + i)
  let mk := fun (i : Nat) (x : Node × List Decl × List Nat) =>
    ({ fn := fn, job := qu.job, phase := qu.phends, queue := q, graph := gk, lid := lid i, nodeId := some i,
       kern := { x.1.kern with decls := x.1.kern.decls ++ x.2.1 }, args := pair w 6, argLen := w.getD 8 0, groups := 0, setsz := 1, runlim := 0,
       nbase := x.1.nbase, depq := false, placed := 0, ended := 0, batches := [], run := 0, watched := false, cancelled := false, done := false,
       lands := [], staged := List.range 16 } : Launch)
  let ls := (ns.mapIdx fun i x => (gk + 1 + i, mk i x)).foldl (fun m p => Cells.put m p.1 p.2) s.launches
  (({ s with graphs := Cells.put s.graphs gk g, launches := ls, nextId := gk + 1 + ns.length } : State).addPending fn q (.graph gk)).modJob fn qu.job fun j => { j with lids := j.lids ++ ((List.range ns.length).map lid).filter fun x => !j.lids.contains x }

/-- R356: GRAPH. -/
def execCmdGraph (fn q : Nat) (s : State) : Out := .next (s.unlessSkip fn q 2 (s.graphCodes fn q) fun w s => s.graphGo fn q w)

/-- R395 QPOS: a queue's PHEND has been processed, in a job that stands in the phase `ph`: of the phases that have ended, the
last is kept. -/
def Queue.noteEnd (x : Queue) (ph : Nat) : Queue :=
  let l := (x.phends, x.head + 1) :: x.qends
  { x with phends := x.phends + 1,
           qends := l.filter fun e => decide (ph ≤ e.1) || (l.find? fun d => decide (d.1 < ph)) == some e }

/-- R356, R208: the effect of a PHEND. -/
def State.phendGo (s : State) (fn q : Nat) : State :=
  let qu := s.queue fn q
  let ph := match s.job? fn qu.job with | some j => j.phase | none => 0
  if qu.skipJob then s
  else match qu.skipPhase with
    | some p => s.modQueue fn q fun x => { x.noteEnd ph with skipPhase := if p ≤ x.phends then none else some p }
    | none => (s.modQueue fn q fun x => x.noteEnd ph).addPending fn q (.phase qu.phends)

/-- R356: PHEND. A queue that skips its whole job takes it with no effect. -/
def execCmdPhend (fn q : Nat) (s : State) : Out :=
  let bad := fun w => if reservedBad w ((0, 0xFFFF00) :: allOf 1 15) then [3] else []
  .next (s.process fn q 3 (if (s.queue fn q).skipJob then fun _ => [] else bad) fun _ s => s.phendGo fn q)

/-- R395 QPOS: a PROOF that stands directly after the queue's last PHEND is passed over. -/
def Queue.passProof (q : Queue) : Queue :=
  { q with qends := q.qends.map fun e => if e.2 = q.head then (e.1, q.head + 1) else e }

/-- R356: PROOF: taken at the boundary that the queue's last PHEND made. -/
def execCmdProof (fn q : Nat) (s : State) : Out :=
  let check := fun w =>
    (if reservedBad w ((0, 0xFFFF00) :: allOf 1 15) then [3] else []) ++
      if (s.px fn).en && decide ((s.px fn).job = (s.queue fn q).job) && !(s.queue fn q).qends.isEmpty then [] else [0x16]
  .next (s.unlessSkip fn q 4 check fun _ s =>
    let qu := s.queue fn q
    let p := qu.phends - 1
    ((s.modQueue fn q Queue.passProof).addPending fn q (.proof p)).modJob fn qu.job fun j => { j with proofAt := j.proofAt ++ [p] })

/-- R356: SIGNAL: recorded, to be written once every earlier command has completed. -/
def execCmdSignal (fn q : Nat) (s : State) : Out :=
  let check := fun w => if reservedBad w ([(0, 0xC0FE00), (1, 0xFFFFFFFF)] ++ allOf 6 15) || pair w 2 % 8 ≠ 0 then [3] else []
  .next (s.process fn q 5 check fun w s =>
    s.bumpId.addPending fn q (.signal s.nextId (pair w 2) (BitVec.ofNat 64 (pair w 4)) ((w.getD 0 0).testBit 8) (bits (w.getD 0 0) 21 16) .unsent))

/-- R356, R357: a SIGNAL of a queue has completed: its MSI-X message is sent, and the command is forgotten. -/
def State.endSignal (s : State) (fn q : Nat) (irq : Bool) (vec : Nat) : State :=
  ((if irq then s.sendMsix fn vec else s).modQueue fn q fun x => { x with pending := x.pending.drop 1 }).settleQueues fn

/-- R304, R356: a request carries VALUE to a peer. -/
def State.sendSignal (s : State) (fn q vdn ia : Nat) (id : Nat) (p : Nat × Quad × Bool × Nat) : State :=
  (s.modQueue fn q fun x => { x with pending := .signal id p.1 p.2.1 p.2.2.1 p.2.2.2 .sent :: x.pending.drop 1 }).sendOne (.agent fn)
    (agentReq fn 1024 (.signal fn q) (.signalWrite fn q false) true 1 p.1 (Target.peer vdn ia).lineStart 8 [⟨0, p.1, 0, 0, p.2.1.toNat, 0⟩])

/-- R356: the write of VALUE is made, or SIGF set where that cannot be done; `failed` says that the host failed the write. A
peer's answer completes the command. -/
def State.startSignal (s0 : State) (fn q id : Nat) (p : Nat × Quad × Bool × Nat) (failed : Bool) : State :=
  let s := s0.vaKeep fn p.1 ⟨false, true, false⟩
  let fail := s.raiseEvt fn 5
  let done := fun (s : State) => s.endSignal fn q p.2.2.1 p.2.2.2
  match s0.vaTarget fn p.1 ⟨false, true, false⟩ with
  | .ok (.dev pa) => done ((s.countRow pa).fnWrite fn pa false (toBytes 8 p.2.1.toNat))
  | .ok (.host h) => done (if failed then fail else s.send (.hostWrite fn h (toBytes 8 p.2.1.toNat)))
  | .ok (.peer vdn ia) => s.sendSignal fn q vdn ia id p
  | _ => done fail

/-- R356, R357: SIGNAL_WRITE: the queue's oldest command that has not completed is a SIGNAL, so every earlier
one has completed. -/
def execSignalWrite (fn q : Nat) (failed : Bool) (s : State) : Out :=
  match (s.queue fn q).pending with
  | .signal id addr v irq vec .unsent :: _ => .next (s.startSignal fn q id (addr, v, irq, vec) failed)
  | .signal _ _ _ irq vec (.answered bad) :: _ => .next ((if bad then s.raiseEvt fn 5 else s).endSignal fn q irq vec)
  | _ => .next s

/-- R200, R356: the slot that a COPEN opens. -/
def copenSlot (fn job : Nat) (w : List Nat) : CSlot :=
  { fn := fn, job := job, p := w.getD 2 0,
    members := (List.range (w.getD 4 0)).map fun j => bits (w.getD (6 + j / 2) 0) (16 * (j % 2) + 15) (16 * (j % 2)),
    timeout := if w.getD 3 0 = 0 then 2000 else w.getD 3 0, round := 0, prev := none, counted := [], held := [], start := none, paused := false,
    closing := false }

/-- R356: COPEN. -/
def execCmdCopen (fn q : Nat) (s : State) : Out :=
  let check := fun w =>
    let t := w.getD 3 0
    (if reservedBad w ([(0, 0xFFFF00), (1, 0xFFFFFFC0), (2, 0xFFFF0000), (4, 0xFFFFFFE0), (5, 0xFFFFFFFF)] ++ allOf 14 15) ||
        decide (w.getD 2 0 = 0) || (t ≠ 0 && (decide (t < 100) || decide (100000 < t))) || decide (w.getD 4 0 = 0) || decide (16 < w.getD 4 0)
      then [3] else []) ++
    if (s.cslot? (bits (w.getD 1 0) 5 0)).isSome then [0x17] else []
  .next (s.process fn q 6 check fun w s => { s with cslots := Cells.put s.cslots (w.getD 1 0) (copenSlot fn (s.queue fn q).job w) })

/-- R356: CCLOSE. -/
def execCmdCclose (fn q : Nat) (s : State) : Out :=
  let check := fun w =>
    (if reservedBad w ([(0, 0xFFFF00), (1, 0xFFFFFFC0)] ++ allOf 2 15) then [3] else []) ++
    match s.cslot? (bits (w.getD 1 0) 5 0) with
    | some c => if c.fn = fn ∧ c.job = (s.queue fn q).job ∧ c.closing = false then [] else [0x17]
    | none => [0x17]
  .next (s.process fn q 7 check fun w s => (s.modSlot (w.getD 1 0) fun c => { c with closing := true }).tryClose (w.getD 1 0))

/-- R356, R275: OVFADD. The EMITs that wait find the space at their next try. -/
def execCmdOvfadd (fn q : Nat) (s : State) : Out :=
  let check := fun w =>
    (if reservedBad w ([(0, 0xFFFF00), (1, 0xFFFFFFFF), (2, 0xFFFF0000), (3, 0xFFFFFFFF)] ++ allOf 7 15) || w.getD 6 0 % 65536 ≠ 0 then [3] else []) ++
    if (s.jobGraph fn q (w.getD 2 0)).isSome then [] else [0x17]
  .next (s.unlessSkip fn q 8 check fun w s => match s.jobGraph fn q (w.getD 2 0) with
    | some gk => s.modGraph gk fun g => { g with ovfLen := g.ovfLen + w.getD 6 0, waiting := false }
    | none => s)

/-- The launches of a queue's job that carry a LAUNCHID. -/
def State.launchesOf (s : State) (fn job : Nat) (lid : Word) : List Nat :=
  (s.launches.filter fun p => decide (p.2.fn = fn) && decide (p.2.job = job) && p.2.lid == lid).map (·.1)

/-- R356, R360: the checks of a CANCEL. -/
def State.cancelCodes (s : State) (fn q : Nat) (w : List Nat) : List Nat :=
  let lvl := bits (w.getD 0 0) 9 8
  let named := match s.job? fn (s.queue fn q).job with
    | some j => j.lids.contains (BitVec.ofNat 32 (w.getD 1 0))
    | none => false
  (if reservedBad w ([(0, 0xFFFC00), (1, if lvl = 0 then 0 else 0xFFFFFFFF), (2, if lvl = 1 then 0xFFFF0000 else 0xFFFFFFFF)] ++ allOf 3 15)
    then [3] else []) ++
  match lvl with
  | 0 => if named then [] else [0x17]
  | 1 => if (s.jobGraph fn q (w.getD 2 0)).isSome then [] else [0x17]
  | _ => []

/-- R208, R356: the effect of a CANCEL; it completes when the unit counts as ended. -/
def State.cancelGo (s : State) (fn q : Nat) (w : List Nat) : State :=
  let job := (s.queue fn q).job
  match bits (w.getD 0 0) 9 8 with
  | 0 => (s.launchesOf fn job (BitVec.ofNat 32 (w.getD 1 0))).foldl (fun s lk => (s.cancelUnit 0 lk).addPending fn q (.launch lk)) s
  | 1 => match s.jobGraph fn q (w.getD 2 0) with
    | some gk => (s.cancelGraph 1 gk).addPending fn q (.graph gk)
    | none => s
  | 2 => match s.job? fn job with
    | some j => (s.cancelPhase fn job).addPending fn q (.phase j.phase)
    | none => s
  | _ => (s.cancelJob fn job).addPending fn q .job

/-- R356: CANCEL. -/
def execCmdCancel (fn q : Nat) (s : State) : Out := .next (s.unlessSkip fn q 9 (s.cancelCodes fn q) fun w s => s.cancelGo fn q w)

/-! Slots. -/

/-- The queues of every function. -/
def State.allQueues (s : State) : List (Nat × Nat × Queue) := s.funcs.flatMap fun f => f.2.queues.map fun q => (f.1, q.1, q.2)
/-- R354: slots held in all, and by a function. -/
def State.slotsHeld (s : State) : Nat := (s.allQueues.filter fun x => x.2.2.slot).length
def State.slotsOf (s : State) (fn : Nat) : Nat := (s.allQueues.filter fun x => decide (x.1 = fn) && x.2.2.slot).length
/-- R354: a queue asks for a slot: HEAD is not TAIL, or its slot was reclaimed and it asks again. -/
def Queue.asks (q : Queue) : Bool := q.en && !q.err && !q.slot && (q.head != q.tail || q.again)
/-- R354: a slot held as non-pre-emptible. -/
def Queue.firm (q : Queue) : Bool := q.slot && q.holdEnd.isSome
/-- R354, R375, R404, R435: the function's queues may be granted slots. -/
def State.served (s : State) (fn : Nat) : Bool := (s.part (s.partOf fn)).valid && !(s.part (s.partOf fn)).stop && !s.stopPhase fn
/-- R354, R350: a queue takes a slot; NP reads 0 while NPOK is 0. -/
def Queue.grant (q : Queue) (now : Nat) (npok : Bool) : Queue :=
  { q with slot := true, again := false, pend := none, holdEnd := if q.np && npok then some (now + 11000000 * q.hold) else none }

/-- R355: a queue that asks while every slot is held as non-pre-emptible becomes pending. -/
def State.markPend (s : State) (fn q : Nat) : State :=
  let qu := s.queue fn q
  if qu.asks && s.served fn && qu.pend.isNone && decide (512 ≤ s.slotsHeld) && s.allQueues.all fun x => !x.2.2.slot || x.2.2.firm then
    (s.bumpId.modQueue fn q fun x => { x with pend := some s.nextId }).raiseEvt fn 1
  else s
/-- R355: the same for every queue. -/
def State.markPends (s : State) : State :=
  if s.slotsHeld < 512 then s else s.allQueues.foldl (fun s x => s.markPend x.1 x.2.1) s

/-- R354: the first of two asking queues: the lower ratio of slots held to WEIGHT, then the lower function,
then the lower queue number; a queue that asks holds none itself. -/
def State.asksFirst (s : State) (x y : Nat × Nat) : Bool :=
  let a := s.slotsOf x.1 * (s.func y.1).weight
  let b := s.slotsOf y.1 * (s.func x.1).weight
  decide (a < b) || (decide (a = b) && (decide (x.1 < y.1) || (decide (x.1 = y.1) && decide (x.2 < y.2))))

/-- R354: the queue that a free slot goes to. -/
def State.bestAsk (s : State) : Option (Nat × Nat) :=
  ((s.allQueues.filter fun x => x.2.2.asks && s.served x.1).map fun x => (x.1, x.2.1)).foldl (fun b x => match b with
    | some y => if s.asksFirst x y then some x else some y
    | none => some x) none

/-- R354: SLOT_GRANT. -/
def execSlotGrant (fn q : Nat) (s : State) : Out :=
  if decide (s.slotsHeld < 512) && s.bestAsk == some (fn, q) then .next ((s.modQueue fn q fun x => x.grant s.pod (s.func fn).npok).markPends) else .next s

/-- R354: the function most exceeds its share among those with a pre-emptible slot. -/
def State.mostOver (s : State) (fn : Nat) : Bool :=
  s.allQueues.all fun x => !(x.2.2.slot && !x.2.2.firm) || decide (s.slotsOf x.1 * (s.func fn).weight ≤ s.slotsOf fn * (s.func x.1).weight)

/-- R354: a queue loses its slot to a reclaim; the placement of its launches stops, and it asks again at once. -/
def Queue.reclaim (q : Queue) : Queue := { q with slot := false, again := true, holdEnd := none }

/-- R354: SLOT_RECLAIM: a pre-emptible slot for a queue that asks while no slot is free. -/
def execSlotReclaim (fn q : Nat) (s : State) : Out :=
  let qu := s.queue fn q
  if qu.slot && !qu.firm && decide (512 ≤ s.slotsHeld) && s.bestAsk.isSome && s.mostOver fn then
    .next (s.modQueue fn q Queue.reclaim)
  else .next s

/-- R355, R375: the pending queue whose PEND was set earliest, of those that ask and may be granted a slot. -/
def State.firstPend (s : State) : Option (Nat × Nat) :=
  (((s.allQueues.filter fun x => x.2.2.asks && s.served x.1).filterMap fun x => x.2.2.pend.map fun p => (p, x.1, x.2.1)).foldl (fun (b : Option (Nat × Nat × Nat)) x => match b with
    | some y => if x.1 < y.1 then some x else some y
    | none => some x) none).map (·.2)

/-- R354, R355: HOLD_LIMIT_LAPSE: the slot becomes pre-emptible, and goes to the earliest pending queue. -/
def execHoldLimitLapse (fn q : Nat) (s : State) : Out :=
  match (s.queue fn q).holdEnd with
  | none => .next s
  | some t =>
    if s.pod < t then .next s
    else match s.firstPend with
      | none => .next (s.modQueue fn q fun x => { x with holdEnd := none })
      | some p =>
        .next (((s.modQueue fn q Queue.reclaim).modQueue p.1 p.2 fun x => x.grant s.pod (s.func p.1).npok).markPends)

/-! Notify registers. -/

/-- R352: the value T reaches a queue's notify register. -/
def State.notify (s : State) (fn q : Nat) (t : Word) : State :=
  let qu := s.queue fn q
  let dn := (t - qu.head).toNat
  let dc := (qu.tail - qu.head).toNat
  if 2 ^ qu.log2 < dn then s.queueError fn q 1
  else if dc < dn then (s.modQueue fn q fun x => { x with tail := t }).markPend fn q
  else s

/-- R407: the function has left this device by a migration: its session is done and it holds no VDN here. -/
def State.hasLeft (s : State) (fn : Nat) : Option Session :=
  (List.find? (fun (p : Nat × Session) => decide (p.2.fn = fn) && !p.2.dir && decide (p.2.state = 6) && !(s.func fn).vdnValid) s.sessions).map (·.2)

/-- R352, R407: NOTIFY_WRITE. A notify for a function that has left the device is forwarded within its window,
and dropped and counted after it. -/
def execNotifyWrite (fn q : Nat) (t : Word) (s : State) : Out :=
  if 256 ≤ q then .next s
  else match s.hasLeft fn with
    | none => .next (s.notify fn q t)
    | some _ =>
      match List.find? (fun (w : Nat × Nat × Nat) => decide (w.1 = (s.func fn).vdn.toNat)) s.windows with
      | some w => .next (s.send (.notify w.2.1 w.1 q t))
      | none => .next (s.modPart (s.partOf fn) fun p => { p with ndrop := satUp p.ndrop })

/-! JCAN. -/

/-- R359: the job is one of the function: commands or an enabled queue name it. -/
def State.jobNamed (s : State) (fn job : Nat) : Bool :=
  (s.job? fn job).isSome || (s.func fn).queues.any fun q => q.2.en && decide (q.2.job = job)

/-- R359: a write of JCAN. -/
def State.writeJcan (s : State) (v : Word) : State :=
  let old := s.jcan
  let err := if v.getLsbD 30 then 0 else old &&& 0x40000000#32
  let f := v &&& 0x033FFFFF#32
  if old.getLsbD 31 then { s with jcan := f ||| 0x80000000#32 ||| err }
  else
    let fn := bits v.toNat 21 16
    let job := bits v.toNat 15 0
    let lvl := bits v.toNat 25 24
    if !v.getLsbD 31 then { s with jcan := f ||| err }
    else if lvl < 2 || !s.jobNamed fn job then { s with jcan := f ||| 0x40000000#32 }
    else
      let s1 : State := { (s.ensureJob fn job) with jcan := f ||| 0x80000000#32, jcanOf := (fn, job) }
      if lvl = 2 then s1.cancelPhase fn job else s1.cancelJob fn job

/-- R359: the cancel that JCAN started is done: no graph of the job that was cancelled is left. -/
def State.jcanDone (s : State) : Bool :=
  s.jcan.getLsbD 31 && s.graphs.all fun g =>
    !(decide (g.2.fn = s.jcanOf.1) && decide (g.2.job = s.jcanOf.2) && g.2.cancelled)

/-- R359: JCAN_PHASE. -/
def execJcanPhase (v : Word) (s : State) : Out := .next (s.writeJcan v)
/-- R359: JCAN_JOB. -/
def execJcanJob (v : Word) (s : State) : Out := .next (s.writeJcan v)

/-! Registers of queues and functions that have rows of their own. -/

/-- R350, R208: QHEAD_WRITE: ignored while the queue is enabled; it ends the queue's skipping. -/
def execQheadWrite (fn q : Nat) (head : Word) (s : State) : Out :=
  let qu := s.queue fn q
  if qu.en then .next s
  else
    let ph := match s.job? fn qu.job with | some j => j.phase | none => 0
    .next (s.modQueue fn q fun x => { x with head := head, skipPhase := none, skipJob := false, phends := max x.phends ph })

/-- R349: the function is active: a gang of it is resident or a queue of it is enabled. -/
def State.fnActive (s : State) (fn : Nat) : Bool :=
  (s.func fn).queues.any (fun q => q.2.en) || s.groups.any fun g => decide (g.2.fn = fn) && g.2.started && !g.2.ended && !g.2.live.isEmpty

/-- R349: VFVDN_WRITE. -/
def execVfvdnWrite (fn : Nat) (v : Word) (s : State) : Out :=
  if s.fnActive fn then .next s
  else .next (s.modFunc fn fun f => { f with vdnValid := v.getLsbD 31, vdn := v.extractLsb' 0 12 })

/-! Offers. -/

/-- The event that processes the packet at a queue's head. -/
def State.commandAt (s : State) (fn q : Nat) : Instr :=
  match (s.packetAt fn q (s.queue fn q).head.toNat).map fun w => w.getD 0 0 % 256 with
  | some 1 => .cmdLaunch fn q
  | some 2 => .cmdGraph fn q
  | some 3 => .cmdPhend fn q
  | some 4 => .cmdProof fn q
  | some 5 => .cmdSignal fn q
  | some 6 => .cmdCopen fn q
  | some 7 => .cmdCclose fn q
  | some 8 => .cmdOvfadd fn q
  | some 9 => .cmdCancel fn q
  | _ => .cmdNop fn q

/-- What the queue controller may do now (log 22). -/
def State.queueOffers (s : State) : List Instr :=
  (s.allQueues.flatMap fun x =>
    (if s.canProcess x.1 x.2.1 then [s.commandAt x.1 x.2.1] else []) ++
    (match x.2.2.pending with
     | .signal _ _ _ _ _ .unsent :: _ => [Instr.signalWrite x.1 x.2.1 false]
     | .signal _ _ _ _ _ (.answered _) :: _ => [Instr.signalWrite x.1 x.2.1 false]
     | _ => []) ++
    (match x.2.2.holdEnd with
     | some t => if t ≤ s.pod then [Instr.holdLimitLapse x.1 x.2.1] else []
     | none => [])) ++
  (if s.slotsHeld < 512 then match s.bestAsk with
    | some p => [Instr.slotGrant p.1 p.2]
    | none => []
   else [])

end Sys2Proof.Machine
end

