-- ==== Sys2Proof/Machine/Ends.lean ====
section
/-! DEFINITION. Gangs and functions that end without a save (R377, R435, R440). -/
namespace Sys2Proof.Machine



/-- R377 step 2: a gang ends without a save: what it has in the engine, its copies, CREDs and SNAPs, its
reports, parked entries and packets go with it; replies still in flight are dropped under R255. -/
def State.killGang (s : State) (k sl : Nat) : State :=
  let gen := s.gen k sl
  let mine := fun (a b c : Nat) => !(decide (a = k) && decide (b = sl) && decide (c = gen))
  let s1 := { s with copies := s.copies.filter fun c => mine c.2.core c.2.slot c.2.gen, emits := s.emits.filter fun e => mine e.2.core e.2.slot e.2.gen,
                     creds := s.creds.filter fun c => mine c.2.core c.2.slot c.2.gen, snaps := s.snaps.filter fun c => mine c.2.core c.2.slot c.2.gen }
  (s1.gangEnd k sl).modCore k fun co => { co with mxOps := co.mxOps.filter fun m => !(decide (m.slot = sl) && decide (m.gen = gen)) }

/-- The gangs that a test on the core and the gang selects, the saved ones too. -/
def State.gangsWhere (s : State) (h : Nat → Gang → Bool) : List (Nat × Nat) :=
  s.cores.flatMap fun c => (c.2.gangs.filter fun p => h c.1 p.2).map fun p => (c.1, p.1)

/-- R377 steps 1 and 2, R435: nothing of a function's queues is served, and its gangs end without a save. -/
def State.killGangs (s : State) (h : Nat → Gang → Bool) : State := (s.gangsWhere h).foldl (fun s x => s.killGang x.1 x.2) s

/-- R377, R440: a function's gangs, groups, launches, graphs and jobs are gone. -/
def State.killFunction (s : State) (fn : Nat) : State :=
  let s1 := s.killGangs fun _ g => decide (g.fn = fn)
  { s1 with groups := s1.groups.filter fun p => decide (p.2.fn ≠ fn), launches := s1.launches.filter fun p => decide (p.2.fn ≠ fn),
            graphs := s1.graphs.filter fun p => decide (p.2.fn ≠ fn), jobs := s1.jobs.filter fun p => decide (p.2.fn ≠ fn),
            saved := s1.saved.filter fun p => decide (p.2.group.fn ≠ fn), cslots := s1.cslots.filter fun p => decide (p.2.fn ≠ fn) }

/-- R345, R440: the registers of a function that a Function Level Reset resets. -/
def Func.flr (f : Func) : Func := { f with evec := 0, evt := 0, evten := 0, queues := [], msixTable := [], pba := 0 }

end Sys2Proof.Machine
end

