-- ==== Sys2Proof/Machine/Proofs.lean ====
section
/-! DEFINITION. Proofs (spec/20): enabling and its sweep (R398), the proof point and its markers (R392, R393),
closing channels (R394), the drain and the record (R395 to R397), disabling (R398) and rollback (R399). -/
namespace Sys2Proof.Machine

/-! The memory that a function reaches. -/

/-- R364: how many entries a stage-2 table of a level has. -/
def levelEntries (lvl : Nat) : Nat := if lvl = 0 then 16 else if lvl = 4 then 32 else 512

/-- R398, R403: the leaves of KIND 000 and 001 from a table on, as (intermediate address, device address, size). -/
def State.leavesFrom (s : State) (fn : Nat) : Nat → Nat → Nat → Nat → List (Nat × Nat × Nat)
  | 0, _, _, _ => []
  | n + 1, lvl, ia, base =>
    (List.range (levelEntries lvl)).flatMap fun i =>
      let at0 := ia + i * 2 ^ levelShift lvl
      match s.entry2 fn (s.homeRead 0 (base + 8 * i) 8) lvl with
      | .bad => []
      | .table a => s.leavesFrom fn n (lvl + 1) at0 a
      | .leaf e => if bits e 7 5 ≤ 1 then [(at0, bits e 51 16 * 65536, 2 ^ levelShift lvl)] else []

/-- R398, R403: the leaves of KIND 000 and 001 of a function's stage 2. -/
def State.leaves (s : State) (fn : Nat) : List (Nat × Nat × Nat) :=
  let root := (s.func fn).s2root
  if root.getLsbD 0 then s.leavesFrom fn 5 0 0 (bits root.toNat 47 7 * 128) else []

/-- R398: the valid blocks that a function reaches, outside the proof stores. -/
def State.validBlocks (s : State) (fn : Nat) : List Nat :=
  let ls := s.leaves fn
  s.frames.flatMap fun f =>
    let pa := 65536 * f.1
    if (ls.any fun l => decide (l.2.1 ≤ pa) && decide (pa < l.2.1 + l.2.2)) && !s.inProofStore pa then
      ((List.range 16).filter fun j => f.2.vld.getLsbD j).map fun j => pa + 4096 * j
    else []

/-! Enabling. -/

/-- R398: PXCMD as it reads when a command is done. -/
def pxDone (cmd : Nat) (refused : Bool) : Word := BitVec.ofNat 32 (cmd + if refused then 2 ^ 30 else 0)

/-- R398: a context is enabled with an epoch, and its sweep starts. -/
def State.enableWith (s : State) (fn : Nat) (e : BitVec 2) : State :=
  let s1 := s.modPx fn fun p =>
    { p with en := true, e := e, head := 0, last := 0, first := p.proof + 1, busy := true, drain := false, pend := false, dead := false,
             openF := [], frozenF := [], openB := false, openBad := false, frozen := none, records := [], sent := [], recvd := [], marks := [],
             closed := [] }
  s1.modPx fn fun p => { p with sweep := s1.validBlocks fn }

/-- R398: PX_ENABLE. -/
def execPxEnable (fn : Nat) (s : State) : Out :=
  let p := s.px fn
  if p.en then .next (s.modPx fn fun p => { p with cmd := pxDone 1 true, ecode := 1 })
  else if p.len * 65536 < 16 * p.foln + 65536 then .next (s.modPx fn fun p => { p with cmd := pxDone 1 true, ecode := 2 })
  else .next ((s.modPx fn fun p => { p with cmd := 0x80000001#32 }).enableWith fn 1)

/-- R389, R398: the sweep is over, and with it the command that started it. -/
def Px.swept (p : Px) : Px := { p with busy := false, cmd := p.cmd &&& 0x7FFFFFFF#32 }

/-- R398: ENABLE_SWEEP_STEP: the next block takes the epoch unless a write has moved it there. -/
def execEnableSweepStep (fn : Nat) (s : State) : Out :=
  let p := s.px fn
  if !p.busy then .next s
  else match p.sweep with
    | [] => .next (s.modPx fn Px.swept)
    | b :: t =>
      let s1 := s.modPx fn fun p => if t.isEmpty then { p.swept with sweep := [] } else { p with sweep := t }
      if s1.blockValid b && s1.blockGen b == 0 then .next ((s1.setBlockGen b p.e).appendFolio fn b) else .next s1

/-! The proof point. -/

/-- R389: the members of a context's job. -/
def Px.members (p : Px) : List Nat :=
  ((List.range 16).filter fun k => p.mem.getLsbD (16 * k + 15)).map fun k => (p.mem.extractLsb' (16 * k) 12).toNat
/-- The members other than the function itself. -/
def State.others (s : State) (fn : Nat) : List Nat := (s.px fn).members.eraseDups.filter fun v => decide (v ≠ (s.func fn).vdn.toNat)

/-- R392: the releases of every SNAP of the function that has joined are complete. -/
def State.snapsReady (s : State) (fn : Nat) : Bool :=
  s.snaps.all fun p => decide (p.2.fn ≠ fn) || !s.accessBefore p.2.core p.2.slot p.2.gen p.2.seq p.2.level

/-- R392: the point of the next proof may be established. -/
def State.pointReady (s : State) (fn : Nat) : Bool :=
  let p := s.px fn
  p.en && p.pend && !p.drain && !p.busy && s.snapsReady fn && !s.stopPhase fn

/-- R204, R254, R392, R397: a SNAP receives the proof's number, or 0x32 when the proof cannot be taken; that of a halted gang in its
packet. -/
def State.snapDone (s : State) (id : Nat) (o : SnapOp) (k : Option Nat) : State :=
  let s1 := { s with snaps := Cells.del s.snaps id }
  match (if s.gen o.core o.slot = o.gen then s.gang? o.core o.slot else none) with
  | none => s1.late o.core
  | some g =>
    if g.away then
      (match k with
       | some n => s1.answerSync g (.snap id) o.active (List.replicate 32 n) 0
       | none => s1.answerSync g (.snap id) 0 [] (256 * 0x32)).modGang o.core o.slot fun g => { g with snapRes := g.snapRes ++ [(id, o)] }
    else match k with
      | some n => s1.modGang o.core o.slot fun g => g.putSnap o n
      | none => s1.report o.core o.slot o.gen 0x32 0

/-- R204: every SNAP of a function that has joined the proof. -/
def State.snapsDone (s : State) (fn : Nat) (k : Option Nat) : State :=
  (s.snaps.filter fun p => decide (p.2.fn = fn)).foldl (fun s p => s.snapDone p.1 p.2 k) s

/-- R395 QPOS: PROOF packets that stand in the ring from an index on are passed over. -/
def State.passProofs (s : State) (fn q : Nat) (tail : Word) : Nat → Word → Word
  | 0, i => i
  | n + 1, i =>
    if i = tail then i
    else match (s.packetAt fn q i.toNat).map fun w => w.getD 0 0 % 256 with
      | some 4 => s.passProofs fn q tail n (i + 1)
      | _ => i

/-- R395: QPOS of each queue that has one: the index after its last PHEND that ended a phase before the point (log 70). -/
def State.queuePositions (s : State) (fn : Nat) : List (Nat × Word) :=
  let ph := match s.job? fn (s.px fn).job with | some j => j.phase | none => 0
  (s.func fn).queues.filterMap fun x =>
    if x.2.en && decide (x.2.job = (s.px fn).job) then
      (x.2.qends.find? fun e => decide (e.1 < ph)).map fun e =>
        (x.1, if e.2 = x.2.head then s.passProofs fn x.1 x.2.tail (2 ^ x.2.log2) e.2 else e.2)
    else none

/-- R395: the length of a record, and of its header and folio. -/
def Px.recordLen (p : Px) (nf : Nat) : Nat := 4096 + pad4k (8 * nf) + 4096 * nf + pad4k (256 * p.chl)
def Px.headLen (nf : Nat) : Nat := 4096 + pad4k (8 * nf)

/-- R395: the header of a record: STATE, and the fields known at the point or at the end. -/
def headerBytes (r : PxRecord) (state : Nat) (prev : Option Nat) : List Byte :=
  toBytes 4 0x00010000 ++ toBytes 4 state ++ toBytes 4 r.k ++ toBytes 4 (r.epoch.toNat + 256 * r.origin) ++ toBytes 8 r.time ++ toBytes 4 r.nf ++
    toBytes 4 r.ns ++ toBytes 4 r.nch ++ toBytes 4 0 ++ toBytes 8 (prev.getD (2 ^ 64 - 1)) ++ toBytes (0x400 - 0x30) 0 ++
    (List.range 256).flatMap fun q => toBytes 4 (match r.qpos.find? fun x => decide (x.1 = q) with | some x => x.2.toNat | none => 2 ^ 32 - 1)

/-- R395, R397: writes the header of a record that has been reserved; a refused write fails the record. -/
def State.writeHeader (s : State) (fn : Nat) (r : PxRecord) (state : Nat) : State :=
  let p := s.px fn
  if r.len = 0 then s
  else match s.storeBytes fn (p.area + r.off) (headerBytes r state (p.records.getLast?.map (·.off))) with
    | some s1 => s1
    | none => s.failRecord fn

/-- R393, R432: the links on which a marker to a module is due: each that leads there, one that is down too while another replaces
it; where none is known to lead there, those that are up, and 18 for this module itself (log 73). -/
def State.linksTo (s : State) (m : Nat) : List Nat :=
  let up := (List.range 18).filter fun l => (Cells.getD s.links l Link.reset).up
  let direct := (List.range 18).filter fun l => (Cells.find? s.links l).any fun x => decide (x.farMod = m) && (x.up || !up.isEmpty)
  if m = s.modNo then direct ++ [18] else if direct.isEmpty then up else direct

/-- R393, R309: the virtual channels of the links to a module: one of each class (log 73). -/
def State.channels (s : State) (m : Nat) : List (Nat × Nat) := (s.linksTo m).flatMap fun l => (List.range 4).map fun v => (l, v)

/-- R393, R349: a marker on each virtual channel of every link to each member's module, with the count of requests sent to the
member. A function without a virtual device number sends none. -/
def State.sendMarkers (s : State) (fn : Nat) (k : Nat) (e : BitVec 2) : State :=
  (if (s.func fn).vdnValid then s.others fn else []).foldl (fun s v =>
    let m : Marker := { vdn := (s.func fn).vdn.toNat, job := (s.px fn).job, k := k, epoch := e, count := Cells.getD (s.px fn).sent v 0 }
    match s.resolve v with
    | some r => (s.channels r.1).foldl (fun s c => s.send (.marker c.1 c.2 r.1 v m)) s
    | none => s) s

/-- R394, R305: the requests to a function that are held arrive again. -/
def State.releaseHeld (s : State) (vdn : Nat) : State :=
  let mine := List.filter (fun (q : PeerReq) => decide (q.dst = vdn)) s.held
  { s with held := List.filter (fun (q : PeerReq) => decide (q.dst ≠ vdn)) s.held,
           agenda := s.agenda ++ mine.map fun q => (s.cycle, Instr.fabricRequestArrival q) }

/-- R392, R397: the context at its point: the epoch advances, the open folio is frozen and a record is reserved where its header and
folio fit. A chain in which a folio has overflowed goes on taking points (log 73). -/
def Px.atPoint (p : Px) (qpos : List (Nat × Word)) (time : Nat) : Px :=
  let k := p.proof + 1
  let e := nextEpoch p.e
  let nf := p.openF.length
  let whole := decide (p.area + p.head + p.recordLen nf ≤ p.end_)
  let part := decide (p.area + p.head + Px.headLen nf ≤ p.end_)
  let len := if whole then p.recordLen nf else if part then Px.headLen nf else 0
  let dead := p.dead || !part
  let failed := !whole || p.openBad
  let r : PxRecord :=
    { off := p.head, len := len, k := k, epoch := e, origin := p.origin, nf := nf, ns := 0, nch := 0, time := time, failed := failed, slots := [],
      chlog := [], folio := p.openF, qpos := if p.origin = 1 then qpos else [] }
  { p with e := e, proof := k, pend := false, drain := true, frozenF := p.openF, openF := [], openB := !p.openB, openBad := false,
           frozen := some r, head := p.head + len, dead := dead, ecode := if dead then 7 else if failed then 6 else p.ecode,
           last := if dead then 0 else p.last, first := if dead then 0 else p.first,
           closed := [], recvd := p.recvd.filter fun x => decide (x.1 % 4 ≠ e.toNat) }

/-- R356: the PROOF commands that the point serves: those whose boundary has been reached. -/
def State.proofsServed (s : State) (fn job : Nat) : State :=
  ((s.modJob fn job fun j => { j with proofAt := j.proofAt.filter fun p => decide (j.phase ≤ p) }).settleJob fn job).settleQueues fn

/-- R392, R393: PROOF_POINT. -/
def execProofPoint (fn : Nat) (s : State) : Out :=
  if !s.pointReady fn then .next s
  else
    let p1 := (s.px fn).atPoint (s.queuePositions fn) (s.guestTime fn)
    let s1 := s.modPx fn fun _ => p1
    let s2 := match p1.frozen with
      | some r => s1.writeHeader fn r (if r.failed then 2 else 0)
      | none => s1
    let ok := match (s2.px fn).frozen with
      | some r => !r.failed
      | none => false
    let s3 := s2.snapsDone fn (if ok then some p1.proof else none)
    let s4 := (s3.sendMarkers fn p1.proof p1.e).modPx fn fun p => { p with sent := [] }
    .next (((s4.closeChannels fn).proofsServed fn p1.job).releaseHeld (s.func fn).vdn.toNat)

/-! Markers and channels. -/

/-- R407: a marker for a function that has left follows it within its window. -/
def State.forwardMarker (s : State) (fn : Nat) (m : Marker) : State :=
  match s.hasLeft fn, s.window? (s.func fn).vdn.toNat with
  | some _, some mo => ((s.channels mo).take 1).foldl (fun s c => s.send (.marker c.1 c.2 mo (s.func fn).vdn.toNat m)) s
  | _, _ => s

/-- R392, R394, R410: BLAZE_MARKER_ARRIVAL: one that is ahead triggers the point; one for the closed epoch may close
its channel; a second marker for the same proof is ignored. In the stop phase a marker is held until the function is served again. -/
def execBlazeMarkerArrival (fn : Nat) (m : Marker) (s : State) : Out :=
  let p := s.px fn
  let key := 4 * m.vdn + (prevEpoch m.epoch).toNat
  if s.stopPhase fn then .next (s.after 1 (.blazeMarkerArrival fn m))
  else if !p.en || !p.isMember m.vdn || m.job ≠ p.job then .next (s.forwardMarker fn m)
  else
    let s1 := if (Cells.find? p.marks key).isSome then s else s.modPx fn fun p => { p with marks := Cells.put p.marks key m.count }
    if m.epoch = nextEpoch p.e then .next (s1.trigger fn 2) else .next (s1.closeChannels fn)

/-! The drain. -/

/-- R396: every member's channel has closed. -/
def State.channelsClosed (s : State) (fn : Nat) : Bool := (s.others fn).all fun v => (s.px fn).closed.contains v

/-- R397: a failed record's folio: the whole frozen folio. -/
def State.writeFolio (s : State) (fn at0 : Nat) : List Nat → State
  | [] => s
  | b :: t => match s.storeBytes fn at0 (toBytes 8 b) with
    | some s1 => s1.writeFolio fn (at0 + 8) t
    | none => s

/-- R396, R397: the drain is over: the record is written out, and the frozen buffer is empty. -/
def State.drainDone (s : State) (fn : Nat) (r : PxRecord) : State :=
  let p := s.px fn
  let s1 := if r.len = 0 || !r.failed then s else s.writeFolio fn (p.area + r.off + 4096) r.folio
  let s2 := s1.writeHeader fn r (if r.failed then 2 else 1)
  let r2 := ((s2.px fn).frozen).getD r
  let old := (prevEpoch p.e).toNat
  s2.modPx fn fun p =>
    { p with drain := false, frozen := none, frozenF := [], records := p.records ++ [r2], last := if r2.failed || p.dead then p.last else r2.k,
             marks := p.marks.filter fun x => decide (x.1 % 4 ≠ old), recvd := p.recvd.filter fun x => decide (x.1 % 4 ≠ old), closed := [] }

/-- R396, R397: DRAIN_STEP: the next entry of the frozen folio, or the end of the drain. -/
def execDrainStep (fn : Nat) (s : State) : Out :=
  let p := s.px fn
  match p.frozen with
  | none => .next s
  | some r =>
    match p.frozenF with
    | b :: t =>
      let s1 := s.modPx fn fun p => { p with frozenF := t }
      if s1.blockGen b = prevEpoch p.e then .next ((s1.copyBlock fn b).setBlockGen b 0) else .next s1
    | [] => if s.channelsClosed fn then .next (s.drainDone fn r) else .next s

/-! Disabling. -/

/-- R398: DISABLE. -/
def State.pxDisable (s : State) (fn : Nat) : State :=
  let p := s.px fn
  let blocks := p.openF ++ p.frozenF ++ (match p.frozen with | some r => r.folio | none => [])
  let s1 := blocks.foldl (fun s b => s.setBlockGen b 0) s
  let s2 := s1.modPx fn fun p =>
    { p with en := false, e := 0, last := 0, first := 0, records := [], frozen := none, frozenF := [], openF := [], drain := false, busy := false,
             pend := false, sweep := [], closed := [], marks := [], recvd := [], sent := [], dead := false }
  let s3 := (s2.snapsDone fn none).modJob fn p.job fun j => { j with proofAt := [] }
  ((s3.settleJob fn p.job).settleQueues fn).releaseHeld (s.func fn).vdn.toNat

/-- R398: PX_DISABLE is never refused. -/
def execPxDisable (fn : Nat) (s : State) : Out := .next ((s.pxDisable fn).modPx fn fun p => { p with cmd := pxDone 2 false })

/-! Rollback. -/

/-- R399: a gang of the function is resident. -/
def State.fnResident (s : State) (fn : Nat) : Bool := s.cores.any fun c => decide (c.1 < 1024) && c.2.gangs.any fun g => decide (g.2.fn = fn)

/-- R399: the blocks that a rollback to proof n restores. -/
def Px.touched (p : Px) (n : Nat) : List Nat :=
  (((p.records.filter fun r => decide (n < r.k)).flatMap (·.slots)) ++ ((p.records.filter fun r => decide (n < r.k) && r.failed).flatMap (·.folio)) ++
    p.frozenF ++ p.openF).eraseDups

/-- R399: the newest record of the chain up to n whose folio lists a block, and its slot. -/
def Px.newestOf (p : Px) (n b : Nat) : Option (PxRecord × Nat) :=
  (p.records.filter fun r => decide (p.first ≤ r.k) && decide (r.k ≤ n)).reverse.findSome? fun r => (r.slots.findIdx? fun x => decide (x = b)).map fun i => (r, i)

/-- R399: the code a rollback to n is refused with. -/
def State.rollbackCode (s : State) (fn n : Nat) : Option Nat :=
  let p := s.px fn
  if !p.en || n = 0 || decide (n < p.first) || decide (p.last < n) ||
      p.records.any fun r => decide (p.first ≤ r.k) && decide (r.k ≤ n) && r.failed then some 3
  else if s.fnResident fn || ((s.func fn).queues.any fun q => q.2.en) || p.drain || p.busy then some 4
  else if (p.touched n).any fun b => (s.frame b).keyid != s.keyOf fn then some 5
  else none

/-- R386: sets V of a block. -/
def State.setValid (s : State) (pa : Nat) (v : Bool) : State :=
  let f := s.frame pa
  let bit := BitVec.ofNat 16 (2 ^ blockOf pa)
  { s with frames := Cells.put s.frames (pa / 65536) { f with vld := if v then f.vld ||| bit else f.vld &&& ~~~bit } }

/-- R399: one block is restored. -/
def State.restoreBlock (s : State) (fn n b : Nat) : State :=
  let p := s.px fn
  let s1 : State := { s with dirty := Cells.clear s.dirty b 4096, poison := s.poison.filter fun l => decide (l / 4096 ≠ b / 4096) }
  let s2 := match p.newestOf n b with
    | some x => ({ s1 with mem := Memory.move s1.mem (x.1.slotAddr p x.2) b 4096 } : State).setValid b true
    | none => s1.setValid b false
  let s3 := if s2.tracking fn then s2.markDirtyBlock b else s2
  s3.setBlockGen b 0

/-- R399: the context after a rollback to n. -/
def Px.rolledBack (p : Px) (n : Nat) : Px :=
  let keep := p.records.filter fun r => decide (r.k ≤ n)
  let last := keep.getLast?
  { p with records := keep, head := (last.map fun r => r.off + r.len).getD p.head, e := (last.map (·.epoch)).getD p.e, openF := [], frozenF := [],
           openBad := false, last := n, proof := n, rollbk := n, pend := false, sent := [], recvd := [], marks := [], closed := [] }

/-- R399: QHEAD of the queues that a record's QPOS names, and the end of every queue's skipping. -/
def State.rollbackQueues (s : State) (fn : Nat) (r : PxRecord) : State :=
  let job := (s.px fn).job
  let ph := match s.job? fn job with | some j => j.phase | none => 0
  let s1 := if r.origin = 1 then r.qpos.foldl (fun s x => s.modQueue fn x.1 fun q => { q with head := x.2, qends := [(ph - 1, x.2)] }) s else s
  s1.modJobQueues fn job fun q => { q with skipPhase := none, skipJob := false, phends := max q.phends ph }

/-- R399: PX_ROLLBACK. -/
def execPxRollback (fn : Nat) (s : State) : Out :=
  let p := s.px fn
  let n := p.num.toNat
  match s.rollbackCode fn n with
  | some c => .next (s.modPx fn fun p => { p with cmd := pxDone 3 true, ecode := c })
  | none =>
    let s1 := (p.touched n).foldl (fun s b => s.restoreBlock fn n b) s
    let s2 := (s1.snapsDone fn none).modPx fn fun p => { p.rolledBack n with cmd := pxDone 3 false }
    match p.records.find? fun r => decide (r.k = n) with
    | none => .next s2
    | some r =>
      let s3 := r.chlog.foldl (fun s q => match s.performPeer fn q with
        | .ok x => x.1
        | .error _ => s) s2
      .next (s3.rollbackQueues fn r)

/-! Offers. -/

/-- What proof contexts may do now. -/
def State.proofOffers (s : State) : List Instr :=
  s.funcs.flatMap fun f =>
    let p := f.2.px
    (if p.busy then [Instr.enableSweepStep f.1] else []) ++ (if s.pointReady f.1 then [Instr.proofPoint f.1] else []) ++
      if p.frozen.isSome && (!p.frozenF.isEmpty || s.channelsClosed f.1) then [Instr.drainStep f.1] else []

end Sys2Proof.Machine
end

