-- ==== Sys2Proof/Machine/Migrate.lean ====
section
/-! DEFINITION. Live migration (spec/20): sessions and their commands (R401, R403), pre-copy (R403), the stop
phase (R404) and its record (R405), resume, redirects and forwarding (R402, R406, R407), TIME (R408), PAUSE and
RESUME (R409) and failures (R411). -/
namespace Sys2Proof.Machine

def State.session (s : State) (n : Nat) : Session := Cells.getD s.sessions n Session.reset
def State.modSession (s : State) (n : Nat) (h : Session → Session) : State := { s with sessions := Cells.put s.sessions n (h (s.session n)) }

/-! Commands. -/

/-- R403: no gang of the function is resident and no queue of it is enabled. -/
def State.fnIdle (s : State) (fn : Nat) : Bool := !s.fnResident fn && !((s.func fn).queues.any fun q => q.2.en)

/-- R401: a session whose command may start something: it is idle, done or failed. -/
def Session.free (x : Session) : Bool := decide (x.state = 0) || decide (x.state = 6) || decide (x.state = 7)

/-- R403: MS_ACCEPT: a destination session goes to INCOMING; otherwise nothing happens (log 31). -/
def execMsAccept (n : Nat) (s : State) : Out :=
  let x := s.session n
  let s1 := s.modSession n fun x => { x with cmd := 4 }
  if 4 ≤ n then .next s
  else if x.dir && x.free && s.fnIdle x.fn then .next (s1.modSession n fun x => { x with state := 8, ecode := 0, round := 0, dirty := 0 }) else .next s1

/-- R403: the blocks that a function's leaves reach, as (intermediate address, device address). -/
def State.walkBlocks (s : State) (fn : Nat) : List (Nat × Nat) :=
  (s.leaves fn).flatMap fun l => (List.range (l.2.2 / 4096)).map fun j => (l.1 + 4096 * j, l.2.1 + 4096 * j)

/-- R386: MD of a block. -/
def State.blockDirty (s : State) (pa : Nat) : Bool := (s.frame pa).md.getLsbD (blockOf pa)
def State.clearDirty (s : State) (pa : Nat) : State :=
  { s with frames := Cells.put s.frames (pa / 65536) { s.frame pa with md := (s.frame pa).md &&& ~~~(BitVec.ofNat 16 (2 ^ blockOf pa)) } }

/-- R403: sends every block, or those whose MD is 1, to the other end; each is read as its MD is cleared. -/
def State.sendBlocks (s : State) (n : Nat) (every : Bool) : State :=
  let x := s.session n
  let l := (s.walkBlocks x.fn).filter fun b => every || s.blockDirty b.2
  let s1 := l.foldl (fun s b =>
    let v := s.blockValid b.2
    (s.clearDirty b.2).send (.block x.peer b.1 2 v (if v then s.homeBytes (s.keyOf x.fn) b.2 4096 else []))) s
  s1.modSession n fun x => { x with unacked := l.length }

/-- R403: MS_START: the source goes to TRACK, and its first round sends every block. -/
def execMsStart (n : Nat) (incoming : Bool) (s : State) : Out :=
  let x := s.session n
  let s1 := s.modSession n fun x => { x with cmd := 1 }
  if 4 ≤ n then .next s
  else if x.dir || !x.free then .next s1
  else if !incoming then .next (s1.modSession n fun x => { x with ecode := 1 })
  else .next ((s1.modSession n fun x => { x with state := 1, ecode := 0, round := 0, dirty := 0, stop := false }).sendBlocks n true)

/-- R403: MS_STOP asks for the stop phase. -/
def execMsStop (n : Nat) (s : State) : Out :=
  if 4 ≤ n then .next s else .next (s.modSession n fun x => { x with cmd := 2, stop := x.stop || decide (x.state = 1) })

/-- R403: the stop phase may begin: after a round with few dirty blocks, after the last round, or on STOP. -/
def Session.stopDue (x : Session) : Bool :=
  x.stop || (decide (0 < x.round) && (decide (x.dirty * 4096 ≤ x.resid * 2 ^ 30) || decide (x.maxr ≤ x.round)))

/-- R403, R404: PRECOPY_ROUND_END: every block of the round, or of the transfer, has been acknowledged. -/
def execPrecopyRoundEnd (n : Nat) (s : State) : Out :=
  let x := s.session n
  if x.dir then .next s
  else if x.state = 4 then .next (s.modSession n fun x => { x with state := 5, unacked := 0 })
  else if x.state ≠ 1 || (x.stopDue && decide (0 < x.round) && decide (x.unacked = 0)) then .next s
  else
    let d := ((s.walkBlocks x.fn).filter fun b => s.blockDirty b.2).length
    let s1 := s.modSession n fun x => { x with round := x.round + 1, dirty := d, unacked := 0 }
    if (s1.session n).stopDue then .next s1 else .next (s1.sendBlocks n false)

/-- R403: writes a pre-copied block at the destination, one line at a time. -/
def State.writeBlock (s : State) (fn pa : Nat) (data : List Byte) : State :=
  (List.range 32).foldl (fun s j => s.fnWrite fn (pa + 128 * j) false ((List.range 128).map fun i => data.getD (128 * j + i) 0)) s

/-- R403: PRECOPY_BLOCK_ARRIVAL: the block is written through the destination's own stage 2, or made invalid;
without a leaf of KIND 000 or 001 the session fails. -/
def execPrecopyBlockArrival (n ia : Nat) (valid : Bool) (data : List Byte) (s : State) : Out :=
  let x := s.session n
  if !x.dir || x.state ≠ 8 then .next s
  else match s.lookup2 x.fn ia with
    | some l =>
      if l.kind ≤ 1 then
        let pa := l.addr + ia % 65536
        .next (if valid then s.writeBlock x.fn pa data else s.setValid pa false)
      else .next (s.modSession n fun x => { x with state := 7, ecode := 2 })
    | none => .next (s.modSession n fun x => { x with state := 7, ecode := 2 })

/-! The stop phase. -/

/-- R409: PAUSE or RESUME to the roots of a function's collective slots. -/
def State.noticeRoots (s : State) (fn : Nat) (pause : Bool) : State :=
  (s.cslots.filter fun c => decide (c.2.fn = fn)).foldl (fun s c =>
    if c.2.root = s.ownVdn c.2 then
      (if pause then s.modSlot c.1 fun c => { c with paused := true } else s.later (.slotResume c.1))
    else s.send (if pause then .pause c.1 c.2.root else .resume c.1 c.2.root)) s

/-- R404: STOP_PHASE_BEGIN: every gang of the function receives a halt request with 0x36, into the frame that the
firmware chooses, and PAUSE notices go out. -/
def execStopPhaseBegin (n : Nat) (s : State) : Out :=
  let x := s.session n
  let p := s.px x.fn
  if x.dir || x.state ≠ 1 || !x.stopDue || p.pend || p.drain || p.busy then .next s
  else
    let gangs := s.gangsWhere fun k g => decide (k < 1024) && decide (g.fn = x.fn)
    let s1 := s.modSession n fun x => { x with state := 2, t0 := s.pod }
    let s2 := gangs.foldl (fun s y => match s.gang? y.1 y.2 with
      | some g => s.requestHalt y.1 y.2 0x36 (32 * g.group + g.gid)
      | none => s) s1
    let halt := fun (g : Nat × Group) => if g.2.fn = x.fn then (g.1, { g.2 with halting := true }) else g
    .next (({ s2 with groups := s2.groups.map halt } : State).noticeRoots x.fn true)

/-! The function state record. -/

/-- R350: the eight words of a queue block. -/
def Queue.words (q : Queue) : List Nat :=
  [q.base % 2 ^ 32, q.base / 2 ^ 32,
   q.hold * 2 ^ 24 + q.qweight * 2 ^ 16 + q.log2 * 32 + (if q.np then 2 else 0) + (if q.en then 1 else 0), q.job, q.head.toNat, q.tail.toNat,
   q.ecode * 2 ^ 16 + (if q.idle then 8 else 0) + (if q.err then 4 else 0) + (if q.pend.isSome then 2 else 0) + (if q.slot then 1 else 0), 0]

/-- Fields as (offset, bytes, value). -/
def wordFields (at0 : Nat) (l : List Nat) : List (Nat × Nat × Nat) := l.mapIdx fun i v => (at0 + 4 * i, 4, v)

/-- R405: the record of a function whose groups are saved. The places of the fields within each section, but for
VERSION, the registers and the queue blocks, are the model's own, and the shadow section stays zero (log 30). -/
def State.recordFieldsOf (s : State) (fn : Nat) (t0 : Nat) : List (Nat × Nat × Nat) :=
  let f := s.func fn
  let p := f.px
  [(0, 4, 0x00010000), (4, 4, fn), (8, 4, f.vdn.toNat), (12, 4, p.job), (16, 8, (t0 + f.timeOff) / 11), (24, 8, t0 / 11)] ++
  [(0x1004, 4, f.evec * 2 ^ 16 + f.weight), (0x1008, 4, f.evt.toNat), (0x100C, 4, f.evten.toNat), (0x1100, 8, f.s1root.toNat),
   (0x1108, 8, f.s1iaddr.toNat), (0x1110, 4, f.s1ictl.toNat % 2 ^ 31)] ++
  (f.queues.flatMap fun q => wordFields (0x2000 + 32 * q.1) q.2.words) ++
  [(0x4000, 8, f.gtvec.toNat), (0x4008, 8, f.deleg.toNat), (0x4010, 8, f.ctxbase.toNat)] ++
  ((s.saved.filter fun g => decide (g.2.group.fn = fn)).mapIdx fun i g =>
    [(0x4020 + 16 * i, 8, g.2.frame), (0x4028 + 16 * i, 4, g.2.group.setsz), (0x402C + 16 * i, 4, g.2.group.groupId % g.2.group.setsz)]).flatten ++
  ((s.cslots.filter fun c => decide (c.2.fn = fn)).flatMap fun c =>
    wordFields (0x8000 + 128 * c.1) [1, c.2.job, c.2.p, c.2.timeout, c.2.round.toNat, c.2.members.length] ++
      c.2.members.mapIdx fun j m => (0x8020 + 128 * c.1 + 2 * j, 2, m)) ++
  [(0xA000, 4, p.e.toNat), (0xA004, 4, p.proof + 1), (0xA008, 4, p.job), (0xA00C, 4, if p.en then 1 else 0), (0xA010, 32, p.mem.toNat), (0xA030, 4, p.rollbk)]

/-! What moves beside the registers (R405 to R407, R410). -/

/-- What of a function's work moves: everything but lines of landings, which are filled again. -/
def State.shadowOf (s : State) (fn : Nat) : Shadow :=
  let saved := s.saved.filter fun p => decide (p.2.group.fn = fn)
  let cores := s.cores.filter fun p => saved.any fun x => decide (p.1 = savedCore x.1)
  let p := s.px fn
  { next := s.nextId, queues := (s.func fn).queues, jobs := (s.jobs.filter fun j => decide (j.2.fn = fn)).map (·.2),
    launches := s.launches.filter fun l => decide (l.2.fn = fn), graphs := s.graphs.filter fun g => decide (g.2.fn = fn),
    cslots := s.cslots.filter fun c => decide (c.2.fn = fn), saved := saved, cores := cores,
    reqs := s.reqs.filter fun r => decide (r.2.fn = fn) && (match r.2.own with | .landing _ _ _ => false | _ => true),
    copies := s.copies.filter fun c => decide (c.2.fn = fn), emits := s.emits.filter fun e => cores.any fun c => decide (c.1 = e.2.core),
    creds := s.creds.filter fun c => decide (c.2.fn = fn), snaps := s.snaps.filter fun c => decide (c.2.fn = fn),
    pend := if p.pend then some p.origin else none, sent := p.sent, recvd := p.recvd, marks := p.marks }

/-- The new name of a core's number: only those that stand for saved groups have one. -/
def shiftCore (d k : Nat) : Nat := if 1024 ≤ k then k + d else k

/-- Identities d further on, and the function's number on this device. -/
def Owner.shift (d fn : Nat) : Owner → Owner
  | .piece c p => .piece (c + d) p
  | .signal _ q => .signal fn q
  | .batch l => .batch (l + d)
  | o => o
def Req.shift (d fn : Nat) (now : Nat) (r : Req) : Req :=
  { r with core := shiftCore d r.core, fn := fn, group := r.group + d, own := r.own.shift d fn, sent := r.sent.map fun _ => now,
           turn := if r.turn = 0 then 0 else r.turn + 2 * d,
           tgt := match r.tgt with | .scratch g => .scratch (g + d) | t => t }
def PacketRef.shift (d : Nat) : PacketRef → PacketRef
  | .awaited ids => .awaited (ids.map (· + d))
  | .copy id => .copy (id + d)
  | .emit id => .emit (id + d)
  | .cred id => .cred (id + d)
  | .snap id => .snap (id + d)
  | x => x
def CredOp.shift (d fn : Nat) (o : CredOp) : CredOp := { o with core := shiftCore d o.core, fn := fn, group := o.group + d }
def SnapOp.shift (d fn : Nat) (o : SnapOp) : SnapOp := { o with core := shiftCore d o.core, fn := fn }
def Copy.shift (d fn : Nat) (c : Copy) : Copy :=
  { c with core := shiftCore d c.core, fn := fn, group := c.group + d, asked := c.asked.map fun a => (a.1 + d, a.2) }
def EmitOp.shift (d : Nat) (e : EmitOp) : EmitOp := { e with core := shiftCore d e.core, group := e.group + d, graph := e.graph + d }
def Parked.shift (d fn now : Nat) (e : Parked) : Parked :=
  { e with lines := e.lines.map fun r => r.shift d fn now, mx := e.mx.map fun m => { m with group := m.group + d } }
def Gang.shift (d fn now : Nat) (g : Gang) : Gang :=
  { g with fn := fn, group := g.group + d, olog := g.olog.map fun e => e.shift d fn now, packets := g.packets.map fun r => r.shift d fn now,
           results := g.results.map fun p => (p.1 + d, p.2.shift d fn now), credRes := g.credRes.map fun p => (p.1 + d, p.2.shift d fn),
           snapRes := g.snapRes.map fun p => (p.1 + d, p.2.shift d fn), pkts := g.pkts.map fun p => (p.1.shift d, p.2) }
def Launch.shift (d fn : Nat) (l : Launch) : Launch := { l with fn := fn, graph := l.graph + d, lands := [], staged := [] }
def Graph.shift (d fn : Nat) (g : Graph) : Graph := { g with fn := fn, nodes := g.nodes.map fun n => { n with launch := n.launch + d } }
def Saved.shift (d fn : Nat) (x : Saved) : Saved := { x with group := { x.group with fn := fn, launch := x.group.launch + d } }
def Pending.shift (d : Nat) : Pending → Pending
  | .launch k => .launch (k + d)
  | .graph k => .graph (k + d)
  | .signal id addr value irq vec write => .signal (id + d) addr value irq vec write
  | x => x

/-- R404, R406: the shadow state of a queue; one that held a slot asks for one again. -/
def Queue.adopt (d : Nat) (q x : Queue) : Queue :=
  { q with phends := x.phends, qends := x.qends, pending := x.pending.map (Pending.shift d), skipPhase := x.skipPhase, skipJob := x.skipJob,
           again := x.again || x.slot }

/-- Puts cells d further on. -/
def putShifted {α : Type} (d : Nat) (f : α → α) (m l : Cells α) : Cells α := l.foldl (fun m p => Cells.put m (p.1 + d) (f p.2)) m

/-- R406: the function's launches, groups, gangs and operations stand on this device, under identities of their own. -/
def State.adopt (s : State) (fn : Nat) (sh : Shadow) : State :=
  let d := s.nextId
  let now := s.cycle
  let s1 : State :=
    { s with nextId := d + sh.next, jobs := sh.jobs.foldl (fun m j => Cells.put m (jobKey fn j.job) { j with fn := fn }) s.jobs,
             launches := putShifted d (Launch.shift d fn) s.launches sh.launches, graphs := putShifted d (Graph.shift d fn) s.graphs sh.graphs,
             saved := putShifted d (Saved.shift d fn) s.saved sh.saved,
             cores := putShifted d (fun c => { c with gangs := c.gangs.map fun g => (g.1, g.2.shift d fn now) }) s.cores sh.cores,
             reqs := putShifted d (Req.shift d fn now) s.reqs sh.reqs, copies := putShifted d (Copy.shift d fn) s.copies sh.copies,
             emits := putShifted d (EmitOp.shift d) s.emits sh.emits, creds := putShifted d (CredOp.shift d fn) s.creds sh.creds,
             snaps := putShifted d (SnapOp.shift d fn) s.snaps sh.snaps,
             cslots := sh.cslots.foldl (fun m c => Cells.put m c.1 { c.2 with fn := fn, start := c.2.start.map fun _ => s.cycle }) s.cslots }
  s1.modFunc fn fun f => { f with queues := f.queues.map fun q => (q.1, match Cells.find? sh.queues q.1 with
    | some x => q.2.adopt d x
    | none => q.2) }

/-- R393, R410: a proof that was pending is established here, and the counts of the channels go on. -/
def Px.adopt (p : Px) (sh : Shadow) : Px :=
  { p with pend := p.en && sh.pend.isSome, origin := sh.pend.getD p.origin, sent := sh.sent, recvd := sh.recvd, marks := sh.marks }

/-- R405: the record's 512 KiB. -/
def recordSize : Nat := 524288

/-- R404, R405: writes the record to the staging area. -/
def State.writeStateRecord (s : State) (n : Nat) : State :=
  let x := s.session n
  let m := fieldBytes (s.recordFieldsOf x.fn x.t0)
  let s1 : State := { s with mem := m.foldl (fun a e => Memory.setByte a (x.stg + e.1) e.2) (Cells.clear s.mem x.stg recordSize) }
  (List.range (recordSize / 4096)).foldl (fun s j => s.setValid (x.stg + 4096 * j) true) s1

/-- R404: the record goes out. -/
def State.sendStateRecord (s : State) (n : Nat) : State :=
  let x := s.session n
  let m := fieldBytes (s.recordFieldsOf x.fn x.t0)
  s.send (.record x.peer ((List.range recordSize).map fun i => Memory.byte m i) (s.shadowOf x.fn))

/-- R404: no request of the function is in flight on this device or to the host, but for lines of landings. -/
def State.onlyAbroad (s : State) (fn : Nat) : Bool :=
  s.reqs.all fun r => decide (r.2.fn ≠ fn) || (match r.2.tgt with | .peer _ _ => true | _ => false) || (match r.2.own with | .landing _ _ _ => true | _ => false)

/-- R404: the steps of the stop phase that follow by themselves: QUIESCE is over once every gang is halted, SAVE
once every group is saved; then the dirty blocks and the record are sent. -/
def State.settleSession (s : State) (n : Nat) : State :=
  let x := s.session n
  if x.dir then s
  else if x.state = 2 then
    if s.cores.all fun c => decide (1024 ≤ c.1) || c.2.gangs.all fun g => decide (g.2.fn ≠ x.fn) || g.2.isHalted then
      s.modSession n fun x => { x with state := 3 }
    else s
  else if x.state = 3 then
    if !s.fnResident x.fn && (s.groups.all fun g => decide (g.2.fn ≠ x.fn)) && s.onlyAbroad x.fn then
      (((s.writeStateRecord n).sendBlocks n false).sendStateRecord n).modSession n fun x => { x with state := 4 }
    else s
  else s

/-! Failures. -/

/-- R411: a source session fails, or is aborted, in the stop phase: the function resumes on this device. -/
def State.resumeHere (s : State) (fn : Nat) : State :=
  let back := fun (g : Nat × Group) => if g.2.fn = fn && g.2.halting && !g.2.debug then (g.1, { g.2 with halting := false }) else g
  let undo := fun (g : Gang) => if g.fn = fn then { g with halt := g.halt.bind fun h => if h.taken then some h else none } else g
  let cores := fun (c : Nat × Core) => (c.1, { c.2 with gangs := c.2.gangs.map fun g => (g.1, undo g.2) })
  let taken := s.gangsWhere fun k g => decide (k < 1024) && decide (g.fn = fn) && g.isHalted
  let s1 : State := { s with cores := s.cores.map cores, groups := if taken.isEmpty then s.groups.map back else s.groups }
  ((s1.noticeRoots fn false).releaseHeld (s.func fn).vdn.toNat)

/-- R411: a session fails with a code. -/
def State.failSession (s : State) (n code : Nat) : State :=
  let x := s.session n
  if x.dir then (if x.state = 8 then s.modSession n fun x => { x with state := 0, ecode := code } else s)
  else if x.state = 1 then s.modSession n fun x => { x with state := 7, ecode := code }
  else if 2 ≤ x.state ∧ x.state ≤ 4 then (s.modSession n fun x => { x with state := 7, ecode := code }).resumeHere x.fn
  else s

/-- R411, R435, R440: every session of the functions that a test selects fails. -/
def State.failSessions (s : State) (h : Session → Bool) (code : Nat) : State :=
  (s.sessions.filter fun x => h x.2).foldl (fun s x => s.failSession x.1 code) s

/-- R411: MS_ABORT. -/
def execMsAbort (n : Nat) (s : State) : Out :=
  let x := s.session n
  let s1 := s.modSession n fun x => { x with cmd := 3 }
  if 4 ≤ n then .next s
  else if x.state = 5 ∨ x.state = 6 then .next (s1.modSession n fun x => { x with ecode := 4 })
  else if 2 ≤ x.state ∧ x.state ≤ 4 then .next ((s1.modSession n fun x => { x with state := 7 }).resumeHere x.fn)
  else .next (s1.modSession n fun x => { x with state := 0, stop := false })

/-! Resume. -/

/-- R350: a queue from the words of its block; it holds no slot. -/
def queueOfWords (x : Nat → Nat) (hold : Nat) : Queue :=
  { Queue.reset with
    base := x 0 + 2 ^ 32 * x 1, hold := min (bits (x 2) 31 24) hold, qweight := bits (x 2) 23 16, log2 := bits (x 2) 9 5, np := (x 2).testBit 1,
    en := (x 2).testBit 0, job := x 3, head := BitVec.ofNat 32 (x 4), tail := BitVec.ofNat 32 (x 5), ecode := bits (x 6) 23 16,
    err := (x 6).testBit 2 }

/-- R406: the function's registers from a record. -/
def Func.load (f : Func) (r : Nat → Nat → Nat) (now : Nat) : Func :=
  let halt := r 16 8
  let time := max (halt + (now / 11 - r 24 8)) (halt + 1)
  { f with vdn := BitVec.ofNat 12 (r 8 4), vdnValid := true, evec := bits (r 0x1004 4) 21 16, evt := BitVec.ofNat 6 (r 0x1008 4),
           evten := BitVec.ofNat 6 (r 0x100C 4), s1root := BitVec.ofNat 64 (r 0x1100 8), s1iaddr := BitVec.ofNat 64 (r 0x1108 8),
           s1ictl := BitVec.ofNat 32 (r 0x1110 4), gtvec := BitVec.ofNat 64 (r 0x4000 8), deleg := BitVec.ofNat 64 (r 0x4008 8),
           ctxbase := BitVec.ofNat 64 (r 0x4010 8), timeOff := 11 * time - now,
           queues := ((List.range 256).filter fun q => decide (r (0x2008 + 32 * q) 4 ≠ 0)).map fun q =>
             (q, queueOfWords (fun i => r (0x2000 + 32 * q + 4 * i) 4) f.holdmax) }

/-- R406: the collective slots of a record. -/
def recordSlots (r : Nat → Nat → Nat) (fn : Nat) : List (Nat × CSlot) :=
  ((List.range 64).filter fun n => decide (r (0x8000 + 128 * n) 4 = 1)).map fun n =>
    let w := fun i => r (0x8000 + 128 * n + 4 * i) 4
    (n, { fn := fn, job := w 1, p := w 2, members := (List.range (w 5)).map fun j => r (0x8020 + 128 * n + 2 * j) 2, timeout := w 3,
          round := BitVec.ofNat 32 (w 4), prev := none, counted := [], held := [], start := none, paused := false, closing := false })

/-- R406, R408, R410: MIGRATION_RESUME at the destination: the record is loaded, REDIRECT goes to every module,
the queues are served again, the groups can be restored, and RESUME notices go out; a record of another VERSION fails the session. What
the record's shadow section stands for is `State.arriving` (log 30). -/
def execMigrationResume (n : Nat) (record : List Byte) (s : State) : Out :=
  let x := s.session n
  let r := fun (a k : Nat) => ofBytes ((record.drop a).take k)
  if !x.dir || x.state ≠ 8 then .next s
  else if r 0 4 ≠ 0x00010000 then .next (s.modSession n fun x => { x with state := 0, ecode := 5 })
  else
    let fn := x.fn
    let s1 := s.modFunc fn fun f => f.load r s.pod
    let vdn := r 8 4
    let s2 : State := { s1 with redirect := Cells.put s1.redirect vdn (BitVec.ofNat 32 (2 ^ 31 + s1.modNo % 16 * 65536 + fn % 64)),
                                cslots := (recordSlots r fn).foldl (fun m c => Cells.put m c.1 c.2) s1.cslots }
    let s3 := ((List.range 16).filter fun m => decide (m ≠ s.modNo)).foldl (fun s m => s.send (.redirect vdn m fn)) s2
    let s4 := s3.modPx fn fun p => { p with job := r 0xA008 4, mem := BitVec.ofNat 256 (r 0xA010 32), proof := r 0xA004 4 - 1, rollbk := r 0xA030 4 }
    let s5 := if r 0xA00C 4 = 1 then s4.enableWith fn (BitVec.ofNat 2 (r 0xA000 4)) else s4
    let s6 := match Cells.find? s.arriving n with
      | some sh => ({ s5.adopt fn sh with arriving := Cells.del s.arriving n } : State).modPx fn fun p => p.adopt sh
      | none => s5
    .next ((s6.noticeRoots fn false).modSession n fun x => { x with state := 5, t0 := 11 * r 24 8 })

/-- R404: the first issue of the function at the destination ends the blackout. -/
def State.endBlackout (s : State) (fn : Nat) : State :=
  match List.find? (fun (p : Nat × Session) => p.2.dir && decide (p.2.state = 5) && decide (p.2.fn = fn)) s.sessions with
  | some p => s.modSession p.1 fun x => { x with state := 6, black := (s.pod - x.t0) / 11000 }
  | none => s

/-- The cells of a map that another map does not hold. -/
def without {α : Type} (m l : Cells α) : Cells α := m.filter fun p => (Cells.find? l p.1).isNone

/-- R254, R404, R407: what is still under way for a function that leaves: requests to peers, whose answers will follow it, its slots, and the
notifies kept for its queues. Its CREDs, SNAPs, copies and EMITs go on at its new home. -/
def State.letGo (s : State) (fn vdn modNo : Nat) : State :=
  let gone := s.shadowOf fn
  let s1 : State :=
    { s with reqs := s.reqs.map fun r => if (Cells.find? gone.reqs r.1).isSome then (r.1, { r.2 with own := .moved modNo vdn r.2.op }) else r,
             copies := without s.copies gone.copies, emits := without s.emits gone.emits, creds := without s.creds gone.creds, snaps := without s.snaps gone.snaps,
             movedSlots := gone.cslots.foldl (fun m c => Cells.put m c.1 (vdn, c.2.job)) s.movedSlots }
  gone.queues.foldl (fun s q => if q.2.en then s.send (.notify modNo vdn q.1 q.2.tail) else s) s1

/-- R406: the function leaves this device: what it held is freed, and its proof context is disabled. -/
def State.leave (s : State) (n fn vdn modNo : Nat) : State :=
  let fwd := List.filter (fun (q : PeerReq) => decide (q.dst = vdn)) s.held
  let s1 := fwd.foldl (fun s q => s.send (.request q.tag modNo q)) { s with held := List.filter (fun (q : PeerReq) => decide (q.dst ≠ vdn)) s.held }
  let win := if s.mfwd < 50 ∨ 1000 < s.mfwd then 200 else s.mfwd
  let s2 := ({ s1 with windows := s1.windows ++ [(vdn, modNo, s1.pod + 11000 * win)] } : State).modSession n fun x => { x with state := 6 }
  (((s2.letGo fn vdn modNo).pxDisable fn).killFunction fn).modFunc fn fun f =>
    { f with vdnValid := false, queues := f.queues.map fun q => (q.1, { q.2 with en := false, slot := false, holdEnd := none, pend := none, pending := [] }) }

/-- R406: REDIRECT_ARRIVAL. -/
def execRedirectArrival (vdn modNo fn : Nat) (s : State) : Out :=
  let s1 : State := { s with redirect := Cells.put s.redirect vdn (BitVec.ofNat 32 (2 ^ 31 + modNo % 16 * 65536 + fn % 64)) }
  match List.find? (fun (p : Nat × Session) => !p.2.dir && decide (4 ≤ p.2.state) && decide (p.2.state ≤ 5) &&
      (s.func p.2.fn).vdnValid && decide ((s.func p.2.fn).vdn.toNat = vdn)) s.sessions with
  | some p => .next (s1.leave p.1 p.2.fn vdn modNo)
  | none => .next s1

/-- R407: FORWARDING_WINDOW_EXPIRY. -/
def execForwardingWindowExpiry (vdn : Nat) (s : State) : Out :=
  .next { s with windows := List.filter (fun (w : Nat × Nat × Nat) => decide (w.1 ≠ vdn) || decide (s.pod < w.2.2)) s.windows }

/-! Offers. -/

/-- What migration sessions may do now. -/
def State.migrateOffers (s : State) : List Instr :=
  (s.sessions.flatMap fun p =>
    let c := s.px p.2.fn
    if !p.2.dir && decide (p.2.state = 1) && p.2.stopDue && !c.pend && !c.drain && !c.busy then [Instr.stopPhaseBegin p.1] else []) ++
  (List.filter (fun (w : Nat × Nat × Nat) => decide (w.2.2 ≤ s.pod)) s.windows).map fun w => Instr.forwardingWindowExpiry w.1

end Sys2Proof.Machine
end

