-- ==== Sys2Proof/Machine/Memory2.lean ====
section
/-! DEFINITION. Translation caches, partitions and owner keys (spec/19): invalidation (R372 to R374), the VALID
bit and the reset of a partition (R375, R377), key loading and erasing (R379), retagging (R383, R387) and the
refresh window (R385). -/
namespace Sys2Proof.Machine

/-! Invalidation. -/

/-- R361, R363: the largest page that a leaf maps, 1 GiB, in pages of 64 KiB. An entry holds no leaf size, so
that an invalidation of a page discards what lies in its 1 GiB (R372 lets a cache discard at will). -/
def pagesPerLeaf : Nat := 16384

/-- R374: the requests of the functions that a test selects which are in flight. -/
def State.covered (s : State) (fns : Nat → Bool) : List Nat := (s.reqs.filter fun r => fns r.2.fn).map (·.1)

/-- R373, R374: starts an invalidation: the covered entries go, and the requests of the covered functions are
waited for. The identity of S1ICTL of function n is n, and that of S2ICTL is 64. -/
def State.invalidate (s : State) (id : Nat) (stage2 : Bool) (fn : Nat) (fns : Nat → Bool) (gone : TlbEnt → Bool) : State :=
  { s with tlb := s.tlb.filter fun e => !gone e, inval := Cells.put s.inval id ⟨stage2, fn, s.covered fns⟩ }

/-- R373: S1ICTL as it reads after a start with a SCOPE. -/
def s1Started (scope : Nat) : Word := BitVec.ofNat 32 (2 ^ 31 + scope * 2 ^ 8)
/-- R373: S2ICTL as it reads after a start. -/
def s2Started (part fn scope : Nat) : Word := BitVec.ofNat 32 (2 ^ 31 + part % 16 * 2 ^ 24 + fn % 64 * 2 ^ 16 + scope * 2 ^ 8)

/-- R373: a start through S1ICTL; a write while BUSY is 1 is ignored. -/
def State.startS1 (s : State) (fn scope : Nat) (gone : TlbEnt → Bool) : State :=
  if (s.func fn).s1ictl.getLsbD 31 then s
  else (s.modFunc fn fun f => { f with s1ictl := s1Started scope }).invalidate fn false fn (fun n => decide (n = fn)) gone

/-- R373: S2ICTL takes a start. -/
def State.started (s : State) (part fn scope : Nat) : State := { s with s2ictl := s2Started part fn scope }
/-- R373, R411: a start through S2ICTL; a migration session that tracks a covered function fails. -/
def State.startS2 (s : State) (part fn scope : Nat) (fns : Nat → Bool) (gone : TlbEnt → Bool) : State :=
  if s.s2ictl.getLsbD 31 then s
  else ((s.failSessions (fun x => fns x.fn && !x.dir && decide (1 ≤ x.state) && decide (x.state ≤ 4)) 3).started part fn scope).invalidate 64 true fn
    fns gone

/-- R373: S1_INVALIDATE_PAGE. -/
def execS1InvalidatePage (fn : Nat) (s : State) : Out :=
  let page := bits (s.func fn).s1iaddr.toNat 56 16
  .next (s.startS1 fn 0 fun e => !e.ia && decide (e.fn = fn) && decide (e.page / pagesPerLeaf = page / pagesPerLeaf))
/-- R373: S1_INVALIDATE_FUNCTION. -/
def execS1InvalidateFunction (fn : Nat) (s : State) : Out := .next (s.startS1 fn 1 fun e => !e.ia && decide (e.fn = fn))
/-- R373: S2_INVALIDATE_PAGE: the entries of the page go, and every stage-1 result of the function. -/
def execS2InvalidatePage (fn : Nat) (s : State) : Out :=
  let page := bits s.s2iaddr.toNat 51 16
  .next (s.startS2 0 fn 0 (fun n => decide (n = fn)) fun e =>
    decide (e.fn = fn) && (!e.ia || decide (e.ipage / pagesPerLeaf = page / pagesPerLeaf)))
/-- R373: S2_INVALIDATE_FUNCTION. -/
def execS2InvalidateFunction (fn : Nat) (s : State) : Out := .next (s.startS2 0 fn 1 (fun n => decide (n = fn)) fun e => decide (e.fn = fn))
/-- R373: S2_INVALIDATE_PARTITION. -/
def execS2InvalidatePartition (part : Nat) (s : State) : Out :=
  .next (s.startS2 part 0 2 (fun n => decide (s.partOf n = part)) fun e => decide (s.partOf e.fn = part))
/-- R373: S2_INVALIDATE_ALL. -/
def execS2InvalidateAll (s : State) : Out := .next (s.startS2 0 0 3 (fun _ => true) fun _ => true)

/-- R374: every request that an invalidation waits for has left flight. -/
def State.settled (s : State) (v : Inval) : Bool := v.waits.all fun id => (Cells.find? s.reqs id).isNone

/-- R374: INVALIDATION_COMPLETE: BUSY returns to 0. -/
def execInvalidationComplete (id : Nat) (s : State) : Out :=
  match Cells.find? s.inval id with
  | none => .next s
  | some v =>
    if !s.settled v then .next s
    else
      let s1 := { s with inval := Cells.del s.inval id }
      if v.stage2 then .next { s1 with s2ictl := s1.s2ictl &&& 0x7FFFFFFF#32 }
      else .next (s1.modFunc v.fn fun f => { f with s1ictl := f.s1ictl &&& 0x7FFFFFFF#32 })

/-! Partitions. -/

/-- R375: two partitions share a requester port, a memory-side port or a reserved way. -/
def Partition.overlaps (p q : Partition) : Bool :=
  let ways := fun (x : Partition) => x.qos.extractLsb' 16 16 ||| x.qos.extractLsb' 32 16
  p.req &&& q.req != 0 || p.mem &&& q.mem != 0 || ways p &&& ways q != 0

/-- R375: a gang of the partition is resident. -/
def State.partBusy (s : State) (t : Nat) : Bool :=
  (s.cores.any fun c => decide (c.1 < 1024) && (s.part t).req.getLsbD (c.1 / 16) && !c.2.gangs.isEmpty) ||
    s.funcs.any fun f => decide (f.2.partNo = t) && f.2.queues.any fun q => q.2.en

/-- R375: PARTITION_VALID_WRITE. -/
def execPartitionValidWrite (t : Nat) (valid : Bool) (s : State) : Out :=
  let p := s.part t
  let refused :=
    if valid then (List.range 16).any fun u => decide (u ≠ t) && (s.part u).valid && p.overlaps (s.part u)
    else s.partBusy t
  if 16 ≤ t then .next s
  else .next (s.modPart t fun p => if refused then { p with err := true } else { p with valid := valid })

/-- R377 step 3: the dirty lines of a set of owner keys are written back; one with an uncorrectable error is
discarded, and memory keeps its older value. -/
def State.writeBack (s : State) (keys : List (BitVec 12)) : State :=
  let lines := s.dirty.filter fun d => keys.contains (s.frame d.1).keyid
  let bad := lines.filter fun d => s.poison.contains d.1
  let mem := bad.foldl (fun m d => d.2.foldl (fun m e => Memory.setByte m (d.1 + e.1) e.2) (Cells.clear m d.1 128)) s.mem
  { s with mem := mem, poison := s.poison.filter fun l => !(bad.any fun d => decide (d.1 = l)),
           dirty := s.dirty.filter fun d => !keys.contains (s.frame d.1).keyid }

/-- R377 step 4: a core is powered down and up. The generations of its slots go on, so that late replies are
still known (R255). -/
def Core.powerCycle (c : Core) : Core := { Core.reset with gens := c.gens }
/-- R37: CYC of every core of the requester ports that a test selects counts from now. -/
def State.powerUp (s : State) (on : Nat → Bool) : State :=
  { s with powered := (List.range 64).foldl (fun m p => if on p then Cells.put m p s.cycle else m) s.powered }

/-- R377: PARTITION_RESET. -/
def execPartitionReset (t : Nat) (s : State) : Out :=
  let p := s.part t
  let fns := (s.funcs.filter fun f => decide (f.2.partNo = t)).map (·.1)
  let on := fun (k : Nat) => decide (k < 1024) && p.req.getLsbD (k / 16)
  let s1 := fns.foldl (fun s fn => s.killFunction fn) (s.killGangs fun k _ => on k)
  let s2 := s1.writeBack (fns.map s1.keyOf)
  let s3 := { s2 with tlb := s2.tlb.filter fun e => !fns.contains e.fn,
                      cores := s2.cores.map fun (c : Nat × Core) => if on c.1 then (c.1, c.2.powerCycle) else c }
  let s4 := fns.foldl (fun (s : State) fn => s.modFunc fn Func.flr) (s3.powerUp p.req.getLsbD)
  if 16 ≤ t then .next s else .next (s4.modPart t fun p => { p with stop := false })

/-! Owner keys. -/

/-- R379: the key is in use: a frame carries it, or a function names it. -/
def State.keyUsed (s : State) (key : BitVec 12) : Bool := (s.frames.any fun f => f.2.keyid == key) || s.funcs.any fun f => f.2.keyid == key

/-- R379: KCMD, or R383: RTCMD, as it reads when a command is done. -/
def cmdWord (key : BitVec 12) (erase refused : Bool) : Word :=
  BitVec.ofNat 32 (key.toNat + (if erase then 2 ^ 29 else 0) + if refused then 2 ^ 30 else 0)

/-- R379: KEY_LOAD. -/
def execKeyLoad (key : BitVec 12) (s : State) : Out :=
  if key = 0 ∨ s.keyUsed key = true then .next { s with kcmd := cmdWord key false true }
  else .next { s with kcmd := cmdWord key false false, keyData := Cells.put s.keyData key.toNat s.kdata, kdata := 0 }

/-- R379: KEY_ERASE. -/
def execKeyErase (key : BitVec 12) (s : State) : Out :=
  if key = 0 ∨ s.keyUsed key = true then .next { s with kcmd := cmdWord key true true }
  else .next { s with kcmd := cmdWord key true false, keyData := Cells.del s.keyData key.toNat }

/-- R378, R379: a key is loaded; the device generates that of KEYID 0 at boot. -/
def State.keyLoaded (s : State) (key : BitVec 12) : Bool := key == 0 || (Cells.find? s.keyData key.toNat).isSome

/-- R383, R387: RETAG: one step: the frame's lines leave L2 without write-back, its blocks become invalid, each
MD becomes 1 and each GEN 00. -/
def execRetag (key : BitVec 12) (s : State) : Out :=
  if !s.keyLoaded key then .next { s with rtcmd := cmdWord key false true }
  else
    let n := bits s.rtaddr.toNat 47 16
    .next { s with rtcmd := cmdWord key false false, dirty := Cells.clear s.dirty (65536 * n) 65536,
                   poison := s.poison.filter fun l => decide (l / 65536 ≠ n), frames := Cells.put s.frames n ⟨key, 0, BitVec.allOnes 16, 0⟩ }

/-! Rows. -/

/-- R385: REFRESH_WINDOW_END: the counts of activations restart. -/
def execRefreshWindowEnd (s : State) : Out := .next { s with rows := [] }

/-! Offers. -/

/-- Invalidations that are complete. -/
def State.invalOffers (s : State) : List Instr := (s.inval.filter fun v => s.settled v.2).map fun v => .invalidationComplete v.1

end Sys2Proof.Machine
end

