-- ==== Sys2Proof/Machine/Debug.lean ====
section
/-! DEFINITION. Debug and bring-up (spec/21): the mailbox (R412), the hold of a debug trap (R419), debug halts
(R420), and the reset scope of a function (R345, R440). -/
namespace Sys2Proof.Machine

/-! The mailbox. -/

/-- R412: DBGIN_WRITE: ignored while IN holds an unacknowledged command. -/
def execDbginWrite (v : Quad) (s : State) : Out :=
  if s.dbgInf then .next s else .next { s with dbgIn := v.extractLsb' 0 61, dbgInf := true }

/-- R412: DBGOUT_ACKNOWLEDGE. -/
def execDbgoutAcknowledge (s : State) : Out := .next { s with dbgOutf := false }

/-- R419: DBGCTL_HOLD_WRITE. What the hold stops is looked at in each cycle (`State.groupHeld`). -/
def execDbgctlHoldWrite (hold : Bool) (s : State) : Out := .next { s with dbgHold := hold, dbgUsed := s.dbgUsed || hold }

/-! Debug halts. -/

/-- R420: DBGHREQ as it reads when a command is done. -/
def dbghDone (v : Word) (err : Bool) : Word := (v &&& 0x303F0F1F#32) ||| (if err then 0x40000000#32 else 0)

/-- R420: the core and slot that DBGHREQ names. -/
def dbghCore (v : Word) : Nat := 64 * bits v.toNat 11 8 + bits v.toNat 21 16
def dbghSlot (v : Word) : Nat := bits v.toNat 4 0

/-- R420, R253: every gang of a group receives a halt request with 0x37, into the frame the firmware chooses. -/
def State.haltGroup (s : State) (gk : Nat) : State :=
  let s1 := s.modGroup gk fun g => { g with halting := true, debug := true }
  (s1.gangsOf gk).foldl (fun s x => match s.gang? x.1 x.2 with
    | some g => if 1024 ≤ x.1 then s else s.requestHalt x.1 x.2 0x37 (32 * gk + g.gid)
    | none => s) s1

/-- R420: DEBUG_HALT. -/
def execDebugHalt (v : Word) (s : State) : Out :=
  match s.gang? (dbghCore v) (dbghSlot v) with
  | none => .next { s with dbghreq := dbghDone v true, dbgUsed := true }
  | some g => .next ((s.setOf g.group).foldl (fun s gk => s.haltGroup gk) { s with dbghreq := dbghDone v false, dbgUsed := true })

/-- R420: the debug-halted groups one of whose gangs was in a slot of a core. -/
def State.debugGroups (s : State) (k sl : Nat) : List Group :=
  (s.groups.filter fun p => p.2.debug && decide (p.2.core = k) && p.2.slots.contains sl).map (·.2) ++
  (s.saved.filter fun p => p.2.group.debug && decide (p.2.group.core = k) && p.2.group.slots.contains sl).map (·.2.group)

/-- R420, R278: the groups of a group's cluster set may be placed again. -/
def State.undebug (s : State) (g : Group) : State :=
  let mine := fun (x : Group) => decide (x.launch = g.launch) && decide (x.groupId / x.setsz = g.groupId / g.setsz)
  let free := fun (p : Nat × Group) => if mine p.2 then (p.1, { p.2 with debug := false }) else p
  let freeS := fun (p : Nat × Saved) => if mine p.2.group then (p.1, { p.2 with group := { p.2.group with debug := false } }) else p
  { s with groups := s.groups.map free, saved := s.saved.map freeS }

/-- R420: DEBUG_RESUME. -/
def execDebugResume (v : Word) (s : State) : Out :=
  let l := s.debugGroups (dbghCore v) (dbghSlot v)
  .next (l.foldl (fun s g => s.undebug g) { s with dbghreq := dbghDone v l.isEmpty, dbgUsed := true })

/-! Functions. -/

/-- R440: a function's queues, slots, gangs, collective slots, proof context and migration sessions after a
Function Level Reset, and its registers. -/
def State.flr (s : State) (fn : Nat) : State :=
  let stop := fun (p : Nat × Session) => if p.2.fn = fn && p.2.state ≠ 0 && p.2.state ≠ 6 then (p.1, { p.2 with state := 7 }) else p
  let s1 : State := { s with sessions := s.sessions.map stop }
  ((s1.pxDisable fn).killFunction fn).modFunc fn Func.flr

/-- R440: VF_FLR, for a virtual function that exists. -/
def execVfFlr (fn : Nat) (s : State) : Out :=
  if fn = 0 ∨ 64 ≤ fn ∨ (s.func fn).enabled = false then .next s else .next (s.flr fn)

/-- R345, R237, R37: VF_ENABLE: a virtual function is created, with DELEG and the offset of TIME reset, or ceases
to exist. -/
def execVfEnable (fn : Nat) (enable : Bool) (s : State) : Out :=
  if fn = 0 ∨ 64 ≤ fn ∨ (s.func fn).enabled = enable then .next s
  else if enable then .next (s.modFunc fn fun f => { f with enabled := true, deleg := 0, timeOff := 0 })
  else .next ((s.flr fn).modFunc fn fun f => { f with enabled := false })

end Sys2Proof.Machine
end

