-- ==== Sys2Proof/Machine/Crypto.lean ====
section
/-! DEFINITION. The ciphers that the spec names by their standards (log 74): SHA-256 (R423, R425), and AES-256 in XTS
mode over a 32-byte sector (R380). A byte string is a list, its first byte first. -/
namespace Sys2Proof.Machine

/-! SHA-256, FIPS 180-4. Its words are big-endian. -/

/-- The eight words of a hash state. -/
structure ShaSt where
  a : Word
  b : Word
  c : Word
  d : Word
  e : Word
  f : Word
  g : Word
  h : Word
deriving DecidableEq, Repr

/-- The first four rows of the round constants, and the other four. -/
def shaKLow : List Word :=
  [0x428A2F98, 0x71374491, 0xB5C0FBCF, 0xE9B5DBA5, 0x3956C25B, 0x59F111F1, 0x923F82A4, 0xAB1C5ED5,
   0xD807AA98, 0x12835B01, 0x243185BE, 0x550C7DC3, 0x72BE5D74, 0x80DEB1FE, 0x9BDC06A7, 0xC19BF174,
   0xE49B69C1, 0xEFBE4786, 0x0FC19DC6, 0x240CA1CC, 0x2DE92C6F, 0x4A7484AA, 0x5CB0A9DC, 0x76F988DA,
   0x983E5152, 0xA831C66D, 0xB00327C8, 0xBF597FC7, 0xC6E00BF3, 0xD5A79147, 0x06CA6351, 0x14292967]
def shaKHigh : List Word :=
  [0x27B70A85, 0x2E1B2138, 0x4D2C6DFC, 0x53380D13, 0x650A7354, 0x766A0ABB, 0x81C2C92E, 0x92722C85,
   0xA2BFE8A1, 0xA81A664B, 0xC24B8B70, 0xC76C51A3, 0xD192E819, 0xD6990624, 0xF40E3585, 0x106AA070,
   0x19A4C116, 0x1E376C08, 0x2748774C, 0x34B0BCB5, 0x391C0CB3, 0x4ED8AA4A, 0x5B9CCA4F, 0x682E6FF3,
   0x748F82EE, 0x78A5636F, 0x84C87814, 0x8CC70208, 0x90BEFFFA, 0xA4506CEB, 0xBEF9A3F7, 0xC67178F2]

/-- The state before the first block. -/
def shaInit : ShaSt := ⟨0x6A09E667, 0xBB67AE85, 0x3C6EF372, 0xA54FF53A, 0x510E527F, 0x9B05688C, 0x1F83D9AB, 0x5BE0CD19⟩

/-- The bytes of a number, highest first. -/
def beBytes (n v : Nat) : List Byte := (toBytes n v).reverse
/-- The number whose bytes, highest first, are given. -/
def ofBe (l : List Byte) : Nat := l.foldl (fun n b => 256 * n + b.toNat) 0

/-- The big-endian words of a byte string; a rest of fewer than four bytes is no word. -/
def beWords : List Byte → List Word
  | a :: b :: c :: d :: t => (a ++ b ++ c ++ d) :: beWords t
  | _ => []

/-- The message schedule grows by a number of words; the latest word stands first. -/
def shaExtend : Nat → List Word → List Word
  | 0, w => w
  | n + 1, w =>
    let x := w.getD 1 0
    let y := w.getD 14 0
    let sx := x.rotateRight 17 ^^^ x.rotateRight 19 ^^^ x >>> 10
    let sy := y.rotateRight 7 ^^^ y.rotateRight 18 ^^^ y >>> 3
    shaExtend n ((sx + w.getD 6 0 + sy + w.getD 15 0) :: w)

/-- One round, with the round constant and the word of the schedule added up. -/
def ShaSt.round (s : ShaSt) (kw : Word) : ShaSt :=
  let t1 := s.h + (s.e.rotateRight 6 ^^^ s.e.rotateRight 11 ^^^ s.e.rotateRight 25) + ((s.e &&& s.f) ^^^ (~~~s.e &&& s.g)) + kw
  let t2 := (s.a.rotateRight 2 ^^^ s.a.rotateRight 13 ^^^ s.a.rotateRight 22) + ((s.a &&& s.b) ^^^ (s.a &&& s.c) ^^^ (s.b &&& s.c))
  ⟨t1 + t2, s.a, s.b, s.c, s.d + t1, s.e, s.f, s.g⟩

/-- One block of 16 words. -/
def ShaSt.block (s : ShaSt) (w : List Word) : ShaSt :=
  let t := (List.zipWith (· + ·) (shaKLow ++ shaKHigh) (shaExtend 48 w.reverse).reverse).foldl ShaSt.round s
  ⟨s.a + t.a, s.b + t.b, s.c + t.c, s.d + t.d, s.e + t.e, s.f + t.f, s.g + t.g, s.h + t.h⟩

/-- A number of blocks, one after another. -/
def ShaSt.blocks : Nat → List Word → ShaSt → ShaSt
  | 0, _, s => s
  | n + 1, w, s => ShaSt.blocks n (w.drop 16) (s.block (w.take 16))

/-- The message with its padding. -/
def shaPad (m : List Byte) : List Byte :=
  m ++ 0x80#8 :: List.replicate ((119 - m.length % 64) % 64) 0 ++ beBytes 8 (8 * m.length)

/-- SHA-256 of a byte string, 32 bytes. -/
def sha256 (m : List Byte) : List Byte :=
  let p := shaPad m
  let s := ShaSt.blocks (p.length / 64) (beWords p) shaInit
  [s.a, s.b, s.c, s.d, s.e, s.f, s.g, s.h].flatMap fun w => beBytes 4 w.toNat

/-! AES-256, FIPS 197. The state is 16 bytes, column after column. -/

/-- Multiplication by x in the field of 256 elements. -/
def xtime (a : Byte) : Byte := a <<< 1 ^^^ (if a.msb then 0x1B else 0)
/-- Multiplication in the field, over the low n bits of the second factor. -/
def gfMul : Nat → Byte → Byte → Byte
  | 0, _, _ => 0
  | n + 1, a, b => (if b.getLsbD 0 then a else 0) ^^^ gfMul n (xtime a) (b >>> 1)
/-- The inverse, 0 for 0: the 254th power. -/
def gfInv (a : Byte) : Byte := (List.range 6).foldl (fun r _ => gfMul 8 (gfMul 8 r r) a) a |> fun r => gfMul 8 r r

/-- The substitution of a byte. -/
def subByte (a : Byte) : Byte :=
  let b := gfInv a
  b ^^^ b.rotateLeft 1 ^^^ b.rotateLeft 2 ^^^ b.rotateLeft 3 ^^^ b.rotateLeft 4 ^^^ 0x63

def xorBytes (a b : List Byte) : List Byte := List.zipWith (· ^^^ ·) a b

/-- The key schedule grows by a number of words of four bytes; the latest word stands first. `i` is the next word's
number and `rc` the next round constant. -/
def aesExtend : Nat → Nat → Byte → List (List Byte) → List (List Byte)
  | 0, _, _, w => w
  | n + 1, i, rc, w =>
    let p := w.getD 0 []
    let t :=
      if i % 8 = 0 then xorBytes ((p.rotateLeft 1).map subByte) [rc, 0, 0, 0]
      else if i % 8 = 4 then p.map subByte
      else p
    aesExtend n (i + 1) (if i % 8 = 0 then xtime rc else rc) (xorBytes (w.getD 7 []) t :: w)

/-- The 15 round keys of a 32-byte key. -/
def aesKeys (key : List Byte) : List (List Byte) :=
  let w := (aesExtend 52 8 1 ((List.range 8).map fun i => (key.drop (4 * i)).take 4).reverse).reverse
  (List.range 15).map fun r => ((w.drop (4 * r)).take 4).flatten

/-- The rows of the state shift, and, with `mix`, its columns are mixed. -/
def aesShiftMix (mix : Bool) (s : List Byte) : List Byte :=
  let at_ := fun (c r : Nat) => s.getD (4 * ((c + r) % 4) + r) 0
  (List.range 16).map fun i =>
    let c := i / 4
    let r := i % 4
    if mix then
      let x := at_ c r
      let y := at_ c ((r + 1) % 4)
      xtime x ^^^ (xtime y ^^^ y) ^^^ at_ c ((r + 2) % 4) ^^^ at_ c ((r + 3) % 4)
    else at_ c r

/-- AES-256 of one block. -/
def aes256 (key block : List Byte) : List Byte :=
  let ks := aesKeys key
  let s := ((ks.drop 1).take 13).foldl (fun s k => xorBytes (aesShiftMix true (s.map subByte)) k) (xorBytes block (ks.getD 0 []))
  xorBytes (aesShiftMix false (s.map subByte)) (ks.getD 14 [])

/-- R380: one data unit of 32 bytes under AES-256-XTS, IEEE 1619. -/
def xtsSector (dataKey tweakKey : List Byte) (tweak : Nat) (plain : List Byte) : List Byte :=
  let t0 := aes256 tweakKey (toBytes 16 tweak)
  let v := ofBytes t0
  let t1 := toBytes 16 ((2 * v % 2 ^ 128) ^^^ (if v.testBit 127 then 0x87 else 0))
  let one := fun (t p : List Byte) => xorBytes (aes256 dataKey (xorBytes p t)) t
  one t0 (plain.take 16) ++ one t1 ((plain.drop 16).take 16)

end Sys2Proof.Machine
end

