-- ==== Sys2Proof/Machine/Slh.lean ====
section
/-! DEFINITION. SLH-DSA-SHA2-128s as FIPS 205 defines it (R423; log 74): n = 16, h = 63, d = 7, h' = 9, a = 12, k = 14, w = 16,
m = 30. A public key is PK.seed and PK.root, 32 bytes, and a signature 7,856 bytes. -/
namespace Sys2Proof.Machine

/-- The address of a hash: layer, tree, type, key pair, and the two words after it. -/
structure Adrs where
  layer : Nat
  tree : Nat
  typ : Nat
  pair : Nat
  w2 : Nat
  w3 : Nat
deriving DecidableEq, Repr

/-- The 22 bytes of a compressed address. -/
def Adrs.bytes (x : Adrs) : List Byte :=
  beBytes 1 x.layer ++ beBytes 8 x.tree ++ beBytes 1 x.typ ++ beBytes 4 x.pair ++ beBytes 4 x.w2 ++ beBytes 4 x.w3

/-- F, H and T of category 1, which differ in the length of the message; PRF is the same of SK.seed. -/
def slhHash (pkSeed : List Byte) (x : Adrs) (m : List Byte) : List Byte :=
  (sha256 (pkSeed ++ List.replicate 48 0 ++ x.bytes ++ m)).take 16

/-- H_msg: 30 bytes, of MGF1 over SHA-256. -/
def slhMsg (r pk m : List Byte) : List Byte :=
  (sha256 (r ++ pk.take 16 ++ sha256 (r ++ pk ++ m) ++ beBytes 4 0)).take 30

/-- PRF_msg: HMAC-SHA-256 under SK.prf. -/
def slhPrfMsg (skPrf optRand m : List Byte) : List Byte :=
  let pad := fun (b : Byte) => (skPrf ++ List.replicate 48 0).map (· ^^^ b)
  (sha256 (pad 0x5C ++ sha256 (pad 0x36 ++ optRand ++ m))).take 16

/-- The first n digits of b bits of a byte string. -/
def slhDigits (l : List Byte) (b n : Nat) : List Nat :=
  let v := ofBe l
  (List.range n).map fun i => v >>> (8 * l.length - b * (i + 1)) % 2 ^ b

/-! One-time signatures. -/

/-- A chain from step i, of a number of steps. -/
def slhChain (pkSeed : List Byte) (x : Adrs) : Nat → Nat → List Byte → List Byte
  | _, 0, v => v
  | i, n + 1, v => slhChain pkSeed x (i + 1) n (slhHash pkSeed { x with w3 := i } v)

/-- The 35 digits that a message of 16 bytes and its checksum give. -/
def wotsDigits (m : List Byte) : List Nat :=
  let d := slhDigits m 4 32
  let sum := (d.map fun x => 15 - x).sum
  d ++ slhDigits (beBytes 2 (16 * sum)) 4 3

/-- The secret value of a chain of the key pair. -/
def wotsSk (skSeed pkSeed : List Byte) (x : Adrs) (i : Nat) : List Byte :=
  slhHash pkSeed { x with typ := 5, w2 := i, w3 := 0 } skSeed

/-- The public key from the ends of the chains. -/
def wotsPk (pkSeed : List Byte) (x : Adrs) (ends : List (List Byte)) : List Byte :=
  slhHash pkSeed { x with typ := 1, w2 := 0, w3 := 0 } ends.flatten

/-- The public key of a key pair. -/
def wotsGen (skSeed pkSeed : List Byte) (x : Adrs) : List Byte :=
  wotsPk pkSeed x ((List.range 35).map fun i => slhChain pkSeed { x with typ := 0, w2 := i } 0 15 (wotsSk skSeed pkSeed x i))

/-- The signature of a message of 16 bytes: 35 values. -/
def wotsSign (skSeed pkSeed : List Byte) (x : Adrs) (m : List Byte) : List (List Byte) :=
  (wotsDigits m).mapIdx fun i d => slhChain pkSeed { x with typ := 0, w2 := i } 0 d (wotsSk skSeed pkSeed x i)

/-- The public key that a signature leads to. -/
def wotsFromSig (pkSeed : List Byte) (x : Adrs) (sig : List (List Byte)) (m : List Byte) : List Byte :=
  wotsPk pkSeed x (List.zipWith (fun v (p : Nat × Nat) => slhChain pkSeed { x with typ := 0, w2 := p.2 } p.1 (15 - p.1) v) sig
    (wotsDigits m).zipIdx)

/-! Merkle trees. -/

/-- The node of height z and index i over leaves; the address gives layer, tree, type and key pair. -/
def slhNode (pkSeed : List Byte) (x : Adrs) (leaf : Nat → List Byte) : Nat → Nat → List Byte
  | 0, i => leaf i
  | z + 1, i => slhHash pkSeed { x with w2 := z + 1, w3 := i } (slhNode pkSeed x leaf z (2 * i) ++ slhNode pkSeed x leaf z (2 * i + 1))

/-- The root that a leaf and its path lead to: k is the height reached, i the index at it. -/
def slhClimb (pkSeed : List Byte) (x : Adrs) : List (List Byte) → Nat → Nat → List Byte → List Byte
  | [], _, _, v => v
  | p :: t, k, i, v =>
    slhClimb pkSeed x t (k + 1) (i / 2) (slhHash pkSeed { x with w2 := k + 1, w3 := i / 2 } (if i % 2 = 0 then v ++ p else p ++ v))

/-- The path of a leaf to a root of height z. -/
def slhPath (pkSeed : List Byte) (x : Adrs) (leaf : Nat → List Byte) (z i : Nat) : List (List Byte) :=
  (List.range z).map fun j => slhNode pkSeed x leaf j (i / 2 ^ j ^^^ 1)

/-- A node of an XMSS tree. -/
def xmssNode (skSeed pkSeed : List Byte) (layer tree z i : Nat) : List Byte :=
  slhNode pkSeed ⟨layer, tree, 2, 0, 0, 0⟩ (fun j => wotsGen skSeed pkSeed ⟨layer, tree, 0, j, 0, 0⟩) z i

/-- An XMSS signature: 35 values and a path of nine nodes. -/
def xmssSign (skSeed pkSeed : List Byte) (layer tree idx : Nat) (m : List Byte) : List (List Byte) :=
  wotsSign skSeed pkSeed ⟨layer, tree, 0, idx, 0, 0⟩ m ++
    slhPath pkSeed ⟨layer, tree, 2, 0, 0, 0⟩ (fun j => wotsGen skSeed pkSeed ⟨layer, tree, 0, j, 0, 0⟩) 9 idx

/-- The root that an XMSS signature leads to. -/
def xmssFromSig (pkSeed : List Byte) (layer tree idx : Nat) (sig : List (List Byte)) (m : List Byte) : List Byte :=
  slhClimb pkSeed ⟨layer, tree, 2, 0, 0, 0⟩ (sig.drop 35) 0 idx (wotsFromSig pkSeed ⟨layer, tree, 0, idx, 0, 0⟩ (sig.take 35) m)

/-- The hypertree signature over a number of layers, from the given one up. -/
def htSign (skSeed pkSeed : List Byte) : Nat → Nat → Nat → Nat → List Byte → List (List Byte)
  | 0, _, _, _, _ => []
  | n + 1, layer, tree, idx, m =>
    let sig := xmssSign skSeed pkSeed layer tree idx m
    sig ++ htSign skSeed pkSeed n (layer + 1) (tree / 512) (tree % 512) (xmssFromSig pkSeed layer tree idx sig m)

/-- The root that a hypertree signature leads to. -/
def htFromSig (pkSeed : List Byte) : Nat → Nat → Nat → Nat → List (List Byte) → List Byte → List Byte
  | 0, _, _, _, _, m => m
  | n + 1, layer, tree, idx, sig, m =>
    htFromSig pkSeed n (layer + 1) (tree / 512) (tree % 512) (sig.drop 44) (xmssFromSig pkSeed layer tree idx (sig.take 44) m)

/-! Few-time signatures. -/

/-- The leaf of a tree of FORS secrets, and the secret under it. -/
def forsSk (skSeed pkSeed : List Byte) (x : Adrs) (i : Nat) : List Byte := slhHash pkSeed { x with typ := 6, w2 := 0, w3 := i } skSeed
def forsLeaf (pkSeed : List Byte) (x : Adrs) (i : Nat) (sk : List Byte) : List Byte := slhHash pkSeed { x with w2 := 0, w3 := i } sk

/-- The signature of 14 digits of 12 bits: for each, a secret and a path of 12 nodes. -/
def forsSign (skSeed pkSeed : List Byte) (x : Adrs) (md : List Byte) : List (List Byte) :=
  ((slhDigits md 12 14).mapIdx fun i d =>
    let at_ := 4096 * i + d
    forsSk skSeed pkSeed x at_ ::
      (List.range 12).map fun j => slhNode pkSeed x (fun l => forsLeaf pkSeed x l (forsSk skSeed pkSeed x l)) j (at_ / 2 ^ j ^^^ 1)).flatten

/-- The public key that a signature leads to. -/
def forsFromSig (pkSeed : List Byte) (x : Adrs) (sig : List (List Byte)) (md : List Byte) : List Byte :=
  let roots := (slhDigits md 12 14).mapIdx fun i d =>
    let one := (sig.drop (13 * i)).take 13
    slhClimb pkSeed x (one.drop 1) 0 (4096 * i + d) (forsLeaf pkSeed x (4096 * i + d) (one.getD 0 []))
  slhHash pkSeed { x with typ := 4, w2 := 0, w3 := 0 } roots.flatten

/-! The scheme. -/

/-- The pure form of a message with an empty context. -/
def slhPure (m : List Byte) : List Byte := 0 :: 0 :: m

/-- What a digest of 30 bytes selects: the message of the few-time signature, the tree and the leaf. -/
def slhSelect (d : List Byte) : List Byte × Nat × Nat :=
  (d.take 21, ofBe ((d.drop 21).take 7) % 2 ^ 54, ofBe ((d.drop 28).take 2) % 2 ^ 9)

/-- A byte string in pieces of 16 bytes, a number of them. -/
def slhPieces : Nat → List Byte → List (List Byte)
  | 0, _ => []
  | n + 1, l => l.take 16 :: slhPieces n (l.drop 16)

/-- The public key of SK.seed and PK.seed. -/
def slhPublic (skSeed pkSeed : List Byte) : List Byte := pkSeed ++ xmssNode skSeed pkSeed 6 0 9 0

/-- The signature under a key pair. -/
def slhSign (skSeed skPrf pk optRand m : List Byte) : List Byte :=
  let m1 := slhPure m
  let r := slhPrfMsg skPrf optRand m1
  let (md, tree, leaf) := slhSelect (slhMsg r pk m1)
  let x : Adrs := ⟨0, tree, 3, leaf, 0, 0⟩
  let fors := forsSign skSeed (pk.take 16) x md
  r ++ fors.flatten ++ (htSign skSeed (pk.take 16) 7 0 tree leaf (forsFromSig (pk.take 16) x fors md)).flatten

/-- R423: a signature of 7,856 bytes verifies under a public key. -/
def slhVerify (pk m sig : List Byte) : Bool :=
  let m1 := slhPure m
  let (md, tree, leaf) := slhSelect (slhMsg (sig.take 16) pk m1)
  let x : Adrs := ⟨0, tree, 3, leaf, 0, 0⟩
  let v := slhPieces 490 (sig.drop 16)
  decide (sig.length = 7856) &&
    decide (htFromSig (pk.take 16) 7 0 tree leaf (v.drop 182) (forsFromSig (pk.take 16) x (v.take 182) md) = pk.drop 16)

end Sys2Proof.Machine
end

