-- ==== Sys2Proof/Machine/Boot.lean ====
section
/-! DEFINITION. Boot (spec/21): firmware images (R423), the steps of a boot (R424), the identity (R425), configuration
records (R426), the HBM interfaces (R427), attestation (R428), and the reset scopes of the device (R440). -/
namespace Sys2Proof.Machine

/-- The little-endian field of a byte string, zero past its end (log 7). -/
def fieldAt (l : List Byte) (off n : Nat) : Nat := ofBytes ((l.drop off).take n)

/-! Images and records: a header of 64 bytes, a body, and a signature over both. -/

/-- What a signature covers, and the signature, where the header gives the length of the body. -/
def signedPart (l : List Byte) (len : Nat) : List Byte := l.take (64 + len)
def signatureOf (l : List Byte) (len : Nat) : List Byte := (l.drop (64 + len)).take 7856

/-- R423: the image passes: its magic, the zero bytes of its header (log 7), the hash of its body and the signature. -/
def imageGood (img : List Byte) : Bool :=
  let n := fieldAt img 12 4
  decide (fieldAt img 0 4 = 0x4B595946) && decide (fieldAt img 48 16 = 0) && decide (64 + n + 7856 ≤ img.length) &&
    decide (sha256 ((img.drop 64).take n) = (img.drop 16).take 32) && slhVerify Config.pkr (signedPart img n) (signatureOf img n)

/-- R423, R424 step 5: an image that passes is loaded and measured. -/
def loadImage (img : List Byte) : Option Measure :=
  if imageGood img then some ⟨fieldAt img 4 4, fieldAt img 8 4, sha256 (signedPart img (fieldAt img 12 4))⟩ else none

/-- R425: the identity: SK.seed, SK.prf and PK.seed. -/
def identSeed (helper : List Byte) (suffix : Byte) : List Byte :=
  (sha256 ((List.range 32).map (Config.pufKey helper) ++ [suffix])).take 16

/-- R425: the public key PKD. -/
def pkdOf (fl : Flash) : List Byte := slhPublic (identSeed fl.helper 1) (identSeed fl.helper 3)

/-- R425: a signature under the identity; FIPS 205 leaves the randomiser open (log 7). -/
def signPkd (fl : Flash) (free : Nat) (m : List Byte) : List Byte :=
  slhSign (identSeed fl.helper 1) (identSeed fl.helper 2) (pkdOf fl) ((List.range 16).map fun i => Config.freeByte (free + i)) m

/-- R426: the fields of a configuration record. -/
def recType (l : List Byte) : Nat := fieldAt l 0 4
def recSigner (l : List Byte) : Nat := fieldAt l 4 4
def recSeq (l : List Byte) : Nat := fieldAt l 8 8
def recLen (l : List Byte) : Nat := fieldAt l 16 4
def recStack (l : List Byte) : Nat := fieldAt l 20 4
/-- R426: header and body of a record. -/
def recSigned (l : List Byte) : List Byte := signedPart l (recLen l)
/-- R426: the body of a record. -/
def recBody (l : List Byte) : List Byte := (recSigned l).drop 64

/-- R426: a record verifies: SIGNER 0 is PKR, and SIGNER 1, PKD, serves TYPE 0x03 alone; the stack and the zero bytes of
the header are as the rule lays them out (log 7). -/
def recordGood (pkd l : List Byte) : Bool :=
  let key := if recSigner l = 0 then some Config.pkr else if recSigner l = 1 ∧ recType l = 3 then some pkd else none
  decide (fieldAt l 24 40 = 0) && (decide (recType l = 3) || decide (recStack l = 0)) && decide (64 + recLen l + 7856 ≤ l.length) &&
    (match key with
     | some k => slhVerify k (recSigned l) (signatureOf l (recLen l))
     | none => false)

/-- R426: of two records the one with the higher SEQ; the first on a tie (log 7). -/
def newerRecord (best : Option (List Byte)) (l : List Byte) : Option (List Byte) :=
  match best with
  | some b => if recSeq b < recSeq l then some l else some b
  | none => some l

/-- R426: the record of a TYPE and a stack that is used: of those that verify, the one with the highest SEQ. -/
def recordOf (fl : Flash) (typ stack : Nat) : Option (List Byte) :=
  let pkd := pkdOf fl
  (fl.records.filter fun l => decide (recType l = typ) && decide (recStack l = stack) && recordGood pkd l).foldl newerRecord none

/-! The HBM interfaces. -/

/-- R427: the record that a full training writes for a stack: SEQ one higher, signed under PKD. -/
def trainRecord (fl : Flash) (free stack seq : Nat) : List Byte :=
  let body := Config.trainBody (free + stack)
  let m := toBytes 4 3 ++ toBytes 4 1 ++ toBytes 8 seq ++ toBytes 4 body.length ++ toBytes 4 stack ++ toBytes 40 0 ++ body
  m ++ signPkd fl (free + 16 * stack) m

/-- R424 step 4, R427: one stack. At a warm reset a record that verifies is applied, and bit i of the oracle's choice says
that the pattern check fails; a full training fails with bit 16 + i (log 10), and leaves the stack absent. -/
def bringStack (warm : Bool) (free choice : Nat) (b : Boot) (i : Nat) : Boot :=
  if !b.present.getLsbD i then b
  else
    let old := recordOf b.flash 3 i
    if warm && old.isSome && !choice.testBit i then { b with training := Cells.put b.training i (recSigned (old.getD [])) }
    else if choice.testBit (16 + i) then { b with present := b.present &&& ~~~(1#16 <<< i) }
    else
      let new := trainRecord b.flash free i (match old with
        | some l => recSeq l + 1
        | none => 1)
      { b with flash := { b.flash with records := b.flash.records ++ [new] }, training := Cells.put b.training i (recSigned new) }

/-! The steps of a boot. -/

/-- R424: a boot that ends in recovery mode. -/
def Boot.recover (fl : Flash) : Boot := { Boot.reset with flash := fl, recovery := true, present := 0 }

/-- R424 steps 2 to 4, once the firmware runs: the PUF response must be correctable, and a SKU record must verify. -/
def bootRecords (fl : Flash) (warm : Bool) (free choice : Nat) : Option Boot :=
  if !Config.pufCorrects ((List.range 4096).map fun i => Config.freeByte (free + i)) fl.helper then none
  else match recordOf fl 1 0 with
    | none => none
    | some sku =>
      let b : Boot :=
        { flash := fl, recovery := false, images := [], sku := recSigned sku, lanes := ((recordOf fl 2 0).map recSigned).getD [],
          cert := ((recordOf fl 4 0).map recSigned).getD [], training := [], present := (Config.skuOf (recBody sku)).present, key := free }
      some ((List.range 16).foldl (bringStack warm (free + 4096) choice) b)

/-- R424: the boot: the first Miuno slot that passes runs, and after the records the other three images are loaded. -/
def bootOf (fl : Flash) (warm : Bool) (free choice : Nat) : Boot :=
  match loadImage fl.slotA <|> loadImage fl.slotB with
  | none => Boot.recover fl
  | some m =>
    match bootRecords fl warm free choice with
    | none => Boot.recover fl
    | some b =>
      match loadImage fl.sched, loadImage fl.queue, loadImage fl.opell with
      | some x, some y, some z => { b with images := [m, x, y, z] }
      | _, _, _ => { b with recovery := true }

/-- R424 step 3: the cfg reset values that the SKU record sets (R219, R385, R437). -/
def Boot.sku? (b : Boot) : Option Sku := if b.sku.isEmpty then none else some (Config.skuOf (b.sku.drop 64))

/-- R437: PLIM.WATTS as it stores a value. -/
def wattsStored (w : Nat) : Nat := if w < 2000 ∨ 3600 < w then 3600 else w
/-- R385: THROT.HRT as it stores a value. -/
def hrtStored (n : Nat) : Nat := if n % 65536 = 0 then 1 else n % 65536

/-- R424 step 3: the cfg registers take the values of the SKU record. -/
def State.applySku (s : State) : State :=
  match s.boot.sku? with
  | none => s
  | some k =>
    { s with ptoken := sizeStored (k.ptoken.getD Config.ptokenSize), plim := wattsStored (k.plim.getD Config.plimWatts),
             throt := BitVec.ofNat 32 (250 * 65536 + hrtStored k.hrt) }

/-- R440: the device after a reset of the whole device: every register at its Reset value, and the boot run. The flash is
kept, and what the outside still brings, at the time it comes. The generations of the tags go on (log 7). -/
def State.restart (s : State) (warm : Bool) : State :=
  ({ State.reset with
      agenda := s.agenda.map fun e => (e.1 - s.cycle, e.2), choices := s.choices, free := s.free + 8192, nextId := s.nextId, out := s.out,
      tags := s.tags.map fun t => (t.1, { t.2 with use := none }), modNo := s.modNo, warm := warm, pod := if warm then s.pod else 0,
      boot := bootOf s.boot.flash warm s.free s.choice } : State).applySku

/-- R424, R440: COLD_BOOT. -/
def execColdBoot (s : State) : Out := .next (s.restart false)
/-- R440: WARM_RESET: pod time goes on (R439). -/
def execWarmReset (s : State) : Out := .next (s.restart true)

/-- R424: what is heard in recovery mode, in which only the management interface runs: power, resets and the sensors. -/
def heardInRecovery (i : Instr) : Bool :=
  match i with
  | .coldBoot => true
  | .warmReset => true
  | .thermalStateChange _ => true
  | .thermalTrip _ => true
  | .fatalError => true
  | _ => false

/-! Attestation. -/

/-- R428: the entry of an image. -/
def Measure.bytes (m : Measure) : List Byte := toBytes 4 m.typ ++ toBytes 4 m.svn ++ m.digest
/-- R428: the hash of a record in use, of header and body (log 7); zero for one that is absent. -/
def recordHash (l : List Byte) : List Byte := if l.isEmpty then toBytes 32 0 else sha256 l

/-- R428: bytes 0x0000 to 0x044F of the report. -/
def State.attestBody (s : State) : List Byte :=
  let b := s.boot
  let flags := (if s.warm then 1 else 0) + (if s.dbgUsed then 2 else 0) + 4 * b.present.toNat
  let images := (b.images.take 8).flatMap Measure.bytes
  toBytes 4 0x00010000 ++ toBytes 4 flags ++ toBytes 32 s.anonce.toNat ++ pkdOf b.flash ++ toBytes 8 (recSeq b.cert) ++
    images ++ toBytes (320 - images.length) 0 ++ recordHash b.sku ++ recordHash b.lanes ++
    ((List.range 16).flatMap fun i => recordHash (Cells.getD b.training i [])) ++ toBytes 128 0

/-- R428: the report, signed under PKD. -/
def State.attestReport (s : State) : List Byte := s.attestBody ++ signPkd s.boot.flash s.free s.attestBody

/-- R428: ATTESTATION: the report goes to AADDR with posted writes; ERR when they fail. -/
def execAttestation (hostFails : Bool) (s : State) : Out :=
  .next { (s.send (.hostWrite 0 s.aaddr.toNat s.attestReport)) with acmdErr := s.acmdErr || hostFails, free := s.free + 16 }

/-! Encryption. -/

/-- R378, R379: the 512 bits of a key: that of KEYID 0 was generated at boot. -/
def State.keyBits (s : State) (key : BitVec 12) : BitVec 512 :=
  if key = 0 then Config.bootKey s.boot.key else Cells.getD s.keyData key.toNat 0

/-- R380: a byte as the memory behind L2 holds it, in plaintext: under a dirty line the older value. -/
def State.byteBehind (s : State) (pa : Nat) : Byte :=
  match Cells.find? s.dirty (pa / 128 * 128) with
  | some old => Memory.byte old (pa % 128)
  | none => Memory.byte s.mem pa

/-- R380: what the memory holds of the 32-byte sector at a device address: the plaintext of the model's memory under the
frame's key, whose low half is the data key and whose high half the tweak key (R379). -/
def State.sectorCipher (s : State) (pa : Nat) : List Byte :=
  let at_ := pa / 32 * 32
  let k := (s.keyBits (s.frame at_).keyid).toNat
  xtsSector (toBytes 32 k) (toBytes 32 (k / 2 ^ 256)) at_ ((List.range 32).map fun i => s.byteBehind (at_ + i))

end Sys2Proof.Machine
end

