-- ==== Sys2Proof/Machine/Fleet.lean ====
section
/-! DEFINITION. Fleet operation (spec/22): links (R431 to R433), errors and containment (R434, R435), power and
temperature (R437, R438), pod time (R439), and posted writes of the host (R323). -/
namespace Sys2Proof.Machine

/-! Links. -/

def State.link (s : State) (l : Nat) : Link := Cells.getD s.links l Link.reset
def State.modLink (s : State) (l : Nat) (h : Link → Link) : State := { s with links := Cells.put s.links l (h (s.link l)) }

/-- R431, R439: LINK_TRAINED: the link learns its far end, and a module other than module 0 takes the reference
count, never stepping back. -/
def execLinkTrained (l farMod farLink podTime : Nat) (s : State) : Out :=
  if 18 ≤ l then .next s
  else
    let s1 := s.modLink l fun x => { x with up := true, farMod := farMod % 16, farLink := farLink % 32 }
    .next (if s.modNo = 0 then s1 else { s1 with pod := max s.pod (11 * podTime) })

/-- R436: adds to a counter. -/
def satAdd (n k : Nat) : Nat := min (n + k) (2 ^ 64 - 1)

/-- R433, R411: LINK_DOWN: the flits not acknowledged are replayed and counted; a session whose transfer uses the
link fails. -/
def execLinkDown (l replayed : Nat) (s : State) : Out :=
  if 18 ≤ l then .next s
  else
    let s1 := s.modLink l fun x => { x with up := false, retry := satAdd x.retry replayed }
    .next (s1.failSessions (fun x => !x.dir && decide (2 ≤ x.state) && decide (x.state ≤ 4) && x.links.getLsbD l) 1)

/-- R433: FLIT_RETRY. -/
def execFlitRetry (l : Nat) (s : State) : Out :=
  if 18 ≤ l then .next s else .next (s.modLink l fun x => { x with retry := satUp x.retry })

/-! Errors. -/

/-- R434: CORRECTABLE_ERROR: counted, and reported at most once per second. -/
def execCorrectableError (part : Nat) (s : State) : Out :=
  let s1 := s.countCorrected (part % 16)
  let due := match s.aerAt with
    | some t => decide (t + 11000000000 ≤ s.pod)
    | none => true
  .next (if due then { (s1.send (.aer 0)) with aerAt := some s.pod } else s1)

/-- R434: the device stops serving requests. -/
def State.stopDevice (s : State) : State := { (s.send (.aer 2)) with fatal := true }

/-- R434: the partition whose function owns a frame. -/
def State.ownerPart (s : State) (pa : Nat) : Option Nat :=
  let key := (s.frame pa).keyid
  if key = 0 then none
  else some (match List.find? (fun (f : Nat × Func) => f.2.keyid == key) s.funcs with
    | some f => f.2.partNo
    | none => 0)

/-- R435: a partition stops: its queues lose their slots, its gangs end without a save, and its migration
sessions fail. -/
def State.stopPartition (s : State) (t : Nat) : State :=
  let on := fun (k : Nat) => decide (k < 1024) && (s.part t).req.getLsbD (k / 16)
  let any := !(s.gangsWhere fun k _ => on k).isEmpty
  let noSlot := fun (q : Nat × Queue) => (q.1, { q.2 with slot := false, holdEnd := none })
  let funcs := s.funcs.map fun (f : Nat × Func) => if f.2.partNo = t then (f.1, { f.2 with queues := f.2.queues.map noSlot }) else f
  let s1 := (({ s with funcs := funcs } : State).modPart t fun p => { p with stop := true }).killGangs fun k _ => on k
  let s2 := s1.failSessions (fun x => decide (s.partOf x.fn = t)) 1
  if any then s2.raiseEvt 0 3 else s2

/-- R434, R435: WRITEBACK_UNCORRECTABLE, of a dirty line: its owner's partition stops; a line of KEYID 0 is fatal. -/
def execWritebackUncorrectable (line : Nat) (s : State) : Out :=
  let l := line / 128 * 128
  if (Cells.find? s.dirty l).isNone then .next s
  else match s.ownerPart l with
    | none => .next s.stopDevice
    | some t =>
      let s1 := (s.countUncorrectable t).stopPartition t
      .next ({ s1 with poison := if s1.poison.contains l then s1.poison else s1.poison ++ [l] }.send (.aer 1))

/-- R434: L2_CLEAN_UNCORRECTABLE: L2 finds the line, invalidates it and counts it; with an odd choice a request is
to consume it first. -/
def execL2CleanUncorrectable (line : Nat) (s : State) : Out :=
  let l := line / 128 * 128
  if (Cells.find? s.dirty l).isSome then .next s
  else if s.choice % 2 = 1 then .next { s with poison := if s.poison.contains l then s.poison else s.poison ++ [l] }
  else .next (s.countUncorrectable ((s.ownerPart l).getD 0))

/-- R434: FATAL_ERROR. -/
def execFatalError (s : State) : Out := .next s.stopDevice

/-! Power and temperature. -/

/-- R437: the token limit for a power limit and a thermal state. -/
def tokenLimit (watts thermal : Nat) : Nat := max 1 (896 * (watts - 1700) * (4 - thermal) / (1900 * 4))

/-- R437: PLIM_WRITE. -/
def execPlimWrite (v : Word) (s : State) : Out :=
  let w1 := wattsStored (bits v.toNat 11 0)
  .next { s with plim := w1, ptoken := tokenLimit w1 s.thermal }

/-- R438: the thermal state after a reading of TJ. -/
def thermalNext (cur tj : Nat) : Nat :=
  let up := if 105 ≤ tj then 3 else if 100 ≤ tj then 2 else if 95 ≤ tj then 1 else 0
  if cur ≤ up then up else if tj + 3 ≤ 90 + 5 * cur then cur - 1 else cur

/-- R437, R438: THERMAL_STATE_CHANGE. The coolant inlet that is read with it is a free value (log 8). -/
def execThermalStateChange (tj : BitVec 8) (s : State) : Out :=
  let n := thermalNext s.thermal tj.toNat
  let s1 : State := { s with tj := tj, tin := Config.freeByte s.free, free := s.free + 1 }
  if n = s.thermal then .next s1 else .next { s1 with thermal := n, ptoken := tokenLimit s.plim n }

/-- R438: THERMAL_TRIP: a fatal AER, and the cores lose their power. -/
def execThermalTrip (tj : BitVec 8) (s : State) : Out :=
  if tj.toNat < 115 then .next s
  else .next { s.stopDevice with tj := tj, cores := s.cores.map fun (c : Nat × Core) => (c.1, c.2.powerCycle) }

/-! The host. -/

/-- R323: HOST_POSTED_WRITE, in the function's intermediate space. -/
def execHostPostedWrite (fn ia : Nat) (data : List Byte) (s : State) : Out := .next (s.hostBytes fn ia data)

end Sys2Proof.Machine
end

