-- ==== Sys2Proof/Machine/Regs.lean ====
section
/-! DEFINITION. Host writes to registers (R7, R346 to R350, R371 to R379, R383, R385, R389, R401, R402, R412,
R414, R428): 32 bits at a time, the low half of a 64-bit write first. A write of a command bit does what the
command's own row does. -/
namespace Sys2Proof.Machine

/-- The state that an event leaves. -/
def outState (o : Out) (s : State) : State :=
  match o with
  | .next t => t
  | _ => s

/-- Half of a 64-bit register replaced. -/
def half (old : Nat) (hi : Bool) (v : Nat) : Nat := if hi then v * 2 ^ 32 + old % 2 ^ 32 else old / 2 ^ 32 * 2 ^ 32 + v
def halfQ (old : Quad) (hi : Bool) (v : Nat) : Quad := BitVec.ofNat 64 (half old.toNat hi v)

/-- W1C of an error bit: cleared when bit i of the value is 1. -/
def w1c (old : Word) (v : Nat) (i : Nat) : Word := if v.testBit i then old &&& ~~~(BitVec.ofNat 32 (2 ^ i)) else old

/-! Queue blocks (R350). -/

/-- R350: QCTL; LOG2 changes only while EN is 0. -/
def Queue.writeCtl (q : Queue) (holdmax : Nat) (npok : Bool) (v : Nat) : Queue :=
  let h := bits v 31 24
  let l := bits v 9 5
  { q with hold := min (if h = 0 then 10 else h) holdmax, qweight := if bits v 23 16 = 0 then 1 else bits v 23 16,
           log2 := if q.en then q.log2 else if 6 ≤ l ∧ l ≤ 16 then l else 6, np := v.testBit 1 && npok, en := v.testBit 0 }

/-- R350, R354: a write to word i of a queue block. -/
def State.writeQueue (s : State) (fn q i v : Nat) : State :=
  let qu := s.queue fn q
  let f := s.func fn
  match i with
  | 0 => if qu.en then s else s.modQueue fn q fun x => { x with base := half x.base false v / 4096 * 4096 % 2 ^ 57 }
  | 1 => if qu.en then s else s.modQueue fn q fun x => { x with base := half x.base true v % 2 ^ 57 }
  | 2 =>
    let ph := match s.job? fn qu.job with | some j => j.phase | none => 0
    let s1 := s.modQueue fn q fun x =>
      let y := x.writeCtl f.holdmax f.npok v
      ({ y with phends := if y.en && !x.en then max y.phends ph else y.phends } : Queue).release
    ((s1.settleJob fn qu.job).settleQueues fn).markPend fn q
  | 3 =>
    if qu.en then s
    else
      let job := v % 65536
      let ph := match s.job? fn job with | some j => j.phase | none => 0
      if job = qu.job then s
      else s.modQueue fn q fun x =>
        { x with job := job, phends := ph, qends := [], skipPhase := none,
                 skipJob := match s.job? fn job with | some j => j.cancelled | none => false }
  | 4 => outState (execQheadWrite fn q (BitVec.ofNat 32 v) s) s
  | 6 => if v.testBit 2 then (s.modQueue fn q fun x => { x with err := false }).markPend fn q else s
  | _ => s

/-! Registers of every function (R347, R371, R373). -/

/-- R373: S1ICTL. -/
def State.writeS1ictl (s : State) (fn v : Nat) : State :=
  if (s.func fn).s1ictl.getLsbD 31 then s
  else
    let scope := min (bits v 9 8) 1
    if v.testBit 31 then
      (if scope = 0 then outState (execS1InvalidatePage fn s) s else outState (execS1InvalidateFunction fn s) s)
    else s.modFunc fn fun f => { f with s1ictl := BitVec.ofNat 32 (scope * 256) }

/-- R347, R371: a write in the first 4 KiB of a function's BAR 0. -/
def State.writeFn (s : State) (fn off v : Nat) : State :=
  match off with
  | 0x004 => s.modFunc fn fun f => { f with evec := bits v 21 16 }
  | 0x008 => s.modFunc fn fun f => { f with evt := f.evt &&& ~~~(BitVec.ofNat 6 v) }
  | 0x00C => s.modFunc fn fun f => { f with evten := BitVec.ofNat 6 v }
  | 0x100 => s.modFunc fn fun f => { f with s1root := halfQ f.s1root false v &&& 0x000FFFFFFFFFF001#64 }
  | 0x104 => s.modFunc fn fun f => { f with s1root := halfQ f.s1root true v &&& 0x000FFFFFFFFFF001#64 }
  | 0x108 => s.modFunc fn fun f => { f with s1iaddr := halfQ f.s1iaddr false v &&& 0x01FFFFFFFFFF0000#64 }
  | 0x10C => s.modFunc fn fun f => { f with s1iaddr := halfQ f.s1iaddr true v &&& 0x01FFFFFFFFFF0000#64 }
  | 0x110 => s.writeS1ictl fn v
  | _ => s

/-! Device registers of spec/19. -/

/-- R371: a write to the stage-2 registers of function n. -/
def State.writeStage2 (s : State) (n i v : Nat) : State :=
  let m := fun (h : Func → Func) => s.modFunc n h
  match i with
  | 0 => m fun f => { f with s2root := halfQ f.s2root false v &&& 0x0000FFFFFFFFFF81#64 }
  | 1 => m fun f => { f with s2root := halfQ f.s2root true v &&& 0x0000FFFFFFFFFF81#64 }
  | 2 => m fun f => { f with strtab := halfQ f.strtab false v &&& 0x00FFFFFFFFFFFF00#64 }
  | 3 => m fun f => { f with strtab := halfQ f.strtab true v &&& 0x00FFFFFFFFFFFF00#64 }
  | 4 => if s.fnActive n || (decide (n ≠ 0) && decide (v % 4096 = 0)) then s else m fun f => { f with fcfg := halfQ f.fcfg false (v % 4096) }
  | 5 => m fun f =>
      { f with fcfg := halfQ f.fcfg true (bits v 27 16 * 65536 + if s.fnActive n then f.partNo else v % 16) }
  | 6 => m fun f => { f with ways := halfQ f.ways false v }
  | 7 => m fun f => { f with ways := halfQ f.ways true v }
  | _ => s

/-- R375: FTO as it is stored. -/
def ftoStored (v : Nat) : Nat := let n := v % 2 ^ 17; if n = 0 then 0 else min (max n 100) 100000

/-- R375: a write to partition t. -/
def State.writePart (s : State) (t i v : Nat) : State :=
  let m := fun (h : Partition → Partition) => s.modPart t h
  let free := !(s.part t).valid
  match i with
  | 0 => if free then m fun p => { p with req := halfQ p.req false v } else s
  | 1 => if free then m fun p => { p with req := halfQ p.req true v } else s
  | 2 => if free then m fun p => { p with mem := BitVec.ofNat 48 (half p.mem.toNat false v) } else s
  | 3 => if free then m fun p => { p with mem := BitVec.ofNat 48 (half p.mem.toNat true v) } else s
  | 4 => m fun p => { p with qos := BitVec.ofNat 48 (p.qos.toNat / 2 ^ 32 * 2 ^ 32 + (if free then v / 65536 else bits p.qos.toNat 31 16) * 65536 + v % 65536) }
  | 5 => if free then m fun p => { p with qos := BitVec.ofNat 48 (half p.qos.toNat true (v % 65536)) } else s
  | 6 => m fun p => { p with fto := ftoStored v }
  | 8 => m fun p => { p with stg := halfQ p.stg false v }
  | 9 => m fun p => { p with stg := halfQ p.stg true v }
  | 10 =>
    let s1 := if v.testBit 3 then m fun p => { p with err := false } else s
    let s2 := if v.testBit 0 = (s.part t).valid then s1 else outState (execPartitionValidWrite t (v.testBit 0) s1) s1
    if v.testBit 1 then outState (execPartitionReset t s2) s2 else s2
  | _ => s

/-- R379: KCMD. -/
def State.writeKcmd (s : State) (v : Nat) : State :=
  let key : BitVec 12 := BitVec.ofNat 12 v
  let s1 := { s with kcmd := (w1c s.kcmd v 30 &&& 0x40000000#32) ||| BitVec.ofNat 32 (v % 4096 + bits v 29 29 * 2 ^ 29) }
  if v.testBit 31 then (if v.testBit 29 then outState (execKeyErase key s1) s1 else outState (execKeyLoad key s1) s1) else s1

/-- R383: RTCMD. -/
def State.writeRtcmd (s : State) (v : Nat) : State :=
  let s1 := { s with rtcmd := (w1c s.rtcmd v 30 &&& 0x40000000#32) ||| BitVec.ofNat 32 (v % 4096) }
  if v.testBit 31 then outState (execRetag (BitVec.ofNat 12 v) s1) s1 else s1

/-- R373: S2ICTL. -/
def State.writeS2ictl (s : State) (v : Nat) : State :=
  if s.s2ictl.getLsbD 31 then s
  else
    let kept := BitVec.ofNat 32 v &&& 0x0F3F0300#32
    if !v.testBit 31 then { s with s2ictl := kept }
    else
      let fn := bits v 21 16
      let o := match bits v 9 8 with
        | 0 => execS2InvalidatePage fn s
        | 1 => execS2InvalidateFunction fn s
        | 2 => execS2InvalidatePartition (bits v 27 24) s
        | _ => execS2InvalidateAll s
      { outState o s with s2ictl := kept ||| 0x80000000#32 }

/-- R385: THROT as it is stored. -/
def throtStored (v : Nat) : Word :=
  let sp := bits v 25 16
  BitVec.ofNat 32 ((if 100 ≤ sp ∧ sp ≤ 1000 then sp else 250) * 65536 + hrtStored v)

/-- R379, R383, R373, R385: a write at 0x3E00 to 0x3FFF of the physical function's BAR 0. -/
def State.writeKeys (s : State) (off v : Nat) : State :=
  if off < 0x3E40 then
    let i := (off - 0x3E00) / 4
    { s with kdata := BitVec.ofNat 512 (s.kdata.toNat - bits s.kdata.toNat (32 * i + 31) (32 * i) * 2 ^ (32 * i) + v * 2 ^ (32 * i)) }
  else match off with
    | 0x3E40 => s.writeKcmd v
    | 0x3E80 => { s with rtaddr := halfQ s.rtaddr false v &&& 0x0000FFFFFFFF0000#64 }
    | 0x3E84 => { s with rtaddr := halfQ s.rtaddr true v &&& 0x0000FFFFFFFF0000#64 }
    | 0x3E88 => s.writeRtcmd v
    | 0x3EC0 => { s with s2iaddr := halfQ s.s2iaddr false v &&& 0x000FFFFFFFFF0000#64 }
    | 0x3EC4 => { s with s2iaddr := halfQ s.s2iaddr true v &&& 0x000FFFFFFFFF0000#64 }
    | 0x3EC8 => s.writeS2ictl v
    | 0x3F00 => { s with throt := throtStored v }
    | _ => s

/-! Virtual-function controls (R348, R349). -/

/-- R348: VFCTL of function n. -/
def State.writeVfctl (s : State) (n v : Nat) : State :=
  let h := bits v 22 16
  s.modFunc n fun f =>
    { f with holdmax := if h = 0 then 1 else min h 100, npok := v.testBit 8, weight := if v % 256 = 0 then 1 else v % 256 }

/-! Migration and proofs (R389, R401, R402). -/

/-- R401: MSCMD. The source learns from the fabric whether the destination is INCOMING (log 10). -/
def State.writeMscmd (s : State) (n v : Nat) : State :=
  if !v.testBit 31 then s.modSession n fun x => { x with cmd := v % 8 }
  else match v % 8 with
    | 1 => outState (execMsStart n (decide (s.choice % 2 = 0)) s) s
    | 2 => outState (execMsStop n s) s
    | 3 => outState (execMsAbort n s) s
    | 4 => outState (execMsAccept n s) s
    | c => s.modSession n fun x => { x with cmd := c, ecode := 4 }

/-- R401: a write to session n. -/
def State.writeSession (s : State) (n i v : Nat) : State :=
  let idle := decide ((s.session n).state = 0)
  match i with
  | 0 =>
    if idle then s.modSession n fun x =>
      { x with links := BitVec.ofNat 18 (x.links.toNat), peer := bits v 31 20, resid := if bits v 15 8 = 0 then 16 else bits v 15 8,
               dir := v.testBit 7, fn := v % 64 }
    else s
  | 1 => if idle then s.modSession n fun x => { x with links := BitVec.ofNat 18 (bits v 25 8), maxr := if v % 16 = 0 then 8 else v % 16 } else s
  | 2 => s.writeMscmd n v
  | 8 => if idle then s.modSession n fun x => { x with stg := half x.stg false v / 65536 * 65536 } else s
  | 9 => if idle then s.modSession n fun x => { x with stg := half x.stg true (v % 65536) } else s
  | _ => s

/-- R402: MFWD, RDIDX and RDDATA. -/
def State.writeMove (s : State) (off v : Nat) : State :=
  match off with
  | 0x5100 => { s with mfwd := if 50 ≤ v % 2048 ∧ v % 2048 ≤ 1000 then v % 2048 else 200 }
  | 0x5108 => { s with rdidx := v % 4096 }
  | 0x5110 => { s with redirect := Cells.put s.redirect s.rdidx (BitVec.ofNat 32 v &&& 0x800F003F#32) }
  | _ => s

/-- R389, R398: PXCMD. -/
def State.writePxcmd (s : State) (n v : Nat) : State :=
  let s1 := s.modPx n fun p => { p with cmd := (w1c p.cmd v 30 &&& 0xC0000000#32) ||| BitVec.ofNat 32 (v % 16) }
  if !v.testBit 31 then s1
  else match v % 16 with
    | 1 => outState (execPxEnable n s1) s1
    | 2 => outState (execPxDisable n s1) s1
    | 3 => outState (execPxRollback n s1) s1
    | c => s1.modPx n fun p => { p with cmd := pxDone c true }

/-- R389: a write to the proof context of function n. -/
def State.writePx (s : State) (n i v : Nat) : State :=
  let m := fun (h : Px → Px) => if (s.px n).en then s else s.modPx n h
  if 6 ≤ i ∧ i < 14 then
    let j := 32 * (i - 6)
    m fun p => { p with mem := BitVec.ofNat 256 (p.mem.toNat - bits p.mem.toNat (j + 31) j * 2 ^ j + (v &&& 0x8FFF8FFF) * 2 ^ j) }
  else match i with
    | 0 => m fun p => { p with foln := v / 8192 * 8192 }
    | 1 => m fun p => { p with job := bits v 31 16, chlmax := v % 8192 }
    | 2 => m fun p => { p with base := half p.base false v / 65536 * 65536 }
    | 3 => m fun p => { p with base := half p.base true (v % 65536) }
    | 4 => m fun p => { p with len := v % 2 ^ 24 }
    | 14 => s.writePxcmd n v
    | 16 => s.modPx n fun p => { p with num := BitVec.ofNat 32 v }
    | _ => s

/-! Debug (R412, R414, R420, R428). -/

/-- R412: DBGCTL. -/
def State.writeDbgctl (s : State) (v : Nat) : State :=
  let s1 : State := { s with dbgIen := v.testBit 16, dbgVec := bits v 13 8 }
  let s2 := outState (execDbgctlHoldWrite (v.testBit 2) s1) s1
  if v.testBit 0 then outState (execDbgoutAcknowledge s2) s2 else s2

/-- R420: DBGHREQ. -/
def State.writeDbghreq (s : State) (v : Nat) : State :=
  let w := BitVec.ofNat 32 v
  if !v.testBit 31 then { s with dbghreq := (w1c s.dbghreq v 30 &&& 0x40000000#32) ||| (w &&& 0x303F0F1F#32) }
  else match bits v 29 28 with
    | 1 => outState (execDebugHalt w s) s
    | 2 => outState (execDebugResume w s) s
    | _ => { s with dbghreq := dbghDone w true }

/-- R412, R420, R428, R437: a write at 0x9000 to 0xAFFF. -/
def State.writeDebug (s : State) (off v : Nat) : State :=
  if 0xA000 ≤ off ∧ off < 0xA020 then
    let i := (off - 0xA000) / 4
    { s with anonce := BitVec.ofNat 256 (s.anonce.toNat - bits s.anonce.toNat (32 * i + 31) (32 * i) * 2 ^ (32 * i) + v * 2 ^ (32 * i)) }
  else match off with
    | 0x9000 => outState (execDbginWrite (BitVec.ofNat 64 v) s) s
    | 0x9010 => s.writeDbgctl v
    | 0x9018 => s.writeDbghreq v
    | 0xA020 => { s with aaddr := halfQ s.aaddr false (v / 4096 * 4096) }
    | 0xA024 => { s with aaddr := halfQ s.aaddr true v }
    | 0xA028 =>
      let s1 := if v.testBit 30 then { s with acmdErr := false } else s
      if v.testBit 31 then outState (execAttestation false s1) s1 else s1
    | 0xA800 => outState (execPlimWrite (BitVec.ofNat 32 v) s) s
    | _ => s

/-- R414: a host write to a core's comparator. -/
def State.writeWatch (s : State) (c i v : Nat) : State :=
  match i with
  | 0 => s.modCore c fun co => { co with watchA := halfQ co.watchA false v }
  | 1 =>
    let w := watchAStored (halfQ (s.core c).watchA true v)
    ({ s with dbgUsed := s.dbgUsed || w.getLsbD 63 } : State).modCore c fun co => { co with watchA := w }
  | 2 => s.modCore c fun co => { co with watchM := halfQ co.watchM false v &&& 0x01FFFFFFFFFFFFFF#64 }
  | _ => s.modCore c fun co => { co with watchM := halfQ co.watchM true v &&& 0x01FFFFFFFFFFFFFF#64 }

/-! The BARs (R346). -/

/-- R346: a 32-bit write of the device-wide registers in the physical function's BAR 0. -/
def State.writeDevice (s : State) (off v : Nat) : State :=
  if off < 0x3800 then s.writeStage2 ((off - 0x3000) / 32) (off % 32 / 4) v
  else if off < 0x3A00 then s
  else if off < 0x3E00 then s.writePart ((off - 0x3A00) / 64) (off % 64 / 4) v
  else if off < 0x4000 then s.writeKeys off v
  else if off < 0x4200 then
    let n := (off - 0x4000) / 8
    if off % 8 = 0 then s.writeVfctl n v else outState (execVfvdnWrite n (BitVec.ofNat 32 v) s) s
  else if off < 0x5000 then s
  else if off < 0x5100 then s.writeSession ((off - 0x5000) / 64) (off % 64 / 4) v
  else if off < 0x6000 then s.writeMove off v
  else if off < 0x8000 then s.writePx ((off - 0x6000) / 128) (off % 128 / 4) v
  else if off = 0x8800 then s.writeJcan (BitVec.ofNat 32 v)
  else if off < 0x9000 then s
  else if off < 0xB000 then s.writeDebug off v
  else if off < 0xC000 then
    s.modCore ((off - 0xB000) / 4) fun co => { co with bkptctl := bkptStored (BitVec.ofNat 32 v) &&& 0xFF#32, bkptGroup := none }
  else s.writeWatch ((off - 0xC000) / 16) (off % 16 / 4) v

/-- R346: a 32-bit write of a function's BAR 0. -/
def State.writeBar0 (s : State) (fn off v : Nat) : State :=
  if off < 0x1000 then s.writeFn fn off v
  else if off < 0x3000 then s.writeQueue fn ((off - 0x1000) / 32) (off % 32 / 4) v
  else if fn = 0 ∧ off < 0x10000 then s.writeDevice off v
  else s

/-- R346, R357: a 32-bit write of the MSI-X table; a vector that is unmasked while its message waits sends it. -/
def State.writeMsix (s : State) (fn off v : Nat) : State :=
  if 1024 ≤ off then s
  else
    let i := off / 4
    let n := i / 4
    let s1 := s.modFunc fn fun f => { f with msixTable := Cells.put f.msixTable i (BitVec.ofNat 32 v) }
    if i % 4 = 3 && !v.testBit 0 && (s.func fn).pba.getLsbD n then
      (s1.modFunc fn fun f => { f with pba := f.pba &&& ~~~(BitVec.ofNat 64 (2 ^ n)) }).sendMsix fn n
    else s1

/-- R346, R352: a 32-bit write, or a half of a 64-bit one. -/
def State.writeBar (s : State) (fn bar off v : Nat) : State :=
  if bar = 0 then s.writeBar0 fn off v else if bar = 4 then s.writeMsix fn off v else s

/-- R7, R346, R352: REGISTER_WRITE: a host write of 4 or 8 bytes to a function's BAR. -/
def execRegisterWrite (fn bar off size : Nat) (v : Quad) (s : State) : Out :=
  if 64 ≤ fn ∨ (s.func fn).enabled = false then .next s
  else if bar = 2 then
    (if off % 4096 = 0 ∧ (size = 4 ∨ size = 8) then .next (outState (execNotifyWrite fn (off / 4096) (v.setWidth 32) s) s) else .next s)
  else if off % 4 ≠ 0 then .next s
  else if size = 4 then .next (s.writeBar fn bar off (v.toNat % 2 ^ 32))
  else if size = 8 then
    (if bar = 0 ∧ fn = 0 ∧ off = 0x9000 then .next (outState (execDbginWrite v s) s)
     else .next ((s.writeBar fn bar off (v.toNat % 2 ^ 32)).writeBar fn bar (off + 4) (v.toNat / 2 ^ 32)))
  else .next s

end Sys2Proof.Machine
end

