-- ==== Sys2Proof/Machine/Dispatch.lean ====
section
/-! DEFINITION. The meaning of every instruction and event, one arm for each row of the opcode table. -/
namespace Sys2Proof.Machine

def exec (i : Instr) (s : State) : Host.Outcome State Fault Refusal :=
  match i with
  | .nopShort f => Sys2Proof.Machine.execNopShort f s
  | .nop f => Sys2Proof.Machine.execNop f s
  | .iaddShort f => Sys2Proof.Machine.execIaddShort f s
  | .iadd f => Sys2Proof.Machine.execIadd f s
  | .isubShort f => Sys2Proof.Machine.execIsubShort f s
  | .isub f => Sys2Proof.Machine.execIsub f s
  | .imulShort f => Sys2Proof.Machine.execImulShort f s
  | .imul f => Sys2Proof.Machine.execImul f s
  | .imulhShort f => Sys2Proof.Machine.execImulhShort f s
  | .imulh f => Sys2Proof.Machine.execImulh f s
  | .imad f => Sys2Proof.Machine.execImad f s
  | .iminShort f => Sys2Proof.Machine.execIminShort f s
  | .imin f => Sys2Proof.Machine.execImin f s
  | .imaxShort f => Sys2Proof.Machine.execImaxShort f s
  | .imax f => Sys2Proof.Machine.execImax f s
  | .andShort f => Sys2Proof.Machine.execAndShort f s
  | .and f => Sys2Proof.Machine.execAnd f s
  | .orShort f => Sys2Proof.Machine.execOrShort f s
  | .or f => Sys2Proof.Machine.execOr f s
  | .xorShort f => Sys2Proof.Machine.execXorShort f s
  | .xor f => Sys2Proof.Machine.execXor f s
  | .tern f => Sys2Proof.Machine.execTern f s
  | .shlShort f => Sys2Proof.Machine.execShlShort f s
  | .shl f => Sys2Proof.Machine.execShl f s
  | .shrShort f => Sys2Proof.Machine.execShrShort f s
  | .shr f => Sys2Proof.Machine.execShr f s
  | .sarShort f => Sys2Proof.Machine.execSarShort f s
  | .sar f => Sys2Proof.Machine.execSar f s
  | .bitop f => Sys2Proof.Machine.execBitop f s
  | .bfe f => Sys2Proof.Machine.execBfe f s
  | .bfi f => Sys2Proof.Machine.execBfi f s
  | .icmp f => Sys2Proof.Machine.execIcmp f s
  | .sel f => Sys2Proof.Machine.execSel f s
  | .movShort f => Sys2Proof.Machine.execMovShort f s
  | .mov f => Sys2Proof.Machine.execMov f s
  | .movToIndex f => Sys2Proof.Machine.execMovToIndex f s
  | .movFromIndex f => Sys2Proof.Machine.execMovFromIndex f s
  | .lea f => Sys2Proof.Machine.execLea f s
  | .faddShort f => Sys2Proof.Machine.execFaddShort f s
  | .fadd f => Sys2Proof.Machine.execFadd f s
  | .fmulShort f => Sys2Proof.Machine.execFmulShort f s
  | .fmul f => Sys2Proof.Machine.execFmul f s
  | .ffma f => Sys2Proof.Machine.execFfma f s
  | .fminShort f => Sys2Proof.Machine.execFminShort f s
  | .fmin f => Sys2Proof.Machine.execFmin f s
  | .fmaxShort f => Sys2Proof.Machine.execFmaxShort f s
  | .fmax f => Sys2Proof.Machine.execFmax f s
  | .fcmp f => Sys2Proof.Machine.execFcmp f s
  | .ffunc f => Sys2Proof.Machine.execFfunc f s
  | .fmisc f => Sys2Proof.Machine.execFmisc f s
  | .daddShort f => Sys2Proof.Machine.execDaddShort f s
  | .dadd f => Sys2Proof.Machine.execDadd f s
  | .dmulShort f => Sys2Proof.Machine.execDmulShort f s
  | .dmul f => Sys2Proof.Machine.execDmul f s
  | .dfma f => Sys2Proof.Machine.execDfma f s
  | .dminShort f => Sys2Proof.Machine.execDminShort f s
  | .dmin f => Sys2Proof.Machine.execDmin f s
  | .dmaxShort f => Sys2Proof.Machine.execDmaxShort f s
  | .dmax f => Sys2Proof.Machine.execDmax f s
  | .dcmp f => Sys2Proof.Machine.execDcmp f s
  | .dfunc f => Sys2Proof.Machine.execDfunc f s
  | .dmisc f => Sys2Proof.Machine.execDmisc f s
  | .hadd2Short f => Sys2Proof.Machine.execHadd2Short f s
  | .hadd2 f => Sys2Proof.Machine.execHadd2 f s
  | .hmul2Short f => Sys2Proof.Machine.execHmul2Short f s
  | .hmul2 f => Sys2Proof.Machine.execHmul2 f s
  | .hfma2 f => Sys2Proof.Machine.execHfma2 f s
  | .hmin2Short f => Sys2Proof.Machine.execHmin2Short f s
  | .hmin2 f => Sys2Proof.Machine.execHmin2 f s
  | .hmax2Short f => Sys2Proof.Machine.execHmax2Short f s
  | .hmax2 f => Sys2Proof.Machine.execHmax2 f s
  | .hcmp2 f => Sys2Proof.Machine.execHcmp2 f s
  | .idot4 f => Sys2Proof.Machine.execIdot4 f s
  | .fdot2 f => Sys2Proof.Machine.execFdot2 f s
  | .cvt f => Sys2Proof.Machine.execCvt f s
  | .pack f => Sys2Proof.Machine.execPack f s
  | .unpk f => Sys2Proof.Machine.execUnpk f s
  | .rng f => Sys2Proof.Machine.execRng f s
  | .xacc f => Sys2Proof.Machine.execXacc f s
  | .xcvtTo f => Sys2Proof.Machine.execXcvtTo f s
  | .xcvtFrom f => Sys2Proof.Machine.execXcvtFrom f s
  | .shfl f => Sys2Proof.Machine.execShfl f s
  | .vote f => Sys2Proof.Machine.execVote f s
  | .match f => Sys2Proof.Machine.execMatch f s
  | .redx f => Sys2Proof.Machine.execRedx f s
  | .scan f => Sys2Proof.Machine.execScan f s
  | .plop f => Sys2Proof.Machine.execPlop f s
  | .pmovSave f => Sys2Proof.Machine.execPmovSave f s
  | .pmovLoad f => Sys2Proof.Machine.execPmovLoad f s
  | .ld f => Sys2Proof.Machine.execLd f s
  | .st f => Sys2Proof.Machine.execSt f s
  | .lds f => Sys2Proof.Machine.execLds f s
  | .sts f => Sys2Proof.Machine.execSts f s
  | .atom f => Sys2Proof.Machine.execAtom f s
  | .red f => Sys2Proof.Machine.execRed f s
  | .atoms f => Sys2Proof.Machine.execAtoms f s
  | .cstr f => Sys2Proof.Machine.execCstr f s
  | .fence f => Sys2Proof.Machine.execFence f s
  | .ldbr f => Sys2Proof.Machine.execLdbr f s
  | .ldbrM f => Sys2Proof.Machine.execLdbrM f s
  | .nmx f => Sys2Proof.Machine.execNmx f s
  | .pref f => Sys2Proof.Machine.execPref f s
  | .cpyIn f => Sys2Proof.Machine.execCpyIn f s
  | .cpyOut f => Sys2Proof.Machine.execCpyOut f s
  | .cpyt f => Sys2Proof.Machine.execCpyt f s
  | .cpytS f => Sys2Proof.Machine.execCpytS f s
  | .seal f => Sys2Proof.Machine.execSeal f s
  | .waitb f => Sys2Proof.Machine.execWaitb f s
  | .xarv f => Sys2Proof.Machine.execXarv f s
  | .xwait f => Sys2Proof.Machine.execXwait f s
  | .waitc f => Sys2Proof.Machine.execWaitc f s
  | .barWait f => Sys2Proof.Machine.execBarWait f s
  | .barNote f => Sys2Proof.Machine.execBarNote f s
  | .cred f => Sys2Proof.Machine.execCred f s
  | .snap f => Sys2Proof.Machine.execSnap f s
  | .emit f => Sys2Proof.Machine.execEmit f s
  | .cntrRd f => Sys2Proof.Machine.execCntrRd f s
  | .cntrCancel f => Sys2Proof.Machine.execCntrCancel f s
  | .mxacq f => Sys2Proof.Machine.execMxacq f s
  | .mxrel f => Sys2Proof.Machine.execMxrel f s
  | .mma f => Sys2Proof.Machine.execMma f s
  | .mmas f => Sys2Proof.Machine.execMmas f s
  | .mzero f => Sys2Proof.Machine.execMzero f s
  | .mout f => Sys2Proof.Machine.execMout f s
  | .manc f => Sys2Proof.Machine.execManc f s
  | .bra f => Sys2Proof.Machine.execBra f s
  | .brx f => Sys2Proof.Machine.execBrx f s
  | .call f => Sys2Proof.Machine.execCall f s
  | .ret f => Sys2Proof.Machine.execRet f s
  | .rgang f => Sys2Proof.Machine.execRgang f s
  | .loop f => Sys2Proof.Machine.execLoop f s
  | .loopR f => Sys2Proof.Machine.execLoopR f s
  | .exitShort f => Sys2Proof.Machine.execExitShort f s
  | .exit f => Sys2Proof.Machine.execExit f s
  | .yieldShort f => Sys2Proof.Machine.execYieldShort f s
  | .yield f => Sys2Proof.Machine.execYield f s
  | .trap f => Sys2Proof.Machine.execTrap f s
  | .rte f => Sys2Proof.Machine.execRte f s
  | .srd f => Sys2Proof.Machine.execSrd f s
  | .swr f => Sys2Proof.Machine.execSwr f s
  | .bkpt f => Sys2Proof.Machine.execBkpt f s
  | .ctxs f => Sys2Proof.Machine.execCtxs f s
  | .ctxr f => Sys2Proof.Machine.execCtxr f s
  | .deferredReportTaken k sl frag => Sys2Proof.Machine.execDeferredReportTaken k sl frag s
  | .parkedCauseTaken k sl frag => Sys2Proof.Machine.execParkedCauseTaken k sl frag s
  | .singleStep k sl frag => Sys2Proof.Machine.execSingleStep k sl frag s
  | .hardwareBreakpoint k sl frag => Sys2Proof.Machine.execHardwareBreakpoint k sl frag s
  | .haltRequest k sl cause frame => Sys2Proof.Machine.execHaltRequest k sl cause frame s
  | .haltTaken k sl frag => Sys2Proof.Machine.execHaltTaken k sl frag s
  | .haltSaveEntry k sl => Sys2Proof.Machine.execHaltSaveEntry k sl s
  | .restoreEntry k sl saved => Sys2Proof.Machine.execRestoreEntry k sl saved s
  | .joinRelease k sl => Sys2Proof.Machine.execJoinRelease k sl s
  | .rgangRelease k sl => Sys2Proof.Machine.execRgangRelease k sl s
  | .earlyRelease k sl frag => Sys2Proof.Machine.execEarlyRelease k sl frag s
  | .barArrival k sl => Sys2Proof.Machine.execBarArrival k sl s
  | .fragmentUrgent k sl frag => Sys2Proof.Machine.execFragmentUrgent k sl frag s
  | .yieldWindowEnd k sl => Sys2Proof.Machine.execYieldWindowEnd k sl s
  | .loadDataReturn id peer => Sys2Proof.Machine.execLoadDataReturn id peer s
  | .storePerformed reply => Sys2Proof.Machine.execStorePerformed reply s
  | .atomicReply id peer => Sys2Proof.Machine.execAtomicReply id peer s
  | .nmxReply id peer => Sys2Proof.Machine.execNmxReply id peer s
  | .remoteScratchComplete id => Sys2Proof.Machine.execRemoteScratchComplete id s
  | .ldbrLoaded id peer => Sys2Proof.Machine.execLdbrLoaded id peer s
  | .fabricRequestArrival req => Sys2Proof.Machine.execFabricRequestArrival req s
  | .peerRefusal reply cause ia => Sys2Proof.Machine.execPeerRefusal reply cause ia s
  | .waitReply reply => Sys2Proof.Machine.execWaitReply reply s
  | .homeWaitTimer held => Sys2Proof.Machine.execHomeWaitTimer held s
  | .fabricTimeout id => Sys2Proof.Machine.execFabricTimeout id s
  | .movedReply id modNo => Sys2Proof.Machine.execMovedReply id modNo s
  | .copyPieceDelivered core copy piece => Sys2Proof.Machine.execCopyPieceDelivered core copy piece s
  | .copyFixupReplay core copy => Sys2Proof.Machine.execCopyFixupReplay core copy s
  | .engineBlockProduct k => Sys2Proof.Machine.execEngineBlockProduct k s
  | .foldTimeout k => Sys2Proof.Machine.execFoldTimeout k s
  | .matrixComplete k => Sys2Proof.Machine.execMatrixComplete k s
  | .credContributionArrival con => Sys2Proof.Machine.execCredContributionArrival con s
  | .credRoundTimeout sl => Sys2Proof.Machine.execCredRoundTimeout sl s
  | .credResultArrival res => Sys2Proof.Machine.execCredResultArrival res s
  | .slotPause sl => Sys2Proof.Machine.execSlotPause sl s
  | .slotResume sl => Sys2Proof.Machine.execSlotResume sl s
  | .emitRecordEntry emit => Sys2Proof.Machine.execEmitRecordEntry emit s
  | .binTimerFlush graph node => Sys2Proof.Machine.execBinTimerFlush graph node s
  | .binQuiescenceFlush graph => Sys2Proof.Machine.execBinQuiescenceFlush graph s
  | .stagingBegin launch range => Sys2Proof.Machine.execStagingBegin launch range s
  | .stagedLineWritten yarder group range line => Sys2Proof.Machine.execStagedLineWritten yarder group range line s
  | .groupPlacement launch k => Sys2Proof.Machine.execGroupPlacement launch k s
  | .groupStart group => Sys2Proof.Machine.execGroupStart group s
  | .groupEnd group => Sys2Proof.Machine.execGroupEnd group s
  | .watchdog launch => Sys2Proof.Machine.execWatchdog launch s
  | .groupSave group ia => Sys2Proof.Machine.execGroupSave group ia s
  | .groupRestore saved k => Sys2Proof.Machine.execGroupRestore saved k s
  | .notifyWrite fn queue tail => Sys2Proof.Machine.execNotifyWrite fn queue tail s
  | .cmdNop fn queue => Sys2Proof.Machine.execCmdNop fn queue s
  | .cmdLaunch fn queue => Sys2Proof.Machine.execCmdLaunch fn queue s
  | .cmdGraph fn queue => Sys2Proof.Machine.execCmdGraph fn queue s
  | .cmdPhend fn queue => Sys2Proof.Machine.execCmdPhend fn queue s
  | .cmdProof fn queue => Sys2Proof.Machine.execCmdProof fn queue s
  | .cmdSignal fn queue => Sys2Proof.Machine.execCmdSignal fn queue s
  | .signalWrite fn queue failed => Sys2Proof.Machine.execSignalWrite fn queue failed s
  | .cmdCopen fn queue => Sys2Proof.Machine.execCmdCopen fn queue s
  | .cmdCclose fn queue => Sys2Proof.Machine.execCmdCclose fn queue s
  | .cmdOvfadd fn queue => Sys2Proof.Machine.execCmdOvfadd fn queue s
  | .cmdCancel fn queue => Sys2Proof.Machine.execCmdCancel fn queue s
  | .slotGrant fn queue => Sys2Proof.Machine.execSlotGrant fn queue s
  | .slotReclaim fn queue => Sys2Proof.Machine.execSlotReclaim fn queue s
  | .holdLimitLapse fn queue => Sys2Proof.Machine.execHoldLimitLapse fn queue s
  | .jcanPhase value => Sys2Proof.Machine.execJcanPhase value s
  | .jcanJob value => Sys2Proof.Machine.execJcanJob value s
  | .s1InvalidatePage fn => Sys2Proof.Machine.execS1InvalidatePage fn s
  | .s1InvalidateFunction fn => Sys2Proof.Machine.execS1InvalidateFunction fn s
  | .s2InvalidatePage fn => Sys2Proof.Machine.execS2InvalidatePage fn s
  | .s2InvalidateFunction fn => Sys2Proof.Machine.execS2InvalidateFunction fn s
  | .s2InvalidatePartition part => Sys2Proof.Machine.execS2InvalidatePartition part s
  | .invalidationComplete job => Sys2Proof.Machine.execInvalidationComplete job s
  | .partitionValidWrite part valid => Sys2Proof.Machine.execPartitionValidWrite part valid s
  | .partitionReset part => Sys2Proof.Machine.execPartitionReset part s
  | .keyLoad keyid => Sys2Proof.Machine.execKeyLoad keyid s
  | .keyErase keyid => Sys2Proof.Machine.execKeyErase keyid s
  | .retag keyid => Sys2Proof.Machine.execRetag keyid s
  | .pxEnable fn => Sys2Proof.Machine.execPxEnable fn s
  | .enableSweepStep fn => Sys2Proof.Machine.execEnableSweepStep fn s
  | .pxDisable fn => Sys2Proof.Machine.execPxDisable fn s
  | .pxRollback fn => Sys2Proof.Machine.execPxRollback fn s
  | .proofPoint fn => Sys2Proof.Machine.execProofPoint fn s
  | .blazeMarkerArrival fn marker => Sys2Proof.Machine.execBlazeMarkerArrival fn marker s
  | .drainStep fn => Sys2Proof.Machine.execDrainStep fn s
  | .msAccept session => Sys2Proof.Machine.execMsAccept session s
  | .msStart session incoming => Sys2Proof.Machine.execMsStart session incoming s
  | .msStop session => Sys2Proof.Machine.execMsStop session s
  | .msAbort session => Sys2Proof.Machine.execMsAbort session s
  | .precopyRoundEnd session => Sys2Proof.Machine.execPrecopyRoundEnd session s
  | .stopPhaseBegin session => Sys2Proof.Machine.execStopPhaseBegin session s
  | .migrationResume session record => Sys2Proof.Machine.execMigrationResume session record s
  | .redirectArrival vdn modNo fn => Sys2Proof.Machine.execRedirectArrival vdn modNo fn s
  | .forwardingWindowExpiry vdn => Sys2Proof.Machine.execForwardingWindowExpiry vdn s
  | .dbgmbPost k sl value => Sys2Proof.Machine.execDbgmbPost k sl value s
  | .thermalTrip tj => Sys2Proof.Machine.execThermalTrip tj s
  | .illegalOpc word0 => Sys2Proof.Machine.execIllegalOpc word0 s
  | .fetchFault cause va => Sys2Proof.Machine.execFetchFault cause va s
  | .fabricUnreachable id => Sys2Proof.Machine.execFabricUnreachable id s
  | .l2DirectOperandReply id line peer => Sys2Proof.Machine.execL2DirectOperandReply id line peer s
  | .qheadWrite fn queue head => Sys2Proof.Machine.execQheadWrite fn queue head s
  | .vfvdnWrite fn value => Sys2Proof.Machine.execVfvdnWrite fn value s
  | .s2InvalidateAll => Sys2Proof.Machine.execS2InvalidateAll s
  | .precopyBlockArrival session ia valid data => Sys2Proof.Machine.execPrecopyBlockArrival session ia valid data s
  | .dbginWrite value => Sys2Proof.Machine.execDbginWrite value s
  | .dbgoutAcknowledge => Sys2Proof.Machine.execDbgoutAcknowledge s
  | .dbgmbAcknowledge => Sys2Proof.Machine.execDbgmbAcknowledge s
  | .debugHalt value => Sys2Proof.Machine.execDebugHalt value s
  | .debugResume value => Sys2Proof.Machine.execDebugResume value s
  | .attestation hostFails => Sys2Proof.Machine.execAttestation hostFails s
  | .plimWrite value => Sys2Proof.Machine.execPlimWrite value s
  | .thermalStateChange tj => Sys2Proof.Machine.execThermalStateChange tj s
  | .coldBoot => Sys2Proof.Machine.execColdBoot s
  | .warmReset => Sys2Proof.Machine.execWarmReset s
  | .vfFlr fn => Sys2Proof.Machine.execVfFlr fn s
  | .linkTrained link farMod farLink podTime => Sys2Proof.Machine.execLinkTrained link farMod farLink podTime s
  | .linkDown link replayed => Sys2Proof.Machine.execLinkDown link replayed s
  | .correctableError part => Sys2Proof.Machine.execCorrectableError part s
  | .writebackUncorrectable line => Sys2Proof.Machine.execWritebackUncorrectable line s
  | .l2CleanUncorrectable line => Sys2Proof.Machine.execL2CleanUncorrectable line s
  | .machineCheck k sl => Sys2Proof.Machine.execMachineCheck k sl s
  | .fatalError => Sys2Proof.Machine.execFatalError s
  | .registerWrite fn bar offset size value => Sys2Proof.Machine.execRegisterWrite fn bar offset size value s
  | .vfEnable fn enable => Sys2Proof.Machine.execVfEnable fn enable s
  | .flitRetry link => Sys2Proof.Machine.execFlitRetry link s
  | .refreshWindowEnd => Sys2Proof.Machine.execRefreshWindowEnd s
  | .dbgctlHoldWrite hold => Sys2Proof.Machine.execDbgctlHoldWrite hold s
  | .hostPostedWrite fn ia data => Sys2Proof.Machine.execHostPostedWrite fn ia data s

end Sys2Proof.Machine
end

