-- ==== Sys2Proof/Machine/Select.lean ====
section
/-! DEFINITION. One core cycle after another: what the selector looks at next (R242, R287 to R290), the issue of
a selected fragment (R80, R91, R94), and what changes at the end of a cycle (R37, R148, R288, R439). -/
namespace Sys2Proof.Machine

/-- Where a candidate stands in the order of R288, R290: urgent since, in a YIELD window, GWAIT, slot, AGE. -/
structure Rank where
  urg : Option Nat
  window : Bool
  gwait : Nat
  slot : Nat
  age : Nat
deriving DecidableEq, Repr

/-- R288, R290: the first stands before the second. -/
def Rank.before (a b : Rank) : Bool :=
  let tie := decide (b.gwait < a.gwait) || (decide (a.gwait = b.gwait) && (decide (a.slot < b.slot) || (decide (a.slot = b.slot) && decide (a.age < b.age))))
  match a.urg, b.urg with
  | some x, some y => decide (x < y) || (decide (x = y) && tie)
  | some _, none => true
  | none, some _ => false
  | none, none => (!a.window && b.window) || (a.window == b.window && tie)

/-- R14: AGE of a fragment. -/
def Gang.age (g : Gang) (fid : Nat) : Nat := g.frags.findIdx fun f => decide (f.fid = fid)

/-- R290: the gang stands in the 16 cycles after a YIELD. -/
def State.inWindow (s : State) (g : Gang) : Bool := decide (0 < g.yieldEnd) && decide (s.cycle ≤ g.yieldEnd)

/-- The rank of a candidate; one that is gone stands last. -/
def State.rank (s : State) (x : Cand) : Rank :=
  match s.gang? x.core x.slot with
  | some g => ⟨(g.frag? x.fid).bind (·.urg), s.inWindow g, g.gwait, x.slot, g.age x.fid⟩
  | none => ⟨none, true, 0, x.slot, 0⟩

/-- R288: the best candidate of the core whose turn it is, and the rest. -/
def State.nextCand (s : State) : Option (Cand × List Cand) :=
  match s.cands with
  | [] => none
  | c :: t =>
    let best := t.foldl (fun b x => if x.core = c.core && (s.rank x).before (s.rank b) then x else b) c
    some (best, s.cands.erase best)

/-- R31, R287: another fragment holds a pipe of the slices for the latch read that comes next. -/
def State.pipesHeld (s : State) (k sl : Nat) (f : Frag) : Bool :=
  let co := s.core k
  co.pipes.any fun p =>
    (slicesOf f.mask).getLsbD p.1 && decide (0 < p.2.depth) && !(decide (p.2.slot = sl) && decide (p.2.fid = f.fid)) &&
      (match Cells.find? co.gangs p.2.slot with
       | some g => (match g.frag? p.2.fid with
         | some o => (match s.nextInstr k g o with
           | some i => readsLatch i
           | none => false)
         | none => false)
       | none => false)

/-- R418: while one fragment of a stepping gang has issued and its step trap has not been taken, no other
fragment of the gang issues, and one issues in a cycle. -/
def State.stepBlocks (s : State) (k sl : Nat) (g : Gang) (f : Frag) : Bool :=
  g.stepping && (g.frags.any (fun o => decide (o.fid ≠ f.fid) && o.stepDue && o.wait == .run) ||
    s.picked.any fun p => decide (p.core = k) && decide (p.slot = sl))

/-- R225: the instruction is not ready on account of a folded instruction of its gang. -/
def Ctx.waitsOnFold (c : Ctx) (i : Instr) : Bool :=
  match (c.st.core c.k).fold with
  | some o => decide (o.slot = c.sl) && (c.galleyWait i || (match i with | .mout _ => true | _ => false))
  | none => false

/-- R288: a port is left for the instruction. -/
def Sel.portLeft (x : Sel) (port : Nat) : Bool :=
  match port with
  | 1 => decide (0 < x.mem)
  | 2 => decide (0 < x.trans)
  | 3 => decide (0 < x.mx)
  | 4 => decide (0 < x.br)
  | _ => true

/-- R288: the selection once a fragment is chosen. -/
def Sel.choose (x : Sel) (port : Nat) (slices : BitVec 8) : Sel :=
  { x with chosen := x.chosen + 1, used := x.used ||| slices, mem := if port = 1 then x.mem - 1 else x.mem,
           trans := if port = 2 then x.trans - 1 else x.trans, mx := if port = 3 then x.mx - 1 else x.mx,
           br := if port = 4 then x.br - 1 else x.br }

/-- R288, R289: the port deferral of a fragment. -/
def State.defer (s : State) (k sl fid : Nat) : State :=
  s.modGang k sl fun g => g.modFrag fid fun f => { f with defer := f.defer + 1 }

/-- R301: an urgent fragment that is refused takes the core's reservation when none is held. -/
def State.reserve (s : State) (k sl : Nat) (f : Frag) (need : Nat) : State :=
  if f.urg.isSome && (s.core k).resv.isNone then s.modCore k fun c => { c with resv := some ⟨sl, f.fid, need, 0⟩ } else s

/-- Puts a chosen fragment among those that issue in this cycle; fragments of one gang stand in AGE order. -/
def Gang.insertPick (g : Gang) (x : Cand) : List Cand → List Cand
  | [] => [x]
  | y :: t => if x.core = y.core && x.slot = y.slot && g.age x.fid < g.age y.fid then x :: y :: t else y :: g.insertPick x t

/-- R288, R289: a ready fragment is chosen, deferred, passed over or refused. -/
def State.select (s : State) (x : Cand) (g : Gang) (f : Frag) (port : Nat) (turned : Bool) (need : Nat) : State :=
  let s1 := s.modSel x.core fun y => { y with ready := y.ready ++ [x.slot] }
  let y := s1.sel x.core
  if 4 ≤ y.chosen || (slicesOf f.mask &&& y.used) ≠ 0 then s1
  else if !y.portLeft port then s1.defer x.core x.slot x.fid
  else
    let s2 := s1.modSel x.core fun y => y.choose port (slicesOf f.mask)
    if turned then (s2.reserve x.core x.slot f need).defer x.core x.slot x.fid
    else { s2 with picked := g.insertPick x s2.picked }

/-- R287: the selector's view of a fragment that is to issue the instruction at its address. -/
def State.consider (s : State) (x : Cand) (g : Gang) (f : Frag) : State :=
  let (s1, fe) := s.fetchInstr x.core g f
  match fe with
  | .good i _ _ =>
    let c := s1.ctxOf x.core x.slot g f i
    let port := portOfOpc (opcN i)
    if (c.operandCause i).isSome || c.loopNest i then s1.select x g f port false 0
    else if !c.readyAside i then
      let s2 := c.joinQueue i
      if c.waitsOnFold i then s2.foldWrite x.core else s2
    else s1.select x g f port (c.turnedAway i) (c.vlines i).length
  | _ => s1.select x g f 0 false 0

/-- R242: a fragment at which a halt request is taken: one at an issue point, or one that has arrived at a
BAR (R199). -/
def Frag.haltable (f : Frag) : Bool := f.atIssue || (match f.wait with | .arrived _ => true | _ => false)

/-- R31, R93, R98, R241: the fragment stands in mid-chain and its ring was lost: it resumes at CHEAD. A fragment whose
next instruction reads no latch is in no chain, and stays where it is. -/
def State.midChain (s : State) (k : Nat) (g : Gang) (f : Frag) : Bool :=
  f.lost && decide (g.level = 0) && f.chead != f.pc && (match s.nextInstr k g f with
    | some i => readsLatch i
    | none => false)

/-- R31: the fragment goes back to its CHEAD. -/
def Frag.rewind (f : Frag) : Frag := { f with pc := f.chead, chainRd := [], chainX := false, lost := false }

/-- R242, R287: looks at one candidate: what comes before its instruction is taken, or the selector weighs
it. -/
def State.look (s : State) (x : Cand) : Out :=
  match s.gang? x.core x.slot with
  | none => .next s
  | some g =>
    match g.frag? x.fid with
    | none => .next s
    | some f =>
      if !g.mayAct f || (g.isHalted && decide (g.level < 2)) then .next s
      else if s.midChain x.core g f then .next { s.setGang x.core x.slot (g.modFrag x.fid Frag.rewind) with cands := x :: s.cands }
      else if g.haltDue && decide (g.level < 2) && f.haltable then exec (.haltTaken x.core x.slot x.fid) s
      else if s.takesReport g f then exec (.deferredReportTaken x.core x.slot x.fid) s
      else if s.takesParked x.core x.slot g f then exec (.parkedCauseTaken x.core x.slot x.fid) s
      else if s.takesStep x.core g f then exec (.singleStep x.core x.slot x.fid) s
      else if s.breaks x.core g f then exec (.hardwareBreakpoint x.core x.slot x.fid) s
      else if (s.groupHeld g.group && decide (g.level < 2)) || s.stepBlocks x.core x.slot g f || s.pipesHeld x.core x.slot f ||
          f.wait != .run then .next s
      else .next (s.consider x g f)

/-- R80, R94: the selected fragment's instruction is fetched, decoded and issued. -/
def State.issue (s : State) (x : Cand) : Out :=
  match s.gang? x.core x.slot with
  | none => .next s
  | some g =>
    match g.frag? x.fid with
    | none => .next s
    | some f =>
      if !g.mayAct f || (g.isHalted && decide (g.level < 2)) || f.wait != .run then .next s
      else
        let (s1, fe) := s.fetchInstr x.core g f
        let at_ := fun (w0 w1 : Word) => ({ s1 with cur := ⟨x.core, x.slot, x.fid, w0, w1⟩ } : State).endBlackout g.fn
        match fe with
        | .fault c va => exec (.fetchFault c (BitVec.ofNat 64 va)) (at_ 0 0)
        | .illegal w0 => exec (.illegalOpc w0) (at_ w0 0)
        | .bad c i w0 w1 =>
          let s2 := at_ w0 w1
          .next ((s2.trapSync x.core x.slot f (readsLatch i) c (s2.reportWords i)).noteIssue x.core x.slot)
        | .good i w0 w1 => exec i (at_ w0 w1)

/-- The agenda takes only what can come from outside the issue of an instruction. -/
def fromAgenda (i : Instr) : Bool :=
  (Instr.opc i).isNone && (match i with
    | .fetchFault _ _ => false
    | .illegalOpc _ => false
    | .dbgmbPost _ _ _ => false
    | .dbgmbAcknowledge => false
    | _ => true)

/-- The first agenda entry that is due and wanted, and the agenda without it. -/
def takeDue (now : Nat) (want : Instr → Bool) : List (Nat × Instr) → Option (Instr × List (Nat × Instr))
  | [] => none
  | e :: t =>
    if decide (e.1 ≤ now) && want e.2 then some (e.2, t)
    else match takeDue now want t with
      | none => none
      | some (i, r) => some (i, e :: r)

/-! The end of a cycle. -/

/-- R439, R437: ticks of 1/11 ns in one cycle: 1,100 MHz, and half of it in thermal state 3. -/
def State.ticks (s : State) : Nat := if s.thermal = 3 then 20 else 10

/-- R288: GWAIT at the end of a cycle. -/
def Gang.endGwait (g : Gang) (x : Sel) (sl : Nat) : Nat :=
  if x.issued.contains sl then 0 else if x.ready.contains sl then min 255 (g.gwait + 1) else g.gwait

/-- R148: a fragment's wait goes on. -/
def Frag.tick (f : Frag) : Frag := match f.wait with
  | .run => f
  | _ => { f with waitCyc := f.waitCyc + 1 }

/-- R288, R148, R419: a gang at the end of a cycle. -/
def State.endGang (s : State) (k : Nat) (p : Nat × Gang) : Nat × Gang :=
  let g := { p.2 with gwait := p.2.endGwait (s.sel k) p.1 }
  (p.1, if g.merges && !s.groupHeld g.group then { g with frags := g.frags.map Frag.tick } else g)

/-- R429: a partition's express credit at the end of a cycle. -/
def Partition.tick (p : Partition) (t : Nat) : Partition := { p with credit := min (65536 * 11) (p.credit + bits p.qos.toNat 15 0 * t) }

/-- R270: a launch runs while a group of it is resident. -/
def State.endLaunch (s : State) (p : Nat × Launch) : Nat × Launch :=
  if s.groups.any fun g => decide (g.2.launch = p.1) && g.2.started && !g.2.ended then (p.1, { p.2 with run := p.2.run + s.ticks }) else p

/-- What is due in a gang of its own accord (R146 to R148, R199, R288, R290). Early releases stand beside the one release of a cycle
(R148; log 72). -/
def gangOffers (now k : Nat) (p : Nat × Gang) : List Instr :=
  let g := p.2
  (if g.merges && g.joinDue.isSome then [Instr.joinRelease k p.1] else []) ++
  (if g.merges && g.joinDue.isNone && !g.rgangDue.isEmpty then [Instr.rgangRelease k p.1] else []) ++
  (if g.merges then (g.frags.filter fun f => decide (4096 ≤ f.waitCyc) && (f.wait == .join || f.wait == .rgang)).map fun f =>
      Instr.earlyRelease k p.1 f.fid else []) ++
  (if g.allAtBar && !g.stopped && !g.isHalted then [Instr.barArrival k p.1] else []) ++
  ((g.frags.filter fun f => decide (8 ≤ f.defer) && f.urg.isNone).map fun f => Instr.fragmentUrgent k p.1 f.fid) ++
  (if 0 < g.yieldEnd && g.yieldEnd < now then [Instr.yieldWindowEnd k p.1] else [])

/-- Every gang that stands in a slot of a core. -/
def State.coreOffers (s : State) : List Instr :=
  s.cores.flatMap fun c => if 1024 ≤ c.1 then [] else c.2.gangs.flatMap fun p => gangOffers s.cycle c.1 p

/-- What may happen now of the machine's own accord (log 22). -/
def State.offers (s : State) : List Instr :=
  s.coreOffers ++ s.haltOffers ++ s.workOffers ++ s.queueOffers ++ s.proofOffers ++ s.migrateOffers ++ s.invalOffers

/-- Adds the offers that the agenda does not hold yet. -/
def State.addOffers (s : State) : State :=
  { s with agenda := (s.offers.filter fun i => !(s.agenda.any fun e => e.2 == i)).foldl (fun l i => l ++ [(s.cycle, i)]) s.agenda }

/-- R218: the cores, from the one after that which last took a power token. -/
def State.turnOrder (s : State) : List (Nat × Core) :=
  let own := s.cores.filter fun c => decide (c.1 < 1024)
  own.filter (fun c => decide (s.tokenLast < c.1)) ++ own.filter fun c => decide (c.1 ≤ s.tokenLast)

/-- R288: every fragment of every resident gang is weighed in the cycle that begins. -/
def State.allCands (s : State) : List Cand :=
  s.turnOrder.flatMap fun c => c.2.gangs.flatMap fun p => p.2.frags.map fun f => ⟨c.1, p.1, f.fid⟩

/-- The end of a cycle, and the beginning of the next. -/
def State.endCycle (s : State) : State :=
  let s1 : State :=
    { s with cores := s.cores.map fun c => if 1024 ≤ c.1 then c else (c.1, { c.2 with gangs := c.2.gangs.map (s.endGang c.1) }),
             launches := s.launches.map s.endLaunch, parts := s.parts.map fun p => (p.1, p.2.tick s.ticks),
             past := if s.launches.all fun p => p.2.done then [] else s.past, cycle := s.cycle + 1, pod := s.pod + s.ticks, sels := [] }
  let s2 := (List.range 4).foldl State.settleSession s1
  let s3 : State := if s2.jcanDone then { s2 with jcan := s2.jcan &&& 0x7FFFFFFF#32 } else s2
  let s4 := s3.addOffers
  { s4 with cands := s4.allCands }

/-- The next thing that happens: an event that is due, the selector's next look, the next issue, or the end of
the cycle. After a fatal error only a reset is heard (R434, R438), and in recovery mode only what reaches the
controller (R424). -/
def State.advanceOnce (s : State) : Out :=
  if s.fatal then
    match takeDue s.cycle (fun i => i == .coldBoot || i == .warmReset) s.agenda with
    | some (i, t) => exec i { s with agenda := t }
    | none => .fault .deviceStopped
  else
    match takeDue s.cycle (fun _ => true) s.agenda with
    | some (i, t) =>
      if fromAgenda i && (!s.boot.recovery || heardInRecovery i) then exec i { s with agenda := t } else .next { s with agenda := t }
    | none =>
      match s.nextCand with
      | some (x, t) => ({ s with cands := t } : State).look x
      | none =>
        match s.picked with
        | x :: t => ({ s with picked := t } : State).issue x
        | [] => .next s.endCycle

/-- A step uses up one choice (log 10). -/
def State.popChoice (s : State) : State := { s with choices := s.choices.drop 1 }

/-- An outcome whose next state is changed. -/
def onNext (h : State → State) : Out → Out
  | .next s => .next (h s)
  | .fault f => .fault f
  | .refused r => .refused r

end Sys2Proof.Machine
end

