-- ==== Sys2Proof/Machine/Step.lean ====
section
/-! DEFINITION. The step of the module, and a state in which a given instruction is the next to issue. -/
namespace Sys2Proof.Machine

/-- One step: the next thing that happens (R242, R287, R288), with the oracle's choice used up. -/
def step (s : State) : Host.Outcome State Fault Refusal := onNext State.popChoice s.advanceOnce

/-- The address at which `withFetchWord` places an instruction, virtual and physical. -/
def hostPage : Nat := 0x10000

/-- The kernel of `withFetchWord`'s group: one gang of eleven register blocks, no scratchpad. -/
def hostKernel : Kernel :=
  { gangs := 1, nblk := 11, mode := 0, entry := hostPage, scratch := 0, decls := [], formes := [], galleys := [] }

/-- The group of function 0 on core 0. -/
def hostGroup : Group :=
  { fn := 0, launch := 0, groupId := 0, core := 0, live := [0], kern := hostKernel, setsz := 1, scratch := [], bars := [], sep := 0, wid := [],
    b0 := 0, b1 := 0, recCount := 0, fills := [], sfaults := [], started := true, ended := false, halting := false, debug := false, slots := [0] }

/-- Its launch and graph. -/
def hostLaunch : Launch :=
  { fn := 0, job := 0, phase := 0, queue := 0, graph := 0, lid := 0, nodeId := none, kern := hostKernel, args := 0, argLen := 0, groups := 1,
    setsz := 1, runlim := 0, nbase := 0, depq := false, placed := 1, ended := 0, batches := [], run := 0, watched := false, cancelled := false,
    done := false, lands := [], staged := [] }
def hostGraph : Graph :=
  { fn := 0, job := 0, phase := 0, queue := 0, gid := none, nodes := [], args := 0, argLen := 0, bins := 0, binLen := 0, ovfLen := 0, waiting := false,
    cancelled := false, ended := false }

/-- The translation of the page. -/
def hostTlb : TlbEnt :=
  { fn := 0, ia := false, page := 1, ipage := 1, rd1 := true, wr1 := true, ex1 := true, rd2 := true, wr2 := true, ex2 := true, kind := 0, hi := 0,
    addr := hostPage }

/-- A state in which the very next step fetches and runs the instruction whose bits are w (log 32): gang 0 of
a group of function 0 stands in slot 0 of core 0, has been selected, and its page is mapped. -/
def State.withFetchWord (s : State) (nbits w : Nat) : State :=
  let core := s.core 0
  { s with
    fatal := false, boot := { s.boot with recovery := false }, agenda := [], choices := [], cands := [], picked := [⟨0, 0, 0⟩], sels := [],
    cores := Cells.put s.cores 0 { core with gangs := Cells.put core.gangs 0 (newGang hostGroup 0 0) },
    groups := Cells.put s.groups 0 hostGroup, launches := Cells.put s.launches 0 hostLaunch, graphs := Cells.put s.graphs 0 hostGraph,
    parts := Cells.put s.parts 0 { s.part 0 with valid := true, req := BitVec.allOnes 64, mem := BitVec.allOnes 48 },
    tlb := hostTlb :: s.tlb, poison := s.poison.filter fun a => decide (a ≠ hostPage),
    frames := Cells.put s.frames 1 { s.frame hostPage with keyid := s.keyOf 0, vld := BitVec.allOnes 16 },
    mem := Memory.write s.mem hostPage 20 (w % 2 ^ nbits) }

end Sys2Proof.Machine
end

