-- ==== Sys2Proof/Safety.lean ====
section
/-! DEFINITION. The terms in which claims about the machine are stated: the invariant that every step keeps, when
a fetched instruction issues with its own effect, what a register result, a trap and a frame are. -/
namespace Sys2Proof.Machine

/-- The invariant of the machine: device memory is in its canonical form, so that equal contents are equal data. -/
def State.Inv (s : State) : Prop := Memory.wf s.mem = true

/-- R94, R287: a fetched instruction issues from context `c` with its own effect: its fields are legal, a fragment
issues (the context is `c`), no cause of orders 7 to 10 stops it, it stands in no LOOP body that forbids it (R151),
everything it waits for is ready, and no guard `(!p0)` voids it (R24). -/
def Issues (i : Instr) (s : State) (c : Ctx) : Prop :=
  decodeCause false i = none ∧ s.ctx (Instr.long i) = some c ∧ c.operandCause i = none ∧ c.loopNest i = false ∧ c.ready i = true ∧
    c.voided i = false

/-- The gang that a context's fragment belongs to, in a state. -/
def Ctx.gangIn (c : Ctx) (t : State) : Option Gang := t.gang? c.k c.sl

/-- The context with another gang in the place of its own: its operands then read that gang's registers. -/
def Ctx.inGang (c : Ctx) (g : Gang) : Ctx := { c with g := g }

/-- R22: the lane whose result a lane's destination takes: in an s destination, the lowest ACTIVE lane of the slice. -/
def Ctx.leader (c : Ctx) (code : BitVec 8) (lane : Nat) : Nat :=
  if isS code then ((lanesOf c.active).find? fun j => decide (j / 4 = lane / 4)).getD lane else lane

/-- The gang's registers are those of another. -/
def Gang.sameRegs (g h : Gang) : Prop := g.v = h.v ∧ g.k = h.k ∧ g.s = h.s ∧ g.p = h.p ∧ g.x = h.x ∧ g.b = h.b

/-- R22, R24, R25: D of w bits holds, for every ACTIVE lane, the lane's value; with NWB no register is written. -/
def DestHolds (c : Ctx) (f : Long) (w : Nat) (v : Nat → Nat) (g : Gang) : Prop :=
  if f.nwb then g.sameRegs c.g
  else if isP f.d then
    ∀ lane < 32, (g.pReg (f.d.toNat - 0xE4)).getLsbD lane =
      if f.d = 0xE4 then true else if c.active.getLsbD lane then (v lane).testBit 0 else (c.g.pReg (f.d.toNat - 0xE4)).getLsbD lane
  else ∀ lane ∈ c.lanes, (c.inGang g).src none f.d w lane = v (c.leader f.d lane) % 2 ^ w

/-- R30: l0 of the fragment's slices holds the results of the ACTIVE lanes, cut to 64 bits, and zero in the others. -/
def RingHolds (c : Ctx) (f : Long) (v : Nat → Nat) (t : State) : Prop :=
  ∀ lane < 32, (slicesOf c.f.mask).getLsbD (lane / 4) = true →
    ∃ p, Cells.find? (t.core c.k).pipes (lane / 4) = some p ∧ p.slot = c.sl ∧ p.fid = c.f.fid ∧ 0 < p.depth ∧
      (p.ents.headD []).getD (lane % 4) 0 = if c.active.getLsbD lane then BitVec.ofNat 64 (v (c.leader f.d lane)) else 0

/-- R22, R25, R30: the state that a register instruction with D of w bits and lane results `v` leaves. -/
def RegResult (c : Ctx) (f : Long) (w : Nat) (v : Nat → Nat) (t : State) : Prop :=
  ∃ g, c.gangIn t = some g ∧ DestHolds c f w v g ∧ RingHolds c f v t

/-- R236, R240: the context's fragment has taken a cause from level 0 or 1 with KIND 000: the level it went to, what
the trap registers of that level hold, where the fragment goes on, and what stays. -/
def Took (c : Ctx) (cause : BitVec 6) (value head : Nat) (t : State) : Prop :=
  ∃ g f, c.gangIn t = some g ∧ g.frag? c.f.fid = some f ∧
    g.level = (if c.g.level = 0 then route (c.st.func c.g.fn).deleg cause else 2) ∧
    (let r := if g.level = 1 then g.t1 else g.t2
     r.cause = cause.setWidth 32 ∧ r.epc = BitVec.ofNat 64 head ∧ r.tval = BitVec.ofNat 64 value ∧
       bits r.status.toNat 31 16 = min ((pcAddr c.f.pc - head) / 4) 65535 ∧ bits r.status.toNat 10 8 = 0 ∧
       bits r.status.toNat 5 4 = c.g.level) ∧
    pcAddr f.pc = vecEntry (if g.level = 1 then (c.st.func c.g.fn).gtvec else c.st.dtvec) ∧
    g.sameRegs c.g ∧ g.mode = c.g.mode ∧ t.mem = c.st.mem ∧ t.groups = c.st.groups

/-- R91: where a trap of an instruction returns to: CHEAD, which an instruction that reads no latch has made its own
address. -/
def Ctx.head (c : Ctx) (i : Instr) : Nat := if readsLatch i then pcAddr c.f.chead else pcAddr c.f.pc

/-- The parts of the state that lie outside the cores' gangs and the selector's own record of the cycle are unchanged. -/
def SameOutside (s t : State) : Prop :=
  t = { s with cores := t.cores, sels := t.sels }

/-- Every gang but the context's own is unchanged. -/
def OthersKept (c : Ctx) (s t : State) : Prop :=
  ∀ k sl, (k, sl) ≠ (c.k, c.sl) → t.gang? k sl = s.gang? k sl

end Sys2Proof.Machine
end

