-- ==== Sys2Proof/Certificates/Slice0/Obligations.lean ====
section
/-! DEFINITION. The statements about the machine. Each names the rules of spec/ that it formalises. -/

open Sys2Proof Sys2Proof.Machine

/-! ## Integer, logic and address instructions (spec/05) -/

namespace Sys2Proof.Machine

/-- A and B of an integer instruction in a lane, at the format's width (R96). -/
def srcA (c : Ctx) (i : Instr) (w lane : Nat) : Nat := c.src (Instr.long i).lit (Instr.long i).a w lane
def srcB (c : Ctx) (i : Instr) (w lane : Nat) : Nat := c.src (Instr.long i).lit (Instr.long i).b w lane
def srcC (c : Ctx) (i : Instr) (w lane : Nat) : Nat := c.src (Instr.long i).lit (Instr.long i).c w lane

/-- The exact result of element j of a lane lies in the format's range, in every ACTIVE lane (R97). -/
def InRange (c : Ctx) (m : IntFmt) (e : Nat) (x : Nat → Nat → Int) : Prop :=
  ∀ lane ∈ c.lanes, ∀ j < e, m.lo ≤ x lane j ∧ x lane j ≤ m.hi

/-- R98: the instruction raised no flag and changed no other part of MODE. -/
def ModeKept (c : Ctx) (t : State) : Prop := ∃ g, c.gangIn t = some g ∧ g.mode = c.g.mode

/-- An integer instruction whose element results are the exact results `x`, reduced (R96, R97): unless OVF is set and
one is out of range it completes and D holds them. -/
def ReducesTo (i : Instr) (m : IntFmt) (e w : Nat) (sat : Ctx → Bool) (x : Ctx → Nat → Nat → Int) : Prop :=
  ∀ s c, Issues i s c → (ovfBit (Instr.long i) = true → InRange c m e (x c)) →
    ∃ t v, exec i s = .next t ∧ RegResult c (Instr.long i) w v t ∧ ModeKept c t ∧
      ∀ lane ∈ c.lanes, v lane < 2 ^ w ∧ ∀ j < e, elem (v lane) m.w j = m.reduce (sat c) (x c lane j)

/-- An instruction that completes with the value `v` in every ACTIVE lane, and raises no flag. -/
def WritesValue (i : Instr) (w : Nat) (v : Ctx → Nat → Nat) : Prop :=
  ∀ s c, Issues i s c → ∃ t, exec i s = .next t ∧ RegResult c (Instr.long i) w (v c) t ∧ ModeKept c t

/-- R96: element j of A and of B as a number of the format. -/
def elemA (m : IntFmt) (c : Ctx) (i : Instr) (lane j : Nat) : Int := m.val (elem (srcA c i (fmtWidth (Instr.long i).fmt) lane) m.w j)
def elemB (m : IntFmt) (c : Ctx) (i : Instr) (lane j : Nat) : Int := m.val (elem (srcB c i (fmtWidth (Instr.long i).fmt) lane) m.w j)

/-- R99 without CC. -/
def AddsElements (i : Instr) (sub : Bool) : Prop :=
  ccBit (Instr.long i) = false →
    ReducesTo i (intFmtOf (Instr.long i)) (fmtElems (Instr.long i).fmt) (fmtWidth (Instr.long i).fmt) (fun c => satOf c.g i)
      fun c lane j => if sub then elemA (intFmtOf (Instr.long i)) c i lane j - elemB (intFmtOf (Instr.long i)) c i lane j
        else elemA (intFmtOf (Instr.long i)) c i lane j + elemB (intFmtOf (Instr.long i)) c i lane j

/-- R99 with CC: the wrapped sum or difference with the carry taken in, and the carry or borrow out. -/
def AddsWithCarry (i : Instr) (sub : Bool) : Prop :=
  ∀ s c, Issues i s c → ccBit (Instr.long i) = true →
    let f := Instr.long i
    let w := fmtWidth f.fmt
    let cin := fun lane => if (c.mask f.c).getLsbD lane then 1 else 0
    let a := fun lane => srcA c i w lane % 2 ^ w
    let b := fun lane => srcB c i w lane % 2 ^ w
    ∃ t g, exec i s = .next t ∧ c.gangIn t = some g ∧
      RegResult c f w (fun lane => if sub then (a lane + 2 * 2 ^ w - b lane - cin lane) % 2 ^ w else (a lane + b lane + cin lane) % 2 ^ w) t ∧
      (f.nwb = false → immF f 2 0 ≠ 0 → ∀ lane < 32, (g.pReg (immF f 2 0)).getLsbD lane =
        if c.active.getLsbD lane then (if sub then decide (a lane < b lane + cin lane) else decide (2 ^ w ≤ a lane + b lane + cin lane))
        else (c.g.pReg (immF f 2 0)).getLsbD lane)

end Sys2Proof.Machine

/-- R99, R97: IADD and ISUB in both forms, element by element, wrapped or saturated.
R99: with CC, the carry or borrow goes in and comes out, so that a wide sum is formed word by word.
R100, R101: IMUL keeps the reduced product, IMULH its upper half, IMAD adds C with one reduction, to 64 bits under WIDE. -/
def Obligations.IntegerArithmetic : Prop :=
  ((∀ f, AddsElements (.iaddShort f) false) ∧ (∀ f, AddsElements (.iadd f) false) ∧
   (∀ f, AddsElements (.isubShort f) true) ∧ (∀ f, AddsElements (.isub f) true)) ∧
  ((∀ f, AddsWithCarry (.iadd f) false) ∧ (∀ f, AddsWithCarry (.isub f) true)) ∧
  ((∀ i, (∃ f, i = .imulShort f) ∨ (∃ f, i = .imul f) →
     ReducesTo i (intFmtOf (Instr.long i)) 1 (fmtWidth (Instr.long i).fmt) (fun c => satOf c.g i) fun c lane _ =>
       (intFmtOf (Instr.long i)).val (srcA c i (fmtWidth (Instr.long i).fmt) lane) *
         (intFmtOf (Instr.long i)).val (srcB c i (fmtWidth (Instr.long i).fmt) lane)) ∧
   (∀ i, (∃ f, i = .imulhShort f) ∨ (∃ f, i = .imulh f) →
     WritesValue i (fmtWidth (Instr.long i).fmt) fun c lane =>
       let m := intFmtOf (Instr.long i)
       ((m.val (srcA c i m.w lane) * m.val (srcB c i m.w lane) / ((2 ^ m.w : Nat) : Int)) % ((2 ^ m.w : Nat) : Int)).toNat) ∧
   (∀ f, ccBit f = false →
     ReducesTo (.imad f) (intFmtOf f) 1 (fmtWidth f.fmt) (fun c => satOf c.g (.imad f)) fun c lane _ =>
       (intFmtOf f).val (srcA c (.imad f) (fmtWidth f.fmt) lane) * (intFmtOf f).val (srcB c (.imad f) (fmtWidth f.fmt) lane) +
         (intFmtOf f).val (srcC c (.imad f) (fmtWidth f.fmt) lane)) ∧
   (∀ f, ccBit f = true →
     ReducesTo (.imad f) ⟨64, (intFmtOf f).signed⟩ 1 64 (fun c => satOf c.g (.imad f)) fun c lane _ =>
       (intFmtOf f).val (srcA c (.imad f) 32 lane) * (intFmtOf f).val (srcB c (.imad f) 32 lane) +
         (⟨64, (intFmtOf f).signed⟩ : IntFmt).val (srcC c (.imad f) 64 lane)))

/-- R97: with OVF, an exact result out of range in some ACTIVE lane traps with 0x25, reports the mask of those lanes and
writes nothing. -/
def Obligations.OverflowTraps : Prop :=
  ∀ (f : Long) (i : Instr) (m : IntFmt) (e : Nat) (x : Ctx → Nat → Nat → Int),
    (i = .iadd f ∧ m = intFmtOf f ∧ e = fmtElems f.fmt ∧ x = (fun c lane j => elemA m c i lane j + elemB m c i lane j)) ∨
    (i = .isub f ∧ m = intFmtOf f ∧ e = fmtElems f.fmt ∧ x = (fun c lane j => elemA m c i lane j - elemB m c i lane j)) ∨
    (i = .imul f ∧ m = intFmtOf f ∧ e = 1 ∧ x = (fun c lane j => elemA m c i lane j * elemB m c i lane j)) ∨
    (i = .imad f ∧ ccBit f = false ∧ m = intFmtOf f ∧ e = 1 ∧
      x = (fun c lane j => elemA m c i lane j * elemB m c i lane j + m.val (srcC c i (fmtWidth f.fmt) lane))) ∨
    (i = .imad f ∧ ccBit f = true ∧ m = ⟨64, (intFmtOf f).signed⟩ ∧ e = 1 ∧
      x = (fun c lane _ => (intFmtOf f).val (srcA c i 32 lane) * (intFmtOf f).val (srcB c i 32 lane) + m.val (srcC c i 64 lane))) ∨
    (i = .shl f ∧ m = intFmtOf f ∧ e = 1 ∧ x = (fun c lane j => elemA m c i lane j * ((2 ^ srcB c i 32 lane : Nat) : Int))) →
  ∀ s c bad, Issues i s c → ovfBit f = true → c.g.level < 2 → c.lanes.filter (fun lane => (List.range e).any fun j => m.outside (x c lane j)) = bad →
    bad ≠ [] → ∃ t, exec i s = .next t ∧ Took c 0x25 (maskOf fun lane => bad.contains lane).toNat (c.head i) t

/-- R102: IMIN and IMAX, element by element.
R103: AND, OR, XOR and TERN, bit by bit.
R104: SHL reduces A × 2^s, SHR and SAR shift right by the whole unmasked count. -/
def Obligations.LogicAndShifts : Prop :=
  (∀ i max, (∃ f, i = .iminShort f ∧ max = false) ∨ (∃ f, i = .imin f ∧ max = false) ∨ (∃ f, i = .imaxShort f ∧ max = true) ∨
       (∃ f, i = .imax f ∧ max = true) →
     ∀ s c, Issues i s c →
       let m := intFmtOf (Instr.long i)
       ∃ t v, exec i s = .next t ∧ RegResult c (Instr.long i) (fmtWidth (Instr.long i).fmt) v t ∧
         ∀ lane ∈ c.lanes, ∀ j < fmtElems (Instr.long i).fmt,
           m.val (elem (v lane) m.w j) =
             if max then Max.max (elemA m c i lane j) (elemB m c i lane j) else Min.min (elemA m c i lane j) (elemB m c i lane j)) ∧
  ((∀ i op, (∃ f, i = .andShort f ∧ op = and) ∨ (∃ f, i = .and f ∧ op = and) ∨ (∃ f, i = .orShort f ∧ op = or) ∨ (∃ f, i = .or f ∧ op = or) ∨
       (∃ f, i = .xorShort f ∧ op = xor) ∨ (∃ f, i = .xor f ∧ op = xor) →
     ∀ s c, Issues i s c →
       let w := fmtWidth (Instr.long i).fmt
       ∃ t v, exec i s = .next t ∧ RegResult c (Instr.long i) w v t ∧
         ∀ lane ∈ c.lanes, ∀ k < w, (v lane).testBit k = op ((srcA c i w lane).testBit k) ((srcB c i w lane).testBit k)) ∧
   (∀ f s c, Issues (.tern f) s c →
     let w := fmtWidth f.fmt
     ∃ t v, exec (.tern f) s = .next t ∧ RegResult c f w v t ∧
       ∀ lane ∈ c.lanes, ∀ k < w, (v lane).testBit k =
         f.sub.getLsbD (((srcA c (.tern f) w lane).testBit k).toNat + 2 * ((srcB c (.tern f) w lane).testBit k).toNat +
           4 * ((srcC c (.tern f) w lane).testBit k).toNat))) ∧
  ((∀ i, (∃ f, i = .shlShort f) ∨ (∃ f, i = .shl f) →
     ReducesTo i (intFmtOf (Instr.long i)) 1 (fmtWidth (Instr.long i).fmt) (fun c => satOf c.g i) fun c lane _ =>
       (intFmtOf (Instr.long i)).val (srcA c i (fmtWidth (Instr.long i).fmt) lane) * ((2 ^ srcB c i 32 lane : Nat) : Int)) ∧
   (∀ i, (∃ f, i = .shrShort f) ∨ (∃ f, i = .shr f) →
     WritesValue i (fmtWidth (Instr.long i).fmt) fun c lane =>
       srcA c i (fmtWidth (Instr.long i).fmt) lane % 2 ^ fmtWidth (Instr.long i).fmt / 2 ^ srcB c i 32 lane) ∧
   (∀ i, (∃ f, i = .sarShort f) ∨ (∃ f, i = .sar f) →
     WritesValue i (fmtWidth (Instr.long i).fmt) fun c lane =>
       let w := fmtWidth (Instr.long i).fmt
       wrap (sext (srcA c i w lane) w / ((2 ^ srcB c i 32 lane : Nat) : Int)) w))

namespace Sys2Proof.Machine

/-- R106: pos, and L, of a field descriptor. -/
def fieldPos (d : Nat) : Nat := d % 256
def fieldLen (n d : Nat) : Nat := if 0 < d / 256 % 256 ∧ d % 256 < n then Min.min (d / 256 % 256) (n - d % 256) else 0

/-- R106: the bits [pos + L - 1 : pos]. -/
def InField (n d k : Nat) : Prop := fieldPos d ≤ k ∧ k < fieldPos d + fieldLen n d

end Sys2Proof.Machine

/-- R105, R106: counting, reordering, extracting and inserting bits. -/
def Obligations.BitFields : Prop :=
  (∀ f s c, Issues (.bitop f) s c →
    let n := fmtWidth f.fmt
    ∃ t v, exec (.bitop f) s = .next t ∧ RegResult c f (if subN f ≤ 2 then 32 else n) v t ∧
      ∀ lane ∈ c.lanes,
        let x := srcA c (.bitop f) n lane
        (subN f = 0 → v lane = ((List.range n).filter fun k => x.testBit k).length) ∧
        (subN f = 1 → v lane ≤ n ∧ (∀ k < n, n - v lane ≤ k → x.testBit k = false) ∧ (v lane < n → x.testBit (n - 1 - v lane) = true)) ∧
        (subN f = 2 → v lane ≤ n ∧ (∀ k < v lane, x.testBit k = false) ∧ (v lane < n → x.testBit (v lane) = true)) ∧
        (subN f = 3 → ∀ k < n, (v lane).testBit (n - 1 - k) = x.testBit k) ∧
        (subN f = 4 → ∀ k < n / 8, elem (v lane) 8 (n / 8 - 1 - k) = elem x 8 k)) ∧
  (∀ f s c, Issues (.bfe f) s c →
    let m := intFmtOf f
    ∃ t v, exec (.bfe f) s = .next t ∧ RegResult c f m.w v t ∧
      ∀ lane ∈ c.lanes,
        let d := if ovfBit f then immN f else srcB c (.bfe f) 32 lane
        let x := srcA c (.bfe f) m.w lane
        (fieldLen m.w d = 0 → v lane = 0) ∧
        (∀ k < fieldLen m.w d, (v lane).testBit k = x.testBit (fieldPos d + k)) ∧
        (0 < fieldLen m.w d → ∀ k < m.w, fieldLen m.w d ≤ k →
          (v lane).testBit k = (m.signed && x.testBit (fieldPos d + fieldLen m.w d - 1)))) ∧
  (∀ f s c, Issues (.bfi f) s c →
    let n := (intFmtOf f).w
    ∃ t v, exec (.bfi f) s = .next t ∧ RegResult c f n v t ∧
      ∀ lane ∈ c.lanes, ∀ k < n,
        let d := if ovfBit f then immN f else srcC c (.bfi f) 32 lane
        (InField n d k → (v lane).testBit k = (srcB c (.bfi f) n lane).testBit (k - fieldPos d)) ∧
        (¬ InField n d k → (v lane).testBit k = (srcA c (.bfi f) n lane).testBit k))

/-- R107, R108, R109, R110: ICMP, SEL, the three forms of MOV, and NOP, which writes nothing and pushes no latch.
R111: LEA forms a global address, or the scratchpad address of a core of the cluster, and checks nothing. -/
def Obligations.CompareMoveAndAddress : Prop :=
  ((∀ f s c, Issues (.icmp f) s c →
     let m := intFmtOf f
     let holds := fun (lane : Nat) =>
       let a := m.val (srcA c (.icmp f) m.w lane)
       let b := m.val (srcB c (.icmp f) m.w lane)
       [decide (a = b), decide (a ≠ b), decide (a < b), decide (a ≤ b), decide (a > b), decide (a ≥ b)].getD (subF f 2 0) false
     let p := fun (lane : Nat) => (c.mask f.c).getLsbD lane
     ∃ t, exec (.icmp f) s = .next t ∧
       RegResult c f 32 (fun lane => ([holds lane, holds lane && p lane, holds lane || p lane].getD (subF f 4 3) false).toNat) t) ∧
   (∀ f, WritesValue (.sel f) (fmtWidth f.fmt) fun c lane =>
     if (c.mask f.c).getLsbD lane then srcA c (.sel f) (fmtWidth f.fmt) lane else srcB c (.sel f) (fmtWidth f.fmt) lane) ∧
   (∀ i, (∃ f, i = .movShort f) ∨ (∃ f, i = .mov f) → WritesValue i (fmtWidth (Instr.long i).fmt) (srcA · i (fmtWidth (Instr.long i).fmt))) ∧
   (∀ f, WritesValue (.movFromIndex f) 32 fun c lane => (c.g.xReg (subN f - 0x18) lane).toNat) ∧
   (∀ f s c, Issues (.movToIndex f) s c → ∃ t g, exec (.movToIndex f) s = .next t ∧ c.gangIn t = some g ∧
     g.v = c.g.v ∧ g.s = c.g.s ∧ g.k = c.g.k ∧ g.p = c.g.p ∧
     ∀ n lane, lane < 32 → (g.xReg n lane).toNat =
       if n = subN f - 0x10 ∧ c.active.getLsbD lane ∧ f.nwb = false then srcA c (.movToIndex f) 32 lane % 2 ^ 24 else (c.g.xReg n lane).toNat) ∧
   (∀ i, (∃ f, i = .nopShort f) ∨ (∃ f, i = .nop f) → ∀ s c, Issues i s c → ∃ t g, exec i s = .next t ∧ c.gangIn t = some g ∧
     g.sameRegs c.g ∧ g.mode = c.g.mode ∧ SameOutside s t ∧
     ∀ j p, Cells.find? (t.core c.k).pipes j = some p → p.slot = c.sl → p.fid = c.f.fid → 0 < p.depth →
       ∃ q, Cells.find? (s.core c.k).pipes j = some q ∧ p.ents = q.ents)) ∧
  (∀ f s c, Issues (.lea f) s c →
     let w := fmtWidth f.fmt
     let sh := 2 ^ subF f 2 0
     (subF f 7 4 = 0 → ∃ t v, exec (.lea f) s = .next t ∧ RegResult c f w v t ∧
       ∀ lane ∈ c.lanes,
         let b : Int := if f.sub.getLsbD 3 then (if (intFmtOf f).signed then sext (srcB c (.lea f) 32 lane) 32 else srcB c (.lea f) 32 lane)
           else srcB c (.lea f) w lane
         v lane < 2 ^ w ∧ (v lane : Int) ≡ srcA c (.lea f) w lane + b * sh + sext (immN f) 32 [ZMOD 2 ^ w]) ∧
     (subF f 7 4 = 1 → ∃ t v, exec (.lea f) s = .next t ∧ RegResult c f 32 v t ∧
       ∀ lane ∈ c.lanes,
         (v lane : Int) % 2 ^ 20 = ((srcA c (.lea f) 32 lane : Int) + srcB c (.lea f) 32 lane * sh + sext (immN f) 32) % 2 ^ 20 ∧
         v lane / 2 ^ 20 = 64 + srcC c (.lea f) 32 lane % 64))

/-! ## Numbers and the floating-point instructions (spec/02, spec/06) -/

namespace Sys2Proof.Machine

/-- R41: the floating-point formats. -/
def allFormats : List FpFmt := [.f64, .f32, .f16, .bf16, .e5m2, .e4m3]

/-- R50: the flags of the ACTIVE lanes together, when result j of n of each lane has flags `fl`. -/
def allFlags (c : Ctx) (n : Nat) (fl : Nat → Nat → Flags) : Flags :=
  c.lanes.foldl (fun a lane => (List.range n).foldl (fun a j => a ||| fl lane j) a) 0

/-- R50, R51: an instruction of n results of `ew` bits in a lane's D of w bits. Unless an enabled flag is raised it
completes: D holds the results and MODE.FLAGS has gained the flags, and nothing else of MODE changes. If one is, it
takes the cause of the first such flag and reports the lanes that raised it. -/
def FlaggedResult (i : Instr) (ew n w : Nat) (r : Ctx → Nat → Nat → Nat × Flags) : Prop :=
  ∀ s c, Issues i s c →
    let fl := fun lane => (List.range n).foldl (fun a j => a ||| (r c lane j).2) 0
    let all := allFlags c n fun lane j => (r c lane j).2
    (all &&& c.g.trapen = 0 → ∃ t v g, exec i s = .next t ∧ c.gangIn t = some g ∧ RegResult c (Instr.long i) w v t ∧
      (∀ lane ∈ c.lanes, v lane < 2 ^ w ∧ ∀ j < n, elem (v lane) ew j = (r c lane j).1 % 2 ^ ew) ∧
      g.mode = c.g.mode ||| (all.setWidth 32 <<< 6)) ∧
    (∀ k < 5, c.g.level < 2 → (all &&& c.g.trapen).getLsbD k = true → (∀ h, k < h → h < 5 → (all &&& c.g.trapen).getLsbD h = false) →
      ∃ t, exec i s = .next t ∧
        Took c (BitVec.ofNat 6 (0x24 - k)) (maskOf fun lane => c.active.getLsbD lane && (fl lane).getLsbD k).toNat (c.head i) t)

/-- R117, R118: an addition, a multiplication or a fused multiply-add rounded once. -/
def roundsOnce (fm : FpFmt) (i : Instr) (n : Nat) (exact : Nat → Val × Flags) (c : Ctx) (lane j : Nat) : Nat × Flags :=
  let r := fm.encode (c.rcfg i fm lane n j) (exact (c.rcfg i fm lane n j).rnd).1
  (r.1, (exact (c.rcfg i fm lane n j).rnd).2 ||| r.2)

/-- The modified and flushed element j of A, B or C (R114, R115, R49). -/
def fpA (c : Ctx) (i : Instr) (fm : FpFmt) (w lane j : Nat) : Val := c.fpArg (Instr.long i) fm w 0 lane j
def fpB (c : Ctx) (i : Instr) (fm : FpFmt) (w lane j : Nat) : Val := c.fpArg (Instr.long i) fm w 1 lane j
def fpC (c : Ctx) (i : Instr) (fm : FpFmt) (w lane j : Nat) : Val := c.fpArg (Instr.long i) fm w 2 lane j

end Sys2Proof.Machine

/-- R44, R41: rounding a value that the format holds gives back its encoding, in every mode, with no flag.
R44: RTZ never grows the magnitude, RUP never goes below and RDN never above the exact value; NX is raised exactly
when the result differs from it. -/
def Obligations.RoundingChoosesItsValue : Prop :=
  (∀ fm ∈ allFormats, ∀ x < 2 ^ fm.w, ∀ m e, fm.decode x = .fin m e → ∀ cfg, cfg.ftz = false → fm.round cfg m e = (x, 0)) ∧
  (∀ fm ∈ allFormats, ∀ cfg m e, m ≠ 0 → cfg.ftz = false → 1 ≤ cfg.rnd → cfg.rnd ≤ 6 → (fm.round cfg m e).2 &&& Flags.ovf = 0 →
     let y := fm.decode (fm.round cfg m e).1
     let k := Val.cmp y (.fin m e)
     (cfg.rnd = 2 → if m < 0 then 0 ≤ k else k ≤ 0) ∧ (cfg.rnd = 3 → 0 ≤ k) ∧ (cfg.rnd = 4 → k ≤ 0) ∧
       (k = 0 ↔ (fm.round cfg m e).2 &&& Flags.nx = 0))

/-- R60: contributions whose positive and negative quotients keep the word in range leave the word that their classes
and the sum of their quotients give, whatever their order. -/
def Obligations.GalleySumsDoNotDependOnOrder : Prop :=
  ∀ (anchor : Int) (w : Galley) (l : List Contrib), Galley.cls w = 0 →
    let q := l.map fun x => (x.parts anchor).2
    let has := fun k => l.any fun x => decide ((x.parts anchor).1 = k)
    Galley.m w + (q.filter (0 < ·)).sum ≤ 2 ^ 125 - 1 → -(2 ^ 125) ≤ Galley.m w + (q.filter (· < 0)).sum →
    l.foldl (fun w x => (wadd anchor w x).1) w =
      if has 3 || (has 1 && has 2) then Galley.ofCls 3 else if has 1 then Galley.ofCls 1 else if has 2 then Galley.ofCls 2
      else Galley.ofM (Galley.m w + q.sum)

/-- R117, R118, R44 to R46, R49 to R51: the additions, multiplications and fused multiply-adds of the three widths. -/
def Obligations.FloatArithmetic : Prop :=
  (∀ (i : Instr) (fm : FpFmt) (w : Nat), (∃ f, i = .faddShort f ∧ fm = .f32 ∧ w = 32) ∨ (∃ f, i = .fadd f ∧ fm = .f32 ∧ w = 32) ∨
      (∃ f, i = .daddShort f ∧ fm = .f64 ∧ w = 64) ∨ (∃ f, i = .dadd f ∧ fm = .f64 ∧ w = 64) ∨
      (∃ f, i = .hadd2Short f ∧ fm = .f16 ∧ w = 32) ∨ (∃ f, i = .hadd2 f ∧ fm = (if f.fmt = 11 then .bf16 else .f16) ∧ w = 32) →
    FlaggedResult i fm.w (w / fm.w) w fun c lane j =>
      roundsOnce fm i (w / fm.w) (fun rnd => Val.sum rnd [fpA c i fm w lane j, fpB c i fm w lane j]) c lane j) ∧
  (∀ (i : Instr) (fm : FpFmt) (w : Nat), (∃ f, i = .fmulShort f ∧ fm = .f32 ∧ w = 32) ∨ (∃ f, i = .fmul f ∧ fm = .f32 ∧ w = 32) ∨
      (∃ f, i = .dmulShort f ∧ fm = .f64 ∧ w = 64) ∨ (∃ f, i = .dmul f ∧ fm = .f64 ∧ w = 64) ∨
      (∃ f, i = .hmul2Short f ∧ fm = .f16 ∧ w = 32) ∨ (∃ f, i = .hmul2 f ∧ fm = (if f.fmt = 11 then .bf16 else .f16) ∧ w = 32) →
    FlaggedResult i fm.w (w / fm.w) w fun c lane j =>
      roundsOnce fm i (w / fm.w) (fun _ => Val.mul (fpA c i fm w lane j) (fpB c i fm w lane j)) c lane j) ∧
  (∀ (i : Instr) (fm : FpFmt) (w : Nat), (∃ f, i = .ffma f ∧ fm = .f32 ∧ w = 32) ∨ (∃ f, i = .dfma f ∧ fm = .f64 ∧ w = 64) ∨
      (∃ f, i = .hfma2 f ∧ fm = (if f.fmt = 11 then .bf16 else .f16) ∧ w = 32) →
    FlaggedResult i fm.w (w / fm.w) w fun c lane j =>
      roundsOnce fm i (w / fm.w) (fun rnd =>
        let p := Val.mul (fpA c i fm w lane j) (fpB c i fm w lane j)
        let x := Val.sum rnd [p.1, fpC c i fm w lane j]
        (x.1, p.2 ||| x.2)) c lane j)

namespace Sys2Proof.Machine

/-- R119: what a minimum or maximum of two elements gives: the selected operand as read, or the canonical NaN. -/
def Selects (max prop : Bool) (fm : FpFmt) (ftz : Bool) (x y r : Nat) : Prop :=
  let a := fm.read ftz x
  let b := fm.read ftz y
  if a.isNan && b.isNan then r = fm.qnan
  else if a.isNan || b.isNan then r = if prop then fm.qnan else fm.readBits ftz (if a.isNan then y else x)
  else (r = fm.readBits ftz x ∨ r = fm.readBits ftz y) ∧
    (let v := fm.decode r
     ∀ u ∈ [a, b], (if max then 0 ≤ Val.cmp v u else Val.cmp v u ≤ 0) ∧ (if max then ¬ v.below u else ¬ u.below v)) ∧
    (Val.cmp a b = 0 → a.below b = false → b.below a = false → r = fm.readBits ftz x)

/-- R119: a minimum or maximum instruction: NV for a signalling NaN and no other flag. -/
def SelectsOperand (i : Instr) (max : Bool) (fm : FpFmt) (w : Nat) : Prop :=
  ∃ pick : FpFmt → Bool → Nat → Nat → Nat,
    (∀ ftz x y, x < 2 ^ fm.w → y < 2 ^ fm.w → Selects max ((Instr.long i).sub.getLsbD 0) fm ftz x y (pick fm ftz x y)) ∧
    FlaggedResult i fm.w (w / fm.w) w fun c lane j =>
      let x := elem (srcA c i w lane) fm.w j
      let y := elem (srcB c i w lane) fm.w j
      let ftz := ftzOf c.g.mode fm
      (pick fm ftz x y, (fm.read ftz x).nv ||| (fm.read ftz y).nv)

end Sys2Proof.Machine

namespace Sys2Proof.Machine

/-- R120: the eight conditions in the order of COND. -/
def fpConditions (a b : Val) : List Bool :=
  let un := a.isNan || b.isNan
  [!un && decide (Val.cmp a b = 0), un || decide (Val.cmp a b ≠ 0), !un && decide (Val.cmp a b < 0), !un && decide (Val.cmp a b ≤ 0),
   !un && decide (0 < Val.cmp a b), !un && decide (0 ≤ Val.cmp a b), un, !un]

/-- R107, R120: COMB. -/
def combines (comb : Nat) (c p : Bool) : Bool := [c, c && p, c || p].getD comb c

/-- R120: the outcome and the flags of a comparison of element j. -/
def fpOutcome (i : Instr) (fm : FpFmt) (w : Nat) (c : Ctx) (lane j : Nat) : Bool × Flags :=
  let a := fm.read (ftzOf c.g.mode fm) (elem (srcA c i w lane) fm.w j)
  let b := fm.read (ftzOf c.g.mode fm) (elem (srcB c i w lane) fm.w j)
  ((fpConditions a b).getD (subF (Instr.long i) 2 0) false, a.nv ||| b.nv)

end Sys2Proof.Machine

/-- R119, R49: the minimum and maximum instructions of the three widths.
R120: FCMP, DCMP and HCMP2: quiet comparisons, combined with a predicate, into a predicate or a register. -/
def Obligations.FloatSelectAndCompare : Prop :=
  ((∀ f, SelectsOperand (.fminShort f) false .f32 32) ∧ (∀ f, SelectsOperand (.fmin f) false .f32 32) ∧
   (∀ f, SelectsOperand (.fmaxShort f) true .f32 32) ∧ (∀ f, SelectsOperand (.fmax f) true .f32 32) ∧
   (∀ f, SelectsOperand (.dminShort f) false .f64 64) ∧ (∀ f, SelectsOperand (.dmin f) false .f64 64) ∧
   (∀ f, SelectsOperand (.dmaxShort f) true .f64 64) ∧ (∀ f, SelectsOperand (.dmax f) true .f64 64) ∧
   (∀ f, SelectsOperand (.hmin2Short f) false .f16 32) ∧ (∀ f, SelectsOperand (.hmin2 f) false (if f.fmt = 11 then .bf16 else .f16) 32) ∧
   (∀ f, SelectsOperand (.hmax2Short f) true .f16 32) ∧ (∀ f, SelectsOperand (.hmax2 f) true (if f.fmt = 11 then .bf16 else .f16) 32)) ∧
  ((∀ (i : Instr) (fm : FpFmt) (w : Nat), (∃ f, i = .fcmp f ∧ fm = .f32 ∧ w = 32) ∨ (∃ f, i = .dcmp f ∧ fm = .f64 ∧ w = 64) →
     FlaggedResult i 32 1 32 fun c lane _ =>
       let o := fpOutcome i fm w c lane 0
       ((combines (subF (Instr.long i) 4 3) o.1 ((c.mask (Instr.long i).c).getLsbD lane)).toNat, o.2)) ∧
   (∀ f, FlaggedResult (.hcmp2 f) 32 1 32 fun c lane _ =>
     let fm : FpFmt := if f.fmt = 11 then .bf16 else .f16
     let o := fun j => fpOutcome (.hcmp2 f) fm 32 c lane j
     let p := (c.mask f.c).getLsbD lane
     let bit := fun b => (combines (subF f 4 3) b p).toNat
     (if isP f.d then bit ([(o 0).1, (o 1).1, (o 0).1 && (o 1).1, (o 0).1 || (o 1).1].getD (subF f 6 5) false)
      else bit (o 0).1 + 2 ^ 16 * bit (o 1).1, (o 0).2 ||| (o 1).2)))

namespace Sys2Proof.Machine

/-- R50, R51, R94: with no flag enabled to trap, the instruction completes wherever it issues: D of w bits holds the
results `r`, and MODE gains nothing but flags. -/
def CompletesUntrapped (i : Instr) (w : Nat) (r : Ctx → Nat → Nat) : Prop :=
  ∀ s c, Issues i s c → c.g.trapen = 0 →
    ∃ t g v, exec i s = .next t ∧ c.gangIn t = some g ∧ RegResult c (Instr.long i) w v t ∧
      (∀ lane ∈ c.lanes, v lane % 2 ^ w = r c lane % 2 ^ w) ∧ g.mode &&& ~~~0x7C0#32 = c.g.mode &&& ~~~0x7C0#32

/-- R121: the function of A at the format, rounded. -/
def funcResult (fm : FpFmt) (i : Instr) (c : Ctx) (lane : Nat) : Nat :=
  (fm.encode (c.rcfg i fm lane 1 0) (fnEval (subN (Instr.long i)) (fm.read (ftzOf c.g.mode fm) (srcA c i fm.w lane))).1).1

end Sys2Proof.Machine

/-- R121, R52, R53: with TRAPEN 0 FFUNC and DFUNC complete and round the function's exact value; exact powers of two and the special operands come
out exactly, with their flags.
R122: with TRAPEN 0 FMISC and DMISC complete; ROUNDI, FRACT, LDEXP, GETEXP and CLASS.
The model's own: That the functions are correctly rounded is deduced from R52 (log 11). -/
def Obligations.FloatFunctionsAndHelpers : Prop :=
  ((∀ f, CompletesUntrapped (.ffunc f) 32 (funcResult .f32 (.ffunc f))) ∧
   (∀ f, CompletesUntrapped (.dfunc f) 64 (funcResult .f64 (.dfunc f))) ∧
   (∀ (i : Instr) (fm : FpFmt) (w : Nat), (∃ f, i = .ffunc f ∧ fm = .f32 ∧ w = 32) ∨ (∃ f, i = .dfunc f ∧ fm = .f64 ∧ w = 64) →
     FlaggedResult i w 1 w fun c lane _ =>
       let x := fnEval (subN (Instr.long i)) (fm.read (ftzOf c.g.mode fm) (srcA c i w lane))
       let y := fm.encode (c.rcfg i fm lane 1 0) x.1
       (y.1, x.2 ||| y.2)) ∧
   (∀ fm ∈ [FpFmt.f32, FpFmt.f64], ∀ cfg, cfg.ftz = false → 1 ≤ cfg.rnd → cfg.rnd ≤ 5 → ∀ k : Int, -100 ≤ k → k ≤ 100 →
     (k ≠ 0 → fm.encode cfg (fnEval 3 (.fin k 0)).1 = fm.encode cfg (.fin 1 k)) ∧ (k ≠ 0 → fm.encode cfg (fnEval 4 (.fin 1 k)).1 = fm.encode cfg (.fin k 0)) ∧
     fm.encode cfg (fnEval 0 (.fin 1 k)).1 = fm.encode cfg (.fin 1 (-k)) ∧ fm.encode cfg (fnEval 2 (.fin 1 (2 * k))).1 = fm.encode cfg (.fin 1 k)) ∧
   (∀ n, fnEval 0 (.zero n) = (.inf n, Flags.dz) ∧ fnEval 1 (.zero n) = (.inf n, Flags.dz) ∧ fnEval 2 (.zero n) = (.zero n, 0) ∧
     fnEval 4 (.zero n) = (.inf true, Flags.dz) ∧ fnEval 5 (.zero n) = (.zero n, 0) ∧ fnEval 5 (.inf n) = (.nan false, Flags.nv) ∧
     fnEval 6 (.inf n) = (.nan false, Flags.nv)) ∧
   (∀ m e, m < 0 → ∀ fn ∈ [1, 2, 4], fnEval fn (.fin m e) = (.nan false, Flags.nv))) ∧
  ((∀ f s c, Issues (.fmisc f) s c → c.g.trapen = 0 → ∃ t v, exec (.fmisc f) s = .next t ∧ RegResult c f 32 v t) ∧
   (∀ f s c, Issues (.dmisc f) s c → c.g.trapen = 0 →
     ∃ t v, exec (.dmisc f) s = .next t ∧ RegResult c f (if subN f ≤ 2 then 64 else 32) v t) ∧
   (∀ (i : Instr) (fm : FpFmt) (w : Nat), (∃ f, i = .fmisc f ∧ fm = .f32 ∧ w = 32) ∨ (∃ f, i = .dmisc f ∧ fm = .f64 ∧ w = 64) →
     let f := Instr.long i
     let a := fun (c : Ctx) lane => fm.read (ftzOf c.g.mode fm) (srcA c i w lane)
     let cfg := fun (c : Ctx) lane => c.rcfg i fm lane 1 0
     (subN f = 0 → FlaggedResult i w 1 w fun c lane _ =>
       match a c lane with
       | .fin m e =>
         let r : Nat := (quantise (cfg c lane).rnd 0 (decide (m < 0)) m.natAbs e 0).1
         (if r = 0 then (if m < 0 then fm.signBit else 0) else (fm.encode (cfg c lane) (.fin (if m < 0 then -r else r) 0)).1, 0)
       | x => ((fm.encode (cfg c lane) x).1, x.nv)) ∧
     (subN f = 1 → FlaggedResult i w 1 w fun c lane _ =>
       match a c lane with
       | .fin m e =>
         if 0 ≤ e then (0, 0) else fm.encode { cfg c lane with rnd := 2, sat := false } (.fin (m % 2 ^ (-e).toNat) e)
       | .zero _ => (0, 0)
       | .inf _ => (fm.qnan, Flags.nv)
       | .nan sig => (fm.qnan, if sig then Flags.nv else 0)) ∧
     (subN f = 2 → FlaggedResult i w 1 w fun c lane _ =>
       match a c lane with
       | .fin m e => fm.encode (cfg c lane) (.fin m (e + sext (srcB c i 32 lane) 32))
       | x => ((fm.encode (cfg c lane) x).1, x.nv)) ∧
     (subN f = 3 → FlaggedResult i 32 1 32 fun c lane _ =>
       match a c lane with
       | .fin m e => (wrap (Nat.log2 m.natAbs + e) 32, 0)
       | .zero _ => (0x80000000, 0)
       | .inf _ => (0x7FFFFFFF, 0)
       | .nan _ => (0x80000000, Flags.nv)) ∧
     (subN f = 4 → FlaggedResult i 32 1 32 fun c lane _ =>
       let x := srcA c i w lane
       let k := match fm.decode x with
         | .inf neg => if neg then 0 else 7
         | .zero neg => if neg then 3 else 4
         | .nan sig => if sig then 8 else 9
         | .fin m _ => if m < 0 then (if fm.isSub x then 2 else 1) else (if fm.isSub x then 5 else 6)
       (if isP f.d then (f.imm.getLsbD k).toNat else 2 ^ k, 0))))

/-- R123 to R128: the dot products, CVT, PACK, UNPK and RNG.
R129 to R131, R59, R61: XACC adds exact contributions into its window, XCVT converts into and out of one; an
overflow sets OF, and traps with 0x26 under GOVT. -/
def Obligations.ConversionsAndExactWindows : Prop :=
  ((∀ f, FlaggedResult (.fdot2 f) 32 1 32 fun c lane _ =>
     let h : FpFmt := if f.fmt = 11 then .bf16 else .f16
     let arg := fun code j => h.read (ftzOf c.g.mode h) (elem (c.src f.lit code 32 lane) 16 j)
     let p := fun j => Val.mul (arg f.a j) (arg f.b j)
     let cfg := c.rcfg (.fdot2 f) .f32 lane 1 0
     let x := Val.sum cfg.rnd [(p 0).1, (p 1).1, FpFmt.f32.read (ftzOf c.g.mode .f32) (srcC c (.fdot2 f) 32 lane)]
     let y := FpFmt.f32.encode cfg x.1
     (y.1, (p 0).2 ||| (p 1).2 ||| x.2 ||| y.2)) ∧
   (∀ f, WritesValue (.idot4 f) 32 fun c lane =>
     let byte := fun (signed : Bool) x j => (⟨8, signed⟩ : IntFmt).val (elem x 8 j)
     let t := fun j => byte (f.sub.getLsbD 0) (srcA c (.idot4 f) 32 lane) j * byte (f.sub.getLsbD 1) (srcB c (.idot4 f) 32 lane) j
     (intFmtOf f).reduce f.sat (t 0 + t 1 + t 2 + t 3 + (intFmtOf f).val (srcC c (.idot4 f) 32 lane))) ∧
   (∀ f s c, Issues (.cvt f) s c →
     let src := fmtOf (f.sub.extractLsb' 0 4)
     let dst := fmtOf f.fmt
     let w := dst.laneWidth
     let x := fun lane => elem (srcA c (.cvt f) src.laneWidth lane) src.elemWidth (subF f 5 4)
     let r := fun lane => cvtElem c.g.mode (c.rcfg (.cvt f) .f32 lane 1 0) src dst (x lane)
     allFlags c 1 (fun lane _ => (r lane).2) &&& c.g.trapen = 0 →
     ∃ t v, exec (.cvt f) s = .next t ∧ RegResult c f w v t ∧
       ∀ lane ∈ c.lanes, ∀ j < dst.elems, elem (v lane) dst.elemWidth j =
         if j = subF f 7 6 then (r lane).1 % 2 ^ dst.elemWidth else elem (c.src none f.d w lane) dst.elemWidth j) ∧
   (∀ f s c, Issues (.pack f) s c → ∃ t v, exec (.pack f) s = .next t ∧ RegResult c f 32 v t ∧
     ∀ lane ∈ c.lanes, v lane < 2 ^ 32 ∧ ∀ j < 4,
       let k := immN f / 16 ^ j % 16
       elem (v lane) 8 j = if k < 4 then elem (srcA c (.pack f) 32 lane) 8 k else if k < 8 then elem (srcB c (.pack f) 32 lane) 8 (k - 4) else 0) ∧
   (∀ f s c, Issues (.unpk f) s c →
     let fm := fmtOf f.fmt
     ∃ t v, exec (.unpk f) s = .next t ∧ RegResult c f (32 * fm.elems) v t ∧
       ∀ lane ∈ c.lanes, ∀ j < fm.elems,
         let x := elem (srcA c (.unpk f) 32 lane) fm.elemWidth j
         elem (v lane) 32 j = if fm = .int ⟨16, true⟩ ∨ fm = .int ⟨8, true⟩ then wrap (sext x fm.elemWidth) 32 else x) ∧
   (∀ f, WritesValue (.rng f) 128 fun c lane => philoxOf (srcA c (.rng f) 128 lane) (srcB c (.rng f) 64 lane)) ∧
   philoxOf 0 0 = 0x9B00DBD8_BC57AC4C_E169C58D_6627E8D5) ∧
  ((∀ (i : Instr) (win : Ctx → Nat → Galley × Bool × Bool),
     (∃ f, i = .xacc f ∧ win = fun c lane =>
       let a := anchorVal (immF f 15 0)
       let fm := fmtOf f.fmt
       let el := fun code j => fm.exact (elem (c.src f.lit code fm.laneWidth lane) fm.elemWidth j)
       let parts : List (Contrib × Bool) :=
         if subF f 1 0 = 2 then [(.word (BitVec.ofNat 128 (srcA c i 128 lane)), false)]
         else (List.range fm.elems).map fun j =>
           if subF f 1 0 = 0 then (.val (el f.a j), false) else (.val (Val.mul (el f.a j) (el f.b j)).1, (Val.mul (el f.a j) (el f.b j)).2 != 0)
       parts.foldl (fun (r : Galley × Bool × Bool) x => let q := wadd a r.1 x.1; (q.1, r.2.1 || q.2.1 || x.2, r.2.2 || q.2.2))
         (BitVec.ofNat 128 (c.src none f.d 128 lane), false, false)) ∨
     (∃ f, i = .xcvtTo f ∧ win = fun c lane =>
       wadd (anchorVal (immF f 15 0)) 0 (.val ((fmtOf f.fmt).exact (elem (srcA c i (fmtOf f.fmt).laneWidth lane) (fmtOf f.fmt).elemWidth (subF f 5 4))))) ∨
     (∃ f, i = .xcvtFrom f ∧ f.fmt = 14 ∧ win = fun c lane =>
       wadd (anchorVal (immF f 31 16)) 0 (.val (Galley.value (anchorVal (immF f 15 0)) (BitVec.ofNat 128 (srcA c i 128 lane))))) →
     ∀ s c, Issues i s c →
       let lost := maskOf fun lane => c.active.getLsbD lane && (win c lane).2.2
       let nv := c.lanes.any fun lane => (win c lane).2.1
       (c.g.govt = true → lost ≠ 0 → c.g.level < 2 → ∃ t, exec i s = .next t ∧ Took c 0x26 lost.toNat (c.head i) t) ∧
       ((c.g.govt = false ∨ lost = 0) → (nv = false ∨ c.g.trapen.getLsbD 4 = false) →
         ∃ t g, exec i s = .next t ∧ c.gangIn t = some g ∧ RegResult c (Instr.long i) 128 (fun lane => (win c lane).1.toNat) t ∧
           g.mode = c.g.mode ||| (((if nv then Flags.nv else 0) ||| (if lost = 0 then 0 else Flags.ovf)).setWidth 32 <<< 6))) ∧
   (∀ f s c, Issues (.xcvtFrom f) s c → f.fmt ≠ 14 →
     let dst := fmtOf f.fmt
     let w := dst.laneWidth
     let r := fun lane =>
       let val := Galley.value (anchorVal (immF f 15 0)) (BitVec.ofNat 128 (srcA c (.xcvtFrom f) 128 lane))
       dst.convert { c.rcfg (.xcvtFrom f) .f32 lane 1 0 with ftz := dst.ftz c.g.mode } val
     allFlags c 1 (fun lane _ => (r lane).2) &&& c.g.trapen = 0 →
     ∃ t v, exec (.xcvtFrom f) s = .next t ∧ RegResult c f w v t ∧
       ∀ lane ∈ c.lanes, ∀ j < dst.elems, elem (v lane) dst.elemWidth j =
         if j = subF f 5 4 then (r lane).1 % 2 ^ dst.elemWidth else elem (c.src none f.d w lane) dst.elemWidth j))

/-! ## Lane and predicate instructions, and the frame of all register instructions (spec/07, spec/01) -/

namespace Sys2Proof.Machine

/-- R55: the tree over lanes `base .. base + 2^k - 1`; a lane that is absent contributes nothing. -/
def treeOver (cmb : Part → Part → Part) (node : Nat → Option Part) : Nat → Nat → Option Part
  | 0, base => node base
  | k + 1, base =>
    match treeOver cmb node k base, treeOver cmb node k (base + 2 ^ k) with
    | some a, some b => some (cmb a b)
    | some a, none => some a
    | none, b => b

/-- R137, R138: a REDX or SCAN that ends with flags and a window overflow: under GOVT an overflow takes 0x26 with the
ACTIVE mask; without that, and with no flag raised that is enabled, it completes with the results `v`, and the flags go
into MODE. -/
def Reduces (i : Instr) (c : Ctx) (s : State) (w : Nat) (fl : Flags) (overflow : Bool) (v : Nat → Nat) : Prop :=
  (c.g.govt = true → overflow = true → c.g.level < 2 → ∃ t, exec i s = .next t ∧ Took c 0x26 c.active.toNat (c.head i) t) ∧
  ((c.g.govt = false ∨ overflow = false) → fl &&& c.g.trapen = 0 →
    ∃ t g, exec i s = .next t ∧ c.gangIn t = some g ∧ RegResult c (Instr.long i) w v t ∧
      g.mode = c.g.mode ||| ((fl ||| (if overflow then Flags.ovf else 0)).setWidth 32 <<< 6))

/-- The operand of a lane as it enters a reduction, and one combination (R137). -/
def redIn (c : Ctx) (i : Instr) (lane : Nat) : Part :=
  redOperand c.g.mode (fmtOf (Instr.long i).fmt) (srcA c i (fmtWidth (Instr.long i).fmt) lane)
def redStep (c : Ctx) (i : Instr) : Part → Part → Part := redCombine (subF (Instr.long i) 2 0) (fmtOf (Instr.long i).fmt) (c.redCfg i)

end Sys2Proof.Machine

/-- R134, R135, R136: SHFL, VOTE and MATCH read only the ACTIVE lanes of the issuing fragment.
R55, R56, R137, R138: REDX combines in the fixed tree, SCAN in increasing lane order.
R139, R140: PLOP, and PMOV in both directions. -/
def Obligations.LaneAndPredicateInstructions : Prop :=
  ((∀ f, WritesValue (.shfl f) (intFmtOf f).w fun c lane =>
     let w := 2 ^ immF f 2 0
     let base := lane / w * w
     let r : Int := (lane % w : Nat)
     let b := srcB c (.shfl f) 32 lane
     let t : Int := match subF f 1 0 with
       | 0 => (b % w : Nat)
       | 1 => r - sext b 32
       | 2 => (r - sext b 32) % (w : Int)
       | _ => ((lane % w) ^^^ (b % w) : Nat)
     let src := base + t.toNat
     srcA c (.shfl f) (intFmtOf f).w (if 0 ≤ t ∧ t < (w : Int) ∧ c.active.getLsbD src then src else lane)) ∧
   (∀ f, WritesValue (.vote f) 32 fun c _ =>
     let on := fun lane => (c.mask f.a).getLsbD lane
     [(c.lanes.any on).toNat, (c.lanes.all on).toNat, (c.lanes.all on || c.lanes.all fun l => !on l).toNat,
      (c.mask f.a &&& c.active).toNat].getD (subN f) 0) ∧
   (∀ f, WritesValue (.match f) 32 fun c lane =>
     let a := srcA c (.match f) (intFmtOf f).w
     if subN f = 0 then (maskOf fun t => c.active.getLsbD t && decide (a t = a lane)).toNat
     else if c.lanes.all fun t => c.lanes.all fun u => decide (a t = a u) then c.active.toNat else 0)) ∧
  ((∀ f s c, Issues (.redx f) s c → c.active ≠ 0 →
     ∀ p, treeOver (redStep c (.redx f)) (fun lane => if c.active.getLsbD lane then some (redIn c (.redx f) lane) else none) 5 0 = some p →
       Reduces (.redx f) c s (fmtWidth f.fmt) p.fl p.outside fun _ => p.val) ∧
   (∀ f s c, Issues (.scan f) s c → c.active ≠ 0 → f.sub.getLsbD 3 = false →
     let run := fun lane => match (c.lanes.filter (· ≤ lane)).map (redIn c (.scan f)) with
       | [] => (⟨0, 0, false⟩ : Part)
       | x :: t => t.foldl (redStep c (.scan f)) x
     Reduces (.scan f) c s (fmtWidth f.fmt) (run 31).fl (run 31).outside fun lane => (run lane).val) ∧
   (∀ f s c, Issues (.scan f) s c → c.active ≠ 0 → f.sub.getLsbD 3 = true →
     let run := fun lane => match (c.lanes.filter (· < lane)).map (redIn c (.scan f)) with
       | [] => (⟨0, 0, false⟩ : Part)
       | x :: t => t.foldl (redStep c (.scan f)) x
     let last := c.lanes.getLastD 0
     Reduces (.scan f) c s (fmtWidth f.fmt) (run last).fl (run last).outside fun lane =>
       if lane = lowest c.active then srcB c (.scan f) (fmtWidth f.fmt) lane else (run lane).val)) ∧
  ((∀ f, WritesValue (.plop f) 32 fun c lane =>
     let bit := fun code => ((c.mask code).getLsbD lane).toNat
     (f.sub.getLsbD (bit f.a + 2 * bit f.b + 4 * bit f.c)).toNat) ∧
   (∀ f s c, Issues (.pmovSave f) s c → ∃ t v, exec (.pmovSave f) s = .next t ∧ RegResult c f 32 v t ∧
     ∀ lane ∈ c.lanes, v lane < 256 ∧ ∀ n < 8, (v lane).testBit n = (c.g.pReg n).getLsbD lane) ∧
   (∀ f s c, Issues (.pmovLoad f) s c → ∃ t g, exec (.pmovLoad f) s = .next t ∧ c.gangIn t = some g ∧
     g.v = c.g.v ∧ g.s = c.g.s ∧ g.k = c.g.k ∧ g.x = c.g.x ∧
     ∀ n < 8, ∀ lane < 32, (g.pReg n).getLsbD lane =
       if f.imm.getLsbD n ∧ n ≠ 0 ∧ c.active.getLsbD lane ∧ f.nwb = false then (srcA c (.pmovLoad f) 32 lane).testBit n
       else (c.g.pReg n).getLsbD lane))

namespace Sys2Proof.Machine

/-- The register instructions: opcodes 0x00 to 0x3E (spec/05, spec/06, spec/07). -/
def isRegister (i : Instr) : Prop := ∃ o short, Instr.opc i = some (o, short) ∧ o ≤ 0x3E

/-- The lane's own copies of registers that an instruction's D of w bits covers. -/
def CoversV (c : Ctx) (f : Long) (w r lane : Nat) : Prop :=
  c.active.getLsbD lane = true ∧
    ((isV f.d = true ∧ f.d.toNat ≤ r ∧ r < f.d.toNat + w / 32) ∨ (isIx f.d = true ∧ c.g.effective f.d lane ≤ r ∧ r < c.g.effective f.d lane + w / 32))
def CoversK (c : Ctx) (f : Long) (w r lane : Nat) : Prop :=
  c.active.getLsbD lane = true ∧ isK f.d = true ∧ f.d.toNat - 0xB0 ≤ r ∧ r < f.d.toNat - 0xB0 + w / 32
def CoversS (c : Ctx) (f : Long) (w r slice : Nat) : Prop :=
  (∃ lane, c.active.getLsbD lane = true ∧ lane / 4 = slice) ∧ isS f.d = true ∧ f.d.toNat - 0xC0 ≤ r ∧ r < f.d.toNat - 0xC0 + w / 32

/-- R85, R114, R127: the width in bits of D. -/
def dstBits (i : Instr) : Nat :=
  match (Instr.shape i).uses.find? fun u => u.kind.writes && u.code == (Instr.long i).d with
  | some u => 32 * u.kind.regs
  | none => 32

end Sys2Proof.Machine

/-- R25, R98, R116: the frame of every register instruction, whether it completes, traps or waits: it changes nothing
outside its core's pipes and its own gang but the selector's record and, where its trap stops the gang, the stop log and
the report of it; memory, scratchpads and other gangs keep everything; of its gang, the registers that D does not
cover, lanes not in ACTIVE, and with NWB every register, keep their values.
R91, R92: a register instruction outside a LOOP body either traps, or goes on in sequence: it counts as issued in its
gang's order, its fragment goes to the next word, keeps its lanes, and its loop while it or its chain head stands in the body, and has it as chain head unless it
reads a latch.
The model's own: How registers are named in write sets is the model's (log 13). -/
def Obligations.RegisterInstructionFrame : Prop :=
  (∀ i s t, isRegister i → exec i s = .next t →
     t.mem = s.mem ∧ t.frames = s.frames ∧ t.groups = s.groups ∧ t.launches = s.launches ∧ t.reqs = s.reqs ∧ t.copies = s.copies ∧
     t.agenda = s.agenda ∧ t.cycle = s.cycle ∧ t.pod = s.pod ∧ t.dtvec = s.dtvec ∧ t.ptoken = s.ptoken ∧ t.tlb = s.tlb ∧
     (∀ c, s.ctx (Instr.long i) = some c →
       (∀ k sl, (k, sl) ≠ (c.k, c.sl) → t.gang? k sl = s.gang? k sl) ∧
       ∃ g, t.gang? c.k c.sl = some g ∧ g.b = c.g.b ∧ g.group = c.g.group ∧ g.fn = c.g.fn ∧ g.gid = c.g.gid ∧
         (∀ n lane, (∀ f, i ≠ .movToIndex f) → g.xReg n lane = c.g.xReg n lane) ∧
         (∀ r lane, lane < 32 → ((Instr.long i).nwb = true ∨ ¬ CoversV c (Instr.long i) (dstBits i) r lane) → g.vReg r lane = c.g.vReg r lane) ∧
         (∀ r lane, lane < 32 → ((Instr.long i).nwb = true ∨ ¬ CoversK c (Instr.long i) (dstBits i) r lane) → g.kReg r lane = c.g.kReg r lane) ∧
         (∀ r slice, slice < 8 → ((Instr.long i).nwb = true ∨ ¬ CoversS c (Instr.long i) (dstBits i) r slice) → g.sReg r slice = c.g.sReg r slice) ∧
         (∀ n lane, lane < 32 → (pid n ∉ c.writeIds i ∨ c.active.getLsbD lane = false) → (g.pReg n).getLsbD lane = (c.g.pReg n).getLsbD lane) ∧
         g.mode &&& ~~~0x7C0#32 = c.g.mode &&& ~~~0x7C0#32 ∧ c.g.mode &&& 0x7C0#32 &&& ~~~g.mode = 0 ∧
         (g.level = c.g.level → g.t1 = c.g.t1 ∧ g.t2 = c.g.t2))) ∧
  (∀ i s c t g, isRegister i → Issues i s c → c.f.inBody c.g.level = false → exec i s = .next t → c.gangIn t = some g →
     let next := pcAddr c.f.pc + 4 * Instr.words i
     g.seq = c.g.seq ∨
       (g.seq = c.g.seq + 1 ∧ (next < 2 ^ 57 → ∃ x, g.frag? c.f.fid = some x ∧ pcAddr x.pc = next ∧
         x.chead = (if readsLatch i then c.f.chead else c.f.pc) ∧ x.mask = c.f.mask ∧
         x.loop = (if c.g.level = 0 then c.f.loop.filter fun l => l.addrs.contains next || l.addrs.contains (pcAddr x.chead) else c.f.loop) ∧
         x.jv = c.f.jv ∧ x.join = c.f.join ∧
         (c.f.jv = false ∨ pcAddr c.f.join ≠ next → x.wait = c.f.wait))))

/-! ## Encodings, steps and traps (spec/03, spec/04, spec/11) -/

/-- R78, R82, R84, R89: words that the encoding tables of the spec spell out, one or two for each family, decode to the
instructions they stand for. -/
def Obligations.DecodesWordsOfTheSpec : Prop :=
  decode [0x060808A0#32] = .ok (.hadd2Short ⟨false, false, 1, 2, 3, none⟩) ∧
  decode [0xA2081038#32] = .ok (.sarShort ⟨false, false, 2, 2, 0xC1, none⟩) ∧
  decode [0x00020005#32, 0x0203BC04#32, 2#32] = .ok (.iadd ⟨0, false, false, 8, 0, 4, 0xBC, 3, 0, false, 2, 2, none⟩) ∧
  decode [0x0040C033#32, 0x008000BF#32, 0#32, 4#32, 0#32] = .ok (.shl ⟨0, false, false, 3, 1, 0xBF, 0, 0, 0, true, 0, 0, some 4⟩) ∧
  decode [0x01C180C1#32, 0x888C0000#32, 0#32] = .ok (.cvt ⟨0, false, false, 6, 7, 0, 0, 12, 0, true, 0x88, 0, none⟩) ∧
  decode [0x020240E1#32, 0x030000C1#32, 5#32] = .ok (.shfl ⟨0, false, false, 9, 8, 0xC1, 0, 0, 0, false, 3, 5, none⟩) ∧
  decode [0x00800105#32, 0x00030006#32, 0x36FFFFF8#32] = .ok (.st ⟨0, false, false, 0, 2, 6, 0, 3, 0, false, 0, 0x36FFFFF8, none⟩) ∧
  decode [0x00C28111#32, 0x07010908#32, 0x48C00000#32] = .ok (.atom ⟨0, false, false, 10, 3, 8, 9, 1, 0, false, 7, 0x48C00000, none⟩) ∧
  decode [0x01000141#32, 0x02000B0A#32, 3#32] = .ok (.cpyIn ⟨0, false, false, 0, 4, 10, 11, 0, 0, false, 2, 3, none⟩) ∧
  decode [0x0000015D#32, 0#32, 0x00400082#32] = .ok (.barWait ⟨0, false, false, 0, 0, 0, 0, 0, 0, false, 0, 0x00400082, none⟩) ∧
  decode [0x00800D89#32, 0x1D0C0003#32, 0x00801031#32] = .ok (.mma ⟨3, false, false, 0, 2, 3, 0, 12, 0, false, 0x1D, 0x00801031, none⟩) ∧
  decode [0x000029A1#32, 5#32, 5#32] = .ok (.bra ⟨2, true, false, 0, 0, 5, 0, 0, 0, false, 0, 5, none⟩) ∧
  decode [0x000001B8#32] = .ok (.exitShort ⟨false, false, 0, 0, 0, none⟩) ∧
  decode [0x308001ED#32, 0#32, 0xC#32] = .ok (.swr ⟨0, false, false, 0, 0xC2, 0, 0, 0, 0, false, 0, 0xC, none⟩) ∧
  decode [0xFFFFFFFF#32] = .error .illegalOpc

/-- R78, R82 to R86: no bit of an encoding is dropped: an instruction that words can spell is what its words decode to,
whatever follows them. -/
def Obligations.DecodeOfEncode : Prop :=
  ∀ i rest, Machine.Instr.opc i ≠ none → i.wellFormed = true → decode (encode i ++ rest) = .ok i

namespace Sys2Proof.Machine

/-- R90: the values of OPC that have a long form, and R89: those that have a short form. -/
def longOpcs : List Nat :=
  List.range 0x16 ++ (List.range 0x1E).map (0x18 + ·) ++ (List.range 7).map (0x38 + ·) ++ (List.range 12).map (0x40 + ·) ++
    (List.range 12).map (0x50 + ·) ++ (List.range 7).map (0x60 + ·) ++ (List.range 8).map (0x68 + ·) ++ (List.range 7).map (0x78 + ·)
def shortOpcs : List Nat :=
  [0x00, 0x01, 0x02, 0x03, 0x04, 0x06, 0x07, 0x08, 0x09, 0x0A, 0x0C, 0x0D, 0x0E, 0x14, 0x18, 0x19, 0x1B, 0x1C, 0x20, 0x21, 0x23, 0x24, 0x28,
   0x29, 0x2B, 0x2C, 0x6E, 0x6F]

end Sys2Proof.Machine

/-- R89, R90: word 0 alone decides that an opcode or a form does not exist. -/
def Obligations.UnassignedOpcodes : Prop :=
  ∀ w0 rest, decode (w0 :: rest) = .error .illegalOpc ↔
    (if isLongForm w0 then opcOf w0 ∉ longOpcs else opcOf w0 ∉ shortOpcs)

namespace Sys2Proof.Machine

/-- The next thing that happens is the issue of fragment f of gang g, which candidate x names: nothing else is due,
and every candidate of the cycle has been weighed (R288). -/
def Selected (s : State) (x : Cand) (rest : List Cand) (g : Gang) (f : Frag) : Prop :=
  s.fatal = false ∧ takeDue s.cycle (fun _ => true) s.agenda = none ∧ s.cands = [] ∧ s.picked = x :: rest ∧
    s.gang? x.core x.slot = some g ∧ g.frag? x.fid = some f ∧ g.mayAct f = true ∧ (g.isHalted = false ∨ g.level = 2) ∧ f.wait = .run

/-- The words that stand from an address on, fetched for a gang of core k through translations that are cached already
(R80, R81). -/
def Fetches (s : State) (k : Nat) (g : Gang) (a : Nat) (ws : List Word) : Prop :=
  ∀ j w, ws[j]? = some w → s.fetchWord k g.fetchFn (s.launchOf g) (a + 4 * j) = .ok (w, none)

/-- R381, R385: the state once the n words from an address on have been fetched: each line of them that begins there is
counted. -/
def noteLines (k fn a : Nat) : Nat → State → State
  | 0, s => s
  | n + 1, s => noteLines k fn (a + 4) n (if a % 128 = 0 then s.noteFetch k fn a else s)

/-- R381, R385: the same for an instruction of n words, whose first line counts wherever the instruction begins in it. -/
def noteInstr (k fn a n : Nat) (s : State) : State := noteLines k fn a n (if a % 128 = 0 then s else s.noteFetch k fn a)

/-- The state in which the selected fragment's instruction issues: what was fetched is noted, the fragment is no
longer among those that have still to issue, and a migrated function's blackout ends with its first instruction. -/
def issuing (s : State) (x : Cand) (rest : List Cand) (fn : Nat) (ws : List Word) (note : State → State) : State :=
  ({ note { s with picked := rest } with
      cur := ⟨x.core, x.slot, x.fid, ws.headD 0, if isLongForm (ws.headD 0) then ws.getD 1 0 else 0⟩ } : State).endBlackout fn

/-- A gang's fragment as an instruction without fields would find it. -/
def At (s : State) (k sl fid : Nat) (c : Ctx) : Prop :=
  c.st = s ∧ c.k = k ∧ c.sl = sl ∧ s.gang? k sl = some c.g ∧ c.g.frag? fid = some c.f

end Sys2Proof.Machine

/-- R80, R94, R150: a step runs the decoded instruction: where the words at the selected fragment's address decode to i,
the step is exec of i; in the body of a LOOP, of i as the step word of its place and the iteration make it.
The model's own: When a fragment is selected and which choice a step uses up are the model's (logs 9, 10). -/
def Obligations.StepRunsDecoded : Prop :=
  ∀ s x rest g f ws, Selected s x rest g f → Fetches s x.core g (pcAddr f.pc) ws → ws.length = lenWords (ws.headD 0) →
    let noted := noteInstr x.core g.fetchFn (pcAddr f.pc) ws.length
    (∀ i, f.stepWord g.level = none → decode ws = .ok i →
      step s = onNext State.popChoice (exec i (issuing s x rest g.fn ws noted))) ∧
    (∀ a k st i j, f.stepWord g.level = some (a, k) → Fetches s x.core g a [st] → opcAssigned (ws.headD 0) = true →
      parse (ws.headD 0) ws.tail = some i → stepInstr (highBits (ws.headD 0)) i st k = .ok j →
      step s = onNext State.popChoice (exec j (issuing s x rest g.fn ws fun s => noteLines x.core g.fetchFn a 1 (noted s))))

/-- R80, R90, R94 orders 1 to 6: words that are not fetched, or that spell no instruction, raise their cause: an
unassigned opcode with word 0, reserved and undefined fields and operand codes with words 0 and 1, a fetch that fails with
its address; and the fetch of a level-1 routine's first instruction raises 0x3F. -/
def Obligations.UndecodableWordsTrap : Prop :=
  (∀ s l c w0, s.ctx l = some c → c.g.level < 2 →
    ∃ t, exec (.illegalOpc w0) s = .next t ∧ Took c 0x01 w0.toNat (pcAddr c.f.chead) t) ∧
  (∀ s l c cause va, s.ctx l = some c → c.g.level < 2 →
    ∃ t, exec (.fetchFault cause va) s = .next t ∧
      (if c.g.level = 1 ∧ c.g.entry1 = true then Took c 0x3F 2 (pcAddr c.f.chead) t else Took c cause va.toNat (pcAddr c.f.chead) t)) ∧
  (∀ s x rest g f w0, Selected s x rest g f → Fetches s x.core g (pcAddr f.pc) [w0] → opcAssigned w0 = false →
    step s = onNext State.popChoice (exec (.illegalOpc w0)
      ({ noteInstr x.core g.fetchFn (pcAddr f.pc) 1 { s with picked := rest } with cur := ⟨x.core, x.slot, x.fid, w0, 0⟩ }.endBlackout g.fn))) ∧
  (∀ s x rest g f cause, Selected s x rest g f → s.fetchWord x.core g.fetchFn (s.launchOf g) (pcAddr f.pc) = .error cause →
    step s = onNext State.popChoice (exec (.fetchFault cause (BitVec.ofNat 64 (pcAddr f.pc)))
      (issuing s x rest g.fn [0] fun s => s.noteWalk (.core x.core) g.fetchFn (pcAddr f.pc)))) ∧
  (∀ s x rest g f ws i cause, Selected s x rest g f → Fetches s x.core g (pcAddr f.pc) ws → ws.length = lenWords (ws.headD 0) →
    opcAssigned (ws.headD 0) = true → parse (ws.headD 0) ws.tail = some i → f.stepWord g.level = none →
    decodeCause (highBits (ws.headD 0)) i = some cause → g.level < 2 →
    ∃ t, step s = .next t ∧
      Took { st := s, k := x.core, sl := x.slot, g := g, f := f, active := 0 } cause
        ((ws.headD 0).toNat + if isLongForm (ws.headD 0) then (ws.getD 1 0).toNat * 2 ^ 32 else 0)
        (if readsLatch i then pcAddr f.chead else pcAddr f.pc) t)

/-- Device memory holds nothing after reset, which is its canonical form. What memory holds then and the canonical
form are the model's (log 2). -/
def Obligations.ResetInv : Prop := State.reset.Inv

/-- Device memory keeps its canonical form (the model's, log 2) in every step, whatever happens in it. -/
def Obligations.StepKeepsInv : Prop := ∀ s t, s.Inv → step s = .next t → t.Inv

/-- R345 to R350, R371, R375, R401, R424, R440: the values that the spec gives for reset. -/
def Obligations.ResetValues : Prop :=
  let s := State.reset
  (∀ k sl, s.gang? k sl = none) ∧ s.groups = [] ∧ s.launches = [] ∧ s.reqs = [] ∧ s.agenda = [] ∧
  (∀ n, (s.func n).enabled = decide (n = 0)) ∧
  (∀ n, (s.func n).weight = 1 ∧ (s.func n).holdmax = 100 ∧ (s.func n).deleg = 0 ∧ (s.func n).evt = 0 ∧ (s.func n).vdnValid = false ∧
    (s.func n).queues = [] ∧ (s.func n).partNo = 0 ∧ (s.func n).keyid = 0) ∧
  (Queue.reset.hold = 10 ∧ Queue.reset.qweight = 1 ∧ Queue.reset.log2 = 6 ∧ Queue.reset.en = false ∧ Queue.reset.head = 0 ∧ Queue.reset.tail = 0) ∧
  (∀ t, (s.part t).valid = decide (t = 0) ∧ (s.part t).req = (if t = 0 then BitVec.allOnes 64 else 0) ∧
    (s.part t).mem = (if t = 0 then BitVec.allOnes 48 else 0)) ∧
  s.ptoken = 896 ∧ s.mfwd = 200 ∧ s.dtvec = 0 ∧ Session.reset.maxr = 8 ∧ Session.reset.resid = 16

/-- R287, R289: an instruction that is not ready does not issue; only MXACQ with an ACTIVE lane does anything then: it joins
the queue for its core's engine (R214). R24: one whose guard is `(!p0)` issues once it is ready, and has no effect but that
its fragment goes on and that it counts as issued. -/
def Obligations.InstructionsWaitUntilReady : Prop :=
  (∀ i s c, Machine.Instr.opc i ≠ none → s.ctx (Instr.long i) = some c → c.operandCause i = none → c.loopNest i = false → c.ready i = false →
    ((∀ f, i ≠ .mxacq f) → exec i s = .next s) ∧
    (∀ f, i = .mxacq f → ∃ t, exec i s = .next t ∧ (∀ k sl, t.gang? k sl = s.gang? k sl) ∧
      t = { s with cores := t.cores } ∧ (∀ k, k ≠ c.k → t.core k = s.core k) ∧ (t.core c.k).mxOwner = (s.core c.k).mxOwner ∧
      (c.acts = true → c.isMatrixGroup = true → c.ownsMx = false → ((t.core c.k).queuePos c.sl).isSome = true))) ∧
  (∀ i s c, Machine.Instr.opc i ≠ none → s.ctx (Instr.long i) = some c → c.operandCause i = none → c.loopNest i = false → c.ready i = true →
    c.voided i = true →
    ∃ t g, exec i s = .next t ∧ c.gangIn t = some g ∧ g.sameRegs c.g ∧ g.mode = c.g.mode ∧ g.level = c.g.level ∧ g.seq = c.g.seq + 1 ∧
      g.fences = c.g.fences ∧ SameOutside s t ∧
      (pcAddr c.f.pc + 4 * Instr.words i < 2 ^ 57 → c.f.loop = none → ∃ x, g.frag? c.f.fid = some x ∧ x.mask = c.f.mask ∧
        pcAddr x.pc = pcAddr c.f.pc + 4 * Instr.words i))

/-! ## System and control instructions, and what happens to gangs between instructions (spec/07, spec/11, spec/12) -/

namespace Sys2Proof.Machine

/-- R240, R243, R244: the fragment has taken a cause with a KIND: the level, what that level's trap registers hold, where
the fragment goes on, and what stays. -/
def TookAs (c : Ctx) (kind : Nat) (cause : BitVec 6) (value epc : Nat) (t : State) : Prop :=
  ∃ g f, c.gangIn t = some g ∧ g.frag? c.f.fid = some f ∧
    g.level = (if c.g.level = 0 then route (c.st.func c.g.fn).deleg cause else 2) ∧
    (let r := if g.level = 1 then g.t1 else g.t2
     r.cause = cause.setWidth 32 ∧ r.epc = BitVec.ofNat 64 epc ∧ r.tval = BitVec.ofNat 64 value ∧ bits r.status.toNat 31 16 = 0 ∧
       bits r.status.toNat 10 8 = kind ∧ bits r.status.toNat 5 4 = c.g.level ∧ r.status.getLsbD 14 = decide (cause = 0x31)) ∧
    pcAddr f.pc = vecEntry (if g.level = 1 then (c.st.func c.g.fn).gtvec else c.st.dtvec) ∧
    g.sameRegs c.g ∧ g.mode = c.g.mode ∧ t.mem = c.st.mem

end Sys2Proof.Machine

/-- R94 orders 7 to 10, R151, R235, R236, R240: from level 0 or 1 an instruction that its level, its latch chain, the gang's
allocation or an index register forbids takes the first of its causes, and has no effect of its own; then LOOP_NEST.
R235, R36: the levels that RTE, CTXS, CTXR and the special registers ask for; a write of a register that nothing may
write asks for none.
R236 point 4, R245, R358: a cause that an instruction raises at level 2 stops the gang: it is logged, the physical
function's event bit 3 is set, and the gang keeps its registers and its trap registers.
R236, R237: a cause of a gang at level 0 goes to level 1 exactly where its bit of DELEG is set, and never a halt's or a
machine check's; and SWR of DELEG sets none of the bits of reserved causes and of the causes that always go to level 2.
The model's own: Which of several indexed operands that fail at once is reported is the model's (log 72). -/
def Obligations.CausesAndLevels : Prop :=
  (∀ i s c, Machine.Instr.opc i ≠ none → s.ctx (Instr.long i) = some c → c.g.level < 2 →
     let uses := (Instr.shape i).uses
     let priv := (c.g.level = 0 ∧ ∃ u ∈ uses, privOperand u = true) ∨ c.g.level < (Instr.shape i).level
     let chain := readsLatch i = true ∧ (c.f.chead = c.f.pc ∨ c.f.chainX = true ∨ ∃ r ∈ c.allWrites i, r ∈ c.f.chainRd)
     let alloc := (∃ u ∈ uses, allocBad (16 * c.g.nblk) u = true) ∨
       (∃ f, (i = .ctxs f ∨ i = .ctxr f) ∧ subF f 2 0 = 0 ∧ c.g.nblk ≤ immF f 3 0)
     let index := fun (u : Use) => isIx u.code = true ∧ ∃ lane ∈ c.lanes, indexBad c.g (16 * c.g.nblk) u lane = true
     (priv → ∃ t, exec i s = .next t ∧ Took c 0x0B (s.reportWords i) (c.head i) t) ∧
     (¬ priv → chain → ∃ t, exec i s = .next t ∧ Took c 0x07 (s.reportWords i) (c.head i) t) ∧
     (¬ priv → ¬ chain → alloc → ∃ t, exec i s = .next t ∧ Took c 0x05 (s.reportWords i) (c.head i) t) ∧
     (¬ priv → ¬ chain → ¬ alloc → ∀ pre u post, uses = pre ++ u :: post → (∀ v ∈ pre, ¬ index v) → index u →
       ∃ t, exec i s = .next t ∧
         Took c 0x06 ((maskOf fun lane => c.active.getLsbD lane && indexBad c.g (16 * c.g.nblk) u lane).toNat + (u.code.toNat - 0xB4) * 2 ^ 32) (c.head i) t) ∧
     (¬ priv → ¬ chain → ¬ alloc → (∀ u ∈ uses, ¬ index u) → c.loopNest i = true → c.voided i = false →
       ∃ t, exec i s = .next t ∧ Took c 0x0A (s.reportWords i) (c.head i) t)) ∧
  ((∀ f, (Instr.shape (.rte f)).level = 1) ∧ (∀ f, (Instr.shape (.ctxs f)).level = 2) ∧ (∀ f, (Instr.shape (.ctxr f)).level = 2) ∧
   (∀ f, (Instr.shape (.trap f)).level = 0) ∧ (∀ f, (Instr.shape (.bkpt f)).level = 0) ∧
   (∀ f, (Instr.shape (.srd f)).level =
     if 0x100 ≤ immF f 11 0 ∧ immF f 11 0 ≤ 0x105 then 1 else if 0x200 ≤ immF f 11 0 ∧ immF f 11 0 ≤ 0x20C then 2 else 0) ∧
   (∀ f, (Instr.shape (.swr f)).level =
     if 0x100 ≤ immF f 11 0 ∧ immF f 11 0 ≤ 0x105 then 1 else if 0x200 ≤ immF f 11 0 ∧ immF f 11 0 ≤ 0x20C then 2 else 0) ∧
   (∀ f : Long, (1 ≤ immF f 11 0 ∧ immF f 11 0 ≤ 0x13) ∨ (0x100 ≤ immF f 11 0 ∧ immF f 11 0 ≤ 0x105) ∨ (0x200 ≤ immF f 11 0 ∧ immF f 11 0 ≤ 0x20C) ↔
     (Instr.shape (.srd f)).ill = false)) ∧
  (∀ i s c cause v, Machine.Instr.opc i ≠ none → s.ctx (Instr.long i) = some c → c.g.level = 2 → c.operandCause i = some (cause, v) →
     ∃ t g, exec i s = .next t ∧ c.gangIn t = some g ∧ g = { c.g with stopped := true } ∧
       t.stopCount = (s.stopCount + 1) % 2 ^ 32 ∧ (t.func 0).evt.getLsbD 3 = true ∧
       (let e := (Cells.getD t.stopLog (s.stopCount % 64) 0).toNat
        bits e 5 0 = c.g.fn % 64 ∧ bits e 11 8 = c.k / 64 % 16 ∧ bits e 21 16 = c.k % 64 ∧ bits e 28 24 = c.sl % 32 ∧ bits e 37 32 = cause.toNat ∧
          bits e 127 64 = v % 2 ^ 64) ∧
       t.mem = s.mem ∧ (∀ k sl, (k, sl) ≠ (c.k, c.sl) → t.gang? k sl = s.gang? k sl)) ∧
  ((∀ deleg cause, route deleg cause =
     if cause ≠ 0x35 ∧ cause ≠ 0x36 ∧ cause ≠ 0x37 ∧ cause ≠ 0x3F ∧ deleg.getLsbD cause.toNat = true then 1 else 2) ∧
   (∀ (s : State) k sl g (v : Quad) n, s.gang? k sl = some g → n < 64 →
     ((s.swr k sl 0x206 v).func g.fn).deleg.getLsbD n =
       (v.getLsbD n && (decide (1 ≤ n ∧ n ≤ 30) || decide (32 ≤ n ∧ n ≤ 38) || decide (40 ≤ n ∧ n ≤ 52)))))

/-- R247, R249: TRAP and BKPT raise their causes with CODE at their own addresses; RTE by its cases: a saved gang leaves the
core, KILL and CANC end the gang, a bad return address raises 0x08 or 0x09, and otherwise the fragment goes on at xEPC.
The model's own: Where a saved gang is kept as data is the model's (log 21). -/
def Obligations.TrapsAndReturns : Prop :=
  (∀ f s c, Issues (.trap f) s c → c.active ≠ 0 → c.g.level < 2 →
    ∃ t, exec (.trap f) s = .next t ∧ Took c 0x0C (immF f 15 0) (pcAddr c.f.pc) t) ∧
  (∀ f s c, Issues (.bkpt f) s c → c.active ≠ 0 → c.g.level < 2 →
    ∃ t, exec (.bkpt f) s = .next t ∧ Took c 0x0D (immF f 15 0) (pcAddr c.f.pc) t) ∧
  (∀ f s c, Issues (.rte f) s c → c.active ≠ 0 →
    let r := if c.g.level = 2 then c.g.t2 else c.g.t1
    let kind := bits r.status.toNat 10 8
    let ends := r.status.getLsbD 13 = true ∨ r.status.getLsbD 14 = true
    let p := if c.g.level = 2 then bits r.status.toNat 5 4 else 0
    (kind = 3 → c.k < 1024 → ∃ t g, exec (.rte f) s = .next t ∧ t.gang? c.k c.sl = none ∧ t.gen c.k c.sl = (s.gen c.k c.sl + 1) % 256 ∧
      t.gang? (1024 + c.g.group) c.g.gid = some g ∧ g.sameRegs c.g ∧ g.frags = c.g.frags ∧ t.mem = s.mem) ∧
    (kind ≠ 3 → kind ≠ 4 → ends → ∃ t, exec (.rte f) s = .next t ∧ t.gang? c.k c.sl = none ∧
      t.gen c.k c.sl = (s.gen c.k c.sl + 1) % 256 ∧ t.mem = s.mem) ∧
    (kind ≠ 3 → kind ≠ 4 → ¬ ends → c.g.level = 1 → r.epc.toNat % 4 ≠ 0 →
      ∃ t, exec (.rte f) s = .next t ∧ Took c 0x08 r.epc.toNat (pcAddr c.f.pc) t) ∧
    (kind ≠ 3 → kind ≠ 4 → ¬ ends → c.g.level = 1 → r.epc.toNat % 4 = 0 → 2 ^ 57 ≤ r.epc.toNat →
      ∃ t, exec (.rte f) s = .next t ∧ Took c 0x09 r.epc.toNat (pcAddr c.f.pc) t) ∧
    (kind ≠ 3 → kind ≠ 4 → ¬ ends → r.epc.toNat % 4 = 0 → r.epc.toNat < 2 ^ 57 →
      ∃ t g x, exec (.rte f) s = .next t ∧ c.gangIn t = some g ∧ g.level = p ∧ g.frag? c.f.fid = some x ∧ pcAddr x.pc = r.epc.toNat ∧
        x.chead = x.pc ∧ x.mask = c.f.mask ∧ (c.f.loop = none → x.loop = none) ∧
        (∀ l, c.f.loop = some l → l.len ≤ l.addrs.length → x.loop = if p ≠ 0 ∨ r.epc.toNat ∈ l.addrs then some l else none) ∧ g.sameRegs c.g ∧ g.mode = c.g.mode ∧ g.t1 = c.g.t1 ∧ g.t2 = c.g.t2 ∧
        t.mem = s.mem))

namespace Sys2Proof.Machine

/-- R36: the special registers of 64 bits. -/
def wideRegs : List Nat := [0x00A, 0x00B, 0x00F, 0x010, 0x100, 0x102, 0x103, 0x104, 0x200, 0x202, 0x203, 0x204, 0x206, 0x207, 0x209, 0x20A, 0x20C]

/-- R32 to R37, R238, R239, R413, R414: what special register n holds. -/
def RegHolds (c : Ctx) (n v : Nat) : Prop :=
  let f := c.st.func c.g.fn
  (n = 0x001 → v = c.g.gid) ∧
  (∀ x, c.st.group? c.g.group = some x → (n = 0x002 → v = x.groupId) ∧ (n = 0x003 → v = x.kern.gangs) ∧ (n = 0x006 → v = x.recCount) ∧
    ∀ l, c.st.launch? x.launch = some l → (n = 0x004 → v = l.lid.toNat) ∧ (n = 0x005 → v = l.nodeId.getD 0xFFFFFFFF)) ∧
  (n = 0x007 → v = c.k % 64) ∧ (n = 0x008 → v = c.k / 64) ∧ (n = 0x009 → v = if f.vdnValid then f.vdn.toNat else 0xFFFFFFFF) ∧
  (n = 0x00A → v = (c.st.pod + f.timeOff) / 11) ∧ (n = 0x00B → v = c.st.cycle - Cells.getD c.st.powered (c.k / 16) 0) ∧
  (n = 0x00C → v = c.g.mode.toNat) ∧ (n = 0x00D → v = c.f.mask.toNat) ∧ (n = 0x00E → v = c.g.mask.toNat) ∧
  (n = 0x012 → ∀ j p, [Path.g, .w, .s, .m, .n][j]? = some p → (∀ q, c.g.inflight q < 64) → bits v (6 * j + 5) (6 * j) = c.g.inflight p) ∧
  (n = 0x100 → v = f.gtvec.toNat) ∧ (n = 0x101 → v = c.g.t1.cause.toNat) ∧ (n = 0x102 → v = c.g.t1.epc.toNat) ∧
  (n = 0x103 → v = c.g.t1.tval.toNat) ∧ (n = 0x104 → v = c.g.t1.scratch.toNat) ∧ (n = 0x105 → v = c.g.t1.status.toNat) ∧
  (n = 0x200 → v = c.st.dtvec.toNat) ∧ (n = 0x201 → v = c.g.t2.cause.toNat) ∧ (n = 0x202 → v = c.g.t2.epc.toNat) ∧
  (n = 0x203 → v = c.g.t2.tval.toNat) ∧ (n = 0x204 → v = c.g.t2.scratch.toNat) ∧ (n = 0x205 → v = c.g.t2.status.toNat) ∧
  (n = 0x206 → v = f.deleg.toNat) ∧ (n = 0x207 → v = f.ctxbase.toNat) ∧ (n = 0x208 → v % 65536 = c.st.ptoken % 65536) ∧
  (n = 0x209 → v = (c.st.core c.k).watchA.toNat) ∧ (n = 0x20A → v = (c.st.core c.k).watchM.toNat) ∧ (n = 0x20B → v = (c.st.core c.k).bkptctl.toNat) ∧
  (n = 0x20C → v % 2 ^ 61 = c.st.dbgIn.toNat ∧ v.testBit 63 = c.st.dbgInf ∧ v.testBit 62 = c.st.dbgOutf ∧ v.testBit 61 = c.g.dbgRef)

end Sys2Proof.Machine

/-- R36, R250: SRD writes the same value to every ACTIVE lane, and changes nothing else.
R34, R36, R219, R237 to R239, R250, R413, R414: SWR writes the fields of its register that software may write, once; a
register that nothing may write is left alone, and every other register keeps its value. -/
def Obligations.SpecialRegisters : Prop :=
  (∀ f s c, Issues (.srd f) s c → c.active ≠ 0 →
     ∃ t g v, exec (.srd f) s = .next t ∧ c.gangIn t = some g ∧ SameOutside s t ∧ OthersKept c s t ∧ g.mode = c.g.mode ∧ g.t1 = c.g.t1 ∧ g.t2 = c.g.t2 ∧
       DestHolds c f (if immF f 11 0 ∈ wideRegs then 64 else 32) (fun _ => v) g ∧ RegHolds c (immF f 11 0) v) ∧
  (∀ f s c, Issues (.swr f) s c → c.active ≠ 0 →
     let n := immF f 11 0
     let v := c.src f.lit f.a (if n ∈ wideRegs then 64 else 32) (lowest c.active)
     let q : Quad := BitVec.ofNat 64 v
     let fn0 := s.func c.g.fn
     let co := s.core c.k
     ∃ t g, exec (.swr f) s = .next t ∧ c.gangIn t = some g ∧ g.sameRegs c.g ∧ t.mem = s.mem ∧ OthersKept c s t ∧
       (n = 0x00C → c.g.newFlAt ≠ s.cycle →
         g.mode.toNat % 8 = (if 1 ≤ v % 8 ∧ v % 8 ≤ 5 then v % 8 else 1) ∧ (∀ b, 3 ≤ b → b ≤ 20 → b ≠ 19 → g.mode.getLsbD b = v.testBit b) ∧
         g.mode.getLsbD 19 = (if c.g.level = 0 then c.g.mode.getLsbD 19 else v.testBit 19) ∧ g.mode.toNat < 2 ^ 21) ∧
       (n ≠ 0x00C → g.mode = c.g.mode) ∧
       g.t1.cause.toNat = (if n = 0x101 then v % 64 else c.g.t1.cause.toNat) ∧ g.t1.epc = (if n = 0x102 then q else c.g.t1.epc) ∧
       g.t1.tval = (if n = 0x103 then q else c.g.t1.tval) ∧ g.t1.scratch = (if n = 0x104 then q else c.g.t1.scratch) ∧
       (∀ b, g.t1.status.getLsbD b = if n = 0x105 ∧ b = 13 then v.testBit 13 else if n = 0x105 ∧ b = 12 then c.g.t1.status.getLsbD 12 && !v.testBit 12
         else c.g.t1.status.getLsbD b) ∧
       g.t2.cause.toNat = (if n = 0x201 then v % 64 else c.g.t2.cause.toNat) ∧ g.t2.epc = (if n = 0x202 then q else c.g.t2.epc) ∧
       g.t2.tval = (if n = 0x203 then q else c.g.t2.tval) ∧ g.t2.scratch = (if n = 0x204 then q else c.g.t2.scratch) ∧
       (∀ b, g.t2.status.getLsbD b = if n = 0x205 ∧ b = 13 then v.testBit 13 else if n = 0x205 ∧ b = 12 then c.g.t2.status.getLsbD 12 && !v.testBit 12
         else if n = 0x205 ∧ b = 5 then false else if n = 0x205 ∧ b = 4 then v.testBit 5 || v.testBit 4 else c.g.t2.status.getLsbD b) ∧
       (t.func c.g.fn).gtvec.toNat = (if n = 0x100 then v % 2 ^ 57 / 4 * 4 else fn0.gtvec.toNat) ∧
       t.dtvec.toNat = (if n = 0x200 then v % 2 ^ 57 / 4 * 4 else s.dtvec.toNat) ∧
       (n ≠ 0x206 → (t.func c.g.fn).deleg = fn0.deleg) ∧ (t.func c.g.fn).ctxbase = (if n = 0x207 then q else fn0.ctxbase) ∧
       t.ptoken = (if n = 0x208 then max 1 (min (v % 2 ^ 11) 1024) else s.ptoken) ∧
       (t.core c.k).watchM.toNat = (if n = 0x20A then v % 2 ^ 57 else co.watchM.toNat) ∧
       (n = 0x209 → bits v 62 61 ≠ 3 → (t.core c.k).watchA.toNat = v / 2 ^ 59 * 2 ^ 59 + v % 2 ^ 57) ∧
       (n = 0x209 → bits v 62 61 = 3 → (t.core c.k).watchA.toNat = bits v 60 59 * 2 ^ 59 + v % 2 ^ 57) ∧
       (n ≠ 0x209 → (t.core c.k).watchA = co.watchA) ∧
       (t.core c.k).bkptctl.toNat = (if n = 0x20B then bits v 8 7 * 128 + v % 32 else co.bkptctl.toNat) ∧
       t.dbgInf = (s.dbgInf && !(decide (n = 0x20C) && v.testBit 62)) ∧
       t.dbgOutf = (s.dbgOutf || (decide (n = 0x20C) && v.testBit 63)) ∧
       t.dbgOut.toNat = (if n = 0x20C ∧ v.testBit 63 = true ∧ s.dbgOutf = false then v % 2 ^ 62 else s.dbgOut.toNat) ∧
       g.dbgRef = (if n = 0x20C ∧ v.testBit 63 = true then s.dbgOutf else c.g.dbgRef))

namespace Sys2Proof.Machine

/-- R251: the places in the frame of the words of a class, with the words the gang holds; none for a word that the class
leaves untouched. -/
def SavedWord (g : Gang) (f : Long) (n : Nat) : Option Word :=
  match subF f 2 0 with
  | 0 => if n < 512 then some (g.vReg (16 * immF f 3 0 + n / 32) (n % 32)) else none
  | 1 => if n < 256 ∧ n % 32 < 28 then some (g.sReg (n % 32) (n / 32)) else none
  | 2 => if n < 7 then some (g.pReg (n + 1)) else none
  | 3 => if n < 64 then some ((g.bReg (n / 4)).extractLsb' (32 * (n % 4)) 32) else none
  | _ => if n < 256 then some (g.xReg (n / 32) (n % 32)) else none
def frameOffset (f : Long) : Nat :=
  match subF f 2 0 with
  | 0 => 0x1000 + 0x800 * immF f 3 0
  | 1 => 0x6800
  | 2 => 0x6C04
  | 3 => 0x6C40
  | _ => 0x7000

/-- R251: how many words the class's area has. -/
def frameWords (f : Long) : Nat :=
  match subF f 2 0 with
  | 0 => 512
  | 1 => 256
  | 2 => 7
  | 3 => 64
  | _ => 256

/-- R251: the frame's area is reached: its address is aligned, and stage 2 places it in device memory of the function. -/
def FrameAt (c : Ctx) (f : Long) (acc : Rights) (pa : Nat) : Prop :=
  let a := c.src f.lit f.a 64 (lowest c.active)
  a % 131072 = 0 ∧ c.st.translateIa (.core c.k) c.g.fn (a + frameOffset f) acc = .ok (.dev pa) ∧ c.st.keyOk (c.st.keyOf c.g.fn) pa = true

end Sys2Proof.Machine

/-- R251: CTXS stores every word of its class at its place in the frame and leaves every other byte of memory as it was;
CTXR writes every register of its class from there, reserved bits as zero, and leaves every other register.
The model's own: That the frame lies in device memory is the model's condition (log 23). -/
def Obligations.SaveAndRestoreRegisters : Prop :=
  (∀ f s c pa, Issues (.ctxs f) s c → c.active ≠ 0 → FrameAt c f ⟨false, true, false⟩ pa → (s.px c.g.fn).en = false →
    let key := s.keyOf c.g.fn
    ∃ t g, exec (.ctxs f) s = .next t ∧ c.gangIn t = some g ∧ g.sameRegs c.g ∧ g.mode = c.g.mode ∧ OthersKept c s t ∧
      (∀ n w, SavedWord c.g f n = some w → t.homeRead key (pa + 4 * n) 4 = w.toNat) ∧
      (∀ k a, (∀ n w, SavedWord c.g f n = some w → a < pa + 4 * n ∨ pa + 4 * n + 4 ≤ a) → t.homeByte k a = s.homeByte k a)) ∧
  (∀ f s c pa, Issues (.ctxr f) s c → c.active ≠ 0 → FrameAt c f ⟨true, false, false⟩ pa →
    (∀ n < frameWords f, s.spoilt c.g.fn (pa + 4 * n) = false) →
    let key := s.keyOf c.g.fn
    let keep : Nat → Word := fun n => if subF f 2 0 = 3 then (if n % 4 = 3 then 0x0FFFFFFF#32 else if n % 4 = 1 then 0x7FFFFFFF#32 else 0xFFFFFFFF#32)
      else if subF f 2 0 = 4 then 0x00FFFFFF#32 else 0xFFFFFFFF#32
    ∃ t g, exec (.ctxr f) s = .next t ∧ c.gangIn t = some g ∧ OthersKept c s t ∧ g.mode = c.g.mode ∧ t.mem = s.mem ∧ t.frames = s.frames ∧
      (∀ n w, SavedWord c.g f n = some w → SavedWord g f n = some (BitVec.ofNat 32 (s.homeRead key (pa + 4 * n) 4) &&& keep n)) ∧
      (∀ h : Long, subF h 2 0 ≤ 4 → (subF h 2 0 ≠ subF f 2 0 ∨ (subF f 2 0 = 0 ∧ immF h 3 0 ≠ immF f 3 0)) → ∀ n, SavedWord g h n = SavedWord c.g h n) ∧
      (∀ r slice, 28 ≤ r → r < 32 → slice < 8 → g.sReg r slice = c.g.sReg r slice) ∧ (∀ r lane, g.kReg r lane = c.g.kReg r lane))

namespace Sys2Proof.Machine

/-- R141, R143 to R145: where a branch sends a lane. -/
def branchTarget (c : Ctx) (i : Instr) (lane : Nat) : Int :=
  match i with
  | .bra f | .call f => pcAddr c.f.pc + 4 * sext (immN f) 32
  | _ => c.src (Instr.long i).lit (Instr.long i).a 64 lane

/-- R141: the join that a branch gives. -/
def branchJoin (c : Ctx) (i : Instr) : Option PcWord :=
  match i with
  | .ret _ => none
  | _ =>
    let j := sext ((Instr.long i).b.toNat + 256 * (Instr.long i).c.toNat) 16
    if j = 0 then none else some (toPc (((pcAddr c.f.pc : Int) + 4 * j) % 2 ^ 57).toNat)

def isBranch (i : Instr) : Prop := (∃ f, i = .bra f) ∨ (∃ f, i = .brx f) ∨ (∃ f, i = .call f) ∨ (∃ f, i = .ret f)

/-- R142: the next address of a lane of the fragment. -/
def nextOf (c : Ctx) (i : Instr) (lane : Nat) : Nat :=
  if c.active.getLsbD lane then (branchTarget c i lane).toNat else pcAddr c.f.pc + 4 * Instr.words i

end Sys2Proof.Machine

/-- R141 to R145, R240: a branch at level 0 replaces the issuing fragment by the groups of its lanes that have one next
address, in the order of their lowest lanes, with the join it gives and no loop; above level 0 the fragment goes where its lowest
lane goes. CALL writes the return address. A target that is misaligned or out of range traps. -/
def Obligations.BranchesSplitByTarget : Prop :=
  ∀ i s c, isBranch i → Issues i s c →
    let mis := fun lane => c.active.getLsbD lane && decide (branchTarget c i lane % 4 ≠ 0)
    let out := fun lane => c.active.getLsbD lane && (decide (branchTarget c i lane < 0) || decide ((2 : Int) ^ 57 ≤ branchTarget c i lane))
    let ok := (∀ lane < 32, mis lane = false ∧ out lane = false) ∧ pcAddr c.f.pc + 4 * Instr.words i < 2 ^ 57
    (c.g.level < 2 → (∃ lane < 32, mis lane = true) → ∃ t, exec i s = .next t ∧ Took c 0x08 (maskOf mis).toNat (c.head i) t) ∧
    (c.g.level < 2 → (∀ lane < 32, mis lane = false) → (∃ lane < 32, out lane = true) →
      ∃ t, exec i s = .next t ∧ Took c 0x09 (maskOf out).toNat (c.head i) t) ∧
    (c.g.level = 0 → ok → ∃ t g parts, exec i s = .next t ∧ c.gangIn t = some g ∧ SameOutside s t ∧ OthersKept c s t ∧
      g.frags = c.g.frags.flatMap (fun x => if x.fid = c.f.fid then parts else [x]) ∧
      parts.Pairwise (fun x y => x.pc ≠ y.pc ∧ lowest x.mask < lowest y.mask) ∧
      (∀ lane < 32, c.f.mask.getLsbD lane = true → ∃ x ∈ parts, x.mask.getLsbD lane = true) ∧
      (∀ x ∈ parts, (∀ lane < 32, x.mask.getLsbD lane = (c.f.mask.getLsbD lane && decide (nextOf c i lane = pcAddr x.pc))) ∧
        x.chead = x.pc ∧ x.loop = none ∧
        (∀ j, branchJoin c i = some j → x.jv = true ∧ x.join = j) ∧ (branchJoin c i = none → x.jv = c.f.jv ∧ x.join = c.f.join))) ∧
    (0 < c.g.level → ok → ∃ t g x, exec i s = .next t ∧ c.gangIn t = some g ∧ SameOutside s t ∧ OthersKept c s t ∧ g.frag? c.f.fid = some x ∧
      pcAddr x.pc = nextOf c i (lowest c.f.mask) ∧ x.mask = c.f.mask ∧ x.jv = c.f.jv ∧ x.join = c.f.join) ∧
    (ok → ∃ t g, exec i s = .next t ∧ c.gangIn t = some g ∧ g.k = c.g.k ∧ g.s = c.g.s ∧ g.p = c.g.p ∧ g.x = c.g.x ∧ g.b = c.g.b ∧ g.mode = c.g.mode ∧
      ((∀ f, i ≠ .call f) → g.v = c.g.v) ∧
      (∀ f, i = .call f → ∀ r lane, lane < 32 → g.vReg r lane =
        if (if 0 < c.g.level then c.f.mask else c.active).getLsbD lane = true ∧ r = f.d.toNat then BitVec.ofNat 32 (pcAddr c.f.pc + 12)
        else if (if 0 < c.g.level then c.f.mask else c.active).getLsbD lane = true ∧ r = f.d.toNat + 1 then BitVec.ofNat 32 ((pcAddr c.f.pc + 12) / 2 ^ 32)
        else c.g.vReg r lane))

/-- R147, R149, R153, R154: RGANG waits, LOOP enters its body or passes it, EXIT removes the ACTIVE lanes and ends the gang
with its last lane, YIELD gives way for 16 cycles; none of them changes a register.
R150, R152: in the body of a LOOP a register instruction that completes goes on to the next body instruction, from the
last one back to the first with the iteration counted, and after the last iteration past the body, where the loop is over
once no open chain began in it.
The model's own: How a LOOP with COUNT 0 finds the end of its body is deduced (log 26). Where the step words of a LOOP with a literal stand, and the loop state that a body keeps, are the model's (log 72). What EXIT waits for besides R153 is the model's choice (log 71). -/
def Obligations.FragmentControlAndLoops : Prop :=
  ((∀ f s c, Issues (.rgang f) s c → ∃ t g x, exec (.rgang f) s = .next t ∧ c.gangIn t = some g ∧ g.sameRegs c.g ∧ SameOutside s t ∧
     g.frag? c.f.fid = some x ∧ x.mask = c.f.mask ∧
     (c.g.level = 0 → x.wait = .rgang ∧ x.pc = c.f.pc) ∧ (0 < c.g.level → pcAddr c.f.pc + 12 < 2 ^ 57 → pcAddr x.pc = pcAddr c.f.pc + 12)) ∧
   (∀ i s c, (∃ f, i = .loop f) ∨ (∃ f, i = .loopR f) → Issues i s c →
     let f := Instr.long i
     let n := subF f 4 0 + 1
     let count := if f.sub.getLsbD 5 then (if c.active ≠ 0 then c.src f.lit f.a 32 (lowest c.active) else 0) else immF f 16 0
     let body := pcAddr c.f.pc + 4 * Instr.words i + 4 * n
     (65536 < count → c.g.level < 2 → ∃ t, exec i s = .next t ∧ Took c 0x02 (s.reportWords i) (c.head i) t) ∧
     (1 ≤ count → count ≤ 65536 → body < 2 ^ 57 → ∃ t g x, exec i s = .next t ∧ c.gangIn t = some g ∧ g.sameRegs c.g ∧ SameOutside s t ∧
       g.frag? c.f.fid = some x ∧ pcAddr x.pc = body ∧ x.chead = x.pc ∧ x.mask = c.f.mask ∧ 
       x.loop = some ⟨body, n, count, 0, s.bodyAddrs c.k c.g.fetchFn (s.launchOf c.g) n body⟩) ∧
     (count = 0 → ∀ a, s.walkBody c.k c.g.fetchFn (s.launchOf c.g) n body = .ok a → a < 2 ^ 57 → ∃ t g x, exec i s = .next t ∧ c.gangIn t = some g ∧ g.sameRegs c.g ∧
       SameOutside s t ∧ g.frag? c.f.fid = some x ∧ pcAddr x.pc = a ∧ x.mask = c.f.mask ∧ x.loop = none)) ∧
   (∀ i s c, (∃ f, i = .exitShort f) ∨ (∃ f, i = .exit f) → Issues i s c →
     (c.f.mask &&& ~~~c.active ≠ 0 → ∃ t g x, exec i s = .next t ∧ c.gangIn t = some g ∧ g.sameRegs c.g ∧ SameOutside s t ∧
       g.frag? c.f.fid = some x ∧ x.mask = c.f.mask &&& ~~~c.active) ∧
     (c.f.mask &&& ~~~c.active = 0 → (∃ x ∈ c.g.frags, x.fid ≠ c.f.fid) → ∃ t g, exec i s = .next t ∧ c.gangIn t = some g ∧ g.sameRegs c.g ∧
       SameOutside s t ∧ g.frags = c.g.frags.filter fun x => x.fid ≠ c.f.fid) ∧
     (c.f.mask &&& ~~~c.active = 0 → (∀ x ∈ c.g.frags, x.fid = c.f.fid) → ∃ t, exec i s = .next t ∧ t.gang? c.k c.sl = none ∧
       t.gen c.k c.sl = (s.gen c.k c.sl + 1) % 256 ∧ t.mem = s.mem ∧ ∀ x y, s.group? c.g.group = some x → t.group? c.g.group = some y → c.g.gid ∉ y.live)) ∧
   (∀ i s c, (∃ f, i = .yieldShort f) ∨ (∃ f, i = .yield f) → Issues i s c → ∃ t g x, exec i s = .next t ∧ c.gangIn t = some g ∧ g.sameRegs c.g ∧
     SameOutside s t ∧ g.gwait = 0 ∧ g.yieldEnd = s.cycle + 16 ∧ g.frag? c.f.fid = some x ∧ x.skip = s.cycle + 1 ∧
     (c.f.loop = none → pcAddr c.f.pc + 4 * Instr.words i < 2 ^ 57 → pcAddr x.pc = pcAddr c.f.pc + 4 * Instr.words i ∧ x.chead = x.pc))) ∧
  (∀ i s c t g l j, isRegister i → Issues i s c → c.f.loop = some l → c.g.level = 0 → l.addrs[j]? = some (pcAddr c.f.pc) → (∀ m < j, l.addrs[m]? ≠ some (pcAddr c.f.pc)) →
     exec i s = .next t → c.gangIn t = some g → g.seq = c.g.seq + 1 →
     let next := pcAddr c.f.pc + 4 * Instr.words i
     next < 2 ^ 57 → l.body < 2 ^ 57 → l.body % 4 = 0 → l.body ∈ l.addrs →
     ∃ x, g.frag? c.f.fid = some x ∧
       (j + 1 < l.len → pcAddr x.pc = next ∧ ∃ m, x.loop = some m ∧ m.body = l.body ∧ m.len = l.len ∧ m.count = l.count ∧ m.k = l.k ∧ m.addrs[j + 1]? = some next) ∧
       (l.len ≤ j + 1 → l.k + 1 < l.count → pcAddr x.pc = l.body ∧ x.chead = x.pc ∧ x.loop = some { l with k := l.k + 1 }) ∧
       (l.len ≤ j + 1 → l.count ≤ l.k + 1 → pcAddr x.pc = next ∧ x.loop = if next ∈ l.addrs ∨ pcAddr x.chead ∈ l.addrs then some l else none))

namespace Sys2Proof.Machine

/-- R146: at its join; neither there nor at an RGANG; and free to be released at address `a`. -/
def atJoinAt (a : Nat) (x : Frag) : Bool := x.wait == .join && decide (pcAddr x.pc = a)
def atRgangAt (a : Nat) (x : Frag) : Bool := x.wait == .rgang && decide (pcAddr x.pc = a)
def Released (g : Gang) (a : Nat) : Prop :=
  ∀ x ∈ g.frags, x.wait ≠ .join → x.wait ≠ .rgang → x.jv = true → a < pcAddr x.join

/-- R15, R146, R147: the fragments that `sel` holds for have become one, in the place of their oldest: it holds their lanes,
and the others keep their order. -/
def MergedInto (g h : Gang) (sel : Frag → Bool) (old m : Frag) : Prop :=
  g.frags.find? sel = some old ∧
    ∃ f : Frag → Frag, m = f old ∧ h.frags = g.frags.flatMap (fun x => if x.fid = old.fid then [f x] else if sel x then [] else [x]) ∧
      ∀ lane < 32, m.mask.getLsbD lane = true ↔ ∃ x ∈ g.frags, sel x = true ∧ x.mask.getLsbD lane = true

/-- R146: the release at the join at address `a`. -/
def JoinMerged (g h : Gang) (a : Nat) : Prop :=
  ∃ old m, MergedInto g h (atJoinAt a) old m ∧ pcAddr m.pc = a ∧ m.chead = m.pc ∧ m.wait = .run ∧
    (m.jv = true ↔ ∃ x ∈ g.frags, x.wait = .join ∧ a < pcAddr x.pc) ∧
    (∀ x ∈ g.frags, x.wait = .join → a < pcAddr x.pc → (∀ y ∈ g.frags, y.wait = .join → a < pcAddr y.pc → pcAddr x.pc ≤ pcAddr y.pc) → m.join = x.pc) ∧
    h.sameRegs g

/-- R147: the release of the RGANG at address `a`, which stands in no LOOP body (R151): each slice of the merged fragment takes s0 to s27 of its lowest one. -/
def RgangMerged (g h : Gang) (a : Nat) : Prop :=
  ∃ old m, MergedInto g h (atRgangAt a) old m ∧ (a + 12 < 2 ^ 57 → old.inBody 0 = false → pcAddr m.pc = a + 12) ∧ m.chead = m.pc ∧ m.jv = old.jv ∧ m.join = old.join ∧
    h.v = g.v ∧ h.k = g.k ∧ h.p = g.p ∧ h.x = g.x ∧ h.b = g.b ∧
    ∀ r j low, j < 8 → low < 8 → (slicesOf m.mask).getLsbD low = true → (∀ i < low, (slicesOf m.mask).getLsbD i = false) →
      h.sReg r j = if r < 28 ∧ (slicesOf m.mask).getLsbD j = true then g.sReg r low else g.sReg r j

/-- R147: the releases at the addresses of a list, one after another. -/
def RgangsMerged : List Nat → Gang → Gang → Prop
  | [], g, h => h = g
  | a :: l, g, h => ∃ m, RgangMerged g m a ∧ RgangsMerged l m h

end Sys2Proof.Machine

/-- R146, R147, R148, R288, R290: fragments at their join merge at the lowest address that no running fragment's join holds
back; those at an RGANG merge, at each address where some wait, once none runs and no join release is due; after 4,096 cycles a wait ends anyway; a fragment
refused eight times becomes urgent; the YIELD window ends.
The model's own: The order in which RGANGs at several addresses merge, and the loop state that a merged fragment keeps, are the model's (log 72). -/
def Obligations.FragmentsMerge : Prop :=
  (∀ s k sl g a, s.gang? k sl = some g → g.merges = true → (∃ x ∈ g.frags, atJoinAt a x = true) → Released g a →
    (∀ x ∈ g.frags, x.wait = .join → Released g (pcAddr x.pc) → a ≤ pcAddr x.pc) →
    ∃ t h, exec (.joinRelease k sl) s = .next t ∧ t.gang? k sl = some h ∧ JoinMerged g h a ∧ SameOutside s t) ∧
  (∀ s k sl g x, s.gang? k sl = some g → g.merges = true → (∀ y ∈ g.frags, y.wait = .join → ¬ Released g (pcAddr y.pc)) →
    (∀ y ∈ g.frags, y.wait = .join ∨ y.wait = .rgang) → x ∈ g.frags → x.wait = .rgang →
    ∃ t h l, exec (.rgangRelease k sl) s = .next t ∧ t.gang? k sl = some h ∧ l.Nodup ∧
      (∀ a, a ∈ l ↔ ∃ y ∈ g.frags, y.wait = .rgang ∧ pcAddr y.pc = a) ∧ RgangsMerged l g h ∧ SameOutside s t) ∧
  (∀ s k sl fid g f, s.gang? k sl = some g → g.frag? fid = some f → g.merges = true → 4096 ≤ f.waitCyc →
    (f.wait = .join → ∃ t h, exec (.earlyRelease k sl fid) s = .next t ∧ t.gang? k sl = some h ∧ JoinMerged g h (pcAddr f.pc) ∧ SameOutside s t) ∧
    (f.wait = .rgang → ∃ t h, exec (.earlyRelease k sl fid) s = .next t ∧ t.gang? k sl = some h ∧ RgangMerged g h (pcAddr f.pc) ∧ SameOutside s t)) ∧
  (∀ s k sl fid g f, s.gang? k sl = some g → g.frag? fid = some f → 8 ≤ f.defer → f.urg = none →
    ∃ t h x, exec (.fragmentUrgent k sl fid) s = .next t ∧ t.gang? k sl = some h ∧ h.frag? fid = some x ∧ x = { f with urg := some s.cycle } ∧
      SameOutside s t) ∧
  (∀ s k sl g, s.gang? k sl = some g → g.yieldEnd < s.cycle →
    ∃ t, exec (.yieldWindowEnd k sl) s = .next t ∧ t.gang? k sl = some { g with yieldEnd := 0 } ∧ SameOutside s t)

namespace Sys2Proof.Machine

/-- R150, R199: where a fragment goes on after the BAR at which it waits. -/
def after (g : Gang) (x : Frag) : Nat := (x.follow g.level 3).1

end Sys2Proof.Machine

/-- R198, R199: a gang arrives at a barrier once every fragment that does not wait at its join waits at the same BAR and its
accesses are performed: it is counted; the arrival that makes up the count ends the phase, releases the waiting gangs, and
empties the barrier; operands that differ, between two fragments or from the barrier's own, raise 0x2C.
The model's own: Which fragment reports 0x2C is deduced (log 42). -/
def Obligations.GangsArriveAtBarriers : Prop :=
  (∀ s k sl g grp x y b e, s.gang? k sl = some g → s.group? g.group = some grp → g.stopped = false → g.halt = none → g.level < 2 →
    x ∈ g.frags → y ∈ g.frags → x.wait = .bar b → y.wait = .bar e → b ≠ e →
    ∃ t f z, exec (.barArrival k sl) s = .next t ∧ f ∈ g.frags ∧ f.wait = .bar z ∧ (∀ u ∈ g.frags, ∀ v, u.wait = .bar v → f.waitCyc ≤ u.waitCyc) ∧
      Took { st := s, k := k, sl := sl, g := g, f := f, active := 0 } 0x2C z.id (pcAddr f.pc) t) ∧
  (∀ s k sl g grp b, s.gang? k sl = some g → s.group? g.group = some grp → (∃ x ∈ g.frags, x.wait = .bar b) →
    (∀ x ∈ g.frags, x.wait = .bar b ∨ x.wait = .join) → g.stopped = false → g.halt = none → (g.level = 0 → g.olog = []) →
    g.priorTo g.level (s.gangReqs k sl) = [] → b.id < 16 →
    let n := if b.count = 0 then grp.live.length else b.count
    let bar := grp.bar b.id
    let fits := b.count ≤ grp.kern.gangs ∧ (bar.count = none ∨ bar.count = some b.count)
    (fits → bar.arrived.length + 1 < n → ∃ t h y, exec (.barArrival k sl) s = .next t ∧ t.gang? k sl = some h ∧ t.group? g.group = some y ∧
      (y.bar b.id).arrived = bar.arrived ++ [g.gid] ∧ (y.bar b.id).count = some b.count ∧
      (y.bar b.id).waiting = (if b.arv then bar.waiting else bar.waiting ++ [g.gid]) ∧ y.sep = grp.sep ∧ h.sameRegs g ∧ t.mem = s.mem ∧
      (b.arv = false → ∀ x ∈ h.frags, x.wait = .arrived b ∨ x.wait = .join) ∧
      (b.arv = true → ∀ x ∈ g.frags, x.wait = .bar b → after g x < 2 ^ 57 → after g x % 4 = 0 →
        ∃ y ∈ h.frags, y.fid = x.fid ∧ pcAddr y.pc = after g x ∧ y.mask = x.mask)) ∧
    (fits → n ≤ bar.arrived.length + 1 → grp.core = k → ∃ t h y, exec (.barArrival k sl) s = .next t ∧ t.gang? k sl = some h ∧
      t.group? g.group = some y ∧ y.bar b.id = ⟨[], none, []⟩ ∧ y.sep = (grp.sep + 1) % 2 ^ 32 ∧ h.sameRegs g ∧ t.mem = s.mem ∧
      (∀ x ∈ g.frags, x.wait = .bar b → after g x < 2 ^ 57 → after g x % 4 = 0 →
        ∃ y ∈ h.frags, y.fid = x.fid ∧ pcAddr y.pc = after g x ∧ y.mask = x.mask ∧ y.chead = y.pc) ∧
      (∀ sl' g', s.gang? k sl' = some g' → g'.group = g.group → g'.gid ∈ bar.waiting → sl' ≠ sl →
        ∃ h', t.gang? k sl' = some h' ∧ h'.acqf = true ∧ ∀ x ∈ h'.frags, ∀ e, x.wait ≠ .arrived e)) ∧
    (¬ fits → g.level < 2 → ∃ t f, exec (.barArrival k sl) s = .next t ∧ f ∈ g.frags ∧ f.wait = .bar b ∧
      Took { st := s, k := k, sl := sl, g := g, f := f, active := 0 } 0x2C b.id (pcAddr f.pc) t))

/-- R242 to R244, R252, R415, R418: the oldest deferred report (0x31 before it) and the oldest parked cause are taken at an
issue point with KIND 001 and 010, a step trap and a comparator match with KIND 000, each at the fragment's CHEAD or
address; a machine check is queued as a report. -/
def Obligations.ReportsAreTaken : Prop :=
  (∀ s k sl fid c v, At s k sl fid c → s.takesReport c.g c.f = true → c.g.canc = some v →
    ∃ t g, exec (.deferredReportTaken k sl fid) s = .next t ∧ TookAs c 1 0x31 v.toNat (pcAddr c.f.chead) t ∧ c.gangIn t = some g ∧
      g.canc = none ∧ g.defq = c.g.defq ∧ g.lost = false) ∧
  (∀ s k sl fid c r rest, At s k sl fid c → s.takesReport c.g c.f = true → c.g.canc = none → c.g.defq = r :: rest →
    ∃ t g, exec (.deferredReportTaken k sl fid) s = .next t ∧ TookAs c 1 r.cause r.value.toNat (pcAddr c.f.chead) t ∧ c.gangIn t = some g ∧
      g.defq = rest ∧ g.lost = false ∧ (c.g.lost = true → (if g.level = 1 then g.t1 else g.t2).status.getLsbD 12 = true)) ∧
  (∀ s k sl fid c pre e post, At s k sl fid c → s.takesParked k sl c.g c.f = true → c.g.olog = pre ++ e :: post → (∀ x ∈ pre, x.taken = true) →
    e.taken = false →
    ∃ t g, exec (.parkedCauseTaken k sl fid) s = .next t ∧ TookAs c 2 e.cause e.va (pcAddr c.f.chead) t ∧ c.gangIn t = some g ∧
      g.olog = pre ++ { e with taken := true } :: post) ∧
  (∀ s k sl fid c, At s k sl fid c → s.takesStep k c.g c.f = true →
    ∃ t g x, exec (.singleStep k sl fid) s = .next t ∧ Took c 0x0E (pcAddr c.f.pc) (pcAddr c.f.pc) t ∧ c.gangIn t = some g ∧ g.frag? fid = some x ∧
      x.stepDue = false) ∧
  (∀ s k sl fid c, At s k sl fid c → s.breaks k c.g c.f = true →
    ∃ t, exec (.hardwareBreakpoint k sl fid) s = .next t ∧ Took c 0x0D (pcAddr c.f.pc + 2 ^ 63) (pcAddr c.f.chead) t) ∧
  (∀ s k sl g, s.gang? k sl = some g → ∃ t h, exec (.machineCheck k sl) s = .next t ∧ t.gang? k sl = some h ∧
    (g.defq.length < 8 → h = { g with defq := g.defq ++ [⟨0x3F, 1⟩] }) ∧ (8 ≤ g.defq.length → h = { g with lost := true }))

/-- R253 to R258, R292: a halt is requested, taken, and saved at DTVEC with KIND 011; a saved gang is restored at DTVEC with
KIND 100, or its record rejected; a group is saved and restored with its scratchpad.
The model's own: The data of saved gangs and groups, and DEPC of a restore, are the model's (logs 21, 47). -/
def Obligations.GangsAreHaltedAndRestored : Prop :=
  (∀ s k sl cause frame g, s.gang? k sl = some g → k < 1024 → cause = 0x35 ∨ cause = 0x36 ∨ cause = 0x37 → g.halt = none → g.stopped = false →
    ∃ t h, exec (.haltRequest k sl cause frame) s = .next t ∧ t.gang? k sl = some h ∧
      h = { g with halt := some ⟨cause, ((s.func g.fn).ctxbase.toNat + 131072 * frame) % 2 ^ 64, false⟩ } ∧
      (∀ gk x, gk ∈ s.setOf g.group → s.group? gk = some x → t.group? gk = some { x with halting := true, debug := x.debug || cause == 0x37 }) ∧
      ∀ j x y, (s.othersOf g.group k sl)[j]? = some x → (∀ i < j, (s.othersOf g.group k sl)[i]? ≠ some x) → s.gang? x.1 x.2 = some y →
        y.halt = none → y.stopped = false →
        t.gang? x.1 x.2 = some { y with halt := some ⟨cause, ((s.func y.fn).ctxbase.toNat + 131072 * (frame + 1 + j)) % 2 ^ 64, false⟩ }) ∧
  (∀ s k sl fid g f r, s.gang? k sl = some g → g.frag? fid = some f → g.halt = some r → r.taken = false → g.level < 2 → g.stopped = false →
    ∃ t h, exec (.haltTaken k sl fid) s = .next t ∧ t.gang? k sl = some h ∧ h.halt = some { r with taken := true } ∧ h.sameRegs g ∧ h.level = g.level ∧
      h.frags.map (·.mask) = g.frags.map (·.mask) ∧ h.frags.map (·.chead) = g.frags.map (·.chead) ∧
      (t.core k).mxOwner ≠ some sl ∧ ((s.core k).mxOwner = some sl → h.reown = true) ∧ t.mem = s.mem ∧
      (∀ id c, (id, c) ∈ t.copies → c.core = k → c.slot = sl → c.gen = s.gen k sl → c.halted = true) ∧
      (∀ j p, (j, p) ∈ (t.core k).pipes → p.slot = sl → p.depth = 0)) ∧
  (∀ s k sl g r, s.gang? k sl = some g → g.halt = some r → r.taken = true → g.level < 2 → s.quiesced k sl = true →
    ∃ t h x, exec (.haltSaveEntry k sl) s = .next t ∧ t.gang? k sl = some h ∧ h.level = 2 ∧ h.frags = [x] ∧ x.mask = g.mask ∧
      pcAddr x.pc = vecEntry s.dtvec ∧ x.chead = x.pc ∧ h.t2.cause = r.cause.setWidth 32 ∧ h.t2.epc = 0 ∧ h.t2.tval = BitVec.ofNat 64 r.frame ∧
      bits h.t2.status.toNat 10 8 = 3 ∧ h.sameRegs g ∧ h.defq = [] ∧ h.canc = none) ∧
  (∀ s k sl gk gid frame grp g r, s.group? gk = some grp → s.gang? (1024 + gk) gid = some g → k < 1024 → grp.core = k →
    (s.freeSlots k).contains sl = true → g.stopped = false → g.halt = some r →
    (s.recordBad k g.fn frame = false → ∃ t h x, exec (.restoreEntry k sl ⟨gk, gid, frame⟩) s = .next t ∧ t.gang? k sl = some h ∧
      t.gang? (1024 + gk) gid = none ∧ h.level = 2 ∧ h.frags = [x] ∧ x.mask = g.mask ∧ pcAddr x.pc = vecEntry s.dtvec ∧
      h.t2.cause = r.cause.setWidth 32 ∧ h.t2.tval = BitVec.ofNat 64 frame ∧ bits h.t2.status.toNat 10 8 = 4) ∧
    (s.recordBad k g.fn frame = true → ∃ t h, exec (.restoreEntry k sl ⟨gk, gid, frame⟩) s = .next t ∧ t.gang? (1024 + gk) gid = some h ∧
      h.stopped = true ∧ t.stopCount = (s.stopCount + 1) % 2 ^ 32 ∧ (t.func 0).evt.getLsbD 4 = true ∧ ∀ sl', t.gang? k sl' = s.gang? k sl')) ∧
  (∀ s gk frame, s.setOf gk ≠ [] → (s.setOf gk).all s.groupReady = true → ∃ t, exec (.groupSave gk frame) s = .next t ∧
    ∀ x ∈ s.setOf gk, ∀ g, s.group? x = some g → t.group? x = none ∧ ∃ y, Cells.find? t.saved x = some y ∧ y.frame = frame ∧
      y.group.scratch = (if g.started then g.scratch else []) ∧ y.group.kern = g.kern ∧ y.group.live = g.live ∧
      (g.kern.galleys ≠ [] → g.ended = false → y.tile = (s.core g.core).tile ∧ y.tileWritten = (s.core g.core).tileWritten)) ∧
  (∀ s gk k, s.restorable gk k = true → ∃ t p y, exec (.groupRestore gk k) s = .next t ∧ p ∈ s.savedSet gk ∧ p.1 = gk ∧
    Cells.find? t.saved gk = none ∧ t.group? gk = some y ∧
    (p.2.group.started = true → y.fills = p.2.group.fills ∧ y.sfaults = p.2.group.sfaults) ∧
    y = { p.2.group with
      fills := y.fills, sfaults := y.sfaults, wid := [], core := k - k % p.2.group.setsz + p.2.group.groupId % p.2.group.setsz, halting := false, debug := false, slots := [] })

/-! ## Memory instructions and the fabric (spec/08, spec/14) -/

namespace Sys2Proof.Machine

/-- R165: a datum as a load writes it: bytes and halves are extended to 32 bits. -/
def loadedAs (fmt raw : Nat) : Nat :=
  if fmt = 6 then (sext raw 8 % 2 ^ 32).toNat else if fmt = 4 then (sext raw 16 % 2 ^ 32).toNat else raw

/-- R170: every ACTIVE lane reaches the gang's own group's scratchpad, inside SCRATCH and aligned; nothing watches. -/
def LocalLanes (c : Ctx) (k : MemKind) (f : Long) (grp : Group) : Prop :=
  c.st.group? c.g.group = some grp ∧
    (∀ lane ∈ c.lanes, scratchAddr c k f lane < 2 ^ 20 ∧ scratchAddr c k f lane + accSize k f ≤ grp.kern.scratch ∧
      scratchAddr c k f lane % accSize k f = 0) ∧
    c.g.racew = false ∧ (c.st.core c.k).watchA.getLsbD 63 = false

/-- R161, R177: the scratchpad after the atomic operations of the lanes in the order given. -/
def atomsDone (c : Ctx) (f : Long) (m : Memory) (lanes : List Nat) : Memory :=
  lanes.foldl (fun m lane =>
    let a := scratchAddr c .atomic f lane
    let n := accSize .atomic f
    Memory.write m a n (atomicValue (subN f) f.fmt (immF f 15 0) (Memory.read m a n) (c.data f f.b (fmtWidth f.fmt) lane)
      (c.data f f.c (fmtWidth f.fmt) lane))) m

/-- The accesses of the rest of the machine are unchanged: other groups, and device memory. -/
def OthersMemoryKept (c : Ctx) (s t : State) : Prop :=
  t.mem = s.mem ∧ t.frames = s.frames ∧ (∀ gk, gk ≠ c.g.group → t.group? gk = s.group? gk)

end Sys2Proof.Machine

/-- R172 to R174: the new value of a memory word under each operation of ATOM, RED and ATOMS.
R161, R170, R171, R177: scratchpad accesses within the group: a load reads, of several lanes that store to one byte the
highest-numbered wins, and atomics apply in increasing lane order and return what they found.
The model's own: That local accesses are performed when they issue is the model's choice (log 15). -/
def Obligations.AtomicsAndScratchpads : Prop :=
  ((∀ (fmt : BitVec 4) (g : IntFmt) anchor old data expected, fmtOf fmt = .int g → fmt.toNat ≤ 3 → old < 2 ^ g.w →
     let new := fun op => atomicValue op fmt anchor old data expected
     new 0 = (old + data) % 2 ^ g.w ∧
     (new 1 = old ∨ new 1 = data % 2 ^ g.w) ∧ g.val (new 1) = min (g.val old) (g.val data) ∧
     (new 2 = old ∨ new 2 = data % 2 ^ g.w) ∧ g.val (new 2) = max (g.val old) (g.val data) ∧
     (∀ k < g.w, (new 3).testBit k = (old.testBit k && data.testBit k) ∧ (new 4).testBit k = (old.testBit k || data.testBit k) ∧
       (new 5).testBit k = (old.testBit k != data.testBit k)) ∧
     new 6 = data % 2 ^ g.w ∧ new 7 = if old = expected % 2 ^ g.w then data % 2 ^ g.w else old) ∧
   (∀ (fmt : BitVec 4) (g : FpFmt) anchor old data expected, fmtOf fmt = .fp g → fmt = 8 ∨ fmt = 9 ∨ fmt = 11 →
     let n := if fmt = 11 then 2 else 1
     let new := fun op => atomicValue op fmt anchor old data expected
     ∀ j < n, let a := elem old g.w j
       let b := elem data g.w j
       elem (new 0) g.w j = (g.encode ⟨1, 0, false, false⟩ (Val.sum 1 [g.decode a, g.decode b]).1).1 ∧
       Selects false false g false a b (elem (new 1) g.w j) ∧ Selects true false g false a b (elem (new 2) g.w j)) ∧
   (∀ (fmt : BitVec 4) anchor old data expected, atomicValue 8 fmt anchor old data expected =
     (wadd (anchorVal anchor) (BitVec.ofNat 128 old) (if fmt = 14 then .word (BitVec.ofNat 128 data) else .val ((fmtOf fmt).exact data))).1.toNat)) ∧
  ((∀ f s c grp, Issues (.lds f) s c → LocalLanes c .load f grp →
     ∃ t g, exec (.lds f) s = .next t ∧ c.gangIn t = some g ∧ OthersMemoryKept c s t ∧ t.group? c.g.group = some grp ∧
       DestHolds c f (fmtWidth f.fmt) (fun lane => loadedAs (fmtN f) (Memory.read grp.scratch (scratchAddr c .load f lane) (accSize .load f))) g) ∧
   (∀ f s c grp, Issues (.sts f) s c → LocalLanes c .store f grp →
     ∃ t g y, exec (.sts f) s = .next t ∧ c.gangIn t = some g ∧ OthersMemoryKept c s t ∧ g.sameRegs c.g ∧ t.group? c.g.group = some y ∧
       y = { grp with scratch := y.scratch, wid := y.wid } ∧
       ∀ a, Memory.byte y.scratch a =
         match (c.lanes.filter fun lane => decide (scratchAddr c .store f lane ≤ a ∧ a < scratchAddr c .store f lane + accSize .store f)).getLast? with
         | some lane => BitVec.ofNat 8 (c.data f f.b (fmtWidth f.fmt) lane / 256 ^ (a - scratchAddr c .store f lane))
         | none => Memory.byte grp.scratch a) ∧
   (∀ f s c grp, Issues (.atoms f) s c → LocalLanes c .atomic f grp →
     ∃ t g y, exec (.atoms f) s = .next t ∧ c.gangIn t = some g ∧ OthersMemoryKept c s t ∧ t.group? c.g.group = some y ∧
       y = { grp with scratch := y.scratch, wid := y.wid } ∧ (∀ a, Memory.byte y.scratch a = Memory.byte (atomsDone c f grp.scratch c.lanes) a) ∧
       DestHolds c f (if subN f = 8 then 128 else fmtWidth f.fmt) (fun lane =>
         Memory.read (atomsDone c f grp.scratch (c.lanes.filter (· < lane))) (scratchAddr c .atomic f lane) (accSize .atomic f)) g))

namespace Sys2Proof.Machine

/-- R159: the byte offset and the virtual address of a lane, through the record that BUF names. -/
def recOf (c : Ctx) (f : Long) : BufRec := bufRec (c.g.bReg (bufNo f))
def offsetOf (c : Ctx) (k : MemKind) (f : Long) (lane : Nat) : Int := ((accIndex c k f lane * (recOf c f).stride : Nat) : Int) + accOfs k f
def addressOf (c : Ctx) (k : MemKind) (f : Long) (lane : Nat) : Nat :=
  swizzle (recOf c f).swz ((recOf c f).base + (offsetOf c k f lane).toNat + accExtra k f)
def inBounds (c : Ctx) (k : MemKind) (f : Long) (lane : Nat) : Bool :=
  decide (0 ≤ offsetOf c k f lane ∧ offsetOf c k f lane + accExtra k f + accSize k f ≤ (recOf c f).extent)
/-- The lanes that access memory; only the lowest one does in LDBR. -/
def takesPart (c : Ctx) (k : MemKind) (lane : Nat) : Bool := c.active.getLsbD lane && (k != .ldbr || lane == lowest c.active)

end Sys2Proof.Machine

namespace Sys2Proof.Machine

/-- R159, R160: the checks pass, and no watchpoint is armed. -/
def Passes (c : Ctx) (k : MemKind) (f : Long) : Prop :=
  (recOf c f).base + (recOf c f).extent ≤ 2 ^ 57 ∧ (recOf c f).swz ≤ 3 ∧ ((recOf c f).ronly = true → accWrite k f = false) ∧
    (∀ lane < 32, takesPart c k lane = true → inBounds c k f lane = true → addressOf c k f lane % accSize k f = 0) ∧
    (modeOobz c.g.mode = true ∨ ∀ lane < 32, takesPart c k lane = true → inBounds c k f lane = true) ∧
    (c.st.core c.k).watchA.getLsbD 63 = false

/-- The lanes that make an access, and the line that a lane's access lies in. -/
def accesses (c : Ctx) (k : MemKind) (f : Long) (lane : Nat) : Prop := lane < 32 ∧ takesPart c k lane = true ∧ inBounds c k f lane = true
def lineOf (c : Ctx) (k : MemKind) (f : Long) (lane : Nat) : Nat := addressOf c k f lane / 128 * 128

/-- R163, R299: a lane's part of a request: its address, and its data as they were at issue. -/
def holdsLane (c : Ctx) (k : MemKind) (f : Long) (r : Req) (lane : Nat) : Prop :=
  ∃ a ∈ r.lanes, a.lane = lane ∧ a.addr = addressOf c k f lane ∧ a.dst = c.dstId f.d lane ∧
    a.data = c.data f f.b (dataWidth k f) lane ∧ a.data2 = c.data f f.c (dataWidth k f) lane

end Sys2Proof.Machine

/-- R33, R159, R160, R162, R166, R299, R305: a global memory instruction whose lines all translate to device memory sends them: every
accessing lane stands in a request of its own gang, to its line's place, that is on its way, and it counts on its path (where what
can leave the counters has left them); a lane that
the bounds drop under OOBZ has zero in its destination; memory is as it was.
The model's own: The agenda of events is the model's (log 9). -/
def Obligations.GlobalAccessesAreSent : Prop :=
  ∀ i k s c, memKind i = some (true, k) → k ≠ .pref → Issues i s c → Passes c k (Instr.long i) →
    let f := Instr.long i
    (∀ lane, accesses c k f lane → ∃ pa, s.translate (.core c.k) c.g.fn (lineOf c k f lane) (accRights k f) = .ok (.dev pa, none)) →
    ∃ t g, exec i s = .next t ∧ c.gangIn t = some g ∧ t.mem = s.mem ∧ t.groups = s.groups ∧ g.mode = c.g.mode ∧
      (∀ lane, accesses c k f lane → ∃ id r pa n, s.nextId ≤ id ∧ id < t.nextId ∧ Cells.find? t.reqs id = some r ∧
        s.translate (.core c.k) c.g.fn (lineOf c k f lane) (accRights k f) = .ok (.dev pa, none) ∧ r.tgt = .dev pa ∧
        r.line = lineOf c k f lane ∧ holdsLane c k f r lane ∧ s.cycle ≤ n ∧ (n, r.completion id) ∈ t.agenda) ∧
      (∀ id, s.nextId ≤ id → id < t.nextId → ∃ r, Cells.find? t.reqs id = some r ∧ r.instr = i ∧ r.core = c.k ∧ r.slot = c.sl ∧
        r.gen = s.gen c.k c.sl ∧ r.fn = c.g.fn ∧ r.seq = c.g.seq ∧ r.ord = ordOf f ∧ r.scope = scopeOf f ∧ r.lanes ≠ [] ∧
        ∀ a ∈ r.lanes, accesses c k f a.lane ∧ r.line = lineOf c k f a.lane) ∧
      (∀ id < s.nextId, Cells.find? t.reqs id = Cells.find? s.reqs id) ∧
      (retire [] c.g.fly = c.g.fly → (∃ lane, accesses c k f lane) → g.inflight k.path = c.g.inflight k.path + 1) ∧
      (isV f.d = true → ∀ lane < 32, takesPart c k lane = true → inBounds c k f lane = false → ∀ j < dstWidth k f / 32, g.vReg (f.d.toNat + j) lane = 0)

/-- R159, R160: the checks of a global memory instruction, in their order, each with the value it reports.
R162, R163, R240: lines that do not translate park at level 0, with the cause of the lowest one, as one entry of the operand log; above level 0 that cause is taken, and nothing is performed. -/
def Obligations.GlobalChecksAndParking : Prop :=
  (∀ i k s c, memKind i = some (true, k) → k ≠ .pref → Issues i s c → c.active ≠ 0 → c.g.level < 2 →
     let f := Instr.long i
     let b := recOf c f
     let badRec := 2 ^ 57 < b.base + b.extent ∨ 3 < b.swz
     let badRight := b.ronly = true ∧ accWrite k f = true
     let out := fun lane => takesPart c k lane && !inBounds c k f lane
     let mis := fun lane => takesPart c k lane && inBounds c k f lane && decide (addressOf c k f lane % accSize k f ≠ 0)
     (badRec → ∃ t, exec i s = .next t ∧ Took c 0x11 (bufNo f) (c.head i) t) ∧
     (¬ badRec → badRight → ∃ t, exec i s = .next t ∧ Took c 0x14 (bufNo f) (c.head i) t) ∧
     (¬ badRec → ¬ badRight → modeOobz c.g.mode = false → (∃ lane < 32, out lane = true) →
       ∃ t, exec i s = .next t ∧ Took c 0x10 (maskOf out).toNat (c.head i) t) ∧
     (¬ badRec → ¬ badRight → (modeOobz c.g.mode = true ∨ ∀ lane < 32, out lane = false) → (∃ lane < 32, mis lane = true) →
       ∃ t, exec i s = .next t ∧ Took c 0x12 (maskOf mis).toNat (c.head i) t)) ∧
  (∀ i k s c cause low first, memKind i = some (true, k) → k ≠ .pref → Issues i s c → Passes c k (Instr.long i) →
     let f := Instr.long i
     (∀ lane, accesses c k f lane → (∃ pa, s.translate (.core c.k) c.g.fn (lineOf c k f lane) (accRights k f) = .ok (.dev pa, none)) ∨
       ∃ e, s.translate (.core c.k) c.g.fn (lineOf c k f lane) (accRights k f) = .error e) →
     accesses c k f first → lineOf c k f first = low → s.translate (.core c.k) c.g.fn low (accRights k f) = .error cause →
     (∀ lane e, accesses c k f lane → s.translate (.core c.k) c.g.fn (lineOf c k f lane) (accRights k f) = .error e →
       low ≤ lineOf c k f lane) →
     (c.g.level = 0 → ∃ t g e, exec i s = .next t ∧ c.gangIn t = some g ∧ t.mem = s.mem ∧ g.olog = c.g.olog ++ [e] ∧ e.seq = c.g.seq ∧ e.cause = cause ∧
       e.va = low ∧ e.taken = false ∧
       ∀ lane, accesses c k f lane → ((∃ r ∈ e.lines, holdsLane c k f r lane) ↔
         ∃ x, s.translate (.core c.k) c.g.fn (lineOf c k f lane) (accRights k f) = .error x)) ∧
     (c.g.level = 1 → ∃ t, exec i s = .next t ∧ Took c cause low (c.head i) t ∧ t.reqs = s.reqs))

/-- R168, R169, R180: FENCE takes its place in the gang's order, LDBR from registers replaces its record or reports reserved
bits, PREF changes no value: it asks only for lines of this device's memory. -/
def Obligations.FencesRecordsAndPrefetches : Prop :=
  (∀ f s c, Issues (.fence f) s c → ∃ t g, exec (.fence f) s = .next t ∧ c.gangIn t = some g ∧ g.sameRegs c.g ∧ SameOutside s t ∧
    ⟨c.g.seq, ordOf f, scopeOf f⟩ ∈ g.fences ∧ g.acqf = (c.g.acqf || decide (ordOf f = 2 ∨ 4 ≤ ordOf f))) ∧
  (∀ f s c, Issues (.ldbr f) s c → c.active ≠ 0 →
    let w := c.src f.lit f.a 128 (lowest c.active)
    let bad := w / 2 ^ 124 ≠ 0 ∨ w.testBit 63 = true
    (¬ bad → ∃ t g, exec (.ldbr f) s = .next t ∧ c.gangIn t = some g ∧ SameOutside s t ∧
      (∀ n, g.bReg n = if n = subF f 3 0 then BitVec.ofNat 128 w else c.g.bReg n) ∧ g.v = c.g.v ∧ g.s = c.g.s ∧ g.k = c.g.k ∧ g.p = c.g.p ∧ g.x = c.g.x) ∧
    (bad → c.g.level < 2 → ∃ t, exec (.ldbr f) s = .next t ∧ Took c 0x11 (subF f 3 0) (c.head (.ldbr f)) t)) ∧
  (∀ f s c, Issues (.pref f) s c → ∃ t g, exec (.pref f) s = .next t ∧ c.gangIn t = some g ∧ g.sameRegs c.g ∧ g.mode = c.g.mode ∧ g.olog = c.g.olog ∧
    g.fly = c.g.fly ∧ t.mem = s.mem ∧ t.frames = s.frames ∧ t.groups = s.groups ∧ OthersKept c s t ∧
    (∀ id < s.nextId, Cells.find? t.reqs id = Cells.find? s.reqs id) ∧
    ∀ id, s.nextId ≤ id → id < t.nextId → ∃ r pa, Cells.find? t.reqs id = some r ∧ r.instr = .pref f ∧ r.lanes = [] ∧ r.tgt = .dev pa)

/-- R155, R162, R166: at issue no memory instruction changes a byte of device memory, whichever way it goes; only STS and ATOMS
change a scratchpad; and of its gang's registers only its destination changes. -/
def Obligations.MemoryInstructionFrame : Prop :=
  ∀ i s t c, 0x40 ≤ opcN i → opcN i ≤ 0x4B → exec i s = .next t → s.ctx (Instr.long i) = some c →
    let f := Instr.long i
    let w := match memKind i with | some (_, k) => dstWidth k f | none => 0
    t.mem = s.mem ∧ t.frames = s.frames ∧ OthersKept c s t ∧ (∀ k, t.gen k = s.gen k) ∧ t.pod = s.pod ∧ t.dtvec = s.dtvec ∧ t.copies = s.copies ∧
    ((∀ f, i ≠ .sts f) → (∀ f, i ≠ .atoms f) → t.groups = s.groups) ∧
    ∃ g, c.gangIn t = some g ∧ g.mode = c.g.mode ∧ g.p = c.g.p ∧ g.x = c.g.x ∧ ((∀ f, i ≠ .ldbr f) → (∀ f, i ≠ .ldbrM f) → g.b = c.g.b) ∧
      (∀ r lane, lane < 32 → ¬ CoversV c f w r lane → g.vReg r lane = c.g.vReg r lane) ∧
      (∀ r lane, lane < 32 → ¬ CoversK c f w r lane → g.kReg r lane = c.g.kReg r lane) ∧
      (∀ r slice, slice < 8 → ¬ CoversS c f w r slice → g.sReg r slice = c.g.sReg r slice) ∧
      (g.level = c.g.level → g.t1 = c.g.t1 ∧ g.t2 = c.g.t2)

namespace Sys2Proof.Machine

/-- R255, R317: the request under an identity may be performed now, and the gang that made it still holds its slot at its own
level. -/
def MayEnd (s : State) (id : Nat) (r : Req) (g : Gang) : Prop :=
  id < wireBase ∧ Cells.find? s.reqs id = some r ∧ r.own = .gang ∧ s.mustWait r = false ∧ r.sent.isSome = true ∧ r.mute = false ∧ s.gen r.core r.slot = r.gen ∧ s.gang? r.core r.slot = some g ∧ g.away = false

/-- R313: where the bytes of a lane lie at the home of its line. -/
def homeOf (pa : Nat) (a : LaneAcc) : Nat := pa + a.addr % 128

/-- R25, R161: the last part of a request that a lane has. -/
def lastOf (r : Req) (a : LaneAcc) : Prop := ∃ pre post, r.lanes = pre ++ a :: post ∧ ∀ b ∈ post, b.lane ≠ a.lane

/-- R22, R25, R165: a lane's value of w bits stands in its destination. -/
def LaneHolds (h : Gang) (r : Req) (w : Nat) (a : LaneAcc) (v : Nat) : Prop :=
  let d := (Instr.long r.instr).d
  ∀ j < w / 32,
    (isV d = true → h.vReg (d.toNat + j) a.lane = BitVec.ofNat 32 (v / 2 ^ (32 * j))) ∧
    (isIx d = true → h.vReg (a.dst + j) a.lane = BitVec.ofNat 32 (v / 2 ^ (32 * j))) ∧
    (isK d = true → h.kReg (d.toNat - 0xB0 + j) a.lane = BitVec.ofNat 32 (v / 2 ^ (32 * j))) ∧
    (isS d = true → a.lane ∈ sliceLeaders r.active → h.sReg (d.toNat - 0xC0 + j) (a.lane / 4) = BitVec.ofNat 32 (v / 2 ^ (32 * j)))

/-- R153: the lanes of a request that a value returns to: those that were ACTIVE and have not exited. -/
def returnsTo (g : Gang) (r : Req) (a : LaneAcc) : Prop :=
  a.lane < 32 ∧ r.active.getLsbD a.lane = true ∧ g.mask.getLsbD a.lane = true ∧ lastOf r a

/-- What the end of a request leaves alone in its gang. -/
def KeptByReply (g h : Gang) (r : Req) : Prop :=
  h.mode = g.mode ∧ h.p = g.p ∧ h.x = g.x ∧ h.frags = g.frags ∧ h.level = g.level ∧ h.t1 = g.t1 ∧ h.t2 = g.t2 ∧
    ∀ n lane, lane < 32 → (r.active.getLsbD lane = false ∨ g.mask.getLsbD lane = false) → h.vReg n lane = g.vReg n lane ∧ h.kReg n lane = g.kReg n lane

/-- R172, R161: a word after the operations of parts of a request, in their order. -/
def wordAfter (f : Long) (old : Nat) (l : List LaneAcc) : Nat :=
  l.foldl (fun o a => atomicValue (subN f) f.fmt (immF f 15 0) o a.data a.data2) old

/-- R159, R299: the parts of a request lie in its line, aligned. -/
def InLine (r : Req) (n pa : Nat) : Prop := pa % 128 = 0 ∧ ∀ a ∈ r.lanes, a.addr % n = 0 ∧ a.addr % 128 + n ≤ 128

/-- R388: no proof context and no migration tracks the function's writes, and no proof store holds the line. -/
def Untracked (s : State) (fn : Nat) : Prop := (s.px fn).en = false

end Sys2Proof.Machine

/-- R161, R165, R166, R168, R176, R381: requests to the device's own memory are performed at their home in lane order, when their
event comes: a load brings every lane that has not exited its datum, a store gives each byte the value of the highest lane that
stores it, an atomic applies lane by lane and returns what it found, a record is replaced; the request is then gone. Under another
owner's key reads bring zero, nothing is stored, and the refusal is counted.
The model's own: That an access is performed and answered in one event, and what becomes of replies to exited lanes, are the model's (logs 33, 60). -/
def Obligations.RequestsArePerformed : Prop :=
  (∀ s id r g f pa p, MayEnd s id r g → r.instr = .ld f → decodeCause false r.instr = none → r.tgt = .dev pa → s.spoilt r.fn pa = false →
    ∃ t h, exec (.loadDataReturn id p) s = .next t ∧ t.gang? r.core r.slot = some h ∧ Cells.find? t.reqs id = none ∧ t.mem = s.mem ∧ KeptByReply g h r ∧
      (s.keyOk (s.keyOf r.fn) pa = true → ∀ a, returnsTo g r a →
        LaneHolds h r (fmtWidth f.fmt) a (loadedAs (fmtN f) (s.homeRead (s.keyOf r.fn) (homeOf pa a) (accSize .load f)))) ∧
      (s.keyOk (s.keyOf r.fn) pa = false → (∀ a, returnsTo g r a → LaneHolds h r (fmtWidth f.fmt) a 0) ∧
        (t.part (s.partOf r.fn)).kref = satUp (s.part (s.partOf r.fn)).kref)) ∧
  (∀ s id r g f k pa p, MayEnd s id r g → (r.instr = .st f ∧ k = .store) ∨ (r.instr = .cstr f ∧ k = .cstr) → decodeCause false r.instr = none →
    r.tgt = .dev pa → InLine r (accSize k f) pa → Untracked s r.fn →
    ∃ t h, exec (.storePerformed ⟨id, p⟩) s = .next t ∧ t.gang? r.core r.slot = some h ∧ Cells.find? t.reqs id = none ∧ h.sameRegs g ∧ KeptByReply g h r ∧
      (s.keyOk (s.keyOf r.fn) pa = true → ∀ key x, t.homeByte key x =
        if key = s.keyOf r.fn then
          match (r.lanes.filter fun a => decide (homeOf pa a ≤ x ∧ x < homeOf pa a + accSize k f)).getLast? with
          | some a => BitVec.ofNat 8 (a.data / 256 ^ (x - homeOf pa a))
          | none => s.homeByte key x
        else s.homeByte key x) ∧
      (s.keyOk (s.keyOf r.fn) pa = false → t.mem = s.mem ∧ (t.part (s.partOf r.fn)).kref = satUp (s.part (s.partOf r.fn)).kref)) ∧
  (∀ s id r g f e pa p, MayEnd s id r g → (r.instr = .red f ∧ e = .storePerformed ⟨id, p⟩) ∨ (r.instr = .atom f ∧ e = .atomicReply id p) →
    decodeCause false r.instr = none → r.tgt = .dev pa → s.spoilt r.fn pa = false → InLine r (accSize .atomic f) pa → Untracked s r.fn →
    s.keyOk (s.keyOf r.fn) pa = true →
    ∃ t h, exec e s = .next t ∧ t.gang? r.core r.slot = some h ∧ Cells.find? t.reqs id = none ∧ KeptByReply g h r ∧
      (∀ a ∈ r.lanes, t.homeRead (s.keyOf r.fn) (homeOf pa a) (accSize .atomic f) =
        wordAfter f (s.homeRead (s.keyOf r.fn) (homeOf pa a) (accSize .atomic f)) (r.lanes.filter fun b => decide (b.addr % 128 = a.addr % 128))) ∧
      (∀ key x, (∀ a ∈ r.lanes, x < homeOf pa a ∨ homeOf pa a + accSize .atomic f ≤ x) → t.homeByte key x = s.homeByte key x) ∧
      (r.instr = .atom f → ∀ pre a post, r.lanes = pre ++ a :: post → returnsTo g r a → (∀ b ∈ post, b.lane ≠ a.lane) → (∀ b ∈ pre, b.lane ≠ a.lane) →
        LaneHolds h r (if subN f = 8 then 128 else fmtWidth f.fmt) a
          (wordAfter f (s.homeRead (s.keyOf r.fn) (homeOf pa a) (accSize .atomic f)) (pre.filter fun b => decide (b.addr % 128 = a.addr % 128))))) ∧
  (∀ s id r g f pa a p, MayEnd s id r g → r.instr = .ldbrM f → r.tgt = .dev pa → r.lanes = [a] → s.spoilt r.fn pa = false →
    s.keyOk (s.keyOf r.fn) pa = true →
    let w := s.homeRead (s.keyOf r.fn) (homeOf pa a) 16
    ∃ t h, exec (.ldbrLoaded id p) s = .next t ∧ t.gang? r.core r.slot = some h ∧ Cells.find? t.reqs id = none ∧ t.mem = s.mem ∧ h.v = g.v ∧ h.s = g.s ∧
      (¬ (w / 2 ^ 124 ≠ 0 ∨ w.testBit 63 = true) → h.defq = g.defq ∧ ∀ n, h.bReg n = if n = subF f 3 0 then BitVec.ofNat 128 w else g.bReg n) ∧
      ((w / 2 ^ 124 ≠ 0 ∨ w.testBit 63 = true) → h.b = g.b ∧ (g.defq.length < 8 → h.defq = g.defq ++ [⟨0x11, BitVec.ofNat 64 (subF f 3 0)⟩])))

namespace Sys2Proof.Machine

/-- Accesses of two requests meet in a byte of device memory. -/
def SharesByte (x r : Req) : Prop :=
  ∃ pa qa a b y, x.tgt = .dev pa ∧ r.tgt = .dev qa ∧ a ∈ x.lanes ∧ b ∈ r.lanes ∧ homeOf pa a ≤ y ∧ y < homeOf pa a + x.size ∧ homeOf qa b ≤ y ∧
    y < homeOf qa b + r.size

/-- R317 rows 3 to 6: x, earlier in the gang's order, comes before r toward the parties in scope n. -/
def OrderedToward (x r : Req) (n : Nat) : Prop :=
  (r.wr = true ∧ 3 ≤ r.ord ∧ n = r.scope) ∨ (x.rd = true ∧ (x.ord = 2 ∨ 4 ≤ x.ord) ∧ n = x.scope) ∨
  (x.ord = 5 ∧ r.ord = 5 ∧ n = min x.scope r.scope) ∨
  ∃ f ∈ r.fences, x.seq < f.seq ∧ n = f.scope ∧
    (((f.ord = 3 ∨ f.ord = 4) ∧ r.wr = true) ∨ ((f.ord = 2 ∨ f.ord = 4) ∧ x.rd = true) ∨ f.ord = 5)

/-- R161: of one instruction, x is for a lower lane. R317 row 1: x comes before r in the gang's order and they share a byte.
R316, R317 rows 3 to 6: order that is owed to the whole pod, or to fewer where the oracle has no access go early. -/
def PerformedFirst (s : State) (x r : Req) : Prop :=
  (x.seq = r.seq ∧ (x.lanes.map (·.lane)).headD 0 < (r.lanes.map (·.lane)).headD 0 ∧ SharesByte x r) ∨
  (x.seq < r.seq ∧ (SharesByte x r ∨ ∃ n, OrderedToward x r n ∧ 0 < n ∧ (4 ≤ n ∨ s.goEarly = false)))

/-- A request of a gang at level 0, and another access of that gang, in flight or parked. -/
def OfOneGang (s : State) (id : Nat) (r : Req) (g : Gang) (x : Req) : Prop :=
  id < wireBase ∧ Cells.find? s.reqs id = some r ∧ r.own = .gang ∧ isAccess r.instr = true ∧ r.mute = false ∧ r.level = 0 ∧
    s.gen r.core r.slot = r.gen ∧ s.gang? r.core r.slot = some g ∧ (x ∈ s.gangReqs r.core r.slot ∨ x ∈ g.parkedReqs)

end Sys2Proof.Machine

/-- R161, R163, R316, R317: a request that another access of its gang comes before, in flight or parked, is not performed where it
has been sent on this device, nor sent where it leaves the device: its event is put off and nothing else changes. A request that
nothing earlier of its gang is outstanding for, and no other gang's early access bars, need not wait.
The model's own: When an access whose order is not owed to every party goes early is a choice of the oracle, and what the order then is, the model's (logs 10, 73); a request that waits is offered again each cycle (log 33). -/
def Obligations.AccessesKeepTheirOrder : Prop :=
  (∀ (s : State) (id : Nat) (r : Req) (g : Gang) (x : Req), OfOneGang s id r g x → PerformedFirst s x r →
    (r.sent.isSome = true ∧ r.tgt.away = false) ∨ (r.sent = none ∧ r.tgt.away = true) →
    exec (r.completion id) s = .next { s with agenda := s.agenda ++ [(s.cycle + 1, r.completion id)] }) ∧
  (∀ (s : State) (id : Nat) (r : Req) (g : Gang), Cells.find? s.reqs id = some r → s.gen r.core r.slot = r.gen → s.gang? r.core r.slot = some g →
    r.turn = 0 → s.early = [] →
    (∀ x, x ∈ s.gangReqs r.core r.slot ∨ x ∈ g.parkedReqs ∨ x ∈ g.packets →
      r.seq ≤ x.seq ∧ (x.seq = r.seq → (r.lanes.map (·.lane)).headD 0 ≤ (x.lanes.map (·.lane)).headD 0)) →
    s.mustWait r = false)

/-- R178, R179: near-memory operations: a compare and swap of 1 to 4 quads, a galley word's addition, and a chase, which stores
nothing, each return what they found.
The model's own: The alignment of 32-byte accesses is deduced (log 28); one event performs and answers (log 33). -/
def Obligations.NearMemoryOperations : Prop :=
  ∀ s id r g f pa a p, MayEnd s id r g → r.instr = .nmx f → decodeCause false r.instr = none → r.tgt = .dev pa → inBulk pa = false →
    s.spoilt r.fn pa = false → r.lanes = [a] → InLine r (accSize .nmx f) pa → Untracked s r.fn → s.keyOk (s.keyOf r.fn) pa = true →
    let key := s.keyOf r.fn
    let n := accSize .nmx f
    let old := s.homeRead key (homeOf pa a) n
    let m := 2 ^ (64 * (subF f 4 3 + 1))
    let swapped := if old % m = a.data2 % m then old - old % m + a.data % m else old
    let added := (wadd (anchorVal (immF f 15 0)) (BitVec.ofNat 128 old)
      (if f.fmt = 14 then .word (BitVec.ofNat 128 a.data) else .val ((fmtOf f.fmt).exact a.data))).1.toNat
    (subF f 2 0 ≠ 1 → ∃ t h, exec (.nmxReply id p) s = .next t ∧ t.gang? r.core r.slot = some h ∧ Cells.find? t.reqs id = none ∧ KeptByReply g h r ∧
      t.homeRead key (homeOf pa a) n = (if subF f 2 0 = 0 then swapped else if subF f 2 0 = 3 then added else old) ∧
      (∀ k x, x < homeOf pa a ∨ homeOf pa a + n ≤ x → t.homeByte k x = s.homeByte k x) ∧
      (returnsTo g r a → subF f 2 0 = 0 → LaneHolds h r 256 a old) ∧ (returnsTo g r a → subF f 2 0 = 3 → LaneHolds h r 128 a old) ∧
      (returnsTo g r a → subF f 2 0 = 2 → old = 2 ^ 64 - 1 → LaneHolds h r 128 a (a.off + 2 ^ 96))) ∧
    (subF f 2 0 = 1 → ∃ t h, exec (.nmxReply id p) s = .next t ∧ t.gang? r.core r.slot = some h ∧ Cells.find? t.reqs id = none ∧ KeptByReply g h r)

namespace Sys2Proof.Machine

/-- R162, R243: a gang has one deferred report more. -/
def Reported (g h : Gang) (cause : BitVec 6) (value : Nat) : Prop :=
  (g.defq.length < 8 → h.defq = g.defq ++ [⟨cause, BitVec.ofNat 64 value⟩]) ∧ (8 ≤ g.defq.length → h.defq = g.defq ∧ h.lost = true)

/-- An access of a gang that holds its slot on its core. -/
def OwnAccess (s : State) (id : Nat) (r : Req) (g : Gang) : Prop :=
  Cells.find? s.reqs id = some r ∧ r.own = .gang ∧ r.mute = false ∧ isMma r.instr = false ∧ s.gen r.core r.slot = r.gen ∧
    s.gang? r.core r.slot = some g ∧ g.away = false

/-- R307, R394: what arrives under n is taken now, for the request under an identity: n is its tag with its generation, and the
sender is not ahead of its epoch. -/
def Answers (s : State) (n : Nat) (p : Arrival) (id : Nat) : Prop :=
  wireBase ≤ n ∧ ∃ f, s.flight? n = some f ∧ f.id = id ∧ s.holdReply f p = none

end Sys2Proof.Machine

/-- R161, R170, R171, R226: a remote scratchpad access is performed in the group it reaches, and a line of an L2-direct operand is
kept with its instruction.
R162, R163, R304 to R307, R349, R367, R402, R407: a request to a peer ends in a refusal, which parks the line once the operand log
has room or reports it, in a timeout or an unreachable answer, which report it; a WAIT restarts its timer, a moved answer sends it
again to the new module; what arrives under a tag that is not in use is counted and dropped.
The model's own: One event performs and answers (log 33); an operand log may pass four entries (log 46). -/
def Obligations.RemoteRequestsAndFabricFailures : Prop :=
  ((∀ s id r g f gk grp, MayEnd s id r g → r.instr = .sts f → r.tgt = .scratch gk → s.group? gk = some grp →
     ∃ t h y, exec (.remoteScratchComplete id) s = .next t ∧ t.gang? r.core r.slot = some h ∧ h.sameRegs g ∧ Cells.find? t.reqs id = none ∧ t.mem = s.mem ∧
       t.group? gk = some y ∧ y = { grp with scratch := y.scratch, wid := y.wid } ∧ (∀ k, k ≠ gk → t.group? k = s.group? k) ∧
       ∀ x, Memory.byte y.scratch x =
         match (r.lanes.filter fun a => decide (a.addr ≤ x ∧ x < a.addr + accSize .store f)).getLast? with
         | some a => BitVec.ofNat 8 (a.data / 256 ^ (x - a.addr))
         | none => Memory.byte grp.scratch x) ∧
   (∀ s id r g f gk grp, MayEnd s id r g → r.instr = .lds f → decodeCause false r.instr = none → r.tgt = .scratch gk → s.group? gk = some grp →
     ∃ t h, exec (.remoteScratchComplete id) s = .next t ∧ t.gang? r.core r.slot = some h ∧ Cells.find? t.reqs id = none ∧ t.mem = s.mem ∧
       (∀ k, t.group? k = s.group? k) ∧ KeptByReply g h r ∧
       ∀ a, returnsTo g r a → LaneHolds h r (fmtWidth f.fmt) a (loadedAs (fmtN f) (Memory.read grp.scratch a.addr (accSize .load f)))) ∧
   (∀ s id line r pa p, id < wireBase → Cells.find? s.reqs id = some r → s.mustWait r = false → r.sent.isSome = true → r.mute = false →
     r.tgt = .dev pa → s.spoilt r.fn pa = false →
     ∃ t, exec (.l2DirectOperandReply id line p) s = .next t ∧ Cells.find? t.reqs id = none ∧ t.mem = s.mem ∧
       (t.core r.core).mxOps = (s.core r.core).mxOps.map fun m =>
         if m.slot = r.slot ∧ m.gen = r.gen ∧ m.seq = r.seq then
           { m with lines := m.lines.filter (fun p => decide (p.1 ≠ r.line)), l2 := Memory.writeBytes m.l2 r.line (s.homeBytes (s.keyOf r.fn) pa 128) }
         else m)) ∧
  ((∀ s n p id r g cause ia, Answers s n p id → OwnAccess s id r g → r.level = 0 → cause = 0x15 ∨ cause = 0x16 → (∀ e ∈ g.olog, e.seq ≠ r.seq) →
     (g.olog.length < 4 → ∃ t h, exec (.peerRefusal ⟨n, p⟩ cause ia) s = .next t ∧ t.gang? r.core r.slot = some h ∧ h.sameRegs g ∧
       Cells.find? t.reqs id = none ∧ h.olog = g.olog ++ [⟨r.seq, [{ r with sent := none, entry := false }], none, cause, r.line, false, 0⟩]) ∧
     (4 ≤ g.olog.length → ∃ t k, exec (.peerRefusal ⟨n, p⟩ cause ia) s = .next t ∧ (k, .peerRefusal ⟨n, p⟩ cause ia) ∈ t.agenda ∧
       t = { s with reqs := t.reqs, agenda := t.agenda } ∧ Cells.find? t.reqs id = some { r with sent := some s.cycle })) ∧
   (∀ s n p id r g cause ia, Answers s n p id → OwnAccess s id r g → (0 < r.level ∨ (cause ≠ 0x15 ∧ cause ≠ 0x16)) → cause ≠ 0x31 →
     ∃ t h, exec (.peerRefusal ⟨n, p⟩ cause ia) s = .next t ∧ t.gang? r.core r.slot = some h ∧ h.sameRegs g ∧ Cells.find? t.reqs id = none ∧
       Reported g h cause r.line) ∧
   (∀ s id r g, OwnAccess s id r g → s.inTransit r.fn = false → (∃ at0, r.sent = some at0 ∧ at0 + s.timeoutCycles r.fn ≤ s.cycle) →
     ∃ t h, exec (.fabricTimeout id) s = .next t ∧ t.gang? r.core r.slot = some h ∧ h.sameRegs g ∧ Cells.find? t.reqs id = none ∧ Reported g h 0x1C r.line) ∧
   (∀ s n id r g, OwnAccess s id r g → s.inTransit r.fn = false → (n < wireBase ∧ n = id) ∨ (wireBase ≤ n ∧ ∃ f, s.flight? n = some f ∧ f.id = id) →
     ∃ t h, exec (.fabricUnreachable n) s = .next t ∧ t.gang? r.core r.slot = some h ∧ h.sameRegs g ∧ Cells.find? t.reqs id = none ∧ Reported g h 0x1D r.line) ∧
   (∀ s n p id r, Answers s n p id → Cells.find? s.reqs id = some r →
     ∃ t, exec (.waitReply ⟨n, p⟩) s = .next t ∧ Cells.find? t.reqs id = some { r with sent := some s.cycle } ∧ t = { s with reqs := t.reqs }) ∧
   (∀ s n p, wireBase ≤ n → s.flight? n = none →
     (∀ e ∈ [Instr.waitReply ⟨n, p⟩, .loadDataReturn n p, .storePerformed ⟨n, p⟩, .atomicReply n p, .nmxReply n p, .ldbrLoaded n p, .peerRefusal ⟨n, p⟩ 0x15 0],
       exec e s = .next (s.stale p.link)) ∧ (Cells.getD (s.stale p.link).links p.link Link.reset).stale =
       satUp (Cells.getD s.links p.link Link.reset).stale) ∧
   (∀ s tag q, s.held.find? (fun (q : PeerReq) => decide (q.tag = tag)) = some q →
     ∃ t, exec (.homeWaitTimer tag) s = .next t ∧
       t.out = s.out ++ [.waitReply q.src q.tag (match s.fnOfVdn q.dst with | some fn => s.colour fn | none => 0)] ∧
       (s.cycle + 55000, .homeWaitTimer tag) ∈ t.agenda ∧ t = { s with out := t.out, agenda := t.agenda }) ∧
   (∀ s n f r modNo ia, s.flight? n = some f → Cells.find? s.reqs f.id = some r → r.tgt = .peer f.req.dst ia → modNo < 16 →
     ∃ t x, exec (.movedReply n modNo) s = .next t ∧ bits (Cells.getD t.redirect f.req.dst 0).toNat 19 16 = modNo ∧
       (Cells.getD t.redirect f.req.dst 0).getLsbD 31 = true ∧ Cells.find? t.reqs f.id = some x ∧ x = { r with sent := x.sent, entry := x.entry }))

/-- R304, R349, R367, R381, R407: a peer's request that arrives here is performed under the function's own key and answered; a
refusal names its cause; a stopped partition and a number that no function holds are answered unreachable; for a function
that has moved its requests are forwarded while its window is open, and after that it is named; a function in its stop phase holds
them.
The model's own: What a request for a number that has moved is answered is deduced (log 53). -/
def Obligations.PeersAreServed : Prop :=
  ∀ s (q : PeerReq),
    let window := s.windows.find? fun (w : Nat × Nat × Nat) => decide (w.1 = q.dst)
    (∀ fn, s.fnOfVdn q.dst = some fn → (s.part (s.partOf fn)).stop = false → s.stopPhase fn = false → (s.px fn).en = false →
      (∀ pa, q.op = .load → s.translateIa (.agent fn) fn q.ia ⟨true, false, false⟩ = .ok (.dev pa) → s.spoilt fn pa = false →
        ∃ t, exec (.fabricRequestArrival q) s = .next t ∧ t.out = s.out ++ [.reply q.src q.tag 0 (s.homeBytes (s.keyOf fn) pa 128)] ∧ t.mem = s.mem) ∧
      (∀ pa, q.op = .store ∨ q.op = .copyPiece → s.translateIa (.agent fn) fn q.ia ⟨false, true, false⟩ = .ok (.dev pa) → pa % 128 = 0 →
        s.keyOk (s.keyOf fn) pa = true →
        ∃ t, exec (.fabricRequestArrival q) s = .next t ∧ t.out = s.out ++ [.reply q.src q.tag 0 []] ∧
          ∀ key x, t.homeByte key x = if key = s.keyOf fn ∧ pa ≤ x ∧ x < pa + 128 ∧ q.mask.getLsbD (x - pa) = true then q.data.getD (x - pa) 0
            else s.homeByte key x) ∧
      (∀ cause, s.translateIa (.agent fn) fn q.ia (peerRights q) = .error cause →
        exec (.fabricRequestArrival q) s = .next (s.send (.refusal q.src q.tag 0 cause q.ia)))) ∧
    (∀ fn, s.fnOfVdn q.dst = some fn → (s.part (s.partOf fn)).stop = true →
      exec (.fabricRequestArrival q) s = .next (s.send (.unreachable q.src q.tag))) ∧
    (∀ fn, s.fnOfVdn q.dst = some fn → (s.part (s.partOf fn)).stop = false → s.stopPhase fn = true →
      ∃ t, exec (.fabricRequestArrival q) s = .next t ∧ t.held = s.held ++ [q] ∧ t.out = s.out ++ [.waitReply q.src q.tag (s.colour fn)] ∧ t.mem = s.mem) ∧
    (∀ m until_, s.fnOfVdn q.dst = none → window = some (q.dst, m, until_) → exec (.fabricRequestArrival q) s = .next (s.send (.request q.tag m q))) ∧
    (∀ m fn', s.fnOfVdn q.dst = none → window = none → s.resolve q.dst = some (m, fn') → m ≠ s.modNo →
      exec (.fabricRequestArrival q) s = .next (s.send (.moved q.src q.tag m))) ∧
    (s.fnOfVdn q.dst = none → window = none → s.resolve q.dst = none → exec (.fabricRequestArrival q) s = .next (s.send (.unreachable q.src q.tag)))

/-- R370, R375, R361: whatever a translation answers for a core, its target lies on a port that the partition of the core's
requester port may reach; a core of no valid partition reaches no device memory.
R381, R4: what a function writes at its home it reads back, other functions under other keys see nothing of it, and nothing
written under one key is ever readable under another.
The model's own: What nothing has written reads as zero by the model's choice (logs 2, 3). -/
def Obligations.PartitionsAndKeysIsolate : Prop :=
  ((∀ (s : State) k fn va acc pa e, s.translate (.core k) fn va acc = Except.ok (.dev pa, e) →
     ∃ t < 16, (s.part t).valid = true ∧ (s.part t).req.getLsbD (k / 16) = true ∧ (s.part t).mem.getLsbD (portOf pa) = true) ∧
   (∀ (s : State) k fn va acc a e, s.translate (.core k) fn va acc = Except.ok (.host a, e) →
     ∃ t < 16, (s.part t).valid = true ∧ (s.part t).req.getLsbD (k / 16) = true ∧ (s.part t).mem.getLsbD 46 = true)) ∧
  ((∀ (s : State) key pa bs, s.keyOk key pa = true → pa % 128 + bs.length ≤ 128 →
     (∀ j b, bs[j]? = some b → (s.homeWrite key pa bs).homeByte key (pa + j) = b) ∧
     (∀ k x, (k ≠ key ∨ x < pa ∨ pa + bs.length ≤ x) → (s.homeWrite key pa bs).homeByte k x = s.homeByte k x)) ∧
   (∀ (s : State) key pa bs, s.keyOk key pa = false → s.homeWrite key pa bs = s) ∧
   (∀ (s : State) key x, s.keyOk key x = false → s.homeByte key x = 0))

/-! ## Copies, batches and barriers (spec/09) -/

namespace Sys2Proof.Machine

/-- R183, R212: the instructions of spec/09 and spec/10, which act once for the gang. -/
def actsOnce (i : Instr) : Prop := (0x50 ≤ opcN i ∧ opcN i ≤ 0x5B) ∨ (0x60 ≤ opcN i ∧ opcN i ≤ 0x66)

/-- R186, R187: the four copies. -/
def isCopy (i : Instr) : Prop := ∃ f, i = .cpyIn f ∨ i = .cpyOut f ∨ i = .cpyt f ∨ i = .cpytS f

/-- A copy in flight, delivered a piece that it may move now: none of its gang's earlier accesses is outstanding, no matrix
instruction reads the rows it would write, and no page of it has faulted nor piece failed. -/
def MovesPiece (s : State) (id p : Nat) (c : Copy) : Prop :=
  Cells.find? s.copies id = some c ∧ c.halted = false ∧ p ∈ c.left ∧ p ∉ c.fixups ∧ c.pages = [] ∧ c.asked = [] ∧ c.dropped = [] ∧
    s.accessBefore c.core c.slot c.gen c.seq c.level = false ∧ s.tileBusy c p = false

/-- R185: the place of an element of the forme in device memory, through the copy's own translations. -/
def elemAt (s : State) (c : Copy) (m pa : Nat) : Prop :=
  s.translate (.core c.core) c.fn (c.va m) (if c.out then ⟨false, true, false⟩ else ⟨true, false, false⟩) = Except.ok (.dev pa, none)

/-- The piece has been delivered: if the copy goes on, the piece is no longer among those left. -/
def Delivered (t : State) (id p : Nat) : Prop := ∀ c', Cells.find? t.copies id = some c' → p ∉ c'.left ∧ p ∉ c'.fixups

/-- R194: the word of a byte barrier. -/
def barrierWord (gen : Nat) (err : Bool) (arr exp : Nat) (t : Int) : Nat :=
  gen * 2 ^ 66 + (if err then 2 ^ 65 else 0) + gen % 2 * 2 ^ 64 + arr * 2 ^ 48 + exp * 2 ^ 32 + (t % 2 ^ 32).toNat

/-- R194: the barrier after an update, checked. -/
def barrierChecked (gen : Nat) (err : Bool) (arr exp : Nat) (t : Int) : Nat :=
  if arr = exp ∧ t = 0 then barrierWord ((gen + 1) % 65536) err 0 exp 0
  else barrierWord gen (err || decide (arr = exp ∧ t < 0)) arr exp t

/-- The fields of a barrier lie in their ranges. -/
def barrierFields (gen arr exp : Nat) (t : Int) : Prop :=
  gen < 65536 ∧ arr < 65536 ∧ exp < 65536 ∧ -2 ^ 31 ≤ t ∧ t < 2 ^ 31

end Sys2Proof.Machine

/-- R183, R212: under an empty ACTIVE the instructions that act once for the gang change nothing and go on in sequence.
R186, R187, R188, R189, R191: a copy that passes its checks joins the gang's open batch with all its pieces to move, and the first
piece is on its way; nothing has moved yet. A copy that fails one of them takes its cause.
The model's own: The agenda of events is the model's (log 9). -/
def Obligations.CopiesAreIssued : Prop :=
  (∀ i s c, actsOnce i → Issues i s c → c.active = 0 → c.f.loop = none →
     ∃ t g f, exec i s = .next t ∧ c.gangIn t = some g ∧ g.frag? c.f.fid = some f ∧ g.sameRegs c.g ∧ g.mode = c.g.mode ∧ g.level = c.g.level ∧
       g.defq = c.g.defq ∧ g.sealNo = c.g.sealNo ∧ f.mask = c.f.mask ∧ pcAddr f.pc = (pcAddr c.f.pc + 4 * Instr.words i) % 2 ^ 57 ∧ SameOutside s t ∧
       OthersKept c s t) ∧
  ((∀ i s c grp fo, isCopy i → Issues i s c → c.active ≠ 0 → c.copyCause i = none → s.group? c.g.group = some grp →
     grp.kern.formes[copyForme i]? = some fo → 0 < fo.elems → s.copyTurn c.k s.nextId = false →
     ∃ t g cp p n, exec i s = .next t ∧ c.gangIn t = some g ∧ g.sameRegs c.g ∧ g.openOps = c.g.openOps + 1 ∧ t.mem = s.mem ∧ t.groups = s.groups ∧
       (∀ k, (t.core k).tile = (s.core k).tile) ∧ Cells.find? t.copies s.nextId = some cp ∧ (∀ id, id ≠ s.nextId → Cells.find? t.copies id = Cells.find? s.copies id) ∧
       cp.instr = i ∧ cp.forme = fo ∧ cp.core = c.k ∧ cp.slot = c.sl ∧ cp.gen = s.gen c.k c.sl ∧ cp.fn = c.g.fn ∧ cp.batch = c.g.sealNo + 1 ∧
       cp.buf = c.g.bReg fo.buf ∧ cp.left = List.range ((fo.elems * 2 ^ fo.esz + 127) / 128) ∧ cp.pages = [] ∧ cp.fixups = [] ∧
       (∀ f, i = .cpytS f → cp.origin = (c.src f.lit f.a 32 (lowest c.active) : Int)) ∧
       ((∀ f, i ≠ .cpytS f) → cp.origin = sext (c.src (Instr.long i).lit (Instr.long i).a 64 (lowest c.active)) 64) ∧
       s.cycle ≤ n ∧ (n, .copyPieceDelivered c.k s.nextId p) ∈ t.agenda ∧ p ∈ cp.left) ∧
   (∀ i s c cause v, isCopy i → Issues i s c → c.active ≠ 0 → c.g.level < 2 → c.copyCause i = some (cause, v) →
     ∃ t, exec i s = .next t ∧ Took c cause v (c.head i) t ∧ t.copies = s.copies))

/-- R185, R186, R187, R189, R196: a piece that arrives puts its elements, or the fill value for those out of bounds, in the scratchpad or
the tile store, or its dense bytes in global memory; a byte barrier counts its bytes; an element that faults is reported and
waits on the fix-up list, and one that faults again is abandoned with 0x2A.
The model's own: Which piece comes next is the model's choice (logs 9, 10). -/
def Obligations.CopyPiecesArrive : Prop :=
  (∀ s id p c f gk grp, MovesPiece s id p c → c.instr = .cpyIn f → c.xbar = none → s.scratchTarget c.group c.dense = some gk → s.group? gk = some grp →
    (∀ m ∈ c.forme.pieceElems p, c.inBounds 0 m = true → ∃ pa, elemAt s c m pa ∧ s.spoilt c.fn pa = false) →
    ∃ t y, exec (.copyPieceDelivered c.core id p) s = .next t ∧ t.group? gk = some y ∧ Delivered t id p ∧ t.mem = s.mem ∧
      (∀ k, k ≠ gk → t.group? k = s.group? k) ∧ y = { grp with scratch := y.scratch, wid := y.wid } ∧
      (∀ m ∈ c.forme.pieceElems p, ∀ j < 2 ^ c.forme.esz,
        (c.inBounds 0 m = true → ∀ pa, elemAt s c m pa → Memory.byte y.scratch (bits c.dense 19 0 + 2 ^ c.forme.esz * m + j) = s.homeByte (s.keyOf c.fn) (pa + j)) ∧
        (c.inBounds 0 m = false → Memory.byte y.scratch (bits c.dense 19 0 + 2 ^ c.forme.esz * m + j) = BitVec.ofNat 8 (c.forme.fill / 256 ^ j))) ∧
      ∀ a, (∀ m ∈ c.forme.pieceElems p, a < bits c.dense 19 0 + 2 ^ c.forme.esz * m ∨ bits c.dense 19 0 + 2 ^ c.forme.esz * (m + 1) ≤ a) →
        Memory.byte y.scratch a = Memory.byte grp.scratch a) ∧
  (∀ s id p c f gk grp, MovesPiece s id p c → c.instr = .cpyOut f → c.xbar = none → s.scratchTarget c.group c.dense = some gk → s.group? gk = some grp →
    Untracked s c.fn →
    (∀ m ∈ c.forme.pieceElems p, c.inBounds 0 m = true → ∃ pa, elemAt s c m pa ∧ s.keyOk (s.keyOf c.fn) pa = true ∧ pa % 128 + 2 ^ c.forme.esz ≤ 128) →
    ∃ t, exec (.copyPieceDelivered c.core id p) s = .next t ∧ Delivered t id p ∧ t.groups = s.groups ∧
      (∀ pre m post pa, c.forme.pieceElems p = pre ++ m :: post → c.inBounds 0 m = true → elemAt s c m pa →
        (∀ m' ∈ post, c.inBounds 0 m' = true → ∀ pa', elemAt s c m' pa' → pa' + 2 ^ c.forme.esz ≤ pa ∨ pa + 2 ^ c.forme.esz ≤ pa') →
        ∀ j < 2 ^ c.forme.esz, t.homeByte (s.keyOf c.fn) (pa + j) = Memory.byte grp.scratch (bits c.dense 19 0 + 2 ^ c.forme.esz * m + j)) ∧
      ∀ key x, (∀ m ∈ c.forme.pieceElems p, c.inBounds 0 m = true → ∀ pa, elemAt s c m pa → x < pa ∨ pa + 2 ^ c.forme.esz ≤ x) →
        t.homeByte key x = s.homeByte key x) ∧
  (∀ s id p c f grp, MovesPiece s id p c → c.instr = .cpytS f → c.xbar = none → s.group? c.group = some grp → c.col + c.forme.runBytes ≤ 512 →
    c.row + c.forme.runs ≤ 512 →
    ∃ t, exec (.copyPieceDelivered c.core id p) s = .next t ∧ Delivered t id p ∧ t.groups = s.groups ∧ t.mem = s.mem ∧
      ∀ m ∈ c.forme.pieceElems p, ∀ j < 2 ^ c.forme.esz,
        let n0 := (c.forme.dims.headD (1, 0)).1
        let e := c.origin + c.forme.step m
        (t.core c.core).tileWritten.getLsbD (c.row + m / n0) = true ∧
        Memory.byte (t.core c.core).tile (512 * (c.row + m / n0) + c.col + 2 ^ c.forme.esz * (m % n0) + j) =
          if 0 ≤ e ∧ e + 2 ^ c.forme.esz ≤ grp.kern.scratch then Memory.byte grp.scratch (e.toNat + j) else BitVec.ofNat 8 (c.forme.fill / 256 ^ j)) ∧
  (∀ s id p c f a gk grp gen err arr exp n, MovesPiece s id p c → c.instr = .cpytS f → c.xbar = some a → s.scratchTarget c.group a = some gk →
    s.group? gk = some grp → barrierFields gen arr exp n → Memory.read grp.scratch (bits a 19 0) 16 = barrierWord gen err arr exp n →
    let n' := n - (c.forme.pieceBytes p : Int)
    ∃ t y, exec (.copyPieceDelivered c.core id p) s = .next t ∧ Delivered t id p ∧ t.group? gk = some y ∧
      Memory.read y.scratch (bits a 19 0) 16 = if -2 ^ 31 ≤ n' then barrierChecked gen err arr exp n' else barrierWord gen true arr exp n) ∧
  (∀ s id p c f g pre m post cause, MovesPiece s id p c → c.instr = .cpyIn f → s.gen c.core c.slot = c.gen → s.gang? c.core c.slot = some g →
    c.forme.pieceElems p = pre ++ m :: post → (∀ m' ∈ pre ++ post, c.inBounds 0 m' = false) → c.inBounds 0 m = true →
    s.translate (.core c.core) c.fn (c.va m) ⟨true, false, false⟩ = Except.error cause → cause ≠ 0x31 →
    ∃ t h c', exec (.copyPieceDelivered c.core id p) s = .next t ∧ t.gang? c.core c.slot = some h ∧ Reported g h cause (c.va m) ∧
      Cells.find? t.copies id = some c' ∧ p ∈ c'.left ∧ p ∈ c'.fixups ∧ c'.pages = [c.va m / 65536] ∧ t.mem = s.mem) ∧
  (∀ s id c f gk grp, Cells.find? s.copies id = some c → c.halted = false → c.fixups ≠ [] → c.asked = [] → c.dropped = [] → c.instr = .cpyIn f → c.xbar = none →
    s.scratchTarget c.group c.dense = some gk → s.group? gk = some grp →
    (∀ m ∈ c.fixElems, ∃ pa, elemAt s c m pa ∧ s.spoilt c.fn pa = false) →
    ∃ t y, exec (.copyFixupReplay c.core id) s = .next t ∧ t.group? gk = some y ∧ (∀ p ∈ c.fixups, Delivered t id p) ∧ t.mem = s.mem ∧
      ∀ m ∈ c.fixElems, ∀ j < 2 ^ c.forme.esz, ∀ pa, elemAt s c m pa →
        Memory.byte y.scratch (bits c.dense 19 0 + 2 ^ c.forme.esz * m + j) = s.homeByte (s.keyOf c.fn) (pa + j)) ∧
  (∀ s id c f g m rest cause, Cells.find? s.copies id = some c → c.halted = false → c.fixups ≠ [] → c.asked = [] → c.dropped = [] → c.instr = .cpyIn f → c.xbar = none →
    s.gen c.core c.slot = c.gen → s.gang? c.core c.slot = some g → c.fixElems = m :: rest → (∀ m' ∈ rest, c.va m' / 65536 = c.va m / 65536) →
    (∀ m' ∈ m :: rest, s.translate (.core c.core) c.fn (c.va m') ⟨true, false, false⟩ = Except.error cause) →
    ∃ t h, exec (.copyFixupReplay c.core id) s = .next t ∧ t.gang? c.core c.slot = some h ∧ Reported g h 0x2A (c.va m) ∧ (∀ p ∈ c.fixups, Delivered t id p) ∧
      t.groups = s.groups ∧ t.mem = s.mem)

/-- R191, R192, R195, R197, R206: SEAL closes the open batch and numbers it, the sixteenth unfinished one traps; a barrier takes an
arrival with its announced bytes; WAITB, WAITC and XWAIT go on as acquires once their conditions hold.
The model's own: The width of the arrival count is deduced (log 61). -/
def Obligations.BatchesAndByteBarriers : Prop :=
  (∀ f s c, Issues (.seal f) s c → c.active ≠ 0 →
    let n := c.g.sealNo + 1
    (c.g.sealed.length ≠ 15 → ∃ t g, exec (.seal f) s = .next t ∧ c.gangIn t = some g ∧ SameOutside s t ∧ g.sealNo = n ∧ g.openOps = 0 ∧
      DestHolds c f 32 (fun _ => n.toNat) g ∧
      g.sealed = (c.g.sealed ++ [n]).dropWhile fun b => decide (
        (∀ p ∈ s.copies, p.2.core = c.k → p.2.slot = c.sl → p.2.gen = s.gen c.k c.sl → p.2.batch ≠ b) ∧
        (∀ p ∈ s.emits, p.2.core = c.k → p.2.slot = c.sl → p.2.gen = s.gen c.k c.sl → p.2.batch ≠ b))) ∧
    (c.g.sealed.length = 15 → c.g.level < 2 → ∃ t, exec (.seal f) s = .next t ∧ Took c 0x2D 0 (c.head (.seal f)) t)) ∧
  (∀ f i s c, i = .waitb f ∨ i = .waitc f → Issues i s c → c.active ≠ 0 →
    ∃ t g, exec i s = .next t ∧ c.gangIn t = some g ∧ g.sameRegs c.g ∧ g.acqf = true ∧ SameOutside s t ∧ OthersKept c s t ∧
      ((∃ f, i = .waitb f) → c.g.sealed.length ≤ immF f 3 0) ∧
      ((∃ f, i = .waitc f) → s.pend c.g.group (subF f 5 4) ≤ c.src f.lit f.a 32 (lowest c.active))) ∧
  (∀ f s c y gk, Issues (.xarv f) s c → c.active ≠ 0 → c.scratchCause (c.barAddr f) 16 16 (lowest c.active) false = none →
    s.scratchTarget c.g.group (c.barAddr f) = some gk → s.group? gk = some y →
    let a := bits (c.barAddr f) 19 0
    let n := Memory.read y.scratch a 16
    let gen := bits n 81 66
    let t0 := sext n 32 + sext (c.src f.lit f.b 32 (lowest c.active)) 32
    let ok := bits n 127 82 = 0 ∧ n.testBit 64 = decide (gen % 2 = 1) ∧ bits n 47 32 ≠ 0 ∧ n.testBit 65 = false ∧ bits n 63 48 ≠ bits n 47 32 ∧
      -2 ^ 31 ≤ t0 ∧ t0 < 2 ^ 31
    (ok → ∃ t g z, exec (.xarv f) s = .next t ∧ c.gangIn t = some g ∧ DestHolds c f 32 (fun _ => gen) g ∧ g.mode = c.g.mode ∧ g.defq = c.g.defq ∧ t.mem = s.mem ∧
      t.group? gk = some z ∧ z = { y with scratch := z.scratch, wid := z.wid, sep := z.sep } ∧ (∀ k, k ≠ gk → t.group? k = s.group? k) ∧
      Memory.read z.scratch a 16 = barrierChecked gen false ((bits n 63 48 + 1) % 65536) (bits n 47 32) t0 ∧
      (∀ x, x < a ∨ a + 16 ≤ x → Memory.byte z.scratch x = Memory.byte y.scratch x)) ∧
    (¬ ok → c.g.level < 2 → ∃ t, exec (.xarv f) s = .next t ∧ Took c 0x2B (c.barAddr f) (c.head (.xarv f)) t)) ∧
  (∀ f s c y, Issues (.xwait f) s c → c.active ≠ 0 → c.scratchCause (c.barAddr f) 16 16 (lowest c.active) true = none → s.group? c.g.group = some y →
    let n := Memory.read y.scratch (bits (c.barAddr f) 19 0) 16
    (n.testBit 65 = false → bits n 81 66 ≠ c.src f.lit f.b 32 (lowest c.active) % 65536 ∧
      ∃ t g, exec (.xwait f) s = .next t ∧ c.gangIn t = some g ∧ g.sameRegs c.g ∧ g.acqf = true ∧ SameOutside s t) ∧
    (n.testBit 65 = true → c.g.level < 2 → ∃ t, exec (.xwait f) s = .next t ∧ Took c 0x2B (c.barAddr f) (c.head (.xwait f)) t))

/-- R198, R199, R206, R207, R208: a fragment that issues BAR waits at it with its operands, for its gang's arrival; `cntr.rd` reads
how much of its unit is pending; `cntr.cancel` of a launch makes its started gangs take 0x31 with the level 0. -/
def Obligations.NamedBarriersAndCounters : Prop :=
  (∀ f i s c, i = .barWait f ∨ i = .barNote f → Issues i s c → c.active ≠ 0 →
    ∃ t g h, exec i s = .next t ∧ c.gangIn t = some g ∧ g.sameRegs c.g ∧ SameOutside { s with agenda := t.agenda } t ∧ g.frag? c.f.fid = some h ∧
      h.pc = c.f.pc ∧ h.mask = c.f.mask ∧ h.wait = .bar ⟨f.sub.getLsbD 0, immF f 3 0, immF f 9 4, immF f 24 22⟩ ∧
      (∀ x ∈ c.g.frags, x.fid ≠ c.f.fid → x ∈ g.frags) ∧ t.agenda = s.agenda ++ [(s.cycle, .barArrival c.k c.sl)]) ∧
  (∀ f s c, Issues (.cntrRd f) s c → c.active ≠ 0 →
    ∃ t g, exec (.cntrRd f) s = .next t ∧ c.gangIn t = some g ∧ SameOutside s t ∧
      DestHolds c f 32 (fun _ =>
        match (s.group? c.g.group).bind fun g => s.launch? g.launch with
        | none => 0
        | some l =>
          if subF f 5 4 = 0 then l.groups - l.ended
          else if subF f 5 4 = 1 then (s.launches.filter fun p => decide (p.2.graph = l.graph ∧ p.2.done = false)).length +
            (((s.graph? l.graph).map fun g => (g.nodes.filter fun n => decide (n.bin ≠ [])).length).getD 0)
          else if subF f 5 4 = 2 then (s.graphs.filter fun p => decide (p.2.fn = l.fn ∧ p.2.job = l.job ∧ p.2.phase = l.phase ∧ p.2.ended = false)).length
          else ((s.job? l.fn l.job).map fun j => j.known - j.phase).getD 0) g) ∧
  (∀ f s c grp l, Issues (.cntrCancel f) s c → c.active ≠ 0 → subF f 5 4 = 0 → s.group? c.g.group = some grp → s.launch? grp.launch = some l →
    l.cancelled = false → l.done = false → c.g.stopped = false → grp.started = true → grp.core = c.k →
    ∃ t g, exec (.cntrCancel f) s = .next t ∧ c.gangIn t = some g ∧ g.sameRegs c.g ∧ g.canc = some 0 ∧ t.mem = s.mem ∧
      ∀ l', t.launch? grp.launch = some l' → l'.cancelled = true ∧ l'.placed = l.groups)

/-! ## Collectives and records (spec/09, spec/13) -/

namespace Sys2Proof.Machine

/-- R201, R202: contributions that agree in what they ask for. -/
def sameAsk (x y : Contribution) : Prop := x.op = y.op ∧ x.prop = y.prop ∧ x.fmt = y.fmt ∧ x.anchor = y.anchor

/-- R340, R394: this device is the root of a slot that holds nothing for a later round and is not being closed, and the contribution is
a member's for the slot's job, whose proof point nothing waits for. -/
def AtRoot (s : State) (con : Contribution) (c : CSlot) : Prop :=
  s.cslot? con.slot = some c ∧ c.job = con.job ∧ c.root = s.ownVdn c ∧ con.vdn ∈ c.members ∧ c.held = [] ∧ c.closing = false ∧
    s.slotAhead con.slot con.vdn con.colour = none

/-- The contribution is for the open round. -/
def OpenRound (s : State) (con : Contribution) (c : CSlot) : Prop := AtRoot s con c ∧ con.round = c.round

/-- R201: a lane's result of the integer operations, from the contributions that held the lane. -/
def LaneReduced (op : Nat) (g : IntFmt) (l : List Nat) (v : Nat) : Prop :=
  (op = 0 → (v : Int) % 2 ^ g.w = (l.map g.val).sum % 2 ^ g.w) ∧
  (op = 1 → v ∈ l ∧ ∀ x ∈ l, g.val v ≤ g.val x) ∧ (op = 2 → v ∈ l ∧ ∀ x ∈ l, g.val x ≤ g.val v) ∧
  (op = 4 → ∀ k, v.testBit k = l.all fun x => x.testBit k) ∧ (op = 5 → ∀ k, v.testBit k = l.any fun x => x.testBit k)

/-- The values that contributions hold for a lane. -/
def heldFor (cons : List Contribution) (lane : Nat) : List Nat :=
  (cons.filter fun x => x.mask.getLsbD lane).map fun x => (x.vals.getD lane 0).toNat

/-- R200, R340: the round of a slot has been closed with a result, which every other member has been sent. -/
def RoundClosed (s t : State) (n : Nat) (c : CSlot) (res : RoundResult) : Prop :=
  res.answer = false ∧ res.slot = n ∧ res.round = c.round ∧
    t.out = s.out ++ (if (s.func c.fn).vdnValid then (c.members.filter fun m => decide (m ≠ s.ownVdn c)).map
      (OutMsg.result · { res with root := s.ownVdn c, colour := s.colour c.fn }) else []) ∧
    t.cslot? n = some { c with round := c.round + 1, prev := some res, counted := [], start := none } ∧
    ((∀ w ∈ res.who, w.1 ≠ s.ownVdn c) → t.mem = s.mem)

end Sys2Proof.Machine

/-- R200, R202, R203, R340, R409: a CRED of a member sends its contribution to its root; the root counts it, holds one of the next round, and
closes the round with the result when it is full, with 0x2F when contributions differ, with status 1 when its time is over; the result
brings each lane its value and the status; a paused slot has no timeout.
The model's own: That B is read in the lowest ACTIVE lane is deduced (log 44); when the timeout of a round of held contributions starts is the model's (log 72). -/
def Obligations.CollectivesRunInRounds : Prop :=
  (∀ f s c, Issues (.cred f) s c → c.active ≠ 0 →
    let n := immF f 5 0
    let b := BitVec.ofNat 32 (c.src f.lit f.b 32 (lowest c.active))
    (∀ sl l, s.cslot? n = some sl → c.launch? = some l → sl.fn = c.g.fn → sl.job = l.job → b = sl.round ∨ b = sl.round + 1 →
      sl.root = s.ownVdn sl ∨ (s.func c.g.fn).vdnValid = true →
      ∃ t g o con, exec (.cred f) s = .next t ∧ c.gangIn t = some g ∧ g.sameRegs c.g ∧
        (retire [] c.g.fly = c.g.fly → g.inflight .n = c.g.inflight .n + 1) ∧ t.mem = s.mem ∧
        Cells.find? t.creds s.nextId = some o ∧ o.instr = .cred f ∧ o.core = c.k ∧ o.slot = c.sl ∧ o.gen = s.gen c.k c.sl ∧ o.active = c.active ∧
        o.cslot = n ∧ o.round = b ∧ con.slot = n ∧ con.job = l.job ∧ con.vdn = s.ownVdn sl ∧ con.round = b ∧ con.op = BitVec.ofNat 3 (subF f 2 0) ∧
        con.fmt = f.fmt ∧ con.mask = c.active ∧ con.tag = s.nextId ∧ o.con = con ∧ con.colour = s.colour c.g.fn ∧
        (∀ lane ∈ c.lanes, con.vals.getD lane 0 = BitVec.ofNat 128 (c.src f.lit f.a (fmtWidth f.fmt) lane)) ∧
        (if sl.root = s.ownVdn sl then (∃ k, s.cycle ≤ k ∧ (k, .credContributionArrival con) ∈ t.agenda) ∧ t.out = s.out
          else t.out = s.out ++ [.contribute sl.root con])) ∧
    ((∀ sl l, s.cslot? n = some sl → c.launch? = some l → sl.fn ≠ c.g.fn ∨ sl.job ≠ l.job) → c.g.level < 2 →
      ∃ t, exec (.cred f) s = .next t ∧ Took c 0x2F (n + b.toNat * 2 ^ 32) (c.head (.cred f)) t)) ∧
  (∀ s con c, OpenRound s con c → (∀ x ∈ c.counted, sameAsk x con) →
    (c.counted.length + 1 < c.p → ∃ t, exec (.credContributionArrival con) s = .next t ∧ t.out = s.out ∧ t.creds = s.creds ∧ t.mem = s.mem ∧
      t.cslot? con.slot = some { c with counted := c.counted ++ [con], start := if c.counted.isEmpty then some s.cycle else c.start }) ∧
    (c.p ≤ c.counted.length + 1 → ∃ t res, exec (.credContributionArrival con) s = .next t ∧ RoundClosed s t con.slot c res ∧ res.status = false ∧
      res.mismatch = false ∧ res.who = (c.counted ++ [con]).map (fun x => (x.vdn, x.tag)) ∧
      (∀ lane < 32, res.mask.getLsbD lane = (c.counted ++ [con]).any fun x => x.mask.getLsbD lane) ∧
      ∀ lane < 32, ∀ g, res.mask.getLsbD lane = true → fmtOf con.fmt = .int g →
        LaneReduced con.op.toNat g (heldFor (c.counted ++ [con]) lane) (res.vals.getD lane 0).toNat)) ∧
  (∀ s con c, OpenRound s con c → (∃ x ∈ c.counted, ¬ sameAsk x con) →
    ∃ t res, exec (.credContributionArrival con) s = .next t ∧ RoundClosed s t con.slot c res ∧ res.mismatch = true ∧
      res.who = (c.counted ++ [con]).map fun x => (x.vdn, x.tag)) ∧
  (∀ s con c, AtRoot s con c → con.round = c.round + 1 →
    exec (.credContributionArrival con) s = .next (s.modSlot con.slot fun c => { c with held := [con] })) ∧
  (∀ s con, s.cslot? con.slot = none → Cells.find? s.movedSlots con.slot = none →
    exec (.credContributionArrival con) s = .next (s.send (.answer con.vdn con.tag
      { answer := true, who := [(con.vdn, con.tag)], slot := con.slot, round := con.round, status := false, mismatch := true, mask := 0, vals := [],
        job := con.job, root := 0, colour := 0 }))) ∧
  (∀ s n c start, s.cslot? n = some c → c.start = some start → c.paused = false → start + 1100 * c.timeout < s.cycle → c.held = [] → c.closing = false →
    ∃ t res, exec (.credRoundTimeout n) s = .next t ∧ RoundClosed s t n c res ∧ res.status = true ∧ res.mismatch = false ∧
      ∀ lane < 32, res.mask.getLsbD lane = c.counted.any fun x => x.mask.getLsbD lane) ∧
  (∀ s n c, s.cslot? n = some c → c.paused = true → exec (.credRoundTimeout n) s = .next s) ∧
  (∀ s con vdn, s.cslot? con.slot = none → s.slotLeft con.slot con.job = some vdn →
    (∀ m, s.window? vdn = some m → exec (.credContributionArrival con) s = .next (s.send (.contribute vdn con))) ∧
    (∀ m fn, s.window? vdn = none → s.resolve vdn = some (m, fn) → exec (.credContributionArrival con) s = .next (s.send (.moved con.vdn con.tag m)))) ∧
  (∀ s res vdn, s.slotAhead res.slot res.root res.colour = none → s.slotLeft res.slot res.job = some vdn →
    (∀ m, s.window? vdn = some m → res.answer = false → exec (.credResultArrival res) s = .next (s.send (.result vdn res))) ∧
    (s.window? vdn = none → exec (.credResultArrival res) s = .next s)) ∧
  (∀ s res c tag id o g f, s.cslot? res.slot = some c → s.slotAhead res.slot res.root res.colour = none → c.round = res.round → c.job = res.job → res.answer = false → c.closing = false →
    (res.who.filter fun w => decide (w.1 = s.ownVdn c)) = [(s.ownVdn c, tag)] → s.credKey (s.ownVdn c) tag = some id → Cells.find? s.creds id = some o → o.instr = .cred f →
    s.gen o.core o.slot = o.gen → s.gang? o.core o.slot = some g → g.away = false →
    (∃ t, exec (.credResultArrival res) s = .next t ∧ Cells.find? t.creds id = none ∧ t.cslot? res.slot = some { c with round := c.round + 1, prev := some res }) ∧
    (res.mismatch = false → (res.status && o.credt) = false →
      ∃ t h, exec (.credResultArrival res) s = .next t ∧ t.gang? o.core o.slot = some h ∧ h.defq = g.defq ∧
        (∀ lane < 32, (h.pReg (immF f 15 13)).getLsbD lane =
          if immF f 15 13 = 0 then true else if o.active.getLsbD lane then res.status else (g.pReg (immF f 15 13)).getLsbD lane) ∧
        (isV f.d = true → ∀ lane < 32, ∀ j < (if subF f 2 0 = 6 then 128 else fmtWidth f.fmt) / 32, h.vReg (f.d.toNat + j) lane =
          if o.active.getLsbD lane && res.mask.getLsbD lane then BitVec.ofNat 32 ((res.vals.getD lane 0).toNat / 2 ^ (32 * j)) else g.vReg (f.d.toNat + j) lane)) ∧
    (res.mismatch = true ∨ (res.status && o.credt) = true →
      ∃ t h, exec (.credResultArrival res) s = .next t ∧ t.gang? o.core o.slot = some h ∧ h.sameRegs g ∧
        Reported g h (if res.mismatch then 0x2F else 0x2E) (o.cslot + o.round.toNat * 2 ^ 32))) ∧
  (∀ s n c, s.cslot? n = some c → ∃ t, exec (.slotPause n) s = .next t ∧ t.cslot? n = some { c with paused := true } ∧ t.mem = s.mem) ∧
  (∀ s n c, s.cslot? n = some c → c.paused = true → ∃ t, exec (.slotResume n) s = .next t ∧
    t.cslot? n = some { c with paused := false, start := c.start.map fun _ => s.cycle } ∧
    (∀ x, c.start = some x → (s.cycle + (1100 * c.timeout + 1), .credRoundTimeout n) ∈ t.agenda))

namespace Sys2Proof.Machine

/-- A graph in which one node's bin has changed. -/
def BinIs (g g' : Graph) (n : Nat) (x : NodeRt) (bin : List BinRec) : Prop :=
  g'.nodes.length = g.nodes.length ∧ g'.nodes[n]? = some { x with bin := bin } ∧ ∀ i, i ≠ n → g'.nodes[i]? = g.nodes[i]?

end Sys2Proof.Machine

/-- R204, R205, R273, R274, R275: SNAP asks for a proof and joins it; EMIT sends a record for each lane, which enters its node's
bin, or waits with event 2 when there is no room; a bin that is full or whose time is over becomes a batch of its node's launch, oldest
records first.
The model's own: The room of a bin is a free value (log 12). -/
def Obligations.RecordsReachTheirNodes : Prop :=
  (∀ f s c l, Issues (.snap f) s c → c.active ≠ 0 → c.launch? = some l →
    ((s.px c.g.fn).en = true ∧ (s.px c.g.fn).job = l.job → ∃ t g o, exec (.snap f) s = .next t ∧ c.gangIn t = some g ∧ g.sameRegs c.g ∧ t.mem = s.mem ∧
      Cells.find? t.snaps s.nextId = some o ∧ o.core = c.k ∧ o.slot = c.sl ∧ o.gen = s.gen c.k c.sl ∧ o.instr = .snap f ∧ o.active = c.active ∧
      o.joined = true ∧ (t.px c.g.fn).pend = true) ∧
    (¬ ((s.px c.g.fn).en = true ∧ (s.px c.g.fn).job = l.job) → c.g.level < 2 →
      ∃ t, exec (.snap f) s = .next t ∧ Took c 0x32 0 (c.head (.snap f)) t)) ∧
  (∀ f s c l g x grp, Issues (.emit f) s c → c.active ≠ 0 → c.launch? = some l → s.graph? l.graph = some g →
    g.nodes[l.nbase + immF f 15 0]? = some x → s.group? c.g.group = some grp →
    let a := fun lane => c.src f.lit f.a 32 lane
    let far := fun lane => c.active.getLsbD lane && decide (2 ^ 20 ≤ a lane ∨ grp.kern.scratch < a lane + x.node.recSize)
    let mis := fun lane => c.active.getLsbD lane && decide (a lane % 16 ≠ 0)
    ((∃ lane < 32, far lane = true) → c.g.level < 2 → ∃ t, exec (.emit f) s = .next t ∧ Took c 0x17 (maskOf far).toNat (c.head (.emit f)) t) ∧
    ((∀ lane < 32, far lane = false) → (∃ lane < 32, mis lane = true) → c.g.level < 2 →
      ∃ t, exec (.emit f) s = .next t ∧ Took c 0x12 (maskOf mis).toNat (c.head (.emit f)) t) ∧
    ((∀ lane < 32, far lane = false ∧ mis lane = false) →
      ∃ t h e k, exec (.emit f) s = .next t ∧ c.gangIn t = some h ∧ h.sameRegs c.g ∧ h.openOps = c.g.openOps + 1 ∧ t.mem = s.mem ∧ t.groups = s.groups ∧
        t.graphs = s.graphs ∧ Cells.find? t.emits s.nextId = some e ∧ e.graph = l.graph ∧ e.node = l.nbase + immF f 15 0 ∧ e.addrs = c.lanes.map a ∧
        e.batch = c.g.sealNo + 1 ∧ s.cycle ≤ k ∧ (k, .emitRecordEntry s.nextId) ∈ t.agenda)) ∧
  (∀ f s c l, Issues (.emit f) s c → c.active ≠ 0 → c.g.level < 2 → c.launch? = some l →
    ((s.graph? l.graph).bind fun g => g.nodes[l.nbase + immF f 15 0]?) = none →
    ∃ t, exec (.emit f) s = .next t ∧ Took c 0x30 (immF f 15 0) (c.head (.emit f)) t) ∧
  (∀ s id e g x grp a, Cells.find? s.emits id = some e → s.isHalted e.core e.slot e.gen = false → s.accessBefore e.core e.slot e.gen e.seq e.level = false →
    e.addrs = [a] → s.graph? e.graph = some g → g.nodes[e.node]? = some x → s.nodeOff g e.node = false →
    s.group? e.group = some grp →
    (g.room e.node = true → x.bin.length + 1 < x.node.count → ∃ t g', exec (.emitRecordEntry id) s = .next t ∧ Cells.find? t.emits id = none ∧
      t.mem = s.mem ∧ t.graph? e.graph = some g' ∧
      BinIs g g' e.node x (x.bin ++ [⟨(List.range x.node.recSize).map fun j => Memory.byte grp.scratch (a + j), s.pod⟩])) ∧
    (g.room e.node = false → ∃ t g', exec (.emitRecordEntry id) s = .next t ∧ Cells.find? t.emits id = some e ∧ t.mem = s.mem ∧
      t.graph? e.graph = some g' ∧ g' = { g with waiting := true } ∧ (t.func g.fn).evt.getLsbD 2 = true)) ∧
  (∀ s gk n g x l a, s.graph? gk = some g → g.nodes[n]? = some x → s.launch? x.launch = some l →
    x.node.count ≤ x.bin.length ∨ (x.node.timer ≠ 0 ∧ ∃ r t, x.bin = r :: t ∧ r.entered + 11 * x.node.timer ≤ s.pod) →
    let k := min x.node.count x.bin.length
    0 < k → s.findBuffer gk g (k * x.node.recSize) = some a →
    ∃ t g', exec (.binTimerFlush gk n) s = .next t ∧ t.graph? gk = some g' ∧ BinIs g g' n x (x.bin.drop k) ∧
      t.launch? x.launch = some { l with groups := l.groups + 1, batches := l.batches ++ [(a, k)] }) ∧
  (∀ s gk g x l a, s.graph? gk = some g → g.nodes = [x] → s.launch? x.launch = some l → s.quiet gk = true →
    let k := min x.node.count x.bin.length
    0 < k → s.findBuffer gk g (k * x.node.recSize) = some a →
    ∃ t g', exec (.binQuiescenceFlush gk) s = .next t ∧ t.graph? gk = some g' ∧ BinIs g g' 0 x (x.bin.drop k) ∧
      t.launch? x.launch = some { l with groups := l.groups + 1, batches := l.batches ++ [(a, k)] })

/-! ## The matrix engine (spec/10) -/

namespace Sys2Proof.Machine

/-- R213, R216, R223: a gang that acts, of a group with galleys, that owns its core's engine or is about to have it again. -/
def HasEngine (c : Ctx) (grp : Group) : Prop :=
  c.active ≠ 0 ∧ c.st.group? c.g.group = some grp ∧ grp.kern.galleys ≠ [] ∧ ((c.st.core c.k).mxOwner = some c.sl ∨ c.g.reown = true)

/-- R220, R221: row i, column n of a galley, where its header fills the first 64 bytes. -/
def galleyWord (g : Group) (gal i n : Nat) : Galley := BitVec.ofNat 128 (Memory.read g.scratch ((g.kern.galleys.getD gal (0, 0)).1 + 64 + 16 * (32 * i + n)) 16)

/-- R220: word w of a galley's header. -/
def headerWord (g : Group) (gal w : Nat) : Nat := Memory.read g.scratch ((g.kern.galleys.getD gal (0, 0)).1 + 4 * w) 4

/-- R322: the next instruction that the engine of a core executes: the oldest it has not executed, with nothing of an operand to
come and none of its gang's earlier accesses to be performed, while no fold is open and no gang waits for the engine; it finds no
uncorrectable error of its own (which bits of the choice say, log 10). -/
def EngineNext (s : State) (k : Nat) (m : MxOp) (grp : Group) : Prop :=
  (∃ pre post, (s.core k).mxOps = pre ++ m :: post ∧ ∀ x ∈ pre, x.ran = true) ∧ m.ran = false ∧ m.lines = [] ∧ (s.core k).fold = none ∧
    (s.core k).mxq = [] ∧ s.accessBefore k m.slot m.gen m.seq m.level = false ∧ s.group? m.group = some grp ∧ s.choice.testBit 99 = false

/-- The exact value of element x of the row r of an operand that stands in the tile store. -/
def tileElem (tile : Memory) (fmt : BitVec 4) (es at0 r x : Nat) : Val :=
  (fmtOf fmt).exact (Memory.read tile (512 * (bits at0 17 9 + r) + bits at0 8 0 + es * x) es)

end Sys2Proof.Machine

/-- R213, R214, R215, R222, R223, R226, R229, R230, R231: a gang of a group with galleys takes the engine and gives it up; a matrix instruction
of the owner, its galley good, goes to the engine and counts on its path; MOUT brings a galley's columns to registers, and traps for an enabled flag, but not for a word's overflow (R51); without
galleys, without the engine, with a galley that does not exist, they trap.
The model's own: When MOUT issues and writes is deduced (log 20). -/
def Obligations.MatrixInstructionsIssue : Prop :=
  (∀ f s c grp, Issues (.mxacq f) s c → c.active ≠ 0 → s.group? c.g.group = some grp → grp.kern.galleys ≠ [] →
    ∃ t g, exec (.mxacq f) s = .next t ∧ c.gangIn t = some g ∧ g.sameRegs c.g ∧ g.acqf = true ∧ (t.core c.k).mxOwner = some c.sl ∧ SameOutside s t ∧
      (∀ k, k ≠ c.k → (t.core k).mxOwner = (s.core k).mxOwner)) ∧
  (∀ f s c grp, Issues (.mxrel f) s c → HasEngine c grp →
    ∃ t g, exec (.mxrel f) s = .next t ∧ c.gangIn t = some g ∧ g.sameRegs c.g ∧ g.reown = false ∧ (t.core c.k).mxOwner ≠ some c.sl ∧
      (∀ p ∈ (t.core c.k).mxq, p.1 ≠ c.sl) ∧ (∀ o, (t.core c.k).fold = some o → o.slot ≠ c.sl) ∧ t.mem = s.mem) ∧
  (∀ i s c, 0x60 ≤ opcN i → opcN i ≤ 0x66 → Issues i s c → c.active ≠ 0 → c.g.level < 2 →
    ((s.group? c.g.group = none ∨ ∃ grp, s.group? c.g.group = some grp ∧ grp.kern.galleys = []) →
      ∃ t, exec i s = .next t ∧ Took c 0x29 1 (c.head i) t) ∧
    (∀ grp, s.group? c.g.group = some grp → grp.kern.galleys ≠ [] → (∀ f, i ≠ .mxacq f) → (s.core c.k).mxOwner ≠ some c.sl → c.g.reown = false →
      ∃ t, exec i s = .next t ∧ Took c 0x28 0 (c.head i) t) ∧
    (∀ grp, HasEngine c grp → opcN i ≠ 0x60 → opcN i ≠ 0x61 → grp.kern.galleys.length ≤ immF (Instr.long i) 2 0 →
      ∃ t, exec i s = .next t ∧ Took c 0x29 1 (c.head i) t) ∧
    (∀ grp, HasEngine c grp → opcN i ≠ 0x60 → opcN i ≠ 0x61 → immF (Instr.long i) 2 0 < grp.kern.galleys.length →
      (∃ j, 3 ≤ j ∧ j < 16 ∧ headerWord grp (immF (Instr.long i) 2 0) j ≠ 0) →
      ∃ t, exec i s = .next t ∧ Took c 0x29 2 (c.head i) t)) ∧
  (∀ i s c, Issues i s c → c.active ≠ 0 → ((∃ f, i = .mma f ∨ i = .mmas f) ∧ c.mmaCause i = none) ∨ (∃ f, i = .mzero f ∨ i = .manc f) → c.mxCause i = none →
    (∀ line ∈ (c.mxOp i).l2Lines, ∃ pa, s.translate (.core c.k) c.g.fn line ⟨true, false, false⟩ = Except.ok (.dev pa, none)) →
    (∀ x ∈ (s.core c.k).mxOps, x.slot = c.sl → x.gen = s.gen c.k c.sl → x.seq < c.g.seq) → retire [] c.g.fly = c.g.fly →
    let f := Instr.long i
    let lo := lowest c.active
    ∃ t g m n, exec i s = .next t ∧ c.gangIn t = some g ∧ g.sameRegs c.g ∧ g.inflight .m = c.g.inflight .m + 1 ∧ (t.core c.k).mxOwner = some c.sl ∧
      t.mem = s.mem ∧ t.groups = s.groups ∧ (t.core c.k).tile = (s.core c.k).tile ∧ (t.core c.k).mxOps = (s.core c.k).mxOps ++ [m] ∧ m.instr = i ∧
      m.slot = c.sl ∧ m.gen = s.gen c.k c.sl ∧ m.group = c.g.group ∧ m.seq = c.g.seq ∧ m.active = c.active ∧ m.mode = c.g.mode ∧ m.ran = false ∧
      m.lines.map (·.1) = (c.mxOp i).l2Lines ∧ m.anchor = s.anchorNow c.k c.g.group (immF f 2 0) ∧
      ((∃ f, i = .mma f ∨ i = .mmas f) → m.a = c.src f.lit f.a 32 lo ∧ m.b = c.src f.lit f.b 32 lo) ∧
      s.cycle ≤ n ∧ (n, .engineBlockProduct c.k) ∈ t.agenda ∧
      (∀ line ∈ (c.mxOp i).l2Lines, ∃ id r pa n, Cells.find? t.reqs id = some r ∧ r.line = line ∧ r.tgt = .dev pa ∧ r.instr = i ∧
        (n, .l2DirectOperandReply id line Arrival.here) ∈ t.agenda)) ∧
  (∀ f s c grp, Issues (.mout f) s c → HasEngine c grp → c.mxCause (.mout f) = none →
    let e := fmtElems f.fmt
    let w := fmtWidth f.fmt / 32
    let fl := fun lane => moutTrap c (.mout f) grp lane
    (retire [] c.g.fly = c.g.fly → flagTrap c.g.trapen c.lanes fl = none → ∃ t g, exec (.mout f) s = .next t ∧ c.gangIn t = some g ∧ t.mem = s.mem ∧ t.groups = s.groups ∧
      g.inflight .m = c.g.inflight .m + 1 ∧ (t.core c.k).mxOwner = some c.sl ∧ g.k = c.g.k ∧ g.s = c.g.s ∧ g.p = c.g.p ∧ g.x = c.g.x ∧ g.b = c.g.b ∧
      (∀ lane ∈ c.lanes, ∀ n < moutCols f / e, ∀ j < w,
        (f.fmt = 14 → g.vReg (f.d.toNat + w * n + j) lane = BitVec.ofNat 32 ((galleyWord grp (immF f 2 0) lane (immF f 8 4 + n)).toNat / 2 ^ (32 * j))) ∧
        (f.fmt ≠ 14 → g.vReg (f.d.toNat + w * n + j) lane = BitVec.ofNat 32 (((moutLane c (.mout f) grp lane).1.getD n 0) / 2 ^ (32 * j)))) ∧
      ∀ r lane, lane < 32 → (c.active.getLsbD lane = false ∨ r < f.d.toNat ∨ f.d.toNat + w * (moutCols f / e) ≤ r) → g.vReg r lane = c.g.vReg r lane) ∧
    (∀ cause v, flagTrap c.g.trapen c.lanes fl = some (cause, v) → c.g.level < 2 → ∃ t, exec (.mout f) s = .next t ∧ Took c cause v (c.head (.mout f)) t))

/-- R218, R222, R224, R225, R227, R229, R230: what the engine does with its next instruction: MZERO zeroes the rows of the ACTIVE lanes, MANC
gives every word the new anchor, a dense product of tile operands opens a fold with the exact sums; a fold that nothing joins is
written, each word by one addition; an operand with an uncorrectable error (of a tile-store row too, where the choice has one) updates
nothing and is reported; the oldest instruction, executed and written, completes.
The model's own: Sums past the range of the fold buffer are deduced (log 27); the times, and which reads meet an uncorrectable error, are the model's (logs 35, 10). -/
def Obligations.TheEngineExecutes : Prop :=
  (∀ s k m grp f, EngineNext s k m grp → m.instr = .mzero f →
    let gal := immF f 2 0
    ∃ t y, exec (.engineBlockProduct k) s = .next t ∧ t.group? m.group = some y ∧ y = { grp with scratch := y.scratch, wid := y.wid } ∧ t.mem = s.mem ∧
      (∀ i < 32, ∀ n < 32, galleyWord y gal i n = if m.active.getLsbD i then 0 else galleyWord grp gal i n) ∧
      headerWord y gal 0 = headerWord grp gal 0 ∧
      (∀ w, w = 1 ∨ w = 2 → ∀ i < 32, (headerWord y gal w).testBit i = ((headerWord grp gal w).testBit i && !m.active.getLsbD i)) ∧
      (s.cycle + 40, .matrixComplete k) ∈ t.agenda) ∧
  (∀ s k m grp f, EngineNext s k m grp → m.instr = .manc f →
    let gal := immF f 2 0
    let old := anchorVal (bits (headerWord grp gal 0) 31 16)
    ∃ t y, exec (.engineBlockProduct k) s = .next t ∧ t.group? m.group = some y ∧ y = { grp with scratch := y.scratch, wid := y.wid } ∧ t.mem = s.mem ∧
      headerWord y gal 0 = immF f 31 16 * 65536 ∧
      (∀ i < 32, ∀ n < 32, let w := galleyWord grp gal i n
        galleyWord y gal i n = if Galley.cls w ≠ 0 then Galley.ofCls (Galley.cls w)
          else (wadd (anchorVal (immF f 31 16)) 0 (.val (Galley.value old w))).1) ∧
      (s.cycle + 40, .matrixComplete k) ∈ t.agenda) ∧
  (∀ s k m grp f i n, EngineNext s k m grp → m.instr = .mma f → m.bad = none → s.choice.testBit 98 = false → subF f 6 5 = 0 → f.sub.getLsbD 4 = false → m.active.getLsbD i = true → n < 32 →
    i < 32 →
    let prod := fun x => (Val.mul (tileElem (s.core k).tile f.fmt (mxEs m.instr) m.a i x)
      (tileElem (s.core k).tile (f.sub.extractLsb' 0 4) (mxEs m.instr) m.b n x)).1
    let parts := fun x => (Contrib.val (prod x)).parts (anchorVal m.anchor)
    let sum := fun j => ((List.range j).map fun x => (parts x).2).sum
    (∀ x < mxK m.instr, (parts x).1 = 0) → (∀ j ≤ mxK m.instr, (sum j).natAbs < 2 ^ 127) →
    ∃ t o e, exec (.engineBlockProduct k) s = .next t ∧ t.mem = s.mem ∧ t.groups = s.groups ∧ (t.core k).fold = some o ∧ o.slot = m.slot ∧ o.group = m.group ∧
      o.gal = immF f 2 0 ∧ o.active = m.active ∧ o.count = 1 ∧ o.last = s.cycle ∧ Cells.find? o.ents (32 * i + n) = some e ∧
      e.sum = sum (mxK m.instr) ∧ e.nan = false ∧ e.pinf = false ∧ e.ninf = false) ∧
  (∀ s k m grp f v g, EngineNext s k m grp → m.instr = .mma f ∨ m.instr = .mmas f →
    (m.bad = some (some v) ∨ (m.bad = none ∧ s.choice.testBit 98 = true ∧ v = BitVec.ofNat 64 (2 ^ 63 + s.choice / 2 ^ 256 % 512) ∧
      m.readsRow (s.choice / 2 ^ 256 % 512) = true)) → s.gen k m.slot = m.gen → s.gang? k m.slot = some g →
    ∃ t h, exec (.engineBlockProduct k) s = .next t ∧ t.gang? k m.slot = some h ∧ h.sameRegs g ∧ Reported g h 0x1B v.toNat ∧ t.groups = s.groups ∧
      (t.core k).fold = none ∧ (s.cycle + 40, .matrixComplete k) ∈ t.agenda) ∧
  (∀ s k m grp f g, EngineNext s k m grp → m.instr = .mma f ∨ m.instr = .mmas f → m.bad = some none → s.gang? k m.slot = some g →
    ∃ t, exec (.engineBlockProduct k) s = .next t ∧ t.gang? k m.slot = some g ∧ t.groups = s.groups ∧ (t.core k).fold = none ∧
      (s.cycle + 40, .matrixComplete k) ∈ t.agenda) ∧
  (∀ s k o grp, (s.core k).fold = some o → s.choice.testBit 99 = false → o.last + 64 ≤ s.cycle → s.group? o.group = some grp → Cells.risesFrom 0 o.ents = true → (∀ p ∈ o.ents, p.1 < 1024) →
    ∃ t y, exec (.foldTimeout k) s = .next t ∧ t.group? o.group = some y ∧ y = { grp with scratch := y.scratch, wid := y.wid } ∧ (t.core k).fold = none ∧
      t.mem = s.mem ∧ (∀ m ∈ (t.core k).mxOps, m.folded = false) ∧
      ∀ i < 32, ∀ n < 32, galleyWord y o.gal i n = match Cells.find? o.ents (32 * i + n) with
        | some e => (waddParts (galleyWord grp o.gal i n) e.parts.1 e.parts.2).1
        | none => galleyWord grp o.gal i n) ∧
  (∀ s k m rest g pre post, (s.core k).mxOps = m :: rest → m.ran = true → m.folded = false → s.gen k m.slot = m.gen → s.gang? k m.slot = some g →
    g.fly = pre ++ ⟨m.seq, .m, 1⟩ :: post → (∀ x ∈ pre, x.path ≠ .m) → (∀ x ∈ post, x.seq ≠ m.seq) →
    ∃ t h, exec (.matrixComplete k) s = .next t ∧ t.gang? k m.slot = some h ∧ h.sameRegs g ∧ h.inflight .m < g.inflight .m ∧ (t.core k).mxOps = rest ∧
      t.mem = s.mem ∧ t.groups = s.groups)

/-! ## Launches, groups and staging (spec/13) -/

/-- R17, R28, R73, R75, R268, R270, R276, R277, R280, R281, R282, R285, R286: a launch's next groups take cores; a placed group's landings are filled from
memory, or fault and stay zero; its gangs start at the kernel's entry with all lanes, zero registers and their two buffer records, its galleys
with their anchors; it ends with its last gang; a launch that has run for its limit has 0x34 reported to its gangs; and
staging into L2 lists the range's lines and changes no value.
The model's own: Which group is placed next, and the lines of pinned landings, are the model's (logs 22, 40). -/
def Obligations.LaunchesRunAsGroups : Prop :=
  (∀ s lk k l, s.launch? lk = some l → s.placeable lk l = true → 0 < l.setsz → k % l.setsz = 0 → (∀ j < l.setsz, s.fits l.fn l.kern (k + j) = true) →
    ∃ t, exec (.groupPlacement lk k) s = .next t ∧ t.mem = s.mem ∧ (∃ l', t.launch? lk = some l' ∧ l'.placed = l.placed + l.setsz ∧ l'.ended = l.ended) ∧
      ∀ j < l.setsz, ∃ g, t.group? (s.nextId + j) = some g ∧ g.core = k + j ∧ g.launch = lk ∧ g.fn = l.fn ∧ g.groupId = l.placed + j ∧ g.kern = l.kern ∧
        g.started = false ∧ g.ended = false ∧ g.scratch = [] ∧ (bufRec g.b0).base = l.args % 2 ^ 57 ∧ (bufRec g.b0).extent = l.argLen % 2 ^ 40 ∧
        (bufRec g.b0).stride = 8 ∧ (bufRec g.b0).ronly = true) ∧
  (∀ s gk g, s.group? gk = some g → g.started = false → g.ended = false → g.halting = false → (∀ f ∈ g.fills, f.left = []) →
    g.kern.gangs ≤ (s.freeSlots g.core).length →
    ∃ t y, exec (.groupStart gk) s = .next t ∧ t.mem = s.mem ∧ t.group? gk = some y ∧ y.started = true ∧ y.live = List.range g.kern.gangs ∧
      (List.Pairwise (fun a b : Nat × Nat => a.1 + 64 ≤ b.1 ∨ b.1 + 64 ≤ a.1) g.kern.galleys → ∀ gal < g.kern.galleys.length, ∀ w < 16,
        headerWord y gal w = if w = 0 then (g.kern.galleys.getD gal (0, 0)).2 % 65536 * 65536 else 0) ∧
      ∀ j < g.kern.gangs, ∃ sl x f, (s.freeSlots g.core)[j]? = some sl ∧ t.gang? g.core sl = some x ∧ x.gid = j ∧ x.group = gk ∧ x.fn = g.fn ∧ x.level = 0 ∧
        x.nblk = g.kern.nblk ∧ x.mode = modeStored g.kern.mode ∧ x.frags = [f] ∧ f.pc = toPc g.kern.entry ∧ f.mask = BitVec.allOnes 32 ∧ f.wait = .run ∧
        f.jv = false ∧ f.loop = none ∧ (∀ r lane, x.vReg r lane = 0 ∧ x.kReg r lane = 0 ∧ x.sReg r lane = 0 ∧ x.xReg r lane = 0) ∧
        (∀ p, x.pReg p = if p = 0 then BitVec.allOnes 32 else 0) ∧ x.bReg 0 = g.b0 ∧ x.bReg 1 = g.b1 ∧ (∀ n, 2 ≤ n → x.bReg n = 0) ∧
        x.t1 = TrapRegs.zero ∧ x.t2 = TrapRegs.zero ∧ x.defq = g.sfaults.map fun v => ⟨0x33, v⟩) ∧
  (∀ s gk g l, s.group? gk = some g → g.started = true → g.ended = false → g.live = [] → s.groupBusy gk = false → s.launch? g.launch = some l →
    ∃ t, exec (.groupEnd gk) s = .next t ∧ t.mem = s.mem ∧ (∀ y, t.group? gk = some y → y.ended = true) ∧
      ∀ l', t.launch? g.launch = some l' → l'.ended = l.ended + 1) ∧
  (∀ s gk r line g f, s.group? gk = some g → g.started = false → g.fills[r]? = some f → line ∈ f.left → line ∉ f.asked →
    (∀ p ∈ f.parts line, ∃ pa, s.translate (.agent g.fn) g.fn p.1 ⟨true, false, false⟩ = Except.ok (.dev pa, none) ∧ s.spoilt g.fn pa = false) →
      ∃ t y f', exec (.stagedLineWritten f.yarder gk r line) s = .next t ∧ t.mem = s.mem ∧ t.group? gk = some y ∧ y = { g with scratch := y.scratch, fills := y.fills } ∧
        y.fills[r]? = some f' ∧ line ∉ f'.left ∧ (∀ x ∈ f.left, x ≠ line → x ∈ f'.left) ∧
        (∀ p ∈ f.parts line, ∀ pa, s.translate (.agent g.fn) g.fn p.1 ⟨true, false, false⟩ = Except.ok (.dev pa, none) → ∀ j < p.2,
          Memory.byte y.scratch (f.soff + (p.1 - f.base) + j) = s.homeByte (s.keyOf g.fn) (pa + j)) ∧
        ∀ a, a < f.soff + 128 * line ∨ f.soff + 128 * line + 128 ≤ a → Memory.byte y.scratch a = Memory.byte g.scratch a) ∧
  (∀ s gk r line g f p cause, s.group? gk = some g → s.launch? gk = none → g.started = false → g.fills[r]? = some f → line ∈ f.left → line ∉ f.asked →
    p ∈ f.parts line → s.translate (.agent g.fn) g.fn p.1 ⟨true, false, false⟩ = Except.error cause →
      ∃ t y f', exec (.stagedLineWritten f.yarder gk r line) s = .next t ∧ t.mem = s.mem ∧ t.group? gk = some y ∧ BitVec.ofNat 64 f.base ∈ y.sfaults ∧
        y.fills[r]? = some f' ∧ line ∉ f'.left ∧
        ∀ a, Memory.byte y.scratch a = if f.soff + 128 * line ≤ a ∧ a < f.soff + 128 * line + 128 then 0 else Memory.byte g.scratch a) ∧
  (∀ s lk r l d, s.launch? lk = some l → s.mayStage lk r = true → l.kern.decls[r]? = some d →
    ∃ t l', exec (.stagingBegin lk r) s = .next t ∧ t.mem = s.mem ∧ t.frames = s.frames ∧ t.groups = s.groups ∧ t.cores = s.cores ∧
      t.launch? lk = some l' ∧ l'.staged = l.staged ++ [r] ∧ l' = { l with staged := l'.staged, lands := l'.lands } ∧
      (l'.lands = l.lands ∨ ∃ f, l'.lands = Cells.put l.lands r f ∧ f.len = d.len ∧ f.left = List.range (d.len / 128))) ∧
  (∀ s lk l, s.launch? lk = some l → l.runlim ≠ 0 → l.watched = false → l.runlim * 11000 ≤ l.run →
    ∃ t, exec (.watchdog lk) s = .next t ∧ t.launch? lk = some { l with watched := true } ∧ t.mem = s.mem ∧ t.groups = s.groups ∧
      ∀ gk grp sl g, s.group? gk = some grp → grp.launch = lk → s.gang? grp.core sl = some g → g.group = gk →
        ∃ h, t.gang? grp.core sl = some h ∧ h.sameRegs g ∧ (g.defq.length < 8 → ⟨0x34, BitVec.ofNat 64 l.runlim⟩ ∈ h.defq))

/-! ## Queues and functions (spec/18) -/

namespace Sys2Proof.Machine

/-- R351, R354, R360: the queue may process its next packet, whose words are w and whose command is the one named. -/
def Presents (s : State) (fn q cmd : Nat) (w : List Nat) : Prop :=
  s.canProcess fn q = true ∧ s.packetAt fn q (s.queue fn q).head.toNat = some w ∧ w.getD 0 0 / 2 ^ 24 = 1 ∧ w.getD 0 0 % 256 = cmd

/-- R372, R381, R385: the state once the queue controller has read what the packet of words w names: the reads are counted, and the
translations they made are kept. -/
def controllerRead (s : State) (fn q : Nat) (w : List Nat) : State := s.noteReads fn (s.packetRanges fn q w)

/-- R208: the queue skips nothing. -/
def NoSkip (s : State) (fn q : Nat) : Prop := (s.queue fn q).skipPhase = none ∧ (s.queue fn q).skipJob = false

/-- R351: the packet has been processed: HEAD has gone past it, and the queue has not stopped. -/
def Processed (s t : State) (fn q : Nat) : Prop :=
  (t.queue fn q).head = (s.queue fn q).head + 1 ∧ (t.queue fn q).tail = (s.queue fn q).tail ∧ (t.queue fn q).err = false ∧ t.mem = s.mem

/-- R360: the queue has stopped with a code: its slot is given up, and event 0 is set. -/
def StoppedWith (s t : State) (fn q code : Nat) : Prop :=
  (t.queue fn q).err = true ∧ (t.queue fn q).ecode = code ∧ (t.queue fn q).slot = false ∧ (t.queue fn q).head = (s.queue fn q).head ∧
    (t.func fn).evt.getLsbD 0 = true ∧ t.mem = s.mem ∧ t.launches = s.launches ∧ t.graphs = s.graphs ∧ t.cslots = s.cslots

/-- The commands by their codes. -/
def commandOf (fn q cmd : Nat) : Instr :=
  match cmd with
  | 1 => .cmdLaunch fn q
  | 2 => .cmdGraph fn q
  | 3 => .cmdPhend fn q
  | 4 => .cmdProof fn q
  | 5 => .cmdSignal fn q
  | 6 => .cmdCopen fn q
  | 7 => .cmdCclose fn q
  | 8 => .cmdOvfadd fn q
  | 9 => .cmdCancel fn q
  | _ => .cmdNop fn q

end Sys2Proof.Machine

/-- R200, R206, R208, R268, R271, R272, R275, R351, R356, R360: each command of a packet that passes its checks, as the queue controller
processes it; a packet that cannot be read, of another version, or with a reserved bit stops its queue with the code.
The model's own: Which phases count as known, and the bytes read from elsewhere, are the model's (logs 49, 8). -/
def Obligations.CommandsAreProcessed : Prop :=
  (∀ s fn q w, Presents s fn q 0 w → w.getD 0 0 = 2 ^ 24 → (∀ i, 1 ≤ i → i < 16 → w.getD i 0 = 0) →
    ∃ t, exec (.cmdNop fn q) s = .next t ∧ Processed s t fn q ∧ t.launches = s.launches ∧ t.graphs = s.graphs) ∧
  (∀ s fn q w, Presents s fn q 1 w → NoSkip s fn q → s.launchCodes fn q w = [] →
    ∃ t l, exec (.cmdLaunch fn q) s = .next t ∧ Processed s t fn q ∧ t.launch? s.nextId = some l ∧ l.fn = fn ∧ l.queue = q ∧ l.job = (s.queue fn q).job ∧
      l.phase = (s.queue fn q).phends ∧ l.lid = BitVec.ofNat 32 (w.getD 1 0) ∧ l.groups = w.getD 2 0 ∧ l.setsz = bits (w.getD 3 0) 6 0 ∧
      l.args = w.getD 6 0 + 2 ^ 32 * w.getD 7 0 ∧ l.argLen = w.getD 8 0 ∧ l.runlim = w.getD 9 0 ∧ l.depq = (w.getD 0 0).testBit 8 ∧ l.placed = 0 ∧ l.ended = 0 ∧
      l.nodeId = none ∧ l.kern = ((controllerRead s fn q w).readKernel fn (w.getD 4 0 + 2 ^ 32 * w.getD 5 0)).1 ∧ .launch s.nextId ∈ (t.queue fn q).pending ∧
      (∃ j, t.job? fn (s.queue fn q).job = some j ∧ (s.queue fn q).phends < j.known)) ∧
  (∀ s fn q w ns, Presents s fn q 2 w → NoSkip s fn q → s.graphCodes fn q w = [] → (controllerRead s fn q w).graphNodes fn w = some ns →
    ∃ t g, exec (.cmdGraph fn q) s = .next t ∧ Processed s t fn q ∧ t.graph? s.nextId = some g ∧ g.fn = fn ∧ g.queue = q ∧ g.job = (s.queue fn q).job ∧
      g.phase = (s.queue fn q).phends ∧ g.gid = some (bits (w.getD 2 0) 15 0) ∧ g.nodes.length = bits (w.getD 2 0) 28 16 ∧
      g.bins = w.getD 10 0 + 2 ^ 32 * w.getD 11 0 ∧ g.binLen = w.getD 12 0 ∧ g.ovfLen = w.getD 3 0 ∧ g.ended = false ∧ g.cancelled = false ∧
      ∀ i x, ns[i]? = some x → ∃ l, t.launch? (s.nextId + 1 + i) = some l ∧ l.nodeId = some i ∧ l.graph = s.nextId ∧ l.groups = 0 ∧
        l.lid = BitVec.ofNat 32 (w.getD 1 0 + i) ∧ g.nodes[i]? = some ⟨x.1, s.nextId + 1 + i, []⟩) ∧
  (∀ s fn q w, Presents s fn q 3 w → NoSkip s fn q → w.getD 0 0 = 2 ^ 24 + 3 → (∀ i, 1 ≤ i → i < 16 → w.getD i 0 = 0) →
    ∃ t, exec (.cmdPhend fn q) s = .next t ∧ Processed s t fn q ∧ (t.queue fn q).phends = (s.queue fn q).phends + 1) ∧
  (∀ s fn q w, Presents s fn q 4 w → NoSkip s fn q → w.getD 0 0 = 2 ^ 24 + 4 → (∀ i, 1 ≤ i → i < 16 → w.getD i 0 = 0) → (s.px fn).en = true →
    (s.px fn).job = (s.queue fn q).job → (s.queue fn q).qends ≠ [] →
    ∃ t j, exec (.cmdProof fn q) s = .next t ∧ Processed s t fn q ∧ t.job? fn (s.queue fn q).job = some j ∧ (s.queue fn q).phends - 1 ∈ j.proofAt) ∧
  (∀ s fn q w, Presents s fn q 5 w → w.getD 0 0 &&& 0xC0FE00 = 0 → (∀ i, i = 1 ∨ (6 ≤ i ∧ i < 16) → w.getD i 0 = 0) →
    (w.getD 2 0 + 2 ^ 32 * w.getD 3 0) % 8 = 0 →
    ∃ t, exec (.cmdSignal fn q) s = .next t ∧ Processed s t fn q ∧
      .signal s.nextId (w.getD 2 0 + 2 ^ 32 * w.getD 3 0) (BitVec.ofNat 64 (w.getD 4 0 + 2 ^ 32 * w.getD 5 0)) ((w.getD 0 0).testBit 8)
        (bits (w.getD 0 0) 21 16) .unsent ∈ (t.queue fn q).pending) ∧
  (∀ s fn q w, Presents s fn q 6 w → w.getD 0 0 = 2 ^ 24 + 6 → w.getD 1 0 < 64 → w.getD 5 0 = 0 → w.getD 14 0 = 0 → w.getD 15 0 = 0 →
    0 < w.getD 2 0 → w.getD 2 0 < 65536 → (w.getD 3 0 = 0 ∨ (100 ≤ w.getD 3 0 ∧ w.getD 3 0 ≤ 100000)) → 0 < w.getD 4 0 → w.getD 4 0 ≤ 16 →
    s.cslot? (w.getD 1 0) = none →
    ∃ t c, exec (.cmdCopen fn q) s = .next t ∧ Processed s t fn q ∧ t.cslot? (w.getD 1 0) = some c ∧ c.fn = fn ∧ c.job = (s.queue fn q).job ∧ c.p = w.getD 2 0 ∧
      c.timeout = (if w.getD 3 0 = 0 then 2000 else w.getD 3 0) ∧ c.members.length = w.getD 4 0 ∧ c.round = 0 ∧ c.prev = none ∧ c.counted = [] ∧
      c.held = [] ∧ c.closing = false) ∧
  (∀ s fn q w c, Presents s fn q 7 w → w.getD 0 0 = 2 ^ 24 + 7 → w.getD 1 0 < 64 → (∀ i, 2 ≤ i → i < 16 → w.getD i 0 = 0) →
    s.cslot? (w.getD 1 0) = some c → c.fn = fn → c.job = (s.queue fn q).job → c.closing = false →
    ∃ t, exec (.cmdCclose fn q) s = .next t ∧ Processed s t fn q ∧
      t.cslot? (w.getD 1 0) = if (s.creds.all fun p => decide (p.2.cslot ≠ w.getD 1 0)) ∧ c.counted = [] ∧ c.held = [] then none
        else some { c with closing := true }) ∧
  (∀ s fn q w gk g, Presents s fn q 8 w → NoSkip s fn q → w.getD 0 0 = 2 ^ 24 + 8 → w.getD 2 0 < 65536 → w.getD 6 0 % 65536 = 0 →
    (∀ i, i = 1 ∨ i = 3 ∨ (7 ≤ i ∧ i < 16) → w.getD i 0 = 0) → s.jobGraph fn q (w.getD 2 0) = some gk → s.graph? gk = some g →
    ∃ t, exec (.cmdOvfadd fn q) s = .next t ∧ Processed s t fn q ∧ t.graph? gk = some { g with ovfLen := g.ovfLen + w.getD 6 0, waiting := false }) ∧
  (∀ s fn q w, Presents s fn q 9 w → NoSkip s fn q → s.cancelCodes fn q w = [] →
    ∃ t, exec (.cmdCancel fn q) s = .next t ∧ (t.queue fn q).head = (s.queue fn q).head + 1 ∧ t.mem = s.mem ∧
      (bits (w.getD 0 0) 9 8 = 0 → ∀ lk l, s.launch? lk = some l → l.fn = fn → l.job = (s.queue fn q).job → l.lid = BitVec.ofNat 32 (w.getD 1 0) →
        ∀ l', t.launch? lk = some l' → l'.cancelled = true ∨ l'.done = true) ∧
      (bits (w.getD 0 0) 9 8 = 1 → ∀ gk, s.jobGraph fn q (w.getD 2 0) = some gk → ∀ g, t.graph? gk = some g → g.cancelled = true)) ∧
  (∀ s fn q cmd, cmd ≤ 9 → s.canProcess fn q = true →
    (s.packetAt fn q (s.queue fn q).head.toNat = none → ∃ t, exec (commandOf fn q cmd) s = .next t ∧ StoppedWith s t fn q 4) ∧
    (∀ w, s.packetAt fn q (s.queue fn q).head.toNat = some w → w.getD 0 0 / 2 ^ 24 ≠ 1 ∨ 9 < w.getD 0 0 % 256 →
      ∃ t, exec (commandOf fn q cmd) s = .next t ∧ StoppedWith s t fn q 2) ∧
    (∀ w, Presents s fn q cmd w → NoSkip s fn q → w.getD 15 0 ≠ 0 → w.getD 15 0 < 2 ^ 32 →
      ∃ t, exec (commandOf fn q cmd) s = .next t ∧ StoppedWith s t fn q 3))

/-- R349, R350, R352, R354, R355, R356, R357, R358, R359, R360: slots, hold limits, signals, notify registers, cancels through JCAN, and the
registers of queues and functions with rules of their own.
The model's own: Which queue is served next and its share are the model's (logs 22, 58); masked vectors follow log 14. -/
def Obligations.QueuesAndFunctionsAreServed : Prop :=
  (∀ s fn q t, q < 256 → s.hasLeft fn = none →
    let qu := s.queue fn q
    let dn := (t - qu.head).toNat
    let dc := (qu.tail - qu.head).toNat
    (2 ^ qu.log2 < dn → ∃ u, exec (.notifyWrite fn q t) s = .next u ∧ StoppedWith s u fn q 1) ∧
    (dn ≤ 2 ^ qu.log2 → dc < dn → ∃ u, exec (.notifyWrite fn q t) s = .next u ∧ (u.queue fn q).tail = t ∧ (u.queue fn q).head = qu.head ∧ u.mem = s.mem) ∧
    (dn ≤ 2 ^ qu.log2 → dn ≤ dc → exec (.notifyWrite fn q t) s = .next s)) ∧
  (∀ s fn q, s.slotsHeld < 512 → s.bestAsk = some (fn, q) →
    ∃ t, exec (.slotGrant fn q) s = .next t ∧ (t.queue fn q).slot = true ∧ t.mem = s.mem ∧
      (t.queue fn q).holdEnd = if (s.queue fn q).np && (s.func fn).npok then some (s.pod + 11000000 * (s.queue fn q).hold) else none) ∧
  (∀ s fn q, (s.queue fn q).slot = true → (s.queue fn q).holdEnd = none → 512 ≤ s.slotsHeld → s.bestAsk ≠ none → s.mostOver fn = true →
    ∃ t, exec (.slotReclaim fn q) s = .next t ∧ (t.queue fn q).slot = false ∧ t.mem = s.mem ∧
      ∀ f x, (f, x) ≠ (fn, q) → (t.queue f x).slot = (s.queue f x).slot) ∧
  (∀ s fn q e, (s.queue fn q).holdEnd = some e → e ≤ s.pod →
    (s.firstPend = none → ∃ t, exec (.holdLimitLapse fn q) s = .next t ∧ (t.queue fn q).holdEnd = none ∧ (t.queue fn q).slot = (s.queue fn q).slot) ∧
    (∀ p, s.firstPend = some p → p ≠ (fn, q) → ∃ t, exec (.holdLimitLapse fn q) s = .next t ∧ (t.queue fn q).slot = false ∧ (t.queue p.1 p.2).slot = true ∧
      (t.queue p.1 p.2).pend = none)) ∧
  (∀ s fn q id addr v irq vec rest, (s.queue fn q).pending = .signal id addr v irq vec .unsent :: rest →
    (∀ pa, s.vaTarget fn addr ⟨false, true, false⟩ = Except.ok (.dev pa) → s.keyOk (s.keyOf fn) pa = true → pa % 8 = 0 → Untracked s fn →
      ∃ t, exec (.signalWrite fn q false) s = .next t ∧ t.homeRead (s.keyOf fn) pa 8 = v.toNat ∧
        (∀ key x, x < pa ∨ pa + 8 ≤ x → t.homeByte key x = s.homeByte key x) ∧
        t.out = (if irq && !((s.func fn).msixDword (4 * vec + 3)).getLsbD 0 then s.out ++ [.msix fn vec] else s.out) ∧
        (irq = true → vec < 64 → ((s.func fn).msixDword (4 * vec + 3)).getLsbD 0 = true → (t.func fn).pba.getLsbD vec = true) ∧
        ∀ x ∈ (t.queue fn q).pending, x ∈ rest) ∧
    (∀ cause, s.vaTarget fn addr ⟨false, true, false⟩ = Except.error cause →
      ∃ t, exec (.signalWrite fn q false) s = .next t ∧ (t.func fn).evt.getLsbD 5 = true ∧ t.mem = s.mem)) ∧
  (∀ s fn q id addr v irq vec bad rest, (s.queue fn q).pending = .signal id addr v irq vec (.answered bad) :: rest →
    ∃ t, exec (.signalWrite fn q false) s = .next t ∧ t.mem = s.mem ∧ (t.func fn).evt.getLsbD 5 = ((s.func fn).evt.getLsbD 5 || bad) ∧
      (irq = true → ((s.func fn).msixDword (4 * vec + 3)).getLsbD 0 = false → .msix fn vec ∈ t.out) ∧ ∀ x ∈ (t.queue fn q).pending, x ∈ rest) ∧
  (∀ s (v : Word) e, (e = .jcanPhase v ∧ bits v.toNat 25 24 = 2) ∨ (e = .jcanJob v ∧ bits v.toNat 25 24 = 3) → s.jcan.getLsbD 31 = false →
    v.getLsbD 31 = true → s.jobNamed (bits v.toNat 21 16) (bits v.toNat 15 0) = true →
    ∃ t, exec e s = .next t ∧ t.mem = s.mem ∧ t.jcan.getLsbD 31 = true ∧ t.jcan.getLsbD 30 = false ∧
      bits t.jcan.toNat 15 0 = bits v.toNat 15 0 ∧ bits t.jcan.toNat 21 16 = bits v.toNat 21 16 ∧
      (bits v.toNat 25 24 = 3 → ∀ j, t.job? (bits v.toNat 21 16) (bits v.toNat 15 0) = some j → j.cancelled = true) ∧
      ∀ j gk g, s.job? (bits v.toNat 21 16) (bits v.toNat 15 0) = some j → s.graph? gk = some g → g.fn = bits v.toNat 21 16 → g.job = bits v.toNat 15 0 →
        bits v.toNat 25 24 = 3 ∨ g.phase = j.phase → ∀ g', t.graph? gk = some g' → g'.cancelled = true) ∧
  (∀ s (v : Word) e, e = .jcanPhase v ∨ e = .jcanJob v → s.jcan.getLsbD 31 = false → v.getLsbD 31 = true →
    bits v.toNat 25 24 < 2 ∨ s.jobNamed (bits v.toNat 21 16) (bits v.toNat 15 0) = false →
    ∃ t, exec e s = .next t ∧ t = { s with jcan := t.jcan } ∧ t.jcan.getLsbD 31 = false ∧ t.jcan.getLsbD 30 = true) ∧
  (∀ s (v : Word) e, e = .jcanPhase v ∨ e = .jcanJob v → s.jcan.getLsbD 31 = true ∨ v.getLsbD 31 = false →
    ∃ t, exec e s = .next t ∧ t = { s with jcan := t.jcan } ∧ t.jcan.getLsbD 31 = s.jcan.getLsbD 31 ∧
      t.jcan.getLsbD 30 = (s.jcan.getLsbD 30 && !v.getLsbD 30) ∧ bits t.jcan.toNat 15 0 = bits v.toNat 15 0 ∧
      bits t.jcan.toNat 21 16 = bits v.toNat 21 16 ∧ bits t.jcan.toNat 25 24 = bits v.toNat 25 24) ∧
  (∀ s fn q head, ((s.queue fn q).en = true → exec (.qheadWrite fn q head) s = .next s) ∧
    ((s.queue fn q).en = false → ∃ t, exec (.qheadWrite fn q head) s = .next t ∧ (t.queue fn q).head = head ∧ (t.queue fn q).skipPhase = none ∧
      (t.queue fn q).skipJob = false ∧ (t.queue fn q).tail = (s.queue fn q).tail)) ∧
  (∀ s fn (v : Word), (s.fnActive fn = true → exec (.vfvdnWrite fn v) s = .next s) ∧
    (s.fnActive fn = false → ∃ t, exec (.vfvdnWrite fn v) s = .next t ∧ (t.func fn).vdnValid = v.getLsbD 31 ∧ (t.func fn).vdn.toNat = bits v.toNat 11 0 ∧
      t = { s with funcs := t.funcs } ∧ ∀ m, m ≠ fn → t.func m = s.func m))

/-! ## Translation caches, partitions, owner keys and rows (spec/19) -/

/-- R372, R373, R374: an invalidation discards what it covers (of stage 2, every stage-1 result of the functions too) and is busy until every request that was in flight for the covered functions
has completed; a start while it is busy is ignored.
The model's own: What an invalidation discards when it starts is deduced (log 51). -/
def Obligations.InvalidationsDiscardAndWait : Prop :=
  (∀ s fn e, e = Instr.s1InvalidatePage fn ∨ e = Instr.s1InvalidateFunction fn →
    ((s.func fn).s1ictl.getLsbD 31 = true → exec e s = .next s) ∧
    ((s.func fn).s1ictl.getLsbD 31 = false → ∃ t v, exec e s = .next t ∧ t.mem = s.mem ∧ (t.func fn).s1ictl.getLsbD 31 = true ∧
      Cells.find? t.inval fn = some v ∧ v.stage2 = false ∧ v.fn = fn ∧ (∀ id r, Cells.find? s.reqs id = some r → r.fn = fn → id ∈ v.waits) ∧
      (e = .s1InvalidateFunction fn → ∀ x ∈ t.tlb, x.fn = fn → x.ia = true) ∧
      (e = .s1InvalidatePage fn → ∀ x ∈ t.tlb, x.fn = fn → x.ia = true ∨ x.page ≠ bits (s.func fn).s1iaddr.toNat 56 16) ∧
      ∀ x, x.fn ≠ fn → (x ∈ t.tlb ↔ x ∈ s.tlb))) ∧
  (∀ s fn part e, e = Instr.s2InvalidatePage fn ∨ e = Instr.s2InvalidateFunction fn ∨ e = Instr.s2InvalidatePartition part ∨ e = Instr.s2InvalidateAll →
    let covers := fun (n : Nat) => (e = Instr.s2InvalidatePage fn ∧ n = fn) ∨ (e = Instr.s2InvalidateFunction fn ∧ n = fn) ∨
      (e = Instr.s2InvalidatePartition part ∧ s.partOf n = part) ∨ e = Instr.s2InvalidateAll
    (s.s2ictl.getLsbD 31 = true → exec e s = .next s) ∧
    (s.s2ictl.getLsbD 31 = false → ∃ t v, exec e s = .next t ∧ t.mem = s.mem ∧ t.s2ictl.getLsbD 31 = true ∧ Cells.find? t.inval 64 = some v ∧
      v.stage2 = true ∧ (∀ id r, Cells.find? s.reqs id = some r → covers r.fn → id ∈ v.waits) ∧
      (∀ x ∈ t.tlb, covers x.fn → e = .s2InvalidatePage fn ∧ x.ia = true ∧ x.ipage ≠ bits s.s2iaddr.toNat 51 16) ∧
      ∀ x, ¬ covers x.fn → (x ∈ t.tlb ↔ x ∈ s.tlb))) ∧
  (∀ s id v, Cells.find? s.inval id = some v →
    ((∃ w ∈ v.waits, Cells.find? s.reqs w ≠ none) → exec (.invalidationComplete id) s = .next s) ∧
    ((∀ w ∈ v.waits, Cells.find? s.reqs w = none) → ∃ t, exec (.invalidationComplete id) s = .next t ∧ Cells.find? t.inval id = none ∧ t.mem = s.mem ∧
      t.tlb = s.tlb ∧ (v.stage2 = true → t.s2ictl.getLsbD 31 = false) ∧ (v.stage2 = false → (t.func v.fn).s1ictl.getLsbD 31 = false)))

namespace Sys2Proof.Machine

/-- R375: two partitions share a requester port, a memory-side port or a reserved way. -/
def Shares (p q : Partition) : Prop :=
  p.req &&& q.req ≠ 0 ∨ p.mem &&& q.mem ≠ 0 ∨ ∃ w < 16, (p.qos.getLsbD (16 + w) || p.qos.getLsbD (32 + w)) = true ∧
    (q.qos.getLsbD (16 + w) || q.qos.getLsbD (32 + w)) = true

/-- R434: the record of dirty lines is in its canonical form: each line once, with its own bytes. -/
def LinesKept (s : State) : Prop :=
  Cells.risesFrom 0 s.dirty = true ∧ ∀ d ∈ s.dirty, d.1 % 128 = 0 ∧ Memory.wf d.2 = true ∧ ∀ e ∈ d.2, e.1 < 128

end Sys2Proof.Machine

/-- R323, R375, R377, R378, R379, R383, R385, R387: a partition becomes valid only where it shares nothing with a valid one, and stops being so only without
gangs and enabled queues; its reset ends its gangs, empties its cores and forgets its translations; owner keys are loaded and erased
only while unused; a retag makes a frame read as zero under every key; posted writes of the host reach the function's memory.
The model's own: Command registers after a command, and what a reset keeps, are deduced (logs 52, 55, 56). -/
def Obligations.PartitionsAndKeysAreManaged : Prop :=
  (∀ s t, t < 16 →
    ((∃ u < 16, u ≠ t ∧ (s.part u).valid = true ∧ Shares (s.part t) (s.part u)) → ∃ z, exec (.partitionValidWrite t true) s = .next z ∧
      z.part t = { s.part t with err := true } ∧ ∀ u, u ≠ t → z.part u = s.part u) ∧
    (¬ (∃ u < 16, u ≠ t ∧ (s.part u).valid = true ∧ Shares (s.part t) (s.part u)) → ∃ z, exec (.partitionValidWrite t true) s = .next z ∧
      z.part t = { s.part t with valid := true } ∧ ∀ u, u ≠ t → z.part u = s.part u) ∧
    (s.partBusy t = true → ∃ z, exec (.partitionValidWrite t false) s = .next z ∧ z.part t = { s.part t with err := true }) ∧
    (s.partBusy t = false → ∃ z, exec (.partitionValidWrite t false) s = .next z ∧ z.part t = { s.part t with valid := false })) ∧
  (∀ s t, t < 16 → ∃ z, exec (.partitionReset t) s = .next z ∧ (z.part t).stop = false ∧ (z.part t).valid = (s.part t).valid ∧
    (∀ k < 1024, (s.part t).req.getLsbD (k / 16) = true → ∀ sl, z.gang? k sl = none) ∧
    ∀ fn f, Cells.find? s.funcs fn = some f → f.partNo = t →
      (∀ x ∈ z.tlb, x.fn ≠ fn) ∧ (∀ gk y, z.group? gk = some y → y.fn ≠ fn) ∧ (∀ lk l, z.launch? lk = some l → l.fn ≠ fn) ∧
      (z.func fn).queues = [] ∧ (z.func fn).evt = 0 ∧ (z.func fn).keyid = f.keyid ∧ (z.func fn).s2root = f.s2root) ∧
  (∀ s t, t < 16 → s.Inv → LinesKept s → ∃ z, exec (.partitionReset t) s = .next z ∧
    ∀ x, Memory.byte z.mem x =
      match Cells.find? s.dirty (x / 128 * 128) with
      | some old =>
        if s.poison.contains (x / 128 * 128) && s.funcs.any (fun p => decide (p.2.partNo = t) && s.keyOf p.1 == (s.frame x).keyid) then
          Memory.byte old (x % 128)
        else Memory.byte s.mem x
      | none => Memory.byte s.mem x) ∧
  (∀ s (key : BitVec 12), (key = 0 ∨ s.keyUsed key = true →
      (∃ t, exec (.keyLoad key) s = .next t ∧ t = { s with kcmd := t.kcmd } ∧ t.kcmd.getLsbD 30 = true) ∧
      (∃ t, exec (.keyErase key) s = .next t ∧ t = { s with kcmd := t.kcmd } ∧ t.kcmd.getLsbD 30 = true)) ∧
    (¬ (key = 0 ∨ s.keyUsed key = true) →
      (∃ t, exec (.keyLoad key) s = .next t ∧ t.kcmd.getLsbD 30 = false ∧ Cells.find? t.keyData key.toNat = some s.kdata ∧ t.kdata = 0 ∧
        ∀ k, k ≠ key.toNat → Cells.find? t.keyData k = Cells.find? s.keyData k) ∧
      (∃ t, exec (.keyErase key) s = .next t ∧ t.kcmd.getLsbD 30 = false ∧ Cells.find? t.keyData key.toNat = none ∧
        ∀ k, k ≠ key.toNat → Cells.find? t.keyData k = Cells.find? s.keyData k))) ∧
  (∀ s (key : BitVec 12), let n := bits s.rtaddr.toNat 47 16
    (s.keyLoaded key = false → ∃ t, exec (.retag key) s = .next t ∧ t = { s with rtcmd := t.rtcmd } ∧ t.rtcmd.getLsbD 30 = true) ∧
    (s.keyLoaded key = true → ∃ t, exec (.retag key) s = .next t ∧ t.mem = s.mem ∧ t.rtcmd.getLsbD 30 = false ∧ (t.frame (65536 * n)).keyid = key ∧
      (∀ pa, pa / 65536 = n → (∀ k, t.homeByte k pa = 0) ∧ t.blockDirty pa = true ∧ t.blockGen pa = 0 ∧ t.poisoned pa = false) ∧
      ∀ k pa, pa / 65536 ≠ n → t.homeByte k pa = s.homeByte k pa)) ∧
  (∀ s, exec .refreshWindowEnd s = .next { s with rows := [] }) ∧
  (∀ s fn ia pa bs, pa % 128 + bs.length ≤ 128 → (∀ j < bs.length, s.translateIa (.agent fn) fn (ia + j) ⟨false, true, false⟩ = Except.ok (.dev (pa + j))) →
    s.keyOk (s.keyOf fn) pa = true → s.keyOf fn ≠ 0 ∨ bs.length = 1 → Untracked s fn →
    ∃ t, exec (.hostPostedWrite fn ia bs) s = .next t ∧ ∀ key x, t.homeByte key x =
      if key = s.keyOf fn ∧ pa ≤ x ∧ x < pa + bs.length then bs.getD (x - pa) 0 else s.homeByte key x)

/-! ## Proofs of progress (spec/20) -/

namespace Sys2Proof.Machine

/-- R388, R395: a block lies outside the part of the proof store from a record's start to the end of its next slot. -/
def ClearOf (p : Px) (r : PxRecord) (b : Nat) : Prop :=
  b % 4096 = 0 ∧ (r.slotAddr p r.ns) % 4096 = 0 ∧ (b + 4096 ≤ p.area + r.off ∨ r.slotAddr p r.ns + 4096 ≤ b)

end Sys2Proof.Machine

/-- R204, R388, R392, R393, R394, R396, R397, R398, R399: the proof context from enabling to rollback: the sweep gives every valid block the epoch, a
point freezes the folio and names the proof, markers close channels, the drain copies blocks of the old epoch into the record, a disable
forgets everything, and a rollback restores each touched block from the newest record that holds it.
The model's own: Command registers after a command, and which PHEND QPOS follows, are deduced (logs 52, 70); which virtual channels a link has is the model's (log 73). -/
def Obligations.ProofContextsRun : Prop :=
  (∀ s fn, let p := s.px fn
    (p.en = true → ∃ t, exec (.pxEnable fn) s = .next t ∧ t.px fn = { p with cmd := (t.px fn).cmd, ecode := 1 } ∧ (t.px fn).cmd.getLsbD 30 = true) ∧
    (p.en = false → p.len * 65536 < 16 * p.foln + 65536 → ∃ t, exec (.pxEnable fn) s = .next t ∧ t.px fn = { p with cmd := (t.px fn).cmd, ecode := 2 } ∧
      (t.px fn).cmd.getLsbD 30 = true) ∧
    (p.en = false → 16 * p.foln + 65536 ≤ p.len * 65536 → ∃ t, exec (.pxEnable fn) s = .next t ∧ t.mem = s.mem ∧ (t.px fn).en = true ∧ (t.px fn).e = 1 ∧
      (t.px fn).busy = true ∧ (t.px fn).head = 0 ∧ (t.px fn).first = p.proof + 1 ∧ (t.px fn).proof = p.proof ∧ (t.px fn).openF = [] ∧
      (t.px fn).records = [] ∧ (t.px fn).cmd.getLsbD 30 = false ∧ (t.px fn).cmd.getLsbD 31 = true)) ∧
  (∀ s fn, let p := s.px fn
    (p.busy = true → p.sweep = [] → ∃ t, exec (.enableSweepStep fn) s = .next t ∧ (t.px fn).busy = false ∧ (t.px fn).cmd.getLsbD 31 = false) ∧
    (∀ b rest, p.busy = true → p.sweep = b :: rest → ∃ t, exec (.enableSweepStep fn) s = .next t ∧ (t.px fn).sweep = rest ∧ (t.px fn).busy = !rest.isEmpty ∧
      (rest = [] → (t.px fn).cmd.getLsbD 31 = false) ∧
      (s.blockValid b = true → s.blockGen b = 0 → t.blockGen b = p.e ∧ (p.dead = false → p.openF.length < p.foln → (t.px fn).openF = p.openF ++ [b])) ∧
      (s.blockValid b = false ∨ s.blockGen b ≠ 0 → t.frames = s.frames ∧ (t.px fn).openF = p.openF))) ∧
  (∀ s fn, let p := s.px fn
    (s.pointReady fn = false → exec (.proofPoint fn) s = .next s) ∧
    (s.pointReady fn = true → ∃ t r, exec (.proofPoint fn) s = .next t ∧ (t.px fn).e = nextEpoch p.e ∧ (t.px fn).proof = p.proof + 1 ∧ (t.px fn).drain = true ∧
      (t.px fn).openF = [] ∧ (t.px fn).frozenF = p.openF ∧ (t.px fn).frozen = some r ∧ r.k = p.proof + 1 ∧ r.epoch = nextEpoch p.e ∧ r.folio = p.openF ∧
      (∀ v x l vc, (s.func fn).vdnValid = true → v ∈ s.others fn → s.resolve v = some x → l < 18 → (Cells.find? s.links l).any (fun y => y.up && decide (y.farMod = x.1)) = true → vc < 4 →
        .marker l vc x.1 v ⟨(s.func fn).vdn.toNat, p.job, p.proof + 1, nextEpoch p.e, Cells.getD p.sent v 0⟩ ∈ t.out)) ∧
    (∀ id o g, s.pointReady fn = true → s.snaps = [(id, o)] → o.fn = fn → s.gen o.core o.slot = o.gen → s.gang? o.core o.slot = some g → g.away = false →
      ((p.dead = false ∧ p.openBad = false ∧ p.area + p.head + p.recordLen p.openF.length ≤ p.end_ ∧ s.keyOk (s.keyOf fn) (p.area + p.head) = true) →
        ∃ t h, exec (.proofPoint fn) s = .next t ∧ t.gang? o.core o.slot = some h ∧ h.defq = g.defq ∧ t.snaps = [] ∧
          (isV (Instr.long o.instr).d = true → ∀ lane < 32, o.active.getLsbD lane = true → ∀ j < 2,
            h.vReg ((Instr.long o.instr).d.toNat + j) lane = BitVec.ofNat 32 ((p.proof + 1) / 2 ^ (32 * j)))) ∧
      (p.end_ < p.area + p.head + Px.headLen p.openF.length →
        ∃ t h, exec (.proofPoint fn) s = .next t ∧ t.gang? o.core o.slot = some h ∧ h.sameRegs g ∧ Reported g h 0x32 0))) ∧
  (∀ s fn m, let p := s.px fn
    let key := 4 * m.vdn + (prevEpoch m.epoch).toNat
    (s.stopPhase fn = true → exec (.blazeMarkerArrival fn m) s = .next (s.after 1 (.blazeMarkerArrival fn m))) ∧
    (s.stopPhase fn = false → (p.en = false ∨ p.isMember m.vdn = false ∨ m.job ≠ p.job) → s.hasLeft fn = none → exec (.blazeMarkerArrival fn m) s = .next s) ∧
    (s.stopPhase fn = false → p.en = true → p.isMember m.vdn = true → m.job = p.job → m.epoch = nextEpoch p.e → ∃ t, exec (.blazeMarkerArrival fn m) s = .next t ∧
      (t.px fn).pend = true ∧ (Cells.find? p.marks key = none → Cells.find? (t.px fn).marks key = some m.count)) ∧
    (s.stopPhase fn = false → p.en = true → p.isMember m.vdn = true → m.job = p.job → m.epoch = p.e → Cells.find? p.marks key = none → Cells.getD p.recvd key 0 = m.count →
      ∃ t, exec (.blazeMarkerArrival fn m) s = .next t ∧ m.vdn ∈ (t.px fn).closed)) ∧
  (∀ s fn r, let p := s.px fn
    p.frozen = some r → s.Inv →
    (∀ b rest, p.frozenF = b :: rest → ∃ t, exec (.drainStep fn) s = .next t ∧ (t.px fn).frozenF = rest ∧
      (s.blockGen b ≠ prevEpoch p.e → t.mem = s.mem ∧ t.frames = s.frames) ∧
      (s.blockGen b = prevEpoch p.e → t.blockGen b = 0 ∧
        (r.failed = false → ClearOf p r b → r.ns < r.nf → s.keyOk (s.keyOf fn) (r.slotAddr p r.ns) = true →
          s.keyOk (s.keyOf fn) (p.area + r.off + 4096 + 8 * r.ns) = true → (p.area + r.off) % 8 = 0 →
          (∀ j < 4096, Memory.byte t.mem (r.slotAddr p r.ns + j) = Memory.byte s.mem (b + j)) ∧
          (∃ r', (t.px fn).frozen = some r' ∧ r'.ns = r.ns + 1 ∧ r'.slots = r.slots ++ [b])))) ∧
    (p.frozenF = [] → s.channelsClosed fn = true → ∃ t r', exec (.drainStep fn) s = .next t ∧ (t.px fn).drain = false ∧ (t.px fn).frozen = none ∧
      (t.px fn).records = p.records ++ [r'] ∧ r'.k = r.k ∧ (r'.failed = false → p.dead = false → (t.px fn).last = r.k))) ∧
  (∀ s fn, let p := s.px fn
    ∃ t, exec (.pxDisable fn) s = .next t ∧ (s.snaps = [] → t.mem = s.mem) ∧ (t.px fn).en = false ∧ (t.px fn).e = 0 ∧ (t.px fn).records = [] ∧ (t.px fn).frozen = none ∧
      (t.px fn).last = 0 ∧ (t.px fn).proof = p.proof ∧ (∀ b, b ∈ p.openF ∨ b ∈ p.frozenF ∨ (∃ r, p.frozen = some r ∧ b ∈ r.folio) → t.blockGen b = 0)) ∧
  (∀ s fn, let p := s.px fn
    let n := p.num.toNat
    (∀ code, s.rollbackCode fn n = some code → ∃ t, exec (.pxRollback fn) s = .next t ∧ t.px fn = { p with cmd := (t.px fn).cmd, ecode := code } ∧
      (t.px fn).cmd.getLsbD 30 = true ∧ t.mem = s.mem ∧ t.frames = s.frames) ∧
    (p.en = false ∨ n = 0 ∨ p.last < n → s.rollbackCode fn n = some 3) ∧
    (∀ r b, s.rollbackCode fn n = none → s.snaps = [] → s.Inv → p.records.find? (fun r => decide (r.k = n)) = some r → r.chlog = [] → p.touched n = [b] → b % 4096 = 0 →
      ∃ t, exec (.pxRollback fn) s = .next t ∧ (t.px fn).proof = n ∧ (t.px fn).last = n ∧ (t.px fn).rollbk = n ∧ (t.px fn).openF = [] ∧
        (t.px fn).cmd.getLsbD 30 = false ∧ t.blockGen b = 0 ∧ (p.newestOf n b = none → t.blockValid b = false) ∧
        (∀ x i, p.newestOf n b = some (x, i) → x.slotAddr p i + 4096 ≤ b ∨ b + 4096 ≤ x.slotAddr p i →
          t.blockValid b = true ∧ ∀ j < 4096, Memory.byte t.mem (b + j) = Memory.byte s.mem (x.slotAddr p i + j)) ∧
        (r.origin = 1 → ∀ q i, r.qpos = [(q, i)] → (t.queue fn q).head = i)))

/-! ## Live migration (spec/20) -/

namespace Sys2Proof.Machine

/-- R409: the roots of a function's collective slots that stand on this device have been paused. -/
def Paused (s t : State) (fn : Nat) : Prop :=
  ∀ n c, s.cslot? n = some c → c.fn = fn → c.root = s.ownVdn c → ∃ c', t.cslot? n = some c' ∧ c'.paused = true

/-- No two cells of a map have one key. -/
def Distinct {α : Type} (m : Cells α) : Prop := m.Pairwise fun a b => a.1 ≠ b.1

end Sys2Proof.Machine

/-- R401, R403, R404, R406, R407, R409, R411: the commands of a migration session and what its rounds do: START sends every block and tracks, each round
sends what has changed, the stop phase halts the function's gangs and pauses its collectives, ABORT and STOP, the block that arrives and the
resume at the destination, where the groups and gangs that were saved can be restored, and the redirect that makes the source let
the function go.
The model's own: Offsets within the record, and commands in unnamed states, are the model's (logs 30, 31). -/
def Obligations.MigrationsMoveFunctions : Prop :=
  (∀ s n, n < 4 → let x := s.session n
    (x.dir = true → (x.state = 0 ∨ x.state = 6 ∨ x.state = 7) → s.fnIdle x.fn = true →
      ∃ t, exec (.msAccept n) s = .next t ∧ (t.session n).state = 8 ∧ (t.session n).cmd = 4 ∧ t = { s with sessions := t.sessions }) ∧
    (x.dir = false → exec (.msAccept n) s = .next (s.modSession n fun x => { x with cmd := 4 })) ∧
    (x.dir = false → (x.state = 0 ∨ x.state = 6 ∨ x.state = 7) → ∃ t, exec (.msStart n true) s = .next t ∧ (t.session n).state = 1 ∧ (t.session n).round = 0 ∧
      (t.session n).unacked = (s.walkBlocks x.fn).length ∧ t.mem = s.mem ∧
      ∀ b ∈ s.walkBlocks x.fn, t.blockDirty b.2 = false ∧
        .block x.peer b.1 2 (s.blockValid b.2) (if s.blockValid b.2 then s.homeBytes (s.keyOf x.fn) b.2 4096 else []) ∈ t.out) ∧
    (x.dir = false → (x.state = 0 ∨ x.state = 6 ∨ x.state = 7) → ∃ t, exec (.msStart n false) s = .next t ∧ (t.session n).state = x.state ∧
      (t.session n).ecode = 1 ∧ t = { s with sessions := t.sessions }) ∧
    (∃ t, exec (.msStop n) s = .next t ∧ t.session n = { x with cmd := 2, stop := x.stop || decide (x.state = 1) } ∧ t = { s with sessions := t.sessions }) ∧
    (x.state = 5 ∨ x.state = 6 → ∃ t, exec (.msAbort n) s = .next t ∧ t.session n = { x with cmd := 3, ecode := 4 }) ∧
    (2 ≤ x.state → x.state ≤ 4 → ∃ t, exec (.msAbort n) s = .next t ∧ (t.session n).state = 7 ∧ t.mem = s.mem ∧
      ∀ k sl g, k < 1024 → s.gang? k sl = some g → g.fn = x.fn → ∃ h, t.gang? k sl = some h ∧ h.sameRegs g ∧ ∀ y, h.halt = some y → y.taken = true) ∧
    (x.state = 0 ∨ x.state = 1 ∨ 7 ≤ x.state → ∃ t, exec (.msAbort n) s = .next t ∧ (t.session n).state = 0 ∧ t = { s with sessions := t.sessions })) ∧
  (∀ s n, let x := s.session n
    let d := ((s.walkBlocks x.fn).filter fun b => s.blockDirty b.2).length
    (x.dir = false → x.state = 4 → ∃ t, exec (.precopyRoundEnd n) s = .next t ∧ (t.session n).state = 5) ∧
    (x.dir = false → x.state = 1 → x.stopDue = false ∨ x.round = 0 ∨ 0 < x.unacked → ∃ t, exec (.precopyRoundEnd n) s = .next t ∧ t.mem = s.mem ∧
      (t.session n).round = x.round + 1 ∧ (t.session n).dirty = d ∧ (t.session n).state = 1 ∧
      ((x.stop = false ∧ x.resid * 2 ^ 30 < d * 4096 ∧ x.round + 1 < x.maxr) → ∀ b ∈ s.walkBlocks x.fn, s.blockDirty b.2 = true → t.blockDirty b.2 = false ∧
        .block x.peer b.1 2 (s.blockValid b.2) (if s.blockValid b.2 then s.homeBytes (s.keyOf x.fn) b.2 4096 else []) ∈ t.out)) ∧
    (x.dir = false → x.state = 1 → x.stop = true → (s.px x.fn).pend = false → (s.px x.fn).drain = false → (s.px x.fn).busy = false →
      ∃ t, exec (.stopPhaseBegin n) s = .next t ∧ (t.session n).state = 2 ∧ t.mem = s.mem ∧ Paused s t x.fn ∧
        (∀ k sl g, k < 1024 → s.gang? k sl = some g → g.fn = x.fn → g.stopped = false → g.halt = none → ∃ h y, t.gang? k sl = some h ∧ h.sameRegs g ∧
          h.halt = some y ∧ y.cause = 0x36 ∧ y.taken = false) ∧
        ∀ gk y, t.group? gk = some y → y.fn = x.fn → y.halting = true)) ∧
  (∀ s n ia valid data, let x := s.session n
    x.dir = true → x.state = 8 →
    ((∀ l, s.lookup2 x.fn ia = some l → 2 ≤ l.kind) → ∃ t, exec (.precopyBlockArrival n ia valid data) s = .next t ∧ (t.session n).state = 7 ∧
      (t.session n).ecode = 2 ∧ t.mem = s.mem) ∧
    (∀ l, s.lookup2 x.fn ia = some l → l.kind ≤ 1 → (l.addr + ia % 65536) % 4096 = 0 →
      (valid = false → ∃ t, exec (.precopyBlockArrival n ia valid data) s = .next t ∧ t.blockValid (l.addr + ia % 65536) = false ∧ t.mem = s.mem) ∧
      (valid = true → s.keyOk (s.keyOf x.fn) (l.addr + ia % 65536) = true → Untracked s x.fn → ∃ t, exec (.precopyBlockArrival n ia valid data) s = .next t ∧
        ∀ j < 4096, t.homeByte (s.keyOf x.fn) (l.addr + ia % 65536 + j) = data.getD j 0))) ∧
  (∀ s n (rec : List Byte), let x := s.session n
    let r := fun (a k : Nat) => ofBytes ((rec.drop a).take k)
    x.dir = true → x.state = 8 →
    (r 0 4 ≠ 0x00010000 → ∃ t, exec (.migrationResume n rec) s = .next t ∧ (t.session n).state = 0 ∧ (t.session n).ecode = 5 ∧ t = { s with sessions := t.sessions }) ∧
    (r 0 4 = 0x00010000 → ∃ t, exec (.migrationResume n rec) s = .next t ∧ (t.session n).state = 5 ∧ (t.func x.fn).vdnValid = true ∧
      (t.func x.fn).vdn = BitVec.ofNat 12 (r 8 4) ∧ (t.func x.fn).s1root = BitVec.ofNat 64 (r 0x1100 8) ∧ (t.func x.fn).gtvec = BitVec.ofNat 64 (r 0x4000 8) ∧
      (t.func x.fn).deleg = BitVec.ofNat 64 (r 0x4008 8) ∧ (t.func x.fn).ctxbase = BitVec.ofNat 64 (r 0x4010 8) ∧
      (Cells.getD t.redirect (r 8 4) 0).getLsbD 31 = true ∧ bits (Cells.getD t.redirect (r 8 4) 0).toNat 19 16 = s.modNo % 16 ∧
      bits (Cells.getD t.redirect (r 8 4) 0).toNat 5 0 = x.fn % 64 ∧ (∀ m < 16, m ≠ s.modNo → .redirect (r 8 4) m x.fn ∈ t.out) ∧
      ∀ sh, Cells.find? s.arriving n = some sh → Distinct sh.saved → Distinct sh.cores → Distinct sh.launches →
        (∀ k l, (k, l) ∈ sh.launches → ∃ l', t.launch? (k + s.nextId) = some l' ∧ l' = { l with fn := x.fn, graph := l.graph + s.nextId, lands := [], staged := [] }) ∧
        (∀ k y, (k, y) ∈ sh.saved → ∃ z, Cells.find? t.saved (k + s.nextId) = some z ∧ z.frame = y.frame ∧ z.tile = y.tile ∧
          z.group = { y.group with fn := x.fn, launch := y.group.launch + s.nextId }) ∧
        ∀ k c gid g, (savedCore k, c) ∈ sh.cores → Cells.find? c.gangs gid = some g → ∃ h, t.gang? (savedCore (k + s.nextId)) gid = some h ∧ h.sameRegs g ∧
          h.fn = x.fn ∧ h.group = g.group + s.nextId ∧ h.halt = g.halt ∧ h.frags = g.frags)) ∧
  (∀ s vdn modNo fn, ∃ t, exec (.redirectArrival vdn modNo fn) s = .next t ∧ (Cells.getD t.redirect vdn 0).getLsbD 31 = true ∧
    bits (Cells.getD t.redirect vdn 0).toNat 19 16 = modNo % 16 ∧ bits (Cells.getD t.redirect vdn 0).toNat 5 0 = fn % 64 ∧ (s.snaps = [] → t.mem = s.mem) ∧
    ∀ n, s.sessions = [(n, s.session n)] → (s.session n).dir = false → (s.session n).state = 5 → (s.func (s.session n).fn).vdnValid = true →
      (s.func (s.session n).fn).vdn.toNat = vdn →
      (t.session n).state = 6 ∧ (t.func (s.session n).fn).vdnValid = false ∧ (∃ u, (vdn, modNo, u) ∈ t.windows ∧ s.pod < u) ∧
        (∀ q ∈ s.held, q.dst = vdn → .request q.tag modNo q ∈ t.out) ∧ (∀ q ∈ t.held, q.dst ≠ vdn) ∧
        (∀ gk y, t.group? gk = some y → y.fn ≠ (s.session n).fn) ∧
        ∀ k c, s.cslots = [(k, c)] → c.fn = (s.session n).fn → Cells.find? t.movedSlots k = some (vdn, c.job)) ∧
  (∀ s vdn, ∃ t, exec (.forwardingWindowExpiry vdn) s = .next t ∧ t = { s with windows := t.windows } ∧
    ∀ w, w ∈ t.windows ↔ w ∈ s.windows ∧ (w.1 ≠ vdn ∨ s.pod < w.2.2))

/-! ## Debug and fleet operation (spec/21, spec/22) -/

/-- R345, R412, R413, R419, R420, R423, R424, R426, R428, R440: the mailbox in both directions, the hold, a debug halt and its resume, attestation, the resets of a
virtual function and of the device, and the boot: without an image that passes the device comes up in recovery mode, and of the configuration
records that verify the one with the highest SEQ is used (where the fields of headers and records lie is the model's, log 7).
The model's own: Fields of headers and records whose places the spec leaves open, and what a reset keeps, are the model's (logs 7, 52, 56, 57). -/
def Obligations.DebuggerAndResets : Prop :=
  (∀ s k sl g v, s.gang? k sl = some g →
    (s.dbgOutf = true → ∃ t h, exec (.dbgmbPost k sl v) s = .next t ∧ t.gang? k sl = some h ∧ h = { g with dbgRef := true } ∧ t.dbgOut = s.dbgOut ∧ t.out = s.out) ∧
    (s.dbgOutf = false → ∃ t h, exec (.dbgmbPost k sl v) s = .next t ∧ t.gang? k sl = some h ∧ h = { g with dbgRef := false } ∧ t.dbgOutf = true ∧
      t.dbgOut = v.extractLsb' 0 62 ∧
      (s.dbgIen = true → ((s.func 0).msixDword (4 * s.dbgVec + 3)).getLsbD 0 = false → t.out = s.out ++ [.msix 0 s.dbgVec]))) ∧
  (∀ s, exec .dbgmbAcknowledge s = .next { s with dbgInf := false } ∧ exec .dbgoutAcknowledge s = .next { s with dbgOutf := false }) ∧
  (∀ s v, (s.dbgInf = true → exec (.dbginWrite v) s = .next s) ∧
    (s.dbgInf = false → exec (.dbginWrite v) s = .next { s with dbgIn := v.extractLsb' 0 61, dbgInf := true })) ∧
  (∀ s hold, exec (.dbgctlHoldWrite hold) s = .next { s with dbgHold := hold, dbgUsed := s.dbgUsed || hold }) ∧
  (∀ s (v : Word), let k := 64 * bits v.toNat 11 8 + bits v.toNat 21 16
    let sl := bits v.toNat 4 0
    (s.gang? k sl = none → ∃ t, exec (.debugHalt v) s = .next t ∧ t.dbghreq.getLsbD 30 = true ∧ t.cores = s.cores ∧ t.groups = s.groups) ∧
    (∀ g grp, s.gang? k sl = some g → s.group? g.group = some grp → grp.core = k → g.halt = none → g.stopped = false →
      ∃ t h y z, exec (.debugHalt v) s = .next t ∧ t.dbghreq.getLsbD 30 = false ∧ t.dbgUsed = true ∧ t.gang? k sl = some h ∧ h.sameRegs g ∧ h.halt = some y ∧
        y.cause = 0x37 ∧ y.taken = false ∧ t.group? g.group = some z ∧ z.halting = true ∧ z.debug = true) ∧
    (s.debugGroups k sl = [] → ∃ t, exec (.debugResume v) s = .next t ∧ t.dbghreq.getLsbD 30 = true ∧ t.groups = s.groups ∧ t.saved = s.saved) ∧
    (∀ x, x ∈ s.debugGroups k sl → ∃ t, exec (.debugResume v) s = .next t ∧ t.dbghreq.getLsbD 30 = false ∧
      (∀ gk y, s.group? gk = some y → y.debug = true → y.core = k → sl ∈ y.slots → ∃ z, t.group? gk = some z ∧ z.debug = false) ∧
      ∀ gk y, Cells.find? s.saved gk = some y → y.group.debug = true → y.group.core = k → sl ∈ y.group.slots →
        ∃ z, Cells.find? t.saved gk = some z ∧ z.group.debug = false)) ∧
  (∀ s fails, ∃ t bs, exec (.attestation fails) s = .next t ∧ t.out = s.out ++ [.hostWrite 0 s.aaddr.toNat bs] ∧ t.acmdErr = (s.acmdErr || fails) ∧
    ((∀ m ∈ s.boot.images, m.digest.length = 32) → bs.length = 8960) ∧ bs.take 4 = toBytes 4 0x00010000 ∧
    (bs.drop 4).take 4 = toBytes 4 ((if s.warm then 1 else 0) + (if s.dbgUsed then 2 else 0) + 4 * s.boot.present.toNat) ∧
    (bs.drop 8).take 32 = toBytes 32 s.anonce.toNat ∧ (bs.drop 0x28).take 32 = pkdOf s.boot.flash ∧ t.mem = s.mem) ∧
  (∀ s fn, 0 < fn → fn < 64 → (s.func fn).enabled = true →
    (∃ t, exec (.vfFlr fn) s = .next t ∧ (s.snaps = [] → t.mem = s.mem) ∧ (t.func fn).queues = [] ∧ (t.func fn).evt = 0 ∧ (t.func fn).enabled = true ∧ (t.px fn).en = false ∧
      (t.func fn).s2root = (s.func fn).s2root ∧ (∀ gk y, t.group? gk = some y → y.fn ≠ fn) ∧ (∀ lk l, t.launch? lk = some l → l.fn ≠ fn) ∧
      ∀ n c, t.cslot? n = some c → c.fn ≠ fn) ∧
    ∃ t, exec (.vfEnable fn false) s = .next t ∧ (t.func fn).enabled = false ∧ (t.func fn).queues = []) ∧
  (∀ s fn, 0 < fn → fn < 64 → (s.func fn).enabled = false →
    ∃ t, exec (.vfEnable fn true) s = .next t ∧ (t.func fn).enabled = true ∧ (t.func fn).deleg = 0 ∧ (t.func fn).timeOff = 0 ∧ t = { s with funcs := t.funcs }) ∧
  (∀ s, (∃ t, exec .coldBoot s = .next t ∧ t.mem = [] ∧ t.cores = [] ∧ t.groups = [] ∧ t.funcs = State.reset.funcs ∧ t.parts = State.reset.parts ∧ t.fatal = false ∧
      t.warm = false ∧ t.pod = 0) ∧
    ∃ t, exec .warmReset s = .next t ∧ t.mem = [] ∧ t.cores = [] ∧ t.groups = [] ∧ t.funcs = State.reset.funcs ∧ t.parts = State.reset.parts ∧ t.fatal = false ∧
      t.warm = true ∧ t.pod = s.pod) ∧
  (∀ s e, e = .coldBoot ∨ e = .warmReset → let fl := s.boot.flash
    (∀ m, fieldAt m 0 4 ≠ 0x4B595946 ∨ sha256 ((m.drop 64).take (fieldAt m 12 4)) ≠ (m.drop 16).take 32 → imageGood m = false) ∧
    (imageGood fl.slotA = false → imageGood fl.slotB = false → ∃ t, exec e s = .next t ∧ t.boot.recovery = true ∧ t.boot.images = [] ∧ t.boot.flash = fl) ∧
    (∃ t, exec e s = .next t ∧ (t.boot.recovery = true ∨
      ((imageGood fl.slotA = true ∨ imageGood fl.slotB = true) ∧ imageGood fl.sched = true ∧ imageGood fl.queue = true ∧ imageGood fl.opell = true ∧
        ∃ l, recordOf fl 1 0 = some l ∧ t.boot.sku = recSigned l))) ∧
    (∀ typ stack, match recordOf fl typ stack with
      | some l => l ∈ fl.records ∧ recType l = typ ∧ recStack l = stack ∧ (recSigner l = 0 ∨ (recSigner l = 1 ∧ typ = 3)) ∧
          ∀ m ∈ fl.records, recType m = typ → recStack m = stack → recordGood (pkdOf fl) m = true → recSeq m ≤ recSeq l
      | none => ∀ m ∈ fl.records, recType m = typ → recStack m = stack → recordGood (pkdOf fl) m = false))

/-- R7, R346, R347, R371, R402, R431, R433, R434, R435, R436, R437, R438, R439: links train and fail; errors are counted, stop a partition or the device; the power and
thermal limits set the tokens; and host writes reach the registers.
The model's own: Which of two outcomes an error in a clean line has is the model's choice (log 10). -/
def Obligations.FleetEventsAndRegisterWrites : Prop :=
  (∀ s l far farL podTime, l < 18 → ∃ t, exec (.linkTrained l far farL podTime) s = .next t ∧ (s.modNo ≠ 0 → t.pod = max s.pod (11 * podTime)) ∧
    (s.modNo = 0 → t.pod = s.pod) ∧ Cells.find? t.links l = some { Cells.getD s.links l Link.reset with up := true, farMod := far % 16, farLink := farL % 32 }) ∧
  (∀ s l n, l < 18 → ∃ t x, exec (.linkDown l n) s = .next t ∧ Cells.find? t.links l = some x ∧ x.up = false ∧ t.mem = s.mem ∧
    x.retry = min ((Cells.getD s.links l Link.reset).retry + n) (2 ^ 64 - 1) ∧
    ∀ m, s.sessions = [(m, s.session m)] → (s.session m).dir = false → 2 ≤ (s.session m).state → (s.session m).state ≤ 4 → (s.session m).links.getLsbD l = true →
      (t.session m).state = 7 ∧ (t.session m).ecode = 1) ∧
  (∀ s l, l < 18 → ∃ t, exec (.flitRetry l) s = .next t ∧ t = { s with links := t.links } ∧
    Cells.find? t.links l = some { Cells.getD s.links l Link.reset with retry := satUp (Cells.getD s.links l Link.reset).retry }) ∧
  (∀ s p, p < 16 → ∃ t, exec (.correctableError p) s = .next t ∧ (t.part p).cerr = satUp (s.part p).cerr ∧ t.mem = s.mem ∧
    ((s.aerAt = none ∨ ∃ a, s.aerAt = some a ∧ a + 11000000000 ≤ s.pod) → t.out = s.out ++ [.aer 0] ∧ t.aerAt = some s.pod) ∧
    (∀ a, s.aerAt = some a → s.pod < a + 11000000000 → t.out = s.out ∧ t.aerAt = s.aerAt)) ∧
  (∀ s line d, let l := line / 128 * 128
    Cells.find? s.dirty l = some d → (s.frame l).keyid ≠ 0 →
    ∃ t u, exec (.writebackUncorrectable line) s = .next t ∧ s.ownerPart l = some u ∧ t.mem = s.mem ∧ (t.part u).stop = true ∧ (t.part u).uerr = satUp (s.part u).uerr ∧
      l ∈ t.poison ∧ OutMsg.aer 1 ∈ t.out ∧ ∀ k < 1024, (s.part u).req.getLsbD (k / 16) = true → ∀ sl, t.gang? k sl = none) ∧
  (∀ s line d, let l := line / 128 * 128
    Cells.find? s.dirty l = some d → (s.frame l).keyid = 0 →
    exec (.writebackUncorrectable line) s = .next { s with fatal := true, out := s.out ++ [.aer 2] }) ∧
  (∀ s line, let l := line / 128 * 128
    Cells.find? s.dirty l = none →
    (s.choice % 2 = 0 → ∃ t, exec (.l2CleanUncorrectable line) s = .next t ∧ t = { s with parts := t.parts } ∧
      (t.part ((s.ownerPart l).getD 0)).uerr = satUp (s.part ((s.ownerPart l).getD 0)).uerr) ∧
    (s.choice % 2 = 1 → ∃ t, exec (.l2CleanUncorrectable line) s = .next t ∧ t = { s with poison := t.poison } ∧ l ∈ t.poison)) ∧
  (∀ s, exec .fatalError s = .next { s with fatal := true, out := s.out ++ [.aer 2] }) ∧
  (∀ s (v : Word), let w := if bits v.toNat 11 0 < 2000 ∨ 3600 < bits v.toNat 11 0 then 3600 else bits v.toNat 11 0
    exec (.plimWrite v) s = .next { s with plim := w, ptoken := max 1 (896 * (w - 1700) * (4 - s.thermal) / 7600) }) ∧
  (∀ s (tj : BitVec 8), ∃ t, exec (.thermalStateChange tj) s = .next t ∧ t.tj = tj ∧
    (105 ≤ tj.toNat → s.thermal ≤ 3 → t.thermal = 3) ∧ (100 ≤ tj.toNat → tj.toNat < 105 → s.thermal ≤ 2 → t.thermal = 2) ∧
    (95 ≤ tj.toNat → tj.toNat < 100 → s.thermal ≤ 1 → t.thermal = 1) ∧
    (∀ n, 1 ≤ n → n ≤ 3 → s.thermal = n → tj.toNat + 3 ≤ 90 + 5 * n → t.thermal = n - 1) ∧
    (t.thermal ≠ s.thermal → t.ptoken = max 1 (896 * (s.plim - 1700) * (4 - t.thermal) / 7600)) ∧ (t.thermal = s.thermal → t = { s with tj := tj, tin := t.tin, free := s.free + 1 })) ∧
  (∀ s (tj : BitVec 8), (115 ≤ tj.toNat → ∃ t, exec (.thermalTrip tj) s = .next t ∧ t.fatal = true ∧ t.tj = tj ∧ OutMsg.aer 2 ∈ t.out ∧ t.mem = s.mem ∧
      ∀ k sl, t.gang? k sl = none) ∧ (tj.toNat < 115 → exec (.thermalTrip tj) s = .next s)) ∧
  (∀ s fn v, fn < 64 → (s.func fn).enabled = true → v < 2 ^ 32 →
    (∃ t, exec (.registerWrite fn 0 0x004 4 (BitVec.ofNat 64 v)) s = .next t ∧ (t.func fn).evec = bits v 21 16) ∧
    (∃ t, exec (.registerWrite fn 0 0x008 4 (BitVec.ofNat 64 v)) s = .next t ∧ ∀ b < 6, (t.func fn).evt.getLsbD b = ((s.func fn).evt.getLsbD b && !v.testBit b)) ∧
    (∃ t, exec (.registerWrite fn 0 0x00C 4 (BitVec.ofNat 64 v)) s = .next t ∧ (t.func fn).evten = BitVec.ofNat 6 v)) ∧
  (∀ s fn (v : Quad), fn < 64 → (s.func fn).enabled = true →
    ∃ t, exec (.registerWrite fn 0 0x100 8 v) s = .next t ∧ (t.func fn).s1root = v &&& 0x000FFFFFFFFFF001#64 ∧ t = { s with funcs := t.funcs }) ∧
  (∀ s fn q (v : Quad), fn < 64 → (s.func fn).enabled = true → q < 256 →
    exec (.registerWrite fn 2 (4096 * q) 4 v) s = exec (.notifyWrite fn q (v.setWidth 32)) s) ∧
  (∀ s t x v, (s.func 0).enabled = true → t < 16 → v < 2 ^ 32 → (s.part t).valid = true → x < 4 →
    exec (.registerWrite 0 0 (0x3A00 + 64 * t + 4 * x) 4 (BitVec.ofNat 64 v)) s = .next s) ∧
  (∀ s vdn v, (s.func 0).enabled = true → v < 2 ^ 32 → s.rdidx = vdn →
    ∃ t, exec (.registerWrite 0 0 0x5110 4 (BitVec.ofNat 64 v)) s = .next t ∧ Cells.find? t.redirect vdn = some (BitVec.ofNat 32 v &&& 0x800F003F#32) ∧
      t = { s with redirect := t.redirect })
end

