-- ==== Sys2Proof/Laws/Cells.lean ====
section
/-! SUPPORT. Laws of finite maps and of memory: reading after writing, and that every operation keeps the
canonical form. -/
namespace Sys2Proof.Machine

section
variable {α : Type}

@[simp] theorem Cells.find?_nil (k : Nat) : Cells.find? ([] : Cells α) k = none := rfl

theorem Cells.find?_cons (a : Nat) (v : α) (t : Cells α) (k : Nat) :
    Cells.find? ((a, v) :: t) k = if a = k then some v else Cells.find? t k := rfl

theorem Cells.find?_put (m : Cells α) (k : Nat) (v : α) (k' : Nat) :
    Cells.find? (Cells.put m k v) k' = if k = k' then some v else Cells.find? m k' := by
  induction m with
  | nil => rfl
  | cons e t ih =>
    obtain ⟨a, w⟩ := e
    simp only [Cells.put]
    split
    · rfl
    · split
      · subst_vars
        simp only [Cells.find?_cons]
        split <;> rfl
      · simp only [Cells.find?_cons, ih]
        split
        · split
          · omega
          · rfl
        · rfl

theorem Cells.find?_del (m : Cells α) (k k' : Nat) :
    Cells.find? (Cells.del m k) k' = if k = k' then none else Cells.find? m k' := by
  induction m with
  | nil => simp [Cells.del]
  | cons e t ih =>
    obtain ⟨a, w⟩ := e
    simp only [Cells.del]
    split
    · subst_vars
      rw [ih, Cells.find?_cons]
      split <;> rfl
    · simp only [Cells.find?_cons, ih]
      split
      · split
        · omega
        · rfl
      · rfl

theorem Cells.find?_clear (m : Cells α) (lo n k : Nat) :
    Cells.find? (Cells.clear m lo n) k = if lo ≤ k ∧ k < lo + n then none else Cells.find? m k := by
  induction m with
  | nil => simp [Cells.clear]
  | cons e t ih =>
    obtain ⟨a, w⟩ := e
    simp only [Cells.clear, List.filter_cons] at ih ⊢
    by_cases h : lo ≤ a ∧ a < lo + n
    · have h' : (!(decide (lo ≤ a) && decide (a < lo + n))) = false := by simp [h]
      rw [if_neg (by simp [h']), ih, Cells.find?_cons]
      by_cases hk : a = k
      · subst hk; simp [h]
      · rw [if_neg hk]
    · have h' : (!(decide (lo ≤ a) && decide (a < lo + n))) = true := by
        simp only [Bool.not_eq_true', Bool.and_eq_false_iff, decide_eq_false_iff_not]; omega
      rw [if_pos h', Cells.find?_cons, ih, Cells.find?_cons]
      by_cases hk : a = k
      · subst hk; simp [h]
      · simp [hk]

theorem Cells.getD_put (m : Cells α) (k : Nat) (v : α) (k' : Nat) (d : α) :
    Cells.getD (Cells.put m k v) k' d = if k = k' then v else Cells.getD m k' d := by
  simp only [Cells.getD, Cells.find?_put]
  split <;> rfl

theorem Cells.getD_set [DecidableEq α] (d : α) (m : Cells α) (k : Nat) (v : α) (k' : Nat) :
    Cells.getD (Cells.set d m k v) k' d = if k = k' then v else Cells.getD m k' d := by
  simp only [Cells.set]
  split
  · subst_vars
    simp only [Cells.getD, Cells.find?_del]
    split <;> rfl
  · exact Cells.getD_put ..

theorem Cells.getD_clear (m : Cells α) (lo n k : Nat) (d : α) :
    Cells.getD (Cells.clear m lo n) k d = if lo ≤ k ∧ k < lo + n then d else Cells.getD m k d := by
  simp only [Cells.getD, Cells.find?_clear]
  split <;> rfl

theorem Cells.risesFrom_mono {m : Cells α} {lo lo' : Nat} (h : Cells.risesFrom lo m = true) (hl : lo' ≤ lo) :
    Cells.risesFrom lo' m = true := by
  cases m with
  | nil => rfl
  | cons e t =>
    simp only [Cells.risesFrom, Bool.and_eq_true, decide_eq_true_eq] at h ⊢
    exact ⟨by omega, h.2⟩

theorem Cells.risesFrom_put {m : Cells α} {lo k : Nat} (v : α) (h : Cells.risesFrom lo m = true) (hk : lo ≤ k) :
    Cells.risesFrom lo (Cells.put m k v) = true := by
  induction m generalizing lo with
  | nil => simp [Cells.put, Cells.risesFrom, hk]
  | cons e t ih =>
    obtain ⟨a, w⟩ := e
    simp only [Cells.risesFrom, Bool.and_eq_true, decide_eq_true_eq] at h
    simp only [Cells.put]
    split
    · simp only [Cells.risesFrom, Bool.and_eq_true, decide_eq_true_eq]
      exact ⟨hk, by omega, h.2⟩
    · split
      · subst_vars
        simp only [Cells.risesFrom, Bool.and_eq_true, decide_eq_true_eq]
        exact h
      · simp only [Cells.risesFrom, Bool.and_eq_true, decide_eq_true_eq]
        exact ⟨h.1, ih h.2 (by omega)⟩

theorem Cells.risesFrom_filter {m : Cells α} {lo : Nat} (p : Nat × α → Bool) (h : Cells.risesFrom lo m = true) :
    Cells.risesFrom lo (List.filter p m) = true := by
  induction m generalizing lo with
  | nil => rfl
  | cons e t ih =>
    obtain ⟨a, w⟩ := e
    simp only [Cells.risesFrom, Bool.and_eq_true, decide_eq_true_eq] at h
    simp only [List.filter_cons]
    split
    · simp only [Cells.risesFrom, Bool.and_eq_true, decide_eq_true_eq]
      exact ⟨h.1, ih h.2⟩
    · exact Cells.risesFrom_mono (ih h.2) (by omega)

theorem Cells.del_eq_filter (m : Cells α) (k : Nat) :
    Cells.del m k = List.filter (fun e => !decide (e.1 = k)) m := by
  induction m with
  | nil => rfl
  | cons e t ih =>
    obtain ⟨a, w⟩ := e
    by_cases h : a = k <;> simp [Cells.del, h, ih]

variable [DecidableEq α]

theorem Cells.wf_iff (d : α) (m : Cells α) :
    Cells.wf d m = true ↔ Cells.risesFrom 0 m = true ∧ ∀ e ∈ m, e.2 ≠ d := by
  simp [Cells.wf, List.all_eq_true]

theorem Cells.mem_put {m : Cells α} {k : Nat} {v : α} {e : Nat × α} (h : e ∈ Cells.put m k v) : e = (k, v) ∨ e ∈ m := by
  induction m with
  | nil => simpa [Cells.put] using h
  | cons x t ih =>
    obtain ⟨a, w⟩ := x
    simp only [Cells.put] at h
    split at h
    · simpa using h
    · split at h
      · simp only [List.mem_cons] at h ⊢; tauto
      · simp only [List.mem_cons] at h ⊢
        rcases h with h | h
        · exact .inr (.inl h)
        · rcases ih h with h | h
          · exact .inl h
          · exact .inr (.inr h)

theorem Cells.wf_nil (d : α) : Cells.wf d [] = true := rfl

theorem Cells.wf_put (d : α) {m : Cells α} (k : Nat) {v : α} (h : Cells.wf d m = true) (hv : v ≠ d) :
    Cells.wf d (Cells.put m k v) = true := by
  rw [Cells.wf_iff] at h ⊢
  refine ⟨Cells.risesFrom_put v h.1 (Nat.zero_le k), fun e he => ?_⟩
  rcases Cells.mem_put he with rfl | he
  · exact hv
  · exact h.2 e he

theorem Cells.wf_filter (d : α) {m : Cells α} (p : Nat × α → Bool) (h : Cells.wf d m = true) :
    Cells.wf d (List.filter p m) = true := by
  rw [Cells.wf_iff] at h ⊢
  exact ⟨Cells.risesFrom_filter p h.1, fun e he => h.2 e (List.mem_of_mem_filter he)⟩

theorem Cells.wf_del (d : α) {m : Cells α} (k : Nat) (h : Cells.wf d m = true) : Cells.wf d (Cells.del m k) = true := by
  rw [Cells.del_eq_filter]; exact Cells.wf_filter d _ h

theorem Cells.wf_set (d : α) {m : Cells α} (k : Nat) (v : α) (h : Cells.wf d m = true) : Cells.wf d (Cells.set d m k v) = true := by
  simp only [Cells.set]
  split
  · exact Cells.wf_del d k h
  · exact Cells.wf_put d k h ‹_›

theorem Cells.wf_clear (d : α) {m : Cells α} (lo n : Nat) (h : Cells.wf d m = true) : Cells.wf d (Cells.clear m lo n) = true :=
  Cells.wf_filter d _ h

end

/-! Memory. -/

theorem Memory.byte_setByte (m : Memory) (a : Nat) (v : Byte) (b : Nat) :
    Memory.byte (Memory.setByte m a v) b = if a = b then v else Memory.byte m b := Cells.getD_set ..

theorem Memory.byte_clear (m : Memory) (lo n b : Nat) :
    Memory.byte (Cells.clear m lo n) b = if lo ≤ b ∧ b < lo + n then 0#8 else Memory.byte m b := Cells.getD_clear ..

theorem Memory.wf_setByte {m : Memory} (a : Nat) (v : Byte) (h : Memory.wf m = true) : Memory.wf (Memory.setByte m a v) = true :=
  Cells.wf_set _ _ _ h

theorem Memory.wf_write {m : Memory} (a n v : Nat) (h : Memory.wf m = true) : Memory.wf (Memory.write m a n v) = true := by
  induction n generalizing m a v with
  | zero => exact h
  | succ n ih => exact ih _ _ (Memory.wf_setByte _ _ h)

theorem Memory.byte_write (m : Memory) (a n v b : Nat) :
    Memory.byte (Memory.write m a n v) b = if a ≤ b ∧ b < a + n then BitVec.ofNat 8 (v / 256 ^ (b - a)) else Memory.byte m b := by
  induction n generalizing m a v with
  | zero => rw [if_neg (by omega)]; rfl
  | succ n ih =>
    rw [Memory.write, ih, Memory.byte_setByte]
    by_cases h : a + 1 ≤ b ∧ b < a + 1 + n
    · rw [if_pos h, if_pos (by omega), Nat.div_div_eq_div_mul]
      congr 2
      rw [show b - a = (b - (a + 1)) + 1 by omega, Nat.pow_succ, Nat.mul_comm]
    · rw [if_neg h]
      by_cases hb : a = b
      · subst hb
        rw [if_pos rfl, if_pos (by omega), Nat.sub_self, Nat.pow_zero, Nat.div_one]
      · rw [if_neg hb, if_neg (by omega)]

theorem Memory.read_write (m : Memory) (a n v : Nat) : Memory.read (Memory.write m a n v) a n = v % 256 ^ n := by
  have key : ∀ k j, k + j = n → Memory.read (Memory.write m a n v) (a + j) k = v / 256 ^ j % 256 ^ k := by
    intro k
    induction k with
    | zero => intro j _; simp [Memory.read, Nat.mod_one]
    | succ k ih =>
      intro j hj
      rw [Memory.read, Nat.add_assoc, ih (j + 1) (by omega), Memory.byte_write, if_pos (by omega), Nat.add_sub_cancel_left,
        BitVec.toNat_ofNat, Nat.pow_succ 256 j, ← Nat.div_div_eq_div_mul, Nat.pow_succ 256 k, Nat.mul_comm (256 ^ k) 256, Nat.mod_mul]
  have := key n 0 (by omega)
  simpa using this

theorem Memory.read_write_ne (m : Memory) (a n v b k : Nat) (h : b + k ≤ a ∨ a + n ≤ b) :
    Memory.read (Memory.write m a n v) b k = Memory.read m b k := by
  induction k generalizing b with
  | zero => rfl
  | succ k ih =>
    rw [Memory.read, Memory.read, Memory.byte_write, if_neg (by omega), ih (b + 1) (by omega)]

end Sys2Proof.Machine
end

