-- ==== Sys2Proof/Laws/State.lean ====
section
/-! SUPPORT. What each update of State leaves in each field, one lemma per update and field, and what the accessors read after it. -/
namespace Sys2Proof.Machine

/-! State.setCore -/

@[simp] theorem State.setCore_agenda (s : State) (k : Nat) (c : Core) : (s.setCore k c).agenda = s.agenda := rfl
@[simp] theorem State.setCore_choices (s : State) (k : Nat) (c : Core) : (s.setCore k c).choices = s.choices := rfl
@[simp] theorem State.setCore_free (s : State) (k : Nat) (c : Core) : (s.setCore k c).free = s.free := rfl
@[simp] theorem State.setCore_nextId (s : State) (k : Nat) (c : Core) : (s.setCore k c).nextId = s.nextId := rfl
@[simp] theorem State.setCore_cycle (s : State) (k : Nat) (c : Core) : (s.setCore k c).cycle = s.cycle := rfl
@[simp] theorem State.setCore_pod (s : State) (k : Nat) (c : Core) : (s.setCore k c).pod = s.pod := rfl
@[simp] theorem State.setCore_cur (s : State) (k : Nat) (c : Core) : (s.setCore k c).cur = s.cur := rfl
@[simp] theorem State.setCore_cands (s : State) (k : Nat) (c : Core) : (s.setCore k c).cands = s.cands := rfl
@[simp] theorem State.setCore_picked (s : State) (k : Nat) (c : Core) : (s.setCore k c).picked = s.picked := rfl
@[simp] theorem State.setCore_sels (s : State) (k : Nat) (c : Core) : (s.setCore k c).sels = s.sels := rfl
@[simp] theorem State.setCore_cores (s : State) (k : Nat) (c : Core) : (s.setCore k c).cores = Cells.put s.cores k c := rfl
@[simp] theorem State.setCore_powered (s : State) (k : Nat) (c : Core) : (s.setCore k c).powered = s.powered := rfl
@[simp] theorem State.setCore_groups (s : State) (k : Nat) (c : Core) : (s.setCore k c).groups = s.groups := rfl
@[simp] theorem State.setCore_launches (s : State) (k : Nat) (c : Core) : (s.setCore k c).launches = s.launches := rfl
@[simp] theorem State.setCore_graphs (s : State) (k : Nat) (c : Core) : (s.setCore k c).graphs = s.graphs := rfl
@[simp] theorem State.setCore_jobs (s : State) (k : Nat) (c : Core) : (s.setCore k c).jobs = s.jobs := rfl
@[simp] theorem State.setCore_reqs (s : State) (k : Nat) (c : Core) : (s.setCore k c).reqs = s.reqs := rfl
@[simp] theorem State.setCore_tags (s : State) (k : Nat) (c : Core) : (s.setCore k c).tags = s.tags := rfl
@[simp] theorem State.setCore_early (s : State) (k : Nat) (c : Core) : (s.setCore k c).early = s.early := rfl
@[simp] theorem State.setCore_copies (s : State) (k : Nat) (c : Core) : (s.setCore k c).copies = s.copies := rfl
@[simp] theorem State.setCore_emits (s : State) (k : Nat) (c : Core) : (s.setCore k c).emits = s.emits := rfl
@[simp] theorem State.setCore_creds (s : State) (k : Nat) (c : Core) : (s.setCore k c).creds = s.creds := rfl
@[simp] theorem State.setCore_snaps (s : State) (k : Nat) (c : Core) : (s.setCore k c).snaps = s.snaps := rfl
@[simp] theorem State.setCore_saved (s : State) (k : Nat) (c : Core) : (s.setCore k c).saved = s.saved := rfl
@[simp] theorem State.setCore_cslots (s : State) (k : Nat) (c : Core) : (s.setCore k c).cslots = s.cslots := rfl
@[simp] theorem State.setCore_funcs (s : State) (k : Nat) (c : Core) : (s.setCore k c).funcs = s.funcs := rfl
@[simp] theorem State.setCore_parts (s : State) (k : Nat) (c : Core) : (s.setCore k c).parts = s.parts := rfl
@[simp] theorem State.setCore_mem (s : State) (k : Nat) (c : Core) : (s.setCore k c).mem = s.mem := rfl
@[simp] theorem State.setCore_past (s : State) (k : Nat) (c : Core) : (s.setCore k c).past = s.past := rfl
@[simp] theorem State.setCore_frames (s : State) (k : Nat) (c : Core) : (s.setCore k c).frames = s.frames := rfl
@[simp] theorem State.setCore_dirty (s : State) (k : Nat) (c : Core) : (s.setCore k c).dirty = s.dirty := rfl
@[simp] theorem State.setCore_poison (s : State) (k : Nat) (c : Core) : (s.setCore k c).poison = s.poison := rfl
@[simp] theorem State.setCore_tlb (s : State) (k : Nat) (c : Core) : (s.setCore k c).tlb = s.tlb := rfl
@[simp] theorem State.setCore_inval (s : State) (k : Nat) (c : Core) : (s.setCore k c).inval = s.inval := rfl
@[simp] theorem State.setCore_s2iaddr (s : State) (k : Nat) (c : Core) : (s.setCore k c).s2iaddr = s.s2iaddr := rfl
@[simp] theorem State.setCore_s2ictl (s : State) (k : Nat) (c : Core) : (s.setCore k c).s2ictl = s.s2ictl := rfl
@[simp] theorem State.setCore_dtvec (s : State) (k : Nat) (c : Core) : (s.setCore k c).dtvec = s.dtvec := rfl
@[simp] theorem State.setCore_ptoken (s : State) (k : Nat) (c : Core) : (s.setCore k c).ptoken = s.ptoken := rfl
@[simp] theorem State.setCore_tokenLast (s : State) (k : Nat) (c : Core) : (s.setCore k c).tokenLast = s.tokenLast := rfl
@[simp] theorem State.setCore_dbgIn (s : State) (k : Nat) (c : Core) : (s.setCore k c).dbgIn = s.dbgIn := rfl
@[simp] theorem State.setCore_dbgInf (s : State) (k : Nat) (c : Core) : (s.setCore k c).dbgInf = s.dbgInf := rfl
@[simp] theorem State.setCore_dbgOut (s : State) (k : Nat) (c : Core) : (s.setCore k c).dbgOut = s.dbgOut := rfl
@[simp] theorem State.setCore_dbgOutf (s : State) (k : Nat) (c : Core) : (s.setCore k c).dbgOutf = s.dbgOutf := rfl
@[simp] theorem State.setCore_dbgIen (s : State) (k : Nat) (c : Core) : (s.setCore k c).dbgIen = s.dbgIen := rfl
@[simp] theorem State.setCore_dbgVec (s : State) (k : Nat) (c : Core) : (s.setCore k c).dbgVec = s.dbgVec := rfl
@[simp] theorem State.setCore_dbgHold (s : State) (k : Nat) (c : Core) : (s.setCore k c).dbgHold = s.dbgHold := rfl
@[simp] theorem State.setCore_dbghreq (s : State) (k : Nat) (c : Core) : (s.setCore k c).dbghreq = s.dbghreq := rfl
@[simp] theorem State.setCore_jcan (s : State) (k : Nat) (c : Core) : (s.setCore k c).jcan = s.jcan := rfl
@[simp] theorem State.setCore_jcanOf (s : State) (k : Nat) (c : Core) : (s.setCore k c).jcanOf = s.jcanOf := rfl
@[simp] theorem State.setCore_stopLog (s : State) (k : Nat) (c : Core) : (s.setCore k c).stopLog = s.stopLog := rfl
@[simp] theorem State.setCore_stopCount (s : State) (k : Nat) (c : Core) : (s.setCore k c).stopCount = s.stopCount := rfl
@[simp] theorem State.setCore_kdata (s : State) (k : Nat) (c : Core) : (s.setCore k c).kdata = s.kdata := rfl
@[simp] theorem State.setCore_kcmd (s : State) (k : Nat) (c : Core) : (s.setCore k c).kcmd = s.kcmd := rfl
@[simp] theorem State.setCore_rtcmd (s : State) (k : Nat) (c : Core) : (s.setCore k c).rtcmd = s.rtcmd := rfl
@[simp] theorem State.setCore_keyData (s : State) (k : Nat) (c : Core) : (s.setCore k c).keyData = s.keyData := rfl
@[simp] theorem State.setCore_rtaddr (s : State) (k : Nat) (c : Core) : (s.setCore k c).rtaddr = s.rtaddr := rfl
@[simp] theorem State.setCore_throt (s : State) (k : Nat) (c : Core) : (s.setCore k c).throt = s.throt := rfl
@[simp] theorem State.setCore_rows (s : State) (k : Nat) (c : Core) : (s.setCore k c).rows = s.rows := rfl
@[simp] theorem State.setCore_mfwd (s : State) (k : Nat) (c : Core) : (s.setCore k c).mfwd = s.mfwd := rfl
@[simp] theorem State.setCore_rdidx (s : State) (k : Nat) (c : Core) : (s.setCore k c).rdidx = s.rdidx := rfl
@[simp] theorem State.setCore_redirect (s : State) (k : Nat) (c : Core) : (s.setCore k c).redirect = s.redirect := rfl
@[simp] theorem State.setCore_windows (s : State) (k : Nat) (c : Core) : (s.setCore k c).windows = s.windows := rfl
@[simp] theorem State.setCore_movedSlots (s : State) (k : Nat) (c : Core) : (s.setCore k c).movedSlots = s.movedSlots := rfl
@[simp] theorem State.setCore_arriving (s : State) (k : Nat) (c : Core) : (s.setCore k c).arriving = s.arriving := rfl
@[simp] theorem State.setCore_sessions (s : State) (k : Nat) (c : Core) : (s.setCore k c).sessions = s.sessions := rfl
@[simp] theorem State.setCore_links (s : State) (k : Nat) (c : Core) : (s.setCore k c).links = s.links := rfl
@[simp] theorem State.setCore_held (s : State) (k : Nat) (c : Core) : (s.setCore k c).held = s.held := rfl
@[simp] theorem State.setCore_plim (s : State) (k : Nat) (c : Core) : (s.setCore k c).plim = s.plim := rfl
@[simp] theorem State.setCore_tj (s : State) (k : Nat) (c : Core) : (s.setCore k c).tj = s.tj := rfl
@[simp] theorem State.setCore_tin (s : State) (k : Nat) (c : Core) : (s.setCore k c).tin = s.tin := rfl
@[simp] theorem State.setCore_thermal (s : State) (k : Nat) (c : Core) : (s.setCore k c).thermal = s.thermal := rfl
@[simp] theorem State.setCore_anonce (s : State) (k : Nat) (c : Core) : (s.setCore k c).anonce = s.anonce := rfl
@[simp] theorem State.setCore_aaddr (s : State) (k : Nat) (c : Core) : (s.setCore k c).aaddr = s.aaddr := rfl
@[simp] theorem State.setCore_acmdErr (s : State) (k : Nat) (c : Core) : (s.setCore k c).acmdErr = s.acmdErr := rfl
@[simp] theorem State.setCore_warm (s : State) (k : Nat) (c : Core) : (s.setCore k c).warm = s.warm := rfl
@[simp] theorem State.setCore_boot (s : State) (k : Nat) (c : Core) : (s.setCore k c).boot = s.boot := rfl
@[simp] theorem State.setCore_dbgUsed (s : State) (k : Nat) (c : Core) : (s.setCore k c).dbgUsed = s.dbgUsed := rfl
@[simp] theorem State.setCore_modNo (s : State) (k : Nat) (c : Core) : (s.setCore k c).modNo = s.modNo := rfl
@[simp] theorem State.setCore_fatal (s : State) (k : Nat) (c : Core) : (s.setCore k c).fatal = s.fatal := rfl
@[simp] theorem State.setCore_aerAt (s : State) (k : Nat) (c : Core) : (s.setCore k c).aerAt = s.aerAt := rfl
@[simp] theorem State.setCore_out (s : State) (k : Nat) (c : Core) : (s.setCore k c).out = s.out := rfl

/-! State.modCore -/

@[simp] theorem State.modCore_agenda (s : State) (k : Nat) (h : Core → Core) : (s.modCore k h).agenda = s.agenda := rfl
@[simp] theorem State.modCore_choices (s : State) (k : Nat) (h : Core → Core) : (s.modCore k h).choices = s.choices := rfl
@[simp] theorem State.modCore_free (s : State) (k : Nat) (h : Core → Core) : (s.modCore k h).free = s.free := rfl
@[simp] theorem State.modCore_nextId (s : State) (k : Nat) (h : Core → Core) : (s.modCore k h).nextId = s.nextId := rfl
@[simp] theorem State.modCore_cycle (s : State) (k : Nat) (h : Core → Core) : (s.modCore k h).cycle = s.cycle := rfl
@[simp] theorem State.modCore_pod (s : State) (k : Nat) (h : Core → Core) : (s.modCore k h).pod = s.pod := rfl
@[simp] theorem State.modCore_cur (s : State) (k : Nat) (h : Core → Core) : (s.modCore k h).cur = s.cur := rfl
@[simp] theorem State.modCore_cands (s : State) (k : Nat) (h : Core → Core) : (s.modCore k h).cands = s.cands := rfl
@[simp] theorem State.modCore_picked (s : State) (k : Nat) (h : Core → Core) : (s.modCore k h).picked = s.picked := rfl
@[simp] theorem State.modCore_sels (s : State) (k : Nat) (h : Core → Core) : (s.modCore k h).sels = s.sels := rfl
@[simp] theorem State.modCore_cores (s : State) (k : Nat) (h : Core → Core) : (s.modCore k h).cores = Cells.put s.cores k (h (s.core k)) := rfl
@[simp] theorem State.modCore_powered (s : State) (k : Nat) (h : Core → Core) : (s.modCore k h).powered = s.powered := rfl
@[simp] theorem State.modCore_groups (s : State) (k : Nat) (h : Core → Core) : (s.modCore k h).groups = s.groups := rfl
@[simp] theorem State.modCore_launches (s : State) (k : Nat) (h : Core → Core) : (s.modCore k h).launches = s.launches := rfl
@[simp] theorem State.modCore_graphs (s : State) (k : Nat) (h : Core → Core) : (s.modCore k h).graphs = s.graphs := rfl
@[simp] theorem State.modCore_jobs (s : State) (k : Nat) (h : Core → Core) : (s.modCore k h).jobs = s.jobs := rfl
@[simp] theorem State.modCore_reqs (s : State) (k : Nat) (h : Core → Core) : (s.modCore k h).reqs = s.reqs := rfl
@[simp] theorem State.modCore_tags (s : State) (k : Nat) (h : Core → Core) : (s.modCore k h).tags = s.tags := rfl
@[simp] theorem State.modCore_early (s : State) (k : Nat) (h : Core → Core) : (s.modCore k h).early = s.early := rfl
@[simp] theorem State.modCore_copies (s : State) (k : Nat) (h : Core → Core) : (s.modCore k h).copies = s.copies := rfl
@[simp] theorem State.modCore_emits (s : State) (k : Nat) (h : Core → Core) : (s.modCore k h).emits = s.emits := rfl
@[simp] theorem State.modCore_creds (s : State) (k : Nat) (h : Core → Core) : (s.modCore k h).creds = s.creds := rfl
@[simp] theorem State.modCore_snaps (s : State) (k : Nat) (h : Core → Core) : (s.modCore k h).snaps = s.snaps := rfl
@[simp] theorem State.modCore_saved (s : State) (k : Nat) (h : Core → Core) : (s.modCore k h).saved = s.saved := rfl
@[simp] theorem State.modCore_cslots (s : State) (k : Nat) (h : Core → Core) : (s.modCore k h).cslots = s.cslots := rfl
@[simp] theorem State.modCore_funcs (s : State) (k : Nat) (h : Core → Core) : (s.modCore k h).funcs = s.funcs := rfl
@[simp] theorem State.modCore_parts (s : State) (k : Nat) (h : Core → Core) : (s.modCore k h).parts = s.parts := rfl
@[simp] theorem State.modCore_mem (s : State) (k : Nat) (h : Core → Core) : (s.modCore k h).mem = s.mem := rfl
@[simp] theorem State.modCore_past (s : State) (k : Nat) (h : Core → Core) : (s.modCore k h).past = s.past := rfl
@[simp] theorem State.modCore_frames (s : State) (k : Nat) (h : Core → Core) : (s.modCore k h).frames = s.frames := rfl
@[simp] theorem State.modCore_dirty (s : State) (k : Nat) (h : Core → Core) : (s.modCore k h).dirty = s.dirty := rfl
@[simp] theorem State.modCore_poison (s : State) (k : Nat) (h : Core → Core) : (s.modCore k h).poison = s.poison := rfl
@[simp] theorem State.modCore_tlb (s : State) (k : Nat) (h : Core → Core) : (s.modCore k h).tlb = s.tlb := rfl
@[simp] theorem State.modCore_inval (s : State) (k : Nat) (h : Core → Core) : (s.modCore k h).inval = s.inval := rfl
@[simp] theorem State.modCore_s2iaddr (s : State) (k : Nat) (h : Core → Core) : (s.modCore k h).s2iaddr = s.s2iaddr := rfl
@[simp] theorem State.modCore_s2ictl (s : State) (k : Nat) (h : Core → Core) : (s.modCore k h).s2ictl = s.s2ictl := rfl
@[simp] theorem State.modCore_dtvec (s : State) (k : Nat) (h : Core → Core) : (s.modCore k h).dtvec = s.dtvec := rfl
@[simp] theorem State.modCore_ptoken (s : State) (k : Nat) (h : Core → Core) : (s.modCore k h).ptoken = s.ptoken := rfl
@[simp] theorem State.modCore_tokenLast (s : State) (k : Nat) (h : Core → Core) : (s.modCore k h).tokenLast = s.tokenLast := rfl
@[simp] theorem State.modCore_dbgIn (s : State) (k : Nat) (h : Core → Core) : (s.modCore k h).dbgIn = s.dbgIn := rfl
@[simp] theorem State.modCore_dbgInf (s : State) (k : Nat) (h : Core → Core) : (s.modCore k h).dbgInf = s.dbgInf := rfl
@[simp] theorem State.modCore_dbgOut (s : State) (k : Nat) (h : Core → Core) : (s.modCore k h).dbgOut = s.dbgOut := rfl
@[simp] theorem State.modCore_dbgOutf (s : State) (k : Nat) (h : Core → Core) : (s.modCore k h).dbgOutf = s.dbgOutf := rfl
@[simp] theorem State.modCore_dbgIen (s : State) (k : Nat) (h : Core → Core) : (s.modCore k h).dbgIen = s.dbgIen := rfl
@[simp] theorem State.modCore_dbgVec (s : State) (k : Nat) (h : Core → Core) : (s.modCore k h).dbgVec = s.dbgVec := rfl
@[simp] theorem State.modCore_dbgHold (s : State) (k : Nat) (h : Core → Core) : (s.modCore k h).dbgHold = s.dbgHold := rfl
@[simp] theorem State.modCore_dbghreq (s : State) (k : Nat) (h : Core → Core) : (s.modCore k h).dbghreq = s.dbghreq := rfl
@[simp] theorem State.modCore_jcan (s : State) (k : Nat) (h : Core → Core) : (s.modCore k h).jcan = s.jcan := rfl
@[simp] theorem State.modCore_jcanOf (s : State) (k : Nat) (h : Core → Core) : (s.modCore k h).jcanOf = s.jcanOf := rfl
@[simp] theorem State.modCore_stopLog (s : State) (k : Nat) (h : Core → Core) : (s.modCore k h).stopLog = s.stopLog := rfl
@[simp] theorem State.modCore_stopCount (s : State) (k : Nat) (h : Core → Core) : (s.modCore k h).stopCount = s.stopCount := rfl
@[simp] theorem State.modCore_kdata (s : State) (k : Nat) (h : Core → Core) : (s.modCore k h).kdata = s.kdata := rfl
@[simp] theorem State.modCore_kcmd (s : State) (k : Nat) (h : Core → Core) : (s.modCore k h).kcmd = s.kcmd := rfl
@[simp] theorem State.modCore_rtcmd (s : State) (k : Nat) (h : Core → Core) : (s.modCore k h).rtcmd = s.rtcmd := rfl
@[simp] theorem State.modCore_keyData (s : State) (k : Nat) (h : Core → Core) : (s.modCore k h).keyData = s.keyData := rfl
@[simp] theorem State.modCore_rtaddr (s : State) (k : Nat) (h : Core → Core) : (s.modCore k h).rtaddr = s.rtaddr := rfl
@[simp] theorem State.modCore_throt (s : State) (k : Nat) (h : Core → Core) : (s.modCore k h).throt = s.throt := rfl
@[simp] theorem State.modCore_rows (s : State) (k : Nat) (h : Core → Core) : (s.modCore k h).rows = s.rows := rfl
@[simp] theorem State.modCore_mfwd (s : State) (k : Nat) (h : Core → Core) : (s.modCore k h).mfwd = s.mfwd := rfl
@[simp] theorem State.modCore_rdidx (s : State) (k : Nat) (h : Core → Core) : (s.modCore k h).rdidx = s.rdidx := rfl
@[simp] theorem State.modCore_redirect (s : State) (k : Nat) (h : Core → Core) : (s.modCore k h).redirect = s.redirect := rfl
@[simp] theorem State.modCore_windows (s : State) (k : Nat) (h : Core → Core) : (s.modCore k h).windows = s.windows := rfl
@[simp] theorem State.modCore_movedSlots (s : State) (k : Nat) (h : Core → Core) : (s.modCore k h).movedSlots = s.movedSlots := rfl
@[simp] theorem State.modCore_arriving (s : State) (k : Nat) (h : Core → Core) : (s.modCore k h).arriving = s.arriving := rfl
@[simp] theorem State.modCore_sessions (s : State) (k : Nat) (h : Core → Core) : (s.modCore k h).sessions = s.sessions := rfl
@[simp] theorem State.modCore_links (s : State) (k : Nat) (h : Core → Core) : (s.modCore k h).links = s.links := rfl
@[simp] theorem State.modCore_held (s : State) (k : Nat) (h : Core → Core) : (s.modCore k h).held = s.held := rfl
@[simp] theorem State.modCore_plim (s : State) (k : Nat) (h : Core → Core) : (s.modCore k h).plim = s.plim := rfl
@[simp] theorem State.modCore_tj (s : State) (k : Nat) (h : Core → Core) : (s.modCore k h).tj = s.tj := rfl
@[simp] theorem State.modCore_tin (s : State) (k : Nat) (h : Core → Core) : (s.modCore k h).tin = s.tin := rfl
@[simp] theorem State.modCore_thermal (s : State) (k : Nat) (h : Core → Core) : (s.modCore k h).thermal = s.thermal := rfl
@[simp] theorem State.modCore_anonce (s : State) (k : Nat) (h : Core → Core) : (s.modCore k h).anonce = s.anonce := rfl
@[simp] theorem State.modCore_aaddr (s : State) (k : Nat) (h : Core → Core) : (s.modCore k h).aaddr = s.aaddr := rfl
@[simp] theorem State.modCore_acmdErr (s : State) (k : Nat) (h : Core → Core) : (s.modCore k h).acmdErr = s.acmdErr := rfl
@[simp] theorem State.modCore_warm (s : State) (k : Nat) (h : Core → Core) : (s.modCore k h).warm = s.warm := rfl
@[simp] theorem State.modCore_boot (s : State) (k : Nat) (h : Core → Core) : (s.modCore k h).boot = s.boot := rfl
@[simp] theorem State.modCore_dbgUsed (s : State) (k : Nat) (h : Core → Core) : (s.modCore k h).dbgUsed = s.dbgUsed := rfl
@[simp] theorem State.modCore_modNo (s : State) (k : Nat) (h : Core → Core) : (s.modCore k h).modNo = s.modNo := rfl
@[simp] theorem State.modCore_fatal (s : State) (k : Nat) (h : Core → Core) : (s.modCore k h).fatal = s.fatal := rfl
@[simp] theorem State.modCore_aerAt (s : State) (k : Nat) (h : Core → Core) : (s.modCore k h).aerAt = s.aerAt := rfl
@[simp] theorem State.modCore_out (s : State) (k : Nat) (h : Core → Core) : (s.modCore k h).out = s.out := rfl

/-! State.setGang -/

@[simp] theorem State.setGang_agenda (s : State) (k sl : Nat) (g : Gang) : (s.setGang k sl g).agenda = s.agenda := rfl
@[simp] theorem State.setGang_choices (s : State) (k sl : Nat) (g : Gang) : (s.setGang k sl g).choices = s.choices := rfl
@[simp] theorem State.setGang_free (s : State) (k sl : Nat) (g : Gang) : (s.setGang k sl g).free = s.free := rfl
@[simp] theorem State.setGang_nextId (s : State) (k sl : Nat) (g : Gang) : (s.setGang k sl g).nextId = s.nextId := rfl
@[simp] theorem State.setGang_cycle (s : State) (k sl : Nat) (g : Gang) : (s.setGang k sl g).cycle = s.cycle := rfl
@[simp] theorem State.setGang_pod (s : State) (k sl : Nat) (g : Gang) : (s.setGang k sl g).pod = s.pod := rfl
@[simp] theorem State.setGang_cur (s : State) (k sl : Nat) (g : Gang) : (s.setGang k sl g).cur = s.cur := rfl
@[simp] theorem State.setGang_cands (s : State) (k sl : Nat) (g : Gang) : (s.setGang k sl g).cands = s.cands := rfl
@[simp] theorem State.setGang_picked (s : State) (k sl : Nat) (g : Gang) : (s.setGang k sl g).picked = s.picked := rfl
@[simp] theorem State.setGang_sels (s : State) (k sl : Nat) (g : Gang) : (s.setGang k sl g).sels = s.sels := rfl
@[simp] theorem State.setGang_cores (s : State) (k sl : Nat) (g : Gang) : (s.setGang k sl g).cores = Cells.put s.cores k { s.core k with gangs := Cells.put (s.core k).gangs sl g } := rfl
@[simp] theorem State.setGang_powered (s : State) (k sl : Nat) (g : Gang) : (s.setGang k sl g).powered = s.powered := rfl
@[simp] theorem State.setGang_groups (s : State) (k sl : Nat) (g : Gang) : (s.setGang k sl g).groups = s.groups := rfl
@[simp] theorem State.setGang_launches (s : State) (k sl : Nat) (g : Gang) : (s.setGang k sl g).launches = s.launches := rfl
@[simp] theorem State.setGang_graphs (s : State) (k sl : Nat) (g : Gang) : (s.setGang k sl g).graphs = s.graphs := rfl
@[simp] theorem State.setGang_jobs (s : State) (k sl : Nat) (g : Gang) : (s.setGang k sl g).jobs = s.jobs := rfl
@[simp] theorem State.setGang_reqs (s : State) (k sl : Nat) (g : Gang) : (s.setGang k sl g).reqs = s.reqs := rfl
@[simp] theorem State.setGang_tags (s : State) (k sl : Nat) (g : Gang) : (s.setGang k sl g).tags = s.tags := rfl
@[simp] theorem State.setGang_early (s : State) (k sl : Nat) (g : Gang) : (s.setGang k sl g).early = s.early := rfl
@[simp] theorem State.setGang_copies (s : State) (k sl : Nat) (g : Gang) : (s.setGang k sl g).copies = s.copies := rfl
@[simp] theorem State.setGang_emits (s : State) (k sl : Nat) (g : Gang) : (s.setGang k sl g).emits = s.emits := rfl
@[simp] theorem State.setGang_creds (s : State) (k sl : Nat) (g : Gang) : (s.setGang k sl g).creds = s.creds := rfl
@[simp] theorem State.setGang_snaps (s : State) (k sl : Nat) (g : Gang) : (s.setGang k sl g).snaps = s.snaps := rfl
@[simp] theorem State.setGang_saved (s : State) (k sl : Nat) (g : Gang) : (s.setGang k sl g).saved = s.saved := rfl
@[simp] theorem State.setGang_cslots (s : State) (k sl : Nat) (g : Gang) : (s.setGang k sl g).cslots = s.cslots := rfl
@[simp] theorem State.setGang_funcs (s : State) (k sl : Nat) (g : Gang) : (s.setGang k sl g).funcs = s.funcs := rfl
@[simp] theorem State.setGang_parts (s : State) (k sl : Nat) (g : Gang) : (s.setGang k sl g).parts = s.parts := rfl
@[simp] theorem State.setGang_mem (s : State) (k sl : Nat) (g : Gang) : (s.setGang k sl g).mem = s.mem := rfl
@[simp] theorem State.setGang_past (s : State) (k sl : Nat) (g : Gang) : (s.setGang k sl g).past = s.past := rfl
@[simp] theorem State.setGang_frames (s : State) (k sl : Nat) (g : Gang) : (s.setGang k sl g).frames = s.frames := rfl
@[simp] theorem State.setGang_dirty (s : State) (k sl : Nat) (g : Gang) : (s.setGang k sl g).dirty = s.dirty := rfl
@[simp] theorem State.setGang_poison (s : State) (k sl : Nat) (g : Gang) : (s.setGang k sl g).poison = s.poison := rfl
@[simp] theorem State.setGang_tlb (s : State) (k sl : Nat) (g : Gang) : (s.setGang k sl g).tlb = s.tlb := rfl
@[simp] theorem State.setGang_inval (s : State) (k sl : Nat) (g : Gang) : (s.setGang k sl g).inval = s.inval := rfl
@[simp] theorem State.setGang_s2iaddr (s : State) (k sl : Nat) (g : Gang) : (s.setGang k sl g).s2iaddr = s.s2iaddr := rfl
@[simp] theorem State.setGang_s2ictl (s : State) (k sl : Nat) (g : Gang) : (s.setGang k sl g).s2ictl = s.s2ictl := rfl
@[simp] theorem State.setGang_dtvec (s : State) (k sl : Nat) (g : Gang) : (s.setGang k sl g).dtvec = s.dtvec := rfl
@[simp] theorem State.setGang_ptoken (s : State) (k sl : Nat) (g : Gang) : (s.setGang k sl g).ptoken = s.ptoken := rfl
@[simp] theorem State.setGang_tokenLast (s : State) (k sl : Nat) (g : Gang) : (s.setGang k sl g).tokenLast = s.tokenLast := rfl
@[simp] theorem State.setGang_dbgIn (s : State) (k sl : Nat) (g : Gang) : (s.setGang k sl g).dbgIn = s.dbgIn := rfl
@[simp] theorem State.setGang_dbgInf (s : State) (k sl : Nat) (g : Gang) : (s.setGang k sl g).dbgInf = s.dbgInf := rfl
@[simp] theorem State.setGang_dbgOut (s : State) (k sl : Nat) (g : Gang) : (s.setGang k sl g).dbgOut = s.dbgOut := rfl
@[simp] theorem State.setGang_dbgOutf (s : State) (k sl : Nat) (g : Gang) : (s.setGang k sl g).dbgOutf = s.dbgOutf := rfl
@[simp] theorem State.setGang_dbgIen (s : State) (k sl : Nat) (g : Gang) : (s.setGang k sl g).dbgIen = s.dbgIen := rfl
@[simp] theorem State.setGang_dbgVec (s : State) (k sl : Nat) (g : Gang) : (s.setGang k sl g).dbgVec = s.dbgVec := rfl
@[simp] theorem State.setGang_dbgHold (s : State) (k sl : Nat) (g : Gang) : (s.setGang k sl g).dbgHold = s.dbgHold := rfl
@[simp] theorem State.setGang_dbghreq (s : State) (k sl : Nat) (g : Gang) : (s.setGang k sl g).dbghreq = s.dbghreq := rfl
@[simp] theorem State.setGang_jcan (s : State) (k sl : Nat) (g : Gang) : (s.setGang k sl g).jcan = s.jcan := rfl
@[simp] theorem State.setGang_jcanOf (s : State) (k sl : Nat) (g : Gang) : (s.setGang k sl g).jcanOf = s.jcanOf := rfl
@[simp] theorem State.setGang_stopLog (s : State) (k sl : Nat) (g : Gang) : (s.setGang k sl g).stopLog = s.stopLog := rfl
@[simp] theorem State.setGang_stopCount (s : State) (k sl : Nat) (g : Gang) : (s.setGang k sl g).stopCount = s.stopCount := rfl
@[simp] theorem State.setGang_kdata (s : State) (k sl : Nat) (g : Gang) : (s.setGang k sl g).kdata = s.kdata := rfl
@[simp] theorem State.setGang_kcmd (s : State) (k sl : Nat) (g : Gang) : (s.setGang k sl g).kcmd = s.kcmd := rfl
@[simp] theorem State.setGang_rtcmd (s : State) (k sl : Nat) (g : Gang) : (s.setGang k sl g).rtcmd = s.rtcmd := rfl
@[simp] theorem State.setGang_keyData (s : State) (k sl : Nat) (g : Gang) : (s.setGang k sl g).keyData = s.keyData := rfl
@[simp] theorem State.setGang_rtaddr (s : State) (k sl : Nat) (g : Gang) : (s.setGang k sl g).rtaddr = s.rtaddr := rfl
@[simp] theorem State.setGang_throt (s : State) (k sl : Nat) (g : Gang) : (s.setGang k sl g).throt = s.throt := rfl
@[simp] theorem State.setGang_rows (s : State) (k sl : Nat) (g : Gang) : (s.setGang k sl g).rows = s.rows := rfl
@[simp] theorem State.setGang_mfwd (s : State) (k sl : Nat) (g : Gang) : (s.setGang k sl g).mfwd = s.mfwd := rfl
@[simp] theorem State.setGang_rdidx (s : State) (k sl : Nat) (g : Gang) : (s.setGang k sl g).rdidx = s.rdidx := rfl
@[simp] theorem State.setGang_redirect (s : State) (k sl : Nat) (g : Gang) : (s.setGang k sl g).redirect = s.redirect := rfl
@[simp] theorem State.setGang_windows (s : State) (k sl : Nat) (g : Gang) : (s.setGang k sl g).windows = s.windows := rfl
@[simp] theorem State.setGang_movedSlots (s : State) (k sl : Nat) (g : Gang) : (s.setGang k sl g).movedSlots = s.movedSlots := rfl
@[simp] theorem State.setGang_arriving (s : State) (k sl : Nat) (g : Gang) : (s.setGang k sl g).arriving = s.arriving := rfl
@[simp] theorem State.setGang_sessions (s : State) (k sl : Nat) (g : Gang) : (s.setGang k sl g).sessions = s.sessions := rfl
@[simp] theorem State.setGang_links (s : State) (k sl : Nat) (g : Gang) : (s.setGang k sl g).links = s.links := rfl
@[simp] theorem State.setGang_held (s : State) (k sl : Nat) (g : Gang) : (s.setGang k sl g).held = s.held := rfl
@[simp] theorem State.setGang_plim (s : State) (k sl : Nat) (g : Gang) : (s.setGang k sl g).plim = s.plim := rfl
@[simp] theorem State.setGang_tj (s : State) (k sl : Nat) (g : Gang) : (s.setGang k sl g).tj = s.tj := rfl
@[simp] theorem State.setGang_tin (s : State) (k sl : Nat) (g : Gang) : (s.setGang k sl g).tin = s.tin := rfl
@[simp] theorem State.setGang_thermal (s : State) (k sl : Nat) (g : Gang) : (s.setGang k sl g).thermal = s.thermal := rfl
@[simp] theorem State.setGang_anonce (s : State) (k sl : Nat) (g : Gang) : (s.setGang k sl g).anonce = s.anonce := rfl
@[simp] theorem State.setGang_aaddr (s : State) (k sl : Nat) (g : Gang) : (s.setGang k sl g).aaddr = s.aaddr := rfl
@[simp] theorem State.setGang_acmdErr (s : State) (k sl : Nat) (g : Gang) : (s.setGang k sl g).acmdErr = s.acmdErr := rfl
@[simp] theorem State.setGang_warm (s : State) (k sl : Nat) (g : Gang) : (s.setGang k sl g).warm = s.warm := rfl
@[simp] theorem State.setGang_boot (s : State) (k sl : Nat) (g : Gang) : (s.setGang k sl g).boot = s.boot := rfl
@[simp] theorem State.setGang_dbgUsed (s : State) (k sl : Nat) (g : Gang) : (s.setGang k sl g).dbgUsed = s.dbgUsed := rfl
@[simp] theorem State.setGang_modNo (s : State) (k sl : Nat) (g : Gang) : (s.setGang k sl g).modNo = s.modNo := rfl
@[simp] theorem State.setGang_fatal (s : State) (k sl : Nat) (g : Gang) : (s.setGang k sl g).fatal = s.fatal := rfl
@[simp] theorem State.setGang_aerAt (s : State) (k sl : Nat) (g : Gang) : (s.setGang k sl g).aerAt = s.aerAt := rfl
@[simp] theorem State.setGang_out (s : State) (k sl : Nat) (g : Gang) : (s.setGang k sl g).out = s.out := rfl

/-! State.modGang -/

@[simp] theorem State.modGang_agenda (s : State) (k sl : Nat) (h : Gang → Gang) : (s.modGang k sl h).agenda = s.agenda := by unfold State.modGang; split <;> rfl
@[simp] theorem State.modGang_choices (s : State) (k sl : Nat) (h : Gang → Gang) : (s.modGang k sl h).choices = s.choices := by unfold State.modGang; split <;> rfl
@[simp] theorem State.modGang_free (s : State) (k sl : Nat) (h : Gang → Gang) : (s.modGang k sl h).free = s.free := by unfold State.modGang; split <;> rfl
@[simp] theorem State.modGang_nextId (s : State) (k sl : Nat) (h : Gang → Gang) : (s.modGang k sl h).nextId = s.nextId := by unfold State.modGang; split <;> rfl
@[simp] theorem State.modGang_cycle (s : State) (k sl : Nat) (h : Gang → Gang) : (s.modGang k sl h).cycle = s.cycle := by unfold State.modGang; split <;> rfl
@[simp] theorem State.modGang_pod (s : State) (k sl : Nat) (h : Gang → Gang) : (s.modGang k sl h).pod = s.pod := by unfold State.modGang; split <;> rfl
@[simp] theorem State.modGang_cur (s : State) (k sl : Nat) (h : Gang → Gang) : (s.modGang k sl h).cur = s.cur := by unfold State.modGang; split <;> rfl
@[simp] theorem State.modGang_cands (s : State) (k sl : Nat) (h : Gang → Gang) : (s.modGang k sl h).cands = s.cands := by unfold State.modGang; split <;> rfl
@[simp] theorem State.modGang_picked (s : State) (k sl : Nat) (h : Gang → Gang) : (s.modGang k sl h).picked = s.picked := by unfold State.modGang; split <;> rfl
@[simp] theorem State.modGang_sels (s : State) (k sl : Nat) (h : Gang → Gang) : (s.modGang k sl h).sels = s.sels := by unfold State.modGang; split <;> rfl
@[simp] theorem State.modGang_powered (s : State) (k sl : Nat) (h : Gang → Gang) : (s.modGang k sl h).powered = s.powered := by unfold State.modGang; split <;> rfl
@[simp] theorem State.modGang_groups (s : State) (k sl : Nat) (h : Gang → Gang) : (s.modGang k sl h).groups = s.groups := by unfold State.modGang; split <;> rfl
@[simp] theorem State.modGang_launches (s : State) (k sl : Nat) (h : Gang → Gang) : (s.modGang k sl h).launches = s.launches := by unfold State.modGang; split <;> rfl
@[simp] theorem State.modGang_graphs (s : State) (k sl : Nat) (h : Gang → Gang) : (s.modGang k sl h).graphs = s.graphs := by unfold State.modGang; split <;> rfl
@[simp] theorem State.modGang_jobs (s : State) (k sl : Nat) (h : Gang → Gang) : (s.modGang k sl h).jobs = s.jobs := by unfold State.modGang; split <;> rfl
@[simp] theorem State.modGang_reqs (s : State) (k sl : Nat) (h : Gang → Gang) : (s.modGang k sl h).reqs = s.reqs := by unfold State.modGang; split <;> rfl
@[simp] theorem State.modGang_tags (s : State) (k sl : Nat) (h : Gang → Gang) : (s.modGang k sl h).tags = s.tags := by unfold State.modGang; split <;> rfl
@[simp] theorem State.modGang_early (s : State) (k sl : Nat) (h : Gang → Gang) : (s.modGang k sl h).early = s.early := by unfold State.modGang; split <;> rfl
@[simp] theorem State.modGang_copies (s : State) (k sl : Nat) (h : Gang → Gang) : (s.modGang k sl h).copies = s.copies := by unfold State.modGang; split <;> rfl
@[simp] theorem State.modGang_emits (s : State) (k sl : Nat) (h : Gang → Gang) : (s.modGang k sl h).emits = s.emits := by unfold State.modGang; split <;> rfl
@[simp] theorem State.modGang_creds (s : State) (k sl : Nat) (h : Gang → Gang) : (s.modGang k sl h).creds = s.creds := by unfold State.modGang; split <;> rfl
@[simp] theorem State.modGang_snaps (s : State) (k sl : Nat) (h : Gang → Gang) : (s.modGang k sl h).snaps = s.snaps := by unfold State.modGang; split <;> rfl
@[simp] theorem State.modGang_saved (s : State) (k sl : Nat) (h : Gang → Gang) : (s.modGang k sl h).saved = s.saved := by unfold State.modGang; split <;> rfl
@[simp] theorem State.modGang_cslots (s : State) (k sl : Nat) (h : Gang → Gang) : (s.modGang k sl h).cslots = s.cslots := by unfold State.modGang; split <;> rfl
@[simp] theorem State.modGang_funcs (s : State) (k sl : Nat) (h : Gang → Gang) : (s.modGang k sl h).funcs = s.funcs := by unfold State.modGang; split <;> rfl
@[simp] theorem State.modGang_parts (s : State) (k sl : Nat) (h : Gang → Gang) : (s.modGang k sl h).parts = s.parts := by unfold State.modGang; split <;> rfl
@[simp] theorem State.modGang_mem (s : State) (k sl : Nat) (h : Gang → Gang) : (s.modGang k sl h).mem = s.mem := by unfold State.modGang; split <;> rfl
@[simp] theorem State.modGang_past (s : State) (k sl : Nat) (h : Gang → Gang) : (s.modGang k sl h).past = s.past := by unfold State.modGang; split <;> rfl
@[simp] theorem State.modGang_frames (s : State) (k sl : Nat) (h : Gang → Gang) : (s.modGang k sl h).frames = s.frames := by unfold State.modGang; split <;> rfl
@[simp] theorem State.modGang_dirty (s : State) (k sl : Nat) (h : Gang → Gang) : (s.modGang k sl h).dirty = s.dirty := by unfold State.modGang; split <;> rfl
@[simp] theorem State.modGang_poison (s : State) (k sl : Nat) (h : Gang → Gang) : (s.modGang k sl h).poison = s.poison := by unfold State.modGang; split <;> rfl
@[simp] theorem State.modGang_tlb (s : State) (k sl : Nat) (h : Gang → Gang) : (s.modGang k sl h).tlb = s.tlb := by unfold State.modGang; split <;> rfl
@[simp] theorem State.modGang_inval (s : State) (k sl : Nat) (h : Gang → Gang) : (s.modGang k sl h).inval = s.inval := by unfold State.modGang; split <;> rfl
@[simp] theorem State.modGang_s2iaddr (s : State) (k sl : Nat) (h : Gang → Gang) : (s.modGang k sl h).s2iaddr = s.s2iaddr := by unfold State.modGang; split <;> rfl
@[simp] theorem State.modGang_s2ictl (s : State) (k sl : Nat) (h : Gang → Gang) : (s.modGang k sl h).s2ictl = s.s2ictl := by unfold State.modGang; split <;> rfl
@[simp] theorem State.modGang_dtvec (s : State) (k sl : Nat) (h : Gang → Gang) : (s.modGang k sl h).dtvec = s.dtvec := by unfold State.modGang; split <;> rfl
@[simp] theorem State.modGang_ptoken (s : State) (k sl : Nat) (h : Gang → Gang) : (s.modGang k sl h).ptoken = s.ptoken := by unfold State.modGang; split <;> rfl
@[simp] theorem State.modGang_tokenLast (s : State) (k sl : Nat) (h : Gang → Gang) : (s.modGang k sl h).tokenLast = s.tokenLast := by unfold State.modGang; split <;> rfl
@[simp] theorem State.modGang_dbgIn (s : State) (k sl : Nat) (h : Gang → Gang) : (s.modGang k sl h).dbgIn = s.dbgIn := by unfold State.modGang; split <;> rfl
@[simp] theorem State.modGang_dbgInf (s : State) (k sl : Nat) (h : Gang → Gang) : (s.modGang k sl h).dbgInf = s.dbgInf := by unfold State.modGang; split <;> rfl
@[simp] theorem State.modGang_dbgOut (s : State) (k sl : Nat) (h : Gang → Gang) : (s.modGang k sl h).dbgOut = s.dbgOut := by unfold State.modGang; split <;> rfl
@[simp] theorem State.modGang_dbgOutf (s : State) (k sl : Nat) (h : Gang → Gang) : (s.modGang k sl h).dbgOutf = s.dbgOutf := by unfold State.modGang; split <;> rfl
@[simp] theorem State.modGang_dbgIen (s : State) (k sl : Nat) (h : Gang → Gang) : (s.modGang k sl h).dbgIen = s.dbgIen := by unfold State.modGang; split <;> rfl
@[simp] theorem State.modGang_dbgVec (s : State) (k sl : Nat) (h : Gang → Gang) : (s.modGang k sl h).dbgVec = s.dbgVec := by unfold State.modGang; split <;> rfl
@[simp] theorem State.modGang_dbgHold (s : State) (k sl : Nat) (h : Gang → Gang) : (s.modGang k sl h).dbgHold = s.dbgHold := by unfold State.modGang; split <;> rfl
@[simp] theorem State.modGang_dbghreq (s : State) (k sl : Nat) (h : Gang → Gang) : (s.modGang k sl h).dbghreq = s.dbghreq := by unfold State.modGang; split <;> rfl
@[simp] theorem State.modGang_jcan (s : State) (k sl : Nat) (h : Gang → Gang) : (s.modGang k sl h).jcan = s.jcan := by unfold State.modGang; split <;> rfl
@[simp] theorem State.modGang_jcanOf (s : State) (k sl : Nat) (h : Gang → Gang) : (s.modGang k sl h).jcanOf = s.jcanOf := by unfold State.modGang; split <;> rfl
@[simp] theorem State.modGang_stopLog (s : State) (k sl : Nat) (h : Gang → Gang) : (s.modGang k sl h).stopLog = s.stopLog := by unfold State.modGang; split <;> rfl
@[simp] theorem State.modGang_stopCount (s : State) (k sl : Nat) (h : Gang → Gang) : (s.modGang k sl h).stopCount = s.stopCount := by unfold State.modGang; split <;> rfl
@[simp] theorem State.modGang_kdata (s : State) (k sl : Nat) (h : Gang → Gang) : (s.modGang k sl h).kdata = s.kdata := by unfold State.modGang; split <;> rfl
@[simp] theorem State.modGang_kcmd (s : State) (k sl : Nat) (h : Gang → Gang) : (s.modGang k sl h).kcmd = s.kcmd := by unfold State.modGang; split <;> rfl
@[simp] theorem State.modGang_rtcmd (s : State) (k sl : Nat) (h : Gang → Gang) : (s.modGang k sl h).rtcmd = s.rtcmd := by unfold State.modGang; split <;> rfl
@[simp] theorem State.modGang_keyData (s : State) (k sl : Nat) (h : Gang → Gang) : (s.modGang k sl h).keyData = s.keyData := by unfold State.modGang; split <;> rfl
@[simp] theorem State.modGang_rtaddr (s : State) (k sl : Nat) (h : Gang → Gang) : (s.modGang k sl h).rtaddr = s.rtaddr := by unfold State.modGang; split <;> rfl
@[simp] theorem State.modGang_throt (s : State) (k sl : Nat) (h : Gang → Gang) : (s.modGang k sl h).throt = s.throt := by unfold State.modGang; split <;> rfl
@[simp] theorem State.modGang_rows (s : State) (k sl : Nat) (h : Gang → Gang) : (s.modGang k sl h).rows = s.rows := by unfold State.modGang; split <;> rfl
@[simp] theorem State.modGang_mfwd (s : State) (k sl : Nat) (h : Gang → Gang) : (s.modGang k sl h).mfwd = s.mfwd := by unfold State.modGang; split <;> rfl
@[simp] theorem State.modGang_rdidx (s : State) (k sl : Nat) (h : Gang → Gang) : (s.modGang k sl h).rdidx = s.rdidx := by unfold State.modGang; split <;> rfl
@[simp] theorem State.modGang_redirect (s : State) (k sl : Nat) (h : Gang → Gang) : (s.modGang k sl h).redirect = s.redirect := by unfold State.modGang; split <;> rfl
@[simp] theorem State.modGang_windows (s : State) (k sl : Nat) (h : Gang → Gang) : (s.modGang k sl h).windows = s.windows := by unfold State.modGang; split <;> rfl
@[simp] theorem State.modGang_movedSlots (s : State) (k sl : Nat) (h : Gang → Gang) : (s.modGang k sl h).movedSlots = s.movedSlots := by unfold State.modGang; split <;> rfl
@[simp] theorem State.modGang_arriving (s : State) (k sl : Nat) (h : Gang → Gang) : (s.modGang k sl h).arriving = s.arriving := by unfold State.modGang; split <;> rfl
@[simp] theorem State.modGang_sessions (s : State) (k sl : Nat) (h : Gang → Gang) : (s.modGang k sl h).sessions = s.sessions := by unfold State.modGang; split <;> rfl
@[simp] theorem State.modGang_links (s : State) (k sl : Nat) (h : Gang → Gang) : (s.modGang k sl h).links = s.links := by unfold State.modGang; split <;> rfl
@[simp] theorem State.modGang_held (s : State) (k sl : Nat) (h : Gang → Gang) : (s.modGang k sl h).held = s.held := by unfold State.modGang; split <;> rfl
@[simp] theorem State.modGang_plim (s : State) (k sl : Nat) (h : Gang → Gang) : (s.modGang k sl h).plim = s.plim := by unfold State.modGang; split <;> rfl
@[simp] theorem State.modGang_tj (s : State) (k sl : Nat) (h : Gang → Gang) : (s.modGang k sl h).tj = s.tj := by unfold State.modGang; split <;> rfl
@[simp] theorem State.modGang_tin (s : State) (k sl : Nat) (h : Gang → Gang) : (s.modGang k sl h).tin = s.tin := by unfold State.modGang; split <;> rfl
@[simp] theorem State.modGang_thermal (s : State) (k sl : Nat) (h : Gang → Gang) : (s.modGang k sl h).thermal = s.thermal := by unfold State.modGang; split <;> rfl
@[simp] theorem State.modGang_anonce (s : State) (k sl : Nat) (h : Gang → Gang) : (s.modGang k sl h).anonce = s.anonce := by unfold State.modGang; split <;> rfl
@[simp] theorem State.modGang_aaddr (s : State) (k sl : Nat) (h : Gang → Gang) : (s.modGang k sl h).aaddr = s.aaddr := by unfold State.modGang; split <;> rfl
@[simp] theorem State.modGang_acmdErr (s : State) (k sl : Nat) (h : Gang → Gang) : (s.modGang k sl h).acmdErr = s.acmdErr := by unfold State.modGang; split <;> rfl
@[simp] theorem State.modGang_warm (s : State) (k sl : Nat) (h : Gang → Gang) : (s.modGang k sl h).warm = s.warm := by unfold State.modGang; split <;> rfl
@[simp] theorem State.modGang_boot (s : State) (k sl : Nat) (h : Gang → Gang) : (s.modGang k sl h).boot = s.boot := by unfold State.modGang; split <;> rfl
@[simp] theorem State.modGang_dbgUsed (s : State) (k sl : Nat) (h : Gang → Gang) : (s.modGang k sl h).dbgUsed = s.dbgUsed := by unfold State.modGang; split <;> rfl
@[simp] theorem State.modGang_modNo (s : State) (k sl : Nat) (h : Gang → Gang) : (s.modGang k sl h).modNo = s.modNo := by unfold State.modGang; split <;> rfl
@[simp] theorem State.modGang_fatal (s : State) (k sl : Nat) (h : Gang → Gang) : (s.modGang k sl h).fatal = s.fatal := by unfold State.modGang; split <;> rfl
@[simp] theorem State.modGang_aerAt (s : State) (k sl : Nat) (h : Gang → Gang) : (s.modGang k sl h).aerAt = s.aerAt := by unfold State.modGang; split <;> rfl
@[simp] theorem State.modGang_out (s : State) (k sl : Nat) (h : Gang → Gang) : (s.modGang k sl h).out = s.out := by unfold State.modGang; split <;> rfl

/-! State.modFunc -/

@[simp] theorem State.modFunc_agenda (s : State) (n : Nat) (h : Func → Func) : (s.modFunc n h).agenda = s.agenda := rfl
@[simp] theorem State.modFunc_choices (s : State) (n : Nat) (h : Func → Func) : (s.modFunc n h).choices = s.choices := rfl
@[simp] theorem State.modFunc_free (s : State) (n : Nat) (h : Func → Func) : (s.modFunc n h).free = s.free := rfl
@[simp] theorem State.modFunc_nextId (s : State) (n : Nat) (h : Func → Func) : (s.modFunc n h).nextId = s.nextId := rfl
@[simp] theorem State.modFunc_cycle (s : State) (n : Nat) (h : Func → Func) : (s.modFunc n h).cycle = s.cycle := rfl
@[simp] theorem State.modFunc_pod (s : State) (n : Nat) (h : Func → Func) : (s.modFunc n h).pod = s.pod := rfl
@[simp] theorem State.modFunc_cur (s : State) (n : Nat) (h : Func → Func) : (s.modFunc n h).cur = s.cur := rfl
@[simp] theorem State.modFunc_cands (s : State) (n : Nat) (h : Func → Func) : (s.modFunc n h).cands = s.cands := rfl
@[simp] theorem State.modFunc_picked (s : State) (n : Nat) (h : Func → Func) : (s.modFunc n h).picked = s.picked := rfl
@[simp] theorem State.modFunc_sels (s : State) (n : Nat) (h : Func → Func) : (s.modFunc n h).sels = s.sels := rfl
@[simp] theorem State.modFunc_cores (s : State) (n : Nat) (h : Func → Func) : (s.modFunc n h).cores = s.cores := rfl
@[simp] theorem State.modFunc_powered (s : State) (n : Nat) (h : Func → Func) : (s.modFunc n h).powered = s.powered := rfl
@[simp] theorem State.modFunc_groups (s : State) (n : Nat) (h : Func → Func) : (s.modFunc n h).groups = s.groups := rfl
@[simp] theorem State.modFunc_launches (s : State) (n : Nat) (h : Func → Func) : (s.modFunc n h).launches = s.launches := rfl
@[simp] theorem State.modFunc_graphs (s : State) (n : Nat) (h : Func → Func) : (s.modFunc n h).graphs = s.graphs := rfl
@[simp] theorem State.modFunc_jobs (s : State) (n : Nat) (h : Func → Func) : (s.modFunc n h).jobs = s.jobs := rfl
@[simp] theorem State.modFunc_reqs (s : State) (n : Nat) (h : Func → Func) : (s.modFunc n h).reqs = s.reqs := rfl
@[simp] theorem State.modFunc_tags (s : State) (n : Nat) (h : Func → Func) : (s.modFunc n h).tags = s.tags := rfl
@[simp] theorem State.modFunc_early (s : State) (n : Nat) (h : Func → Func) : (s.modFunc n h).early = s.early := rfl
@[simp] theorem State.modFunc_copies (s : State) (n : Nat) (h : Func → Func) : (s.modFunc n h).copies = s.copies := rfl
@[simp] theorem State.modFunc_emits (s : State) (n : Nat) (h : Func → Func) : (s.modFunc n h).emits = s.emits := rfl
@[simp] theorem State.modFunc_creds (s : State) (n : Nat) (h : Func → Func) : (s.modFunc n h).creds = s.creds := rfl
@[simp] theorem State.modFunc_snaps (s : State) (n : Nat) (h : Func → Func) : (s.modFunc n h).snaps = s.snaps := rfl
@[simp] theorem State.modFunc_saved (s : State) (n : Nat) (h : Func → Func) : (s.modFunc n h).saved = s.saved := rfl
@[simp] theorem State.modFunc_cslots (s : State) (n : Nat) (h : Func → Func) : (s.modFunc n h).cslots = s.cslots := rfl
@[simp] theorem State.modFunc_funcs (s : State) (n : Nat) (h : Func → Func) : (s.modFunc n h).funcs = Cells.put s.funcs n (h (s.func n)) := rfl
@[simp] theorem State.modFunc_parts (s : State) (n : Nat) (h : Func → Func) : (s.modFunc n h).parts = s.parts := rfl
@[simp] theorem State.modFunc_mem (s : State) (n : Nat) (h : Func → Func) : (s.modFunc n h).mem = s.mem := rfl
@[simp] theorem State.modFunc_past (s : State) (n : Nat) (h : Func → Func) : (s.modFunc n h).past = s.past := rfl
@[simp] theorem State.modFunc_frames (s : State) (n : Nat) (h : Func → Func) : (s.modFunc n h).frames = s.frames := rfl
@[simp] theorem State.modFunc_dirty (s : State) (n : Nat) (h : Func → Func) : (s.modFunc n h).dirty = s.dirty := rfl
@[simp] theorem State.modFunc_poison (s : State) (n : Nat) (h : Func → Func) : (s.modFunc n h).poison = s.poison := rfl
@[simp] theorem State.modFunc_tlb (s : State) (n : Nat) (h : Func → Func) : (s.modFunc n h).tlb = s.tlb := rfl
@[simp] theorem State.modFunc_inval (s : State) (n : Nat) (h : Func → Func) : (s.modFunc n h).inval = s.inval := rfl
@[simp] theorem State.modFunc_s2iaddr (s : State) (n : Nat) (h : Func → Func) : (s.modFunc n h).s2iaddr = s.s2iaddr := rfl
@[simp] theorem State.modFunc_s2ictl (s : State) (n : Nat) (h : Func → Func) : (s.modFunc n h).s2ictl = s.s2ictl := rfl
@[simp] theorem State.modFunc_dtvec (s : State) (n : Nat) (h : Func → Func) : (s.modFunc n h).dtvec = s.dtvec := rfl
@[simp] theorem State.modFunc_ptoken (s : State) (n : Nat) (h : Func → Func) : (s.modFunc n h).ptoken = s.ptoken := rfl
@[simp] theorem State.modFunc_tokenLast (s : State) (n : Nat) (h : Func → Func) : (s.modFunc n h).tokenLast = s.tokenLast := rfl
@[simp] theorem State.modFunc_dbgIn (s : State) (n : Nat) (h : Func → Func) : (s.modFunc n h).dbgIn = s.dbgIn := rfl
@[simp] theorem State.modFunc_dbgInf (s : State) (n : Nat) (h : Func → Func) : (s.modFunc n h).dbgInf = s.dbgInf := rfl
@[simp] theorem State.modFunc_dbgOut (s : State) (n : Nat) (h : Func → Func) : (s.modFunc n h).dbgOut = s.dbgOut := rfl
@[simp] theorem State.modFunc_dbgOutf (s : State) (n : Nat) (h : Func → Func) : (s.modFunc n h).dbgOutf = s.dbgOutf := rfl
@[simp] theorem State.modFunc_dbgIen (s : State) (n : Nat) (h : Func → Func) : (s.modFunc n h).dbgIen = s.dbgIen := rfl
@[simp] theorem State.modFunc_dbgVec (s : State) (n : Nat) (h : Func → Func) : (s.modFunc n h).dbgVec = s.dbgVec := rfl
@[simp] theorem State.modFunc_dbgHold (s : State) (n : Nat) (h : Func → Func) : (s.modFunc n h).dbgHold = s.dbgHold := rfl
@[simp] theorem State.modFunc_dbghreq (s : State) (n : Nat) (h : Func → Func) : (s.modFunc n h).dbghreq = s.dbghreq := rfl
@[simp] theorem State.modFunc_jcan (s : State) (n : Nat) (h : Func → Func) : (s.modFunc n h).jcan = s.jcan := rfl
@[simp] theorem State.modFunc_jcanOf (s : State) (n : Nat) (h : Func → Func) : (s.modFunc n h).jcanOf = s.jcanOf := rfl
@[simp] theorem State.modFunc_stopLog (s : State) (n : Nat) (h : Func → Func) : (s.modFunc n h).stopLog = s.stopLog := rfl
@[simp] theorem State.modFunc_stopCount (s : State) (n : Nat) (h : Func → Func) : (s.modFunc n h).stopCount = s.stopCount := rfl
@[simp] theorem State.modFunc_kdata (s : State) (n : Nat) (h : Func → Func) : (s.modFunc n h).kdata = s.kdata := rfl
@[simp] theorem State.modFunc_kcmd (s : State) (n : Nat) (h : Func → Func) : (s.modFunc n h).kcmd = s.kcmd := rfl
@[simp] theorem State.modFunc_rtcmd (s : State) (n : Nat) (h : Func → Func) : (s.modFunc n h).rtcmd = s.rtcmd := rfl
@[simp] theorem State.modFunc_keyData (s : State) (n : Nat) (h : Func → Func) : (s.modFunc n h).keyData = s.keyData := rfl
@[simp] theorem State.modFunc_rtaddr (s : State) (n : Nat) (h : Func → Func) : (s.modFunc n h).rtaddr = s.rtaddr := rfl
@[simp] theorem State.modFunc_throt (s : State) (n : Nat) (h : Func → Func) : (s.modFunc n h).throt = s.throt := rfl
@[simp] theorem State.modFunc_rows (s : State) (n : Nat) (h : Func → Func) : (s.modFunc n h).rows = s.rows := rfl
@[simp] theorem State.modFunc_mfwd (s : State) (n : Nat) (h : Func → Func) : (s.modFunc n h).mfwd = s.mfwd := rfl
@[simp] theorem State.modFunc_rdidx (s : State) (n : Nat) (h : Func → Func) : (s.modFunc n h).rdidx = s.rdidx := rfl
@[simp] theorem State.modFunc_redirect (s : State) (n : Nat) (h : Func → Func) : (s.modFunc n h).redirect = s.redirect := rfl
@[simp] theorem State.modFunc_windows (s : State) (n : Nat) (h : Func → Func) : (s.modFunc n h).windows = s.windows := rfl
@[simp] theorem State.modFunc_movedSlots (s : State) (n : Nat) (h : Func → Func) : (s.modFunc n h).movedSlots = s.movedSlots := rfl
@[simp] theorem State.modFunc_arriving (s : State) (n : Nat) (h : Func → Func) : (s.modFunc n h).arriving = s.arriving := rfl
@[simp] theorem State.modFunc_sessions (s : State) (n : Nat) (h : Func → Func) : (s.modFunc n h).sessions = s.sessions := rfl
@[simp] theorem State.modFunc_links (s : State) (n : Nat) (h : Func → Func) : (s.modFunc n h).links = s.links := rfl
@[simp] theorem State.modFunc_held (s : State) (n : Nat) (h : Func → Func) : (s.modFunc n h).held = s.held := rfl
@[simp] theorem State.modFunc_plim (s : State) (n : Nat) (h : Func → Func) : (s.modFunc n h).plim = s.plim := rfl
@[simp] theorem State.modFunc_tj (s : State) (n : Nat) (h : Func → Func) : (s.modFunc n h).tj = s.tj := rfl
@[simp] theorem State.modFunc_tin (s : State) (n : Nat) (h : Func → Func) : (s.modFunc n h).tin = s.tin := rfl
@[simp] theorem State.modFunc_thermal (s : State) (n : Nat) (h : Func → Func) : (s.modFunc n h).thermal = s.thermal := rfl
@[simp] theorem State.modFunc_anonce (s : State) (n : Nat) (h : Func → Func) : (s.modFunc n h).anonce = s.anonce := rfl
@[simp] theorem State.modFunc_aaddr (s : State) (n : Nat) (h : Func → Func) : (s.modFunc n h).aaddr = s.aaddr := rfl
@[simp] theorem State.modFunc_acmdErr (s : State) (n : Nat) (h : Func → Func) : (s.modFunc n h).acmdErr = s.acmdErr := rfl
@[simp] theorem State.modFunc_warm (s : State) (n : Nat) (h : Func → Func) : (s.modFunc n h).warm = s.warm := rfl
@[simp] theorem State.modFunc_boot (s : State) (n : Nat) (h : Func → Func) : (s.modFunc n h).boot = s.boot := rfl
@[simp] theorem State.modFunc_dbgUsed (s : State) (n : Nat) (h : Func → Func) : (s.modFunc n h).dbgUsed = s.dbgUsed := rfl
@[simp] theorem State.modFunc_modNo (s : State) (n : Nat) (h : Func → Func) : (s.modFunc n h).modNo = s.modNo := rfl
@[simp] theorem State.modFunc_fatal (s : State) (n : Nat) (h : Func → Func) : (s.modFunc n h).fatal = s.fatal := rfl
@[simp] theorem State.modFunc_aerAt (s : State) (n : Nat) (h : Func → Func) : (s.modFunc n h).aerAt = s.aerAt := rfl
@[simp] theorem State.modFunc_out (s : State) (n : Nat) (h : Func → Func) : (s.modFunc n h).out = s.out := rfl

/-! State.modPx -/

@[simp] theorem State.modPx_agenda (s : State) (n : Nat) (h : Px → Px) : (s.modPx n h).agenda = s.agenda := rfl
@[simp] theorem State.modPx_choices (s : State) (n : Nat) (h : Px → Px) : (s.modPx n h).choices = s.choices := rfl
@[simp] theorem State.modPx_free (s : State) (n : Nat) (h : Px → Px) : (s.modPx n h).free = s.free := rfl
@[simp] theorem State.modPx_nextId (s : State) (n : Nat) (h : Px → Px) : (s.modPx n h).nextId = s.nextId := rfl
@[simp] theorem State.modPx_cycle (s : State) (n : Nat) (h : Px → Px) : (s.modPx n h).cycle = s.cycle := rfl
@[simp] theorem State.modPx_pod (s : State) (n : Nat) (h : Px → Px) : (s.modPx n h).pod = s.pod := rfl
@[simp] theorem State.modPx_cur (s : State) (n : Nat) (h : Px → Px) : (s.modPx n h).cur = s.cur := rfl
@[simp] theorem State.modPx_cands (s : State) (n : Nat) (h : Px → Px) : (s.modPx n h).cands = s.cands := rfl
@[simp] theorem State.modPx_picked (s : State) (n : Nat) (h : Px → Px) : (s.modPx n h).picked = s.picked := rfl
@[simp] theorem State.modPx_sels (s : State) (n : Nat) (h : Px → Px) : (s.modPx n h).sels = s.sels := rfl
@[simp] theorem State.modPx_cores (s : State) (n : Nat) (h : Px → Px) : (s.modPx n h).cores = s.cores := rfl
@[simp] theorem State.modPx_powered (s : State) (n : Nat) (h : Px → Px) : (s.modPx n h).powered = s.powered := rfl
@[simp] theorem State.modPx_groups (s : State) (n : Nat) (h : Px → Px) : (s.modPx n h).groups = s.groups := rfl
@[simp] theorem State.modPx_launches (s : State) (n : Nat) (h : Px → Px) : (s.modPx n h).launches = s.launches := rfl
@[simp] theorem State.modPx_graphs (s : State) (n : Nat) (h : Px → Px) : (s.modPx n h).graphs = s.graphs := rfl
@[simp] theorem State.modPx_jobs (s : State) (n : Nat) (h : Px → Px) : (s.modPx n h).jobs = s.jobs := rfl
@[simp] theorem State.modPx_reqs (s : State) (n : Nat) (h : Px → Px) : (s.modPx n h).reqs = s.reqs := rfl
@[simp] theorem State.modPx_tags (s : State) (n : Nat) (h : Px → Px) : (s.modPx n h).tags = s.tags := rfl
@[simp] theorem State.modPx_early (s : State) (n : Nat) (h : Px → Px) : (s.modPx n h).early = s.early := rfl
@[simp] theorem State.modPx_copies (s : State) (n : Nat) (h : Px → Px) : (s.modPx n h).copies = s.copies := rfl
@[simp] theorem State.modPx_emits (s : State) (n : Nat) (h : Px → Px) : (s.modPx n h).emits = s.emits := rfl
@[simp] theorem State.modPx_creds (s : State) (n : Nat) (h : Px → Px) : (s.modPx n h).creds = s.creds := rfl
@[simp] theorem State.modPx_snaps (s : State) (n : Nat) (h : Px → Px) : (s.modPx n h).snaps = s.snaps := rfl
@[simp] theorem State.modPx_saved (s : State) (n : Nat) (h : Px → Px) : (s.modPx n h).saved = s.saved := rfl
@[simp] theorem State.modPx_cslots (s : State) (n : Nat) (h : Px → Px) : (s.modPx n h).cslots = s.cslots := rfl
@[simp] theorem State.modPx_funcs (s : State) (n : Nat) (h : Px → Px) : (s.modPx n h).funcs = Cells.put s.funcs n { s.func n with px := h (s.px n) } := rfl
@[simp] theorem State.modPx_parts (s : State) (n : Nat) (h : Px → Px) : (s.modPx n h).parts = s.parts := rfl
@[simp] theorem State.modPx_mem (s : State) (n : Nat) (h : Px → Px) : (s.modPx n h).mem = s.mem := rfl
@[simp] theorem State.modPx_past (s : State) (n : Nat) (h : Px → Px) : (s.modPx n h).past = s.past := rfl
@[simp] theorem State.modPx_frames (s : State) (n : Nat) (h : Px → Px) : (s.modPx n h).frames = s.frames := rfl
@[simp] theorem State.modPx_dirty (s : State) (n : Nat) (h : Px → Px) : (s.modPx n h).dirty = s.dirty := rfl
@[simp] theorem State.modPx_poison (s : State) (n : Nat) (h : Px → Px) : (s.modPx n h).poison = s.poison := rfl
@[simp] theorem State.modPx_tlb (s : State) (n : Nat) (h : Px → Px) : (s.modPx n h).tlb = s.tlb := rfl
@[simp] theorem State.modPx_inval (s : State) (n : Nat) (h : Px → Px) : (s.modPx n h).inval = s.inval := rfl
@[simp] theorem State.modPx_s2iaddr (s : State) (n : Nat) (h : Px → Px) : (s.modPx n h).s2iaddr = s.s2iaddr := rfl
@[simp] theorem State.modPx_s2ictl (s : State) (n : Nat) (h : Px → Px) : (s.modPx n h).s2ictl = s.s2ictl := rfl
@[simp] theorem State.modPx_dtvec (s : State) (n : Nat) (h : Px → Px) : (s.modPx n h).dtvec = s.dtvec := rfl
@[simp] theorem State.modPx_ptoken (s : State) (n : Nat) (h : Px → Px) : (s.modPx n h).ptoken = s.ptoken := rfl
@[simp] theorem State.modPx_tokenLast (s : State) (n : Nat) (h : Px → Px) : (s.modPx n h).tokenLast = s.tokenLast := rfl
@[simp] theorem State.modPx_dbgIn (s : State) (n : Nat) (h : Px → Px) : (s.modPx n h).dbgIn = s.dbgIn := rfl
@[simp] theorem State.modPx_dbgInf (s : State) (n : Nat) (h : Px → Px) : (s.modPx n h).dbgInf = s.dbgInf := rfl
@[simp] theorem State.modPx_dbgOut (s : State) (n : Nat) (h : Px → Px) : (s.modPx n h).dbgOut = s.dbgOut := rfl
@[simp] theorem State.modPx_dbgOutf (s : State) (n : Nat) (h : Px → Px) : (s.modPx n h).dbgOutf = s.dbgOutf := rfl
@[simp] theorem State.modPx_dbgIen (s : State) (n : Nat) (h : Px → Px) : (s.modPx n h).dbgIen = s.dbgIen := rfl
@[simp] theorem State.modPx_dbgVec (s : State) (n : Nat) (h : Px → Px) : (s.modPx n h).dbgVec = s.dbgVec := rfl
@[simp] theorem State.modPx_dbgHold (s : State) (n : Nat) (h : Px → Px) : (s.modPx n h).dbgHold = s.dbgHold := rfl
@[simp] theorem State.modPx_dbghreq (s : State) (n : Nat) (h : Px → Px) : (s.modPx n h).dbghreq = s.dbghreq := rfl
@[simp] theorem State.modPx_jcan (s : State) (n : Nat) (h : Px → Px) : (s.modPx n h).jcan = s.jcan := rfl
@[simp] theorem State.modPx_jcanOf (s : State) (n : Nat) (h : Px → Px) : (s.modPx n h).jcanOf = s.jcanOf := rfl
@[simp] theorem State.modPx_stopLog (s : State) (n : Nat) (h : Px → Px) : (s.modPx n h).stopLog = s.stopLog := rfl
@[simp] theorem State.modPx_stopCount (s : State) (n : Nat) (h : Px → Px) : (s.modPx n h).stopCount = s.stopCount := rfl
@[simp] theorem State.modPx_kdata (s : State) (n : Nat) (h : Px → Px) : (s.modPx n h).kdata = s.kdata := rfl
@[simp] theorem State.modPx_kcmd (s : State) (n : Nat) (h : Px → Px) : (s.modPx n h).kcmd = s.kcmd := rfl
@[simp] theorem State.modPx_rtcmd (s : State) (n : Nat) (h : Px → Px) : (s.modPx n h).rtcmd = s.rtcmd := rfl
@[simp] theorem State.modPx_keyData (s : State) (n : Nat) (h : Px → Px) : (s.modPx n h).keyData = s.keyData := rfl
@[simp] theorem State.modPx_rtaddr (s : State) (n : Nat) (h : Px → Px) : (s.modPx n h).rtaddr = s.rtaddr := rfl
@[simp] theorem State.modPx_throt (s : State) (n : Nat) (h : Px → Px) : (s.modPx n h).throt = s.throt := rfl
@[simp] theorem State.modPx_rows (s : State) (n : Nat) (h : Px → Px) : (s.modPx n h).rows = s.rows := rfl
@[simp] theorem State.modPx_mfwd (s : State) (n : Nat) (h : Px → Px) : (s.modPx n h).mfwd = s.mfwd := rfl
@[simp] theorem State.modPx_rdidx (s : State) (n : Nat) (h : Px → Px) : (s.modPx n h).rdidx = s.rdidx := rfl
@[simp] theorem State.modPx_redirect (s : State) (n : Nat) (h : Px → Px) : (s.modPx n h).redirect = s.redirect := rfl
@[simp] theorem State.modPx_windows (s : State) (n : Nat) (h : Px → Px) : (s.modPx n h).windows = s.windows := rfl
@[simp] theorem State.modPx_movedSlots (s : State) (n : Nat) (h : Px → Px) : (s.modPx n h).movedSlots = s.movedSlots := rfl
@[simp] theorem State.modPx_arriving (s : State) (n : Nat) (h : Px → Px) : (s.modPx n h).arriving = s.arriving := rfl
@[simp] theorem State.modPx_sessions (s : State) (n : Nat) (h : Px → Px) : (s.modPx n h).sessions = s.sessions := rfl
@[simp] theorem State.modPx_links (s : State) (n : Nat) (h : Px → Px) : (s.modPx n h).links = s.links := rfl
@[simp] theorem State.modPx_held (s : State) (n : Nat) (h : Px → Px) : (s.modPx n h).held = s.held := rfl
@[simp] theorem State.modPx_plim (s : State) (n : Nat) (h : Px → Px) : (s.modPx n h).plim = s.plim := rfl
@[simp] theorem State.modPx_tj (s : State) (n : Nat) (h : Px → Px) : (s.modPx n h).tj = s.tj := rfl
@[simp] theorem State.modPx_tin (s : State) (n : Nat) (h : Px → Px) : (s.modPx n h).tin = s.tin := rfl
@[simp] theorem State.modPx_thermal (s : State) (n : Nat) (h : Px → Px) : (s.modPx n h).thermal = s.thermal := rfl
@[simp] theorem State.modPx_anonce (s : State) (n : Nat) (h : Px → Px) : (s.modPx n h).anonce = s.anonce := rfl
@[simp] theorem State.modPx_aaddr (s : State) (n : Nat) (h : Px → Px) : (s.modPx n h).aaddr = s.aaddr := rfl
@[simp] theorem State.modPx_acmdErr (s : State) (n : Nat) (h : Px → Px) : (s.modPx n h).acmdErr = s.acmdErr := rfl
@[simp] theorem State.modPx_warm (s : State) (n : Nat) (h : Px → Px) : (s.modPx n h).warm = s.warm := rfl
@[simp] theorem State.modPx_boot (s : State) (n : Nat) (h : Px → Px) : (s.modPx n h).boot = s.boot := rfl
@[simp] theorem State.modPx_dbgUsed (s : State) (n : Nat) (h : Px → Px) : (s.modPx n h).dbgUsed = s.dbgUsed := rfl
@[simp] theorem State.modPx_modNo (s : State) (n : Nat) (h : Px → Px) : (s.modPx n h).modNo = s.modNo := rfl
@[simp] theorem State.modPx_fatal (s : State) (n : Nat) (h : Px → Px) : (s.modPx n h).fatal = s.fatal := rfl
@[simp] theorem State.modPx_aerAt (s : State) (n : Nat) (h : Px → Px) : (s.modPx n h).aerAt = s.aerAt := rfl
@[simp] theorem State.modPx_out (s : State) (n : Nat) (h : Px → Px) : (s.modPx n h).out = s.out := rfl

/-! State.modQueue -/

@[simp] theorem State.modQueue_agenda (s : State) (n q : Nat) (h : Queue → Queue) : (s.modQueue n q h).agenda = s.agenda := rfl
@[simp] theorem State.modQueue_choices (s : State) (n q : Nat) (h : Queue → Queue) : (s.modQueue n q h).choices = s.choices := rfl
@[simp] theorem State.modQueue_free (s : State) (n q : Nat) (h : Queue → Queue) : (s.modQueue n q h).free = s.free := rfl
@[simp] theorem State.modQueue_nextId (s : State) (n q : Nat) (h : Queue → Queue) : (s.modQueue n q h).nextId = s.nextId := rfl
@[simp] theorem State.modQueue_cycle (s : State) (n q : Nat) (h : Queue → Queue) : (s.modQueue n q h).cycle = s.cycle := rfl
@[simp] theorem State.modQueue_pod (s : State) (n q : Nat) (h : Queue → Queue) : (s.modQueue n q h).pod = s.pod := rfl
@[simp] theorem State.modQueue_cur (s : State) (n q : Nat) (h : Queue → Queue) : (s.modQueue n q h).cur = s.cur := rfl
@[simp] theorem State.modQueue_cands (s : State) (n q : Nat) (h : Queue → Queue) : (s.modQueue n q h).cands = s.cands := rfl
@[simp] theorem State.modQueue_picked (s : State) (n q : Nat) (h : Queue → Queue) : (s.modQueue n q h).picked = s.picked := rfl
@[simp] theorem State.modQueue_sels (s : State) (n q : Nat) (h : Queue → Queue) : (s.modQueue n q h).sels = s.sels := rfl
@[simp] theorem State.modQueue_cores (s : State) (n q : Nat) (h : Queue → Queue) : (s.modQueue n q h).cores = s.cores := rfl
@[simp] theorem State.modQueue_powered (s : State) (n q : Nat) (h : Queue → Queue) : (s.modQueue n q h).powered = s.powered := rfl
@[simp] theorem State.modQueue_groups (s : State) (n q : Nat) (h : Queue → Queue) : (s.modQueue n q h).groups = s.groups := rfl
@[simp] theorem State.modQueue_launches (s : State) (n q : Nat) (h : Queue → Queue) : (s.modQueue n q h).launches = s.launches := rfl
@[simp] theorem State.modQueue_graphs (s : State) (n q : Nat) (h : Queue → Queue) : (s.modQueue n q h).graphs = s.graphs := rfl
@[simp] theorem State.modQueue_jobs (s : State) (n q : Nat) (h : Queue → Queue) : (s.modQueue n q h).jobs = s.jobs := rfl
@[simp] theorem State.modQueue_reqs (s : State) (n q : Nat) (h : Queue → Queue) : (s.modQueue n q h).reqs = s.reqs := rfl
@[simp] theorem State.modQueue_tags (s : State) (n q : Nat) (h : Queue → Queue) : (s.modQueue n q h).tags = s.tags := rfl
@[simp] theorem State.modQueue_early (s : State) (n q : Nat) (h : Queue → Queue) : (s.modQueue n q h).early = s.early := rfl
@[simp] theorem State.modQueue_copies (s : State) (n q : Nat) (h : Queue → Queue) : (s.modQueue n q h).copies = s.copies := rfl
@[simp] theorem State.modQueue_emits (s : State) (n q : Nat) (h : Queue → Queue) : (s.modQueue n q h).emits = s.emits := rfl
@[simp] theorem State.modQueue_creds (s : State) (n q : Nat) (h : Queue → Queue) : (s.modQueue n q h).creds = s.creds := rfl
@[simp] theorem State.modQueue_snaps (s : State) (n q : Nat) (h : Queue → Queue) : (s.modQueue n q h).snaps = s.snaps := rfl
@[simp] theorem State.modQueue_saved (s : State) (n q : Nat) (h : Queue → Queue) : (s.modQueue n q h).saved = s.saved := rfl
@[simp] theorem State.modQueue_cslots (s : State) (n q : Nat) (h : Queue → Queue) : (s.modQueue n q h).cslots = s.cslots := rfl
@[simp] theorem State.modQueue_parts (s : State) (n q : Nat) (h : Queue → Queue) : (s.modQueue n q h).parts = s.parts := rfl
@[simp] theorem State.modQueue_mem (s : State) (n q : Nat) (h : Queue → Queue) : (s.modQueue n q h).mem = s.mem := rfl
@[simp] theorem State.modQueue_past (s : State) (n q : Nat) (h : Queue → Queue) : (s.modQueue n q h).past = s.past := rfl
@[simp] theorem State.modQueue_frames (s : State) (n q : Nat) (h : Queue → Queue) : (s.modQueue n q h).frames = s.frames := rfl
@[simp] theorem State.modQueue_dirty (s : State) (n q : Nat) (h : Queue → Queue) : (s.modQueue n q h).dirty = s.dirty := rfl
@[simp] theorem State.modQueue_poison (s : State) (n q : Nat) (h : Queue → Queue) : (s.modQueue n q h).poison = s.poison := rfl
@[simp] theorem State.modQueue_tlb (s : State) (n q : Nat) (h : Queue → Queue) : (s.modQueue n q h).tlb = s.tlb := rfl
@[simp] theorem State.modQueue_inval (s : State) (n q : Nat) (h : Queue → Queue) : (s.modQueue n q h).inval = s.inval := rfl
@[simp] theorem State.modQueue_s2iaddr (s : State) (n q : Nat) (h : Queue → Queue) : (s.modQueue n q h).s2iaddr = s.s2iaddr := rfl
@[simp] theorem State.modQueue_s2ictl (s : State) (n q : Nat) (h : Queue → Queue) : (s.modQueue n q h).s2ictl = s.s2ictl := rfl
@[simp] theorem State.modQueue_dtvec (s : State) (n q : Nat) (h : Queue → Queue) : (s.modQueue n q h).dtvec = s.dtvec := rfl
@[simp] theorem State.modQueue_ptoken (s : State) (n q : Nat) (h : Queue → Queue) : (s.modQueue n q h).ptoken = s.ptoken := rfl
@[simp] theorem State.modQueue_tokenLast (s : State) (n q : Nat) (h : Queue → Queue) : (s.modQueue n q h).tokenLast = s.tokenLast := rfl
@[simp] theorem State.modQueue_dbgIn (s : State) (n q : Nat) (h : Queue → Queue) : (s.modQueue n q h).dbgIn = s.dbgIn := rfl
@[simp] theorem State.modQueue_dbgInf (s : State) (n q : Nat) (h : Queue → Queue) : (s.modQueue n q h).dbgInf = s.dbgInf := rfl
@[simp] theorem State.modQueue_dbgOut (s : State) (n q : Nat) (h : Queue → Queue) : (s.modQueue n q h).dbgOut = s.dbgOut := rfl
@[simp] theorem State.modQueue_dbgOutf (s : State) (n q : Nat) (h : Queue → Queue) : (s.modQueue n q h).dbgOutf = s.dbgOutf := rfl
@[simp] theorem State.modQueue_dbgIen (s : State) (n q : Nat) (h : Queue → Queue) : (s.modQueue n q h).dbgIen = s.dbgIen := rfl
@[simp] theorem State.modQueue_dbgVec (s : State) (n q : Nat) (h : Queue → Queue) : (s.modQueue n q h).dbgVec = s.dbgVec := rfl
@[simp] theorem State.modQueue_dbgHold (s : State) (n q : Nat) (h : Queue → Queue) : (s.modQueue n q h).dbgHold = s.dbgHold := rfl
@[simp] theorem State.modQueue_dbghreq (s : State) (n q : Nat) (h : Queue → Queue) : (s.modQueue n q h).dbghreq = s.dbghreq := rfl
@[simp] theorem State.modQueue_jcan (s : State) (n q : Nat) (h : Queue → Queue) : (s.modQueue n q h).jcan = s.jcan := rfl
@[simp] theorem State.modQueue_jcanOf (s : State) (n q : Nat) (h : Queue → Queue) : (s.modQueue n q h).jcanOf = s.jcanOf := rfl
@[simp] theorem State.modQueue_stopLog (s : State) (n q : Nat) (h : Queue → Queue) : (s.modQueue n q h).stopLog = s.stopLog := rfl
@[simp] theorem State.modQueue_stopCount (s : State) (n q : Nat) (h : Queue → Queue) : (s.modQueue n q h).stopCount = s.stopCount := rfl
@[simp] theorem State.modQueue_kdata (s : State) (n q : Nat) (h : Queue → Queue) : (s.modQueue n q h).kdata = s.kdata := rfl
@[simp] theorem State.modQueue_kcmd (s : State) (n q : Nat) (h : Queue → Queue) : (s.modQueue n q h).kcmd = s.kcmd := rfl
@[simp] theorem State.modQueue_rtcmd (s : State) (n q : Nat) (h : Queue → Queue) : (s.modQueue n q h).rtcmd = s.rtcmd := rfl
@[simp] theorem State.modQueue_keyData (s : State) (n q : Nat) (h : Queue → Queue) : (s.modQueue n q h).keyData = s.keyData := rfl
@[simp] theorem State.modQueue_rtaddr (s : State) (n q : Nat) (h : Queue → Queue) : (s.modQueue n q h).rtaddr = s.rtaddr := rfl
@[simp] theorem State.modQueue_throt (s : State) (n q : Nat) (h : Queue → Queue) : (s.modQueue n q h).throt = s.throt := rfl
@[simp] theorem State.modQueue_rows (s : State) (n q : Nat) (h : Queue → Queue) : (s.modQueue n q h).rows = s.rows := rfl
@[simp] theorem State.modQueue_mfwd (s : State) (n q : Nat) (h : Queue → Queue) : (s.modQueue n q h).mfwd = s.mfwd := rfl
@[simp] theorem State.modQueue_rdidx (s : State) (n q : Nat) (h : Queue → Queue) : (s.modQueue n q h).rdidx = s.rdidx := rfl
@[simp] theorem State.modQueue_redirect (s : State) (n q : Nat) (h : Queue → Queue) : (s.modQueue n q h).redirect = s.redirect := rfl
@[simp] theorem State.modQueue_windows (s : State) (n q : Nat) (h : Queue → Queue) : (s.modQueue n q h).windows = s.windows := rfl
@[simp] theorem State.modQueue_movedSlots (s : State) (n q : Nat) (h : Queue → Queue) : (s.modQueue n q h).movedSlots = s.movedSlots := rfl
@[simp] theorem State.modQueue_arriving (s : State) (n q : Nat) (h : Queue → Queue) : (s.modQueue n q h).arriving = s.arriving := rfl
@[simp] theorem State.modQueue_sessions (s : State) (n q : Nat) (h : Queue → Queue) : (s.modQueue n q h).sessions = s.sessions := rfl
@[simp] theorem State.modQueue_links (s : State) (n q : Nat) (h : Queue → Queue) : (s.modQueue n q h).links = s.links := rfl
@[simp] theorem State.modQueue_held (s : State) (n q : Nat) (h : Queue → Queue) : (s.modQueue n q h).held = s.held := rfl
@[simp] theorem State.modQueue_plim (s : State) (n q : Nat) (h : Queue → Queue) : (s.modQueue n q h).plim = s.plim := rfl
@[simp] theorem State.modQueue_tj (s : State) (n q : Nat) (h : Queue → Queue) : (s.modQueue n q h).tj = s.tj := rfl
@[simp] theorem State.modQueue_tin (s : State) (n q : Nat) (h : Queue → Queue) : (s.modQueue n q h).tin = s.tin := rfl
@[simp] theorem State.modQueue_thermal (s : State) (n q : Nat) (h : Queue → Queue) : (s.modQueue n q h).thermal = s.thermal := rfl
@[simp] theorem State.modQueue_anonce (s : State) (n q : Nat) (h : Queue → Queue) : (s.modQueue n q h).anonce = s.anonce := rfl
@[simp] theorem State.modQueue_aaddr (s : State) (n q : Nat) (h : Queue → Queue) : (s.modQueue n q h).aaddr = s.aaddr := rfl
@[simp] theorem State.modQueue_acmdErr (s : State) (n q : Nat) (h : Queue → Queue) : (s.modQueue n q h).acmdErr = s.acmdErr := rfl
@[simp] theorem State.modQueue_warm (s : State) (n q : Nat) (h : Queue → Queue) : (s.modQueue n q h).warm = s.warm := rfl
@[simp] theorem State.modQueue_boot (s : State) (n q : Nat) (h : Queue → Queue) : (s.modQueue n q h).boot = s.boot := rfl
@[simp] theorem State.modQueue_dbgUsed (s : State) (n q : Nat) (h : Queue → Queue) : (s.modQueue n q h).dbgUsed = s.dbgUsed := rfl
@[simp] theorem State.modQueue_modNo (s : State) (n q : Nat) (h : Queue → Queue) : (s.modQueue n q h).modNo = s.modNo := rfl
@[simp] theorem State.modQueue_fatal (s : State) (n q : Nat) (h : Queue → Queue) : (s.modQueue n q h).fatal = s.fatal := rfl
@[simp] theorem State.modQueue_aerAt (s : State) (n q : Nat) (h : Queue → Queue) : (s.modQueue n q h).aerAt = s.aerAt := rfl
@[simp] theorem State.modQueue_out (s : State) (n q : Nat) (h : Queue → Queue) : (s.modQueue n q h).out = s.out := rfl

/-! State.modPart -/

@[simp] theorem State.modPart_agenda (s : State) (t : Nat) (h : Partition → Partition) : (s.modPart t h).agenda = s.agenda := rfl
@[simp] theorem State.modPart_choices (s : State) (t : Nat) (h : Partition → Partition) : (s.modPart t h).choices = s.choices := rfl
@[simp] theorem State.modPart_free (s : State) (t : Nat) (h : Partition → Partition) : (s.modPart t h).free = s.free := rfl
@[simp] theorem State.modPart_nextId (s : State) (t : Nat) (h : Partition → Partition) : (s.modPart t h).nextId = s.nextId := rfl
@[simp] theorem State.modPart_cycle (s : State) (t : Nat) (h : Partition → Partition) : (s.modPart t h).cycle = s.cycle := rfl
@[simp] theorem State.modPart_pod (s : State) (t : Nat) (h : Partition → Partition) : (s.modPart t h).pod = s.pod := rfl
@[simp] theorem State.modPart_cur (s : State) (t : Nat) (h : Partition → Partition) : (s.modPart t h).cur = s.cur := rfl
@[simp] theorem State.modPart_cands (s : State) (t : Nat) (h : Partition → Partition) : (s.modPart t h).cands = s.cands := rfl
@[simp] theorem State.modPart_picked (s : State) (t : Nat) (h : Partition → Partition) : (s.modPart t h).picked = s.picked := rfl
@[simp] theorem State.modPart_sels (s : State) (t : Nat) (h : Partition → Partition) : (s.modPart t h).sels = s.sels := rfl
@[simp] theorem State.modPart_cores (s : State) (t : Nat) (h : Partition → Partition) : (s.modPart t h).cores = s.cores := rfl
@[simp] theorem State.modPart_powered (s : State) (t : Nat) (h : Partition → Partition) : (s.modPart t h).powered = s.powered := rfl
@[simp] theorem State.modPart_groups (s : State) (t : Nat) (h : Partition → Partition) : (s.modPart t h).groups = s.groups := rfl
@[simp] theorem State.modPart_launches (s : State) (t : Nat) (h : Partition → Partition) : (s.modPart t h).launches = s.launches := rfl
@[simp] theorem State.modPart_graphs (s : State) (t : Nat) (h : Partition → Partition) : (s.modPart t h).graphs = s.graphs := rfl
@[simp] theorem State.modPart_jobs (s : State) (t : Nat) (h : Partition → Partition) : (s.modPart t h).jobs = s.jobs := rfl
@[simp] theorem State.modPart_reqs (s : State) (t : Nat) (h : Partition → Partition) : (s.modPart t h).reqs = s.reqs := rfl
@[simp] theorem State.modPart_tags (s : State) (t : Nat) (h : Partition → Partition) : (s.modPart t h).tags = s.tags := rfl
@[simp] theorem State.modPart_early (s : State) (t : Nat) (h : Partition → Partition) : (s.modPart t h).early = s.early := rfl
@[simp] theorem State.modPart_copies (s : State) (t : Nat) (h : Partition → Partition) : (s.modPart t h).copies = s.copies := rfl
@[simp] theorem State.modPart_emits (s : State) (t : Nat) (h : Partition → Partition) : (s.modPart t h).emits = s.emits := rfl
@[simp] theorem State.modPart_creds (s : State) (t : Nat) (h : Partition → Partition) : (s.modPart t h).creds = s.creds := rfl
@[simp] theorem State.modPart_snaps (s : State) (t : Nat) (h : Partition → Partition) : (s.modPart t h).snaps = s.snaps := rfl
@[simp] theorem State.modPart_saved (s : State) (t : Nat) (h : Partition → Partition) : (s.modPart t h).saved = s.saved := rfl
@[simp] theorem State.modPart_cslots (s : State) (t : Nat) (h : Partition → Partition) : (s.modPart t h).cslots = s.cslots := rfl
@[simp] theorem State.modPart_funcs (s : State) (t : Nat) (h : Partition → Partition) : (s.modPart t h).funcs = s.funcs := rfl
@[simp] theorem State.modPart_parts (s : State) (t : Nat) (h : Partition → Partition) : (s.modPart t h).parts = Cells.put s.parts t (h (s.part t)) := rfl
@[simp] theorem State.modPart_mem (s : State) (t : Nat) (h : Partition → Partition) : (s.modPart t h).mem = s.mem := rfl
@[simp] theorem State.modPart_past (s : State) (t : Nat) (h : Partition → Partition) : (s.modPart t h).past = s.past := rfl
@[simp] theorem State.modPart_frames (s : State) (t : Nat) (h : Partition → Partition) : (s.modPart t h).frames = s.frames := rfl
@[simp] theorem State.modPart_dirty (s : State) (t : Nat) (h : Partition → Partition) : (s.modPart t h).dirty = s.dirty := rfl
@[simp] theorem State.modPart_poison (s : State) (t : Nat) (h : Partition → Partition) : (s.modPart t h).poison = s.poison := rfl
@[simp] theorem State.modPart_tlb (s : State) (t : Nat) (h : Partition → Partition) : (s.modPart t h).tlb = s.tlb := rfl
@[simp] theorem State.modPart_inval (s : State) (t : Nat) (h : Partition → Partition) : (s.modPart t h).inval = s.inval := rfl
@[simp] theorem State.modPart_s2iaddr (s : State) (t : Nat) (h : Partition → Partition) : (s.modPart t h).s2iaddr = s.s2iaddr := rfl
@[simp] theorem State.modPart_s2ictl (s : State) (t : Nat) (h : Partition → Partition) : (s.modPart t h).s2ictl = s.s2ictl := rfl
@[simp] theorem State.modPart_dtvec (s : State) (t : Nat) (h : Partition → Partition) : (s.modPart t h).dtvec = s.dtvec := rfl
@[simp] theorem State.modPart_ptoken (s : State) (t : Nat) (h : Partition → Partition) : (s.modPart t h).ptoken = s.ptoken := rfl
@[simp] theorem State.modPart_tokenLast (s : State) (t : Nat) (h : Partition → Partition) : (s.modPart t h).tokenLast = s.tokenLast := rfl
@[simp] theorem State.modPart_dbgIn (s : State) (t : Nat) (h : Partition → Partition) : (s.modPart t h).dbgIn = s.dbgIn := rfl
@[simp] theorem State.modPart_dbgInf (s : State) (t : Nat) (h : Partition → Partition) : (s.modPart t h).dbgInf = s.dbgInf := rfl
@[simp] theorem State.modPart_dbgOut (s : State) (t : Nat) (h : Partition → Partition) : (s.modPart t h).dbgOut = s.dbgOut := rfl
@[simp] theorem State.modPart_dbgOutf (s : State) (t : Nat) (h : Partition → Partition) : (s.modPart t h).dbgOutf = s.dbgOutf := rfl
@[simp] theorem State.modPart_dbgIen (s : State) (t : Nat) (h : Partition → Partition) : (s.modPart t h).dbgIen = s.dbgIen := rfl
@[simp] theorem State.modPart_dbgVec (s : State) (t : Nat) (h : Partition → Partition) : (s.modPart t h).dbgVec = s.dbgVec := rfl
@[simp] theorem State.modPart_dbgHold (s : State) (t : Nat) (h : Partition → Partition) : (s.modPart t h).dbgHold = s.dbgHold := rfl
@[simp] theorem State.modPart_dbghreq (s : State) (t : Nat) (h : Partition → Partition) : (s.modPart t h).dbghreq = s.dbghreq := rfl
@[simp] theorem State.modPart_jcan (s : State) (t : Nat) (h : Partition → Partition) : (s.modPart t h).jcan = s.jcan := rfl
@[simp] theorem State.modPart_jcanOf (s : State) (t : Nat) (h : Partition → Partition) : (s.modPart t h).jcanOf = s.jcanOf := rfl
@[simp] theorem State.modPart_stopLog (s : State) (t : Nat) (h : Partition → Partition) : (s.modPart t h).stopLog = s.stopLog := rfl
@[simp] theorem State.modPart_stopCount (s : State) (t : Nat) (h : Partition → Partition) : (s.modPart t h).stopCount = s.stopCount := rfl
@[simp] theorem State.modPart_kdata (s : State) (t : Nat) (h : Partition → Partition) : (s.modPart t h).kdata = s.kdata := rfl
@[simp] theorem State.modPart_kcmd (s : State) (t : Nat) (h : Partition → Partition) : (s.modPart t h).kcmd = s.kcmd := rfl
@[simp] theorem State.modPart_rtcmd (s : State) (t : Nat) (h : Partition → Partition) : (s.modPart t h).rtcmd = s.rtcmd := rfl
@[simp] theorem State.modPart_keyData (s : State) (t : Nat) (h : Partition → Partition) : (s.modPart t h).keyData = s.keyData := rfl
@[simp] theorem State.modPart_rtaddr (s : State) (t : Nat) (h : Partition → Partition) : (s.modPart t h).rtaddr = s.rtaddr := rfl
@[simp] theorem State.modPart_throt (s : State) (t : Nat) (h : Partition → Partition) : (s.modPart t h).throt = s.throt := rfl
@[simp] theorem State.modPart_rows (s : State) (t : Nat) (h : Partition → Partition) : (s.modPart t h).rows = s.rows := rfl
@[simp] theorem State.modPart_mfwd (s : State) (t : Nat) (h : Partition → Partition) : (s.modPart t h).mfwd = s.mfwd := rfl
@[simp] theorem State.modPart_rdidx (s : State) (t : Nat) (h : Partition → Partition) : (s.modPart t h).rdidx = s.rdidx := rfl
@[simp] theorem State.modPart_redirect (s : State) (t : Nat) (h : Partition → Partition) : (s.modPart t h).redirect = s.redirect := rfl
@[simp] theorem State.modPart_windows (s : State) (t : Nat) (h : Partition → Partition) : (s.modPart t h).windows = s.windows := rfl
@[simp] theorem State.modPart_movedSlots (s : State) (t : Nat) (h : Partition → Partition) : (s.modPart t h).movedSlots = s.movedSlots := rfl
@[simp] theorem State.modPart_arriving (s : State) (t : Nat) (h : Partition → Partition) : (s.modPart t h).arriving = s.arriving := rfl
@[simp] theorem State.modPart_sessions (s : State) (t : Nat) (h : Partition → Partition) : (s.modPart t h).sessions = s.sessions := rfl
@[simp] theorem State.modPart_links (s : State) (t : Nat) (h : Partition → Partition) : (s.modPart t h).links = s.links := rfl
@[simp] theorem State.modPart_held (s : State) (t : Nat) (h : Partition → Partition) : (s.modPart t h).held = s.held := rfl
@[simp] theorem State.modPart_plim (s : State) (t : Nat) (h : Partition → Partition) : (s.modPart t h).plim = s.plim := rfl
@[simp] theorem State.modPart_tj (s : State) (t : Nat) (h : Partition → Partition) : (s.modPart t h).tj = s.tj := rfl
@[simp] theorem State.modPart_tin (s : State) (t : Nat) (h : Partition → Partition) : (s.modPart t h).tin = s.tin := rfl
@[simp] theorem State.modPart_thermal (s : State) (t : Nat) (h : Partition → Partition) : (s.modPart t h).thermal = s.thermal := rfl
@[simp] theorem State.modPart_anonce (s : State) (t : Nat) (h : Partition → Partition) : (s.modPart t h).anonce = s.anonce := rfl
@[simp] theorem State.modPart_aaddr (s : State) (t : Nat) (h : Partition → Partition) : (s.modPart t h).aaddr = s.aaddr := rfl
@[simp] theorem State.modPart_acmdErr (s : State) (t : Nat) (h : Partition → Partition) : (s.modPart t h).acmdErr = s.acmdErr := rfl
@[simp] theorem State.modPart_warm (s : State) (t : Nat) (h : Partition → Partition) : (s.modPart t h).warm = s.warm := rfl
@[simp] theorem State.modPart_boot (s : State) (t : Nat) (h : Partition → Partition) : (s.modPart t h).boot = s.boot := rfl
@[simp] theorem State.modPart_dbgUsed (s : State) (t : Nat) (h : Partition → Partition) : (s.modPart t h).dbgUsed = s.dbgUsed := rfl
@[simp] theorem State.modPart_modNo (s : State) (t : Nat) (h : Partition → Partition) : (s.modPart t h).modNo = s.modNo := rfl
@[simp] theorem State.modPart_fatal (s : State) (t : Nat) (h : Partition → Partition) : (s.modPart t h).fatal = s.fatal := rfl
@[simp] theorem State.modPart_aerAt (s : State) (t : Nat) (h : Partition → Partition) : (s.modPart t h).aerAt = s.aerAt := rfl
@[simp] theorem State.modPart_out (s : State) (t : Nat) (h : Partition → Partition) : (s.modPart t h).out = s.out := rfl

/-! State.modGroup -/

@[simp] theorem State.modGroup_agenda (s : State) (k : Nat) (h : Group → Group) : (s.modGroup k h).agenda = s.agenda := rfl
@[simp] theorem State.modGroup_choices (s : State) (k : Nat) (h : Group → Group) : (s.modGroup k h).choices = s.choices := rfl
@[simp] theorem State.modGroup_free (s : State) (k : Nat) (h : Group → Group) : (s.modGroup k h).free = s.free := rfl
@[simp] theorem State.modGroup_nextId (s : State) (k : Nat) (h : Group → Group) : (s.modGroup k h).nextId = s.nextId := rfl
@[simp] theorem State.modGroup_cycle (s : State) (k : Nat) (h : Group → Group) : (s.modGroup k h).cycle = s.cycle := rfl
@[simp] theorem State.modGroup_pod (s : State) (k : Nat) (h : Group → Group) : (s.modGroup k h).pod = s.pod := rfl
@[simp] theorem State.modGroup_cur (s : State) (k : Nat) (h : Group → Group) : (s.modGroup k h).cur = s.cur := rfl
@[simp] theorem State.modGroup_cands (s : State) (k : Nat) (h : Group → Group) : (s.modGroup k h).cands = s.cands := rfl
@[simp] theorem State.modGroup_picked (s : State) (k : Nat) (h : Group → Group) : (s.modGroup k h).picked = s.picked := rfl
@[simp] theorem State.modGroup_sels (s : State) (k : Nat) (h : Group → Group) : (s.modGroup k h).sels = s.sels := rfl
@[simp] theorem State.modGroup_cores (s : State) (k : Nat) (h : Group → Group) : (s.modGroup k h).cores = s.cores := rfl
@[simp] theorem State.modGroup_powered (s : State) (k : Nat) (h : Group → Group) : (s.modGroup k h).powered = s.powered := rfl
@[simp] theorem State.modGroup_groups (s : State) (k : Nat) (h : Group → Group) : (s.modGroup k h).groups = Cells.modify s.groups k h := rfl
@[simp] theorem State.modGroup_launches (s : State) (k : Nat) (h : Group → Group) : (s.modGroup k h).launches = s.launches := rfl
@[simp] theorem State.modGroup_graphs (s : State) (k : Nat) (h : Group → Group) : (s.modGroup k h).graphs = s.graphs := rfl
@[simp] theorem State.modGroup_jobs (s : State) (k : Nat) (h : Group → Group) : (s.modGroup k h).jobs = s.jobs := rfl
@[simp] theorem State.modGroup_reqs (s : State) (k : Nat) (h : Group → Group) : (s.modGroup k h).reqs = s.reqs := rfl
@[simp] theorem State.modGroup_tags (s : State) (k : Nat) (h : Group → Group) : (s.modGroup k h).tags = s.tags := rfl
@[simp] theorem State.modGroup_early (s : State) (k : Nat) (h : Group → Group) : (s.modGroup k h).early = s.early := rfl
@[simp] theorem State.modGroup_copies (s : State) (k : Nat) (h : Group → Group) : (s.modGroup k h).copies = s.copies := rfl
@[simp] theorem State.modGroup_emits (s : State) (k : Nat) (h : Group → Group) : (s.modGroup k h).emits = s.emits := rfl
@[simp] theorem State.modGroup_creds (s : State) (k : Nat) (h : Group → Group) : (s.modGroup k h).creds = s.creds := rfl
@[simp] theorem State.modGroup_snaps (s : State) (k : Nat) (h : Group → Group) : (s.modGroup k h).snaps = s.snaps := rfl
@[simp] theorem State.modGroup_saved (s : State) (k : Nat) (h : Group → Group) : (s.modGroup k h).saved = s.saved := rfl
@[simp] theorem State.modGroup_cslots (s : State) (k : Nat) (h : Group → Group) : (s.modGroup k h).cslots = s.cslots := rfl
@[simp] theorem State.modGroup_funcs (s : State) (k : Nat) (h : Group → Group) : (s.modGroup k h).funcs = s.funcs := rfl
@[simp] theorem State.modGroup_parts (s : State) (k : Nat) (h : Group → Group) : (s.modGroup k h).parts = s.parts := rfl
@[simp] theorem State.modGroup_mem (s : State) (k : Nat) (h : Group → Group) : (s.modGroup k h).mem = s.mem := rfl
@[simp] theorem State.modGroup_past (s : State) (k : Nat) (h : Group → Group) : (s.modGroup k h).past = s.past := rfl
@[simp] theorem State.modGroup_frames (s : State) (k : Nat) (h : Group → Group) : (s.modGroup k h).frames = s.frames := rfl
@[simp] theorem State.modGroup_dirty (s : State) (k : Nat) (h : Group → Group) : (s.modGroup k h).dirty = s.dirty := rfl
@[simp] theorem State.modGroup_poison (s : State) (k : Nat) (h : Group → Group) : (s.modGroup k h).poison = s.poison := rfl
@[simp] theorem State.modGroup_tlb (s : State) (k : Nat) (h : Group → Group) : (s.modGroup k h).tlb = s.tlb := rfl
@[simp] theorem State.modGroup_inval (s : State) (k : Nat) (h : Group → Group) : (s.modGroup k h).inval = s.inval := rfl
@[simp] theorem State.modGroup_s2iaddr (s : State) (k : Nat) (h : Group → Group) : (s.modGroup k h).s2iaddr = s.s2iaddr := rfl
@[simp] theorem State.modGroup_s2ictl (s : State) (k : Nat) (h : Group → Group) : (s.modGroup k h).s2ictl = s.s2ictl := rfl
@[simp] theorem State.modGroup_dtvec (s : State) (k : Nat) (h : Group → Group) : (s.modGroup k h).dtvec = s.dtvec := rfl
@[simp] theorem State.modGroup_ptoken (s : State) (k : Nat) (h : Group → Group) : (s.modGroup k h).ptoken = s.ptoken := rfl
@[simp] theorem State.modGroup_tokenLast (s : State) (k : Nat) (h : Group → Group) : (s.modGroup k h).tokenLast = s.tokenLast := rfl
@[simp] theorem State.modGroup_dbgIn (s : State) (k : Nat) (h : Group → Group) : (s.modGroup k h).dbgIn = s.dbgIn := rfl
@[simp] theorem State.modGroup_dbgInf (s : State) (k : Nat) (h : Group → Group) : (s.modGroup k h).dbgInf = s.dbgInf := rfl
@[simp] theorem State.modGroup_dbgOut (s : State) (k : Nat) (h : Group → Group) : (s.modGroup k h).dbgOut = s.dbgOut := rfl
@[simp] theorem State.modGroup_dbgOutf (s : State) (k : Nat) (h : Group → Group) : (s.modGroup k h).dbgOutf = s.dbgOutf := rfl
@[simp] theorem State.modGroup_dbgIen (s : State) (k : Nat) (h : Group → Group) : (s.modGroup k h).dbgIen = s.dbgIen := rfl
@[simp] theorem State.modGroup_dbgVec (s : State) (k : Nat) (h : Group → Group) : (s.modGroup k h).dbgVec = s.dbgVec := rfl
@[simp] theorem State.modGroup_dbgHold (s : State) (k : Nat) (h : Group → Group) : (s.modGroup k h).dbgHold = s.dbgHold := rfl
@[simp] theorem State.modGroup_dbghreq (s : State) (k : Nat) (h : Group → Group) : (s.modGroup k h).dbghreq = s.dbghreq := rfl
@[simp] theorem State.modGroup_jcan (s : State) (k : Nat) (h : Group → Group) : (s.modGroup k h).jcan = s.jcan := rfl
@[simp] theorem State.modGroup_jcanOf (s : State) (k : Nat) (h : Group → Group) : (s.modGroup k h).jcanOf = s.jcanOf := rfl
@[simp] theorem State.modGroup_stopLog (s : State) (k : Nat) (h : Group → Group) : (s.modGroup k h).stopLog = s.stopLog := rfl
@[simp] theorem State.modGroup_stopCount (s : State) (k : Nat) (h : Group → Group) : (s.modGroup k h).stopCount = s.stopCount := rfl
@[simp] theorem State.modGroup_kdata (s : State) (k : Nat) (h : Group → Group) : (s.modGroup k h).kdata = s.kdata := rfl
@[simp] theorem State.modGroup_kcmd (s : State) (k : Nat) (h : Group → Group) : (s.modGroup k h).kcmd = s.kcmd := rfl
@[simp] theorem State.modGroup_rtcmd (s : State) (k : Nat) (h : Group → Group) : (s.modGroup k h).rtcmd = s.rtcmd := rfl
@[simp] theorem State.modGroup_keyData (s : State) (k : Nat) (h : Group → Group) : (s.modGroup k h).keyData = s.keyData := rfl
@[simp] theorem State.modGroup_rtaddr (s : State) (k : Nat) (h : Group → Group) : (s.modGroup k h).rtaddr = s.rtaddr := rfl
@[simp] theorem State.modGroup_throt (s : State) (k : Nat) (h : Group → Group) : (s.modGroup k h).throt = s.throt := rfl
@[simp] theorem State.modGroup_rows (s : State) (k : Nat) (h : Group → Group) : (s.modGroup k h).rows = s.rows := rfl
@[simp] theorem State.modGroup_mfwd (s : State) (k : Nat) (h : Group → Group) : (s.modGroup k h).mfwd = s.mfwd := rfl
@[simp] theorem State.modGroup_rdidx (s : State) (k : Nat) (h : Group → Group) : (s.modGroup k h).rdidx = s.rdidx := rfl
@[simp] theorem State.modGroup_redirect (s : State) (k : Nat) (h : Group → Group) : (s.modGroup k h).redirect = s.redirect := rfl
@[simp] theorem State.modGroup_windows (s : State) (k : Nat) (h : Group → Group) : (s.modGroup k h).windows = s.windows := rfl
@[simp] theorem State.modGroup_movedSlots (s : State) (k : Nat) (h : Group → Group) : (s.modGroup k h).movedSlots = s.movedSlots := rfl
@[simp] theorem State.modGroup_arriving (s : State) (k : Nat) (h : Group → Group) : (s.modGroup k h).arriving = s.arriving := rfl
@[simp] theorem State.modGroup_sessions (s : State) (k : Nat) (h : Group → Group) : (s.modGroup k h).sessions = s.sessions := rfl
@[simp] theorem State.modGroup_links (s : State) (k : Nat) (h : Group → Group) : (s.modGroup k h).links = s.links := rfl
@[simp] theorem State.modGroup_held (s : State) (k : Nat) (h : Group → Group) : (s.modGroup k h).held = s.held := rfl
@[simp] theorem State.modGroup_plim (s : State) (k : Nat) (h : Group → Group) : (s.modGroup k h).plim = s.plim := rfl
@[simp] theorem State.modGroup_tj (s : State) (k : Nat) (h : Group → Group) : (s.modGroup k h).tj = s.tj := rfl
@[simp] theorem State.modGroup_tin (s : State) (k : Nat) (h : Group → Group) : (s.modGroup k h).tin = s.tin := rfl
@[simp] theorem State.modGroup_thermal (s : State) (k : Nat) (h : Group → Group) : (s.modGroup k h).thermal = s.thermal := rfl
@[simp] theorem State.modGroup_anonce (s : State) (k : Nat) (h : Group → Group) : (s.modGroup k h).anonce = s.anonce := rfl
@[simp] theorem State.modGroup_aaddr (s : State) (k : Nat) (h : Group → Group) : (s.modGroup k h).aaddr = s.aaddr := rfl
@[simp] theorem State.modGroup_acmdErr (s : State) (k : Nat) (h : Group → Group) : (s.modGroup k h).acmdErr = s.acmdErr := rfl
@[simp] theorem State.modGroup_warm (s : State) (k : Nat) (h : Group → Group) : (s.modGroup k h).warm = s.warm := rfl
@[simp] theorem State.modGroup_boot (s : State) (k : Nat) (h : Group → Group) : (s.modGroup k h).boot = s.boot := rfl
@[simp] theorem State.modGroup_dbgUsed (s : State) (k : Nat) (h : Group → Group) : (s.modGroup k h).dbgUsed = s.dbgUsed := rfl
@[simp] theorem State.modGroup_modNo (s : State) (k : Nat) (h : Group → Group) : (s.modGroup k h).modNo = s.modNo := rfl
@[simp] theorem State.modGroup_fatal (s : State) (k : Nat) (h : Group → Group) : (s.modGroup k h).fatal = s.fatal := rfl
@[simp] theorem State.modGroup_aerAt (s : State) (k : Nat) (h : Group → Group) : (s.modGroup k h).aerAt = s.aerAt := rfl
@[simp] theorem State.modGroup_out (s : State) (k : Nat) (h : Group → Group) : (s.modGroup k h).out = s.out := rfl

/-! State.modLaunch -/

@[simp] theorem State.modLaunch_agenda (s : State) (k : Nat) (h : Launch → Launch) : (s.modLaunch k h).agenda = s.agenda := rfl
@[simp] theorem State.modLaunch_choices (s : State) (k : Nat) (h : Launch → Launch) : (s.modLaunch k h).choices = s.choices := rfl
@[simp] theorem State.modLaunch_free (s : State) (k : Nat) (h : Launch → Launch) : (s.modLaunch k h).free = s.free := rfl
@[simp] theorem State.modLaunch_nextId (s : State) (k : Nat) (h : Launch → Launch) : (s.modLaunch k h).nextId = s.nextId := rfl
@[simp] theorem State.modLaunch_cycle (s : State) (k : Nat) (h : Launch → Launch) : (s.modLaunch k h).cycle = s.cycle := rfl
@[simp] theorem State.modLaunch_pod (s : State) (k : Nat) (h : Launch → Launch) : (s.modLaunch k h).pod = s.pod := rfl
@[simp] theorem State.modLaunch_cur (s : State) (k : Nat) (h : Launch → Launch) : (s.modLaunch k h).cur = s.cur := rfl
@[simp] theorem State.modLaunch_cands (s : State) (k : Nat) (h : Launch → Launch) : (s.modLaunch k h).cands = s.cands := rfl
@[simp] theorem State.modLaunch_picked (s : State) (k : Nat) (h : Launch → Launch) : (s.modLaunch k h).picked = s.picked := rfl
@[simp] theorem State.modLaunch_sels (s : State) (k : Nat) (h : Launch → Launch) : (s.modLaunch k h).sels = s.sels := rfl
@[simp] theorem State.modLaunch_cores (s : State) (k : Nat) (h : Launch → Launch) : (s.modLaunch k h).cores = s.cores := rfl
@[simp] theorem State.modLaunch_powered (s : State) (k : Nat) (h : Launch → Launch) : (s.modLaunch k h).powered = s.powered := rfl
@[simp] theorem State.modLaunch_groups (s : State) (k : Nat) (h : Launch → Launch) : (s.modLaunch k h).groups = s.groups := rfl
@[simp] theorem State.modLaunch_launches (s : State) (k : Nat) (h : Launch → Launch) : (s.modLaunch k h).launches = Cells.modify s.launches k h := rfl
@[simp] theorem State.modLaunch_graphs (s : State) (k : Nat) (h : Launch → Launch) : (s.modLaunch k h).graphs = s.graphs := rfl
@[simp] theorem State.modLaunch_jobs (s : State) (k : Nat) (h : Launch → Launch) : (s.modLaunch k h).jobs = s.jobs := rfl
@[simp] theorem State.modLaunch_reqs (s : State) (k : Nat) (h : Launch → Launch) : (s.modLaunch k h).reqs = s.reqs := rfl
@[simp] theorem State.modLaunch_tags (s : State) (k : Nat) (h : Launch → Launch) : (s.modLaunch k h).tags = s.tags := rfl
@[simp] theorem State.modLaunch_early (s : State) (k : Nat) (h : Launch → Launch) : (s.modLaunch k h).early = s.early := rfl
@[simp] theorem State.modLaunch_copies (s : State) (k : Nat) (h : Launch → Launch) : (s.modLaunch k h).copies = s.copies := rfl
@[simp] theorem State.modLaunch_emits (s : State) (k : Nat) (h : Launch → Launch) : (s.modLaunch k h).emits = s.emits := rfl
@[simp] theorem State.modLaunch_creds (s : State) (k : Nat) (h : Launch → Launch) : (s.modLaunch k h).creds = s.creds := rfl
@[simp] theorem State.modLaunch_snaps (s : State) (k : Nat) (h : Launch → Launch) : (s.modLaunch k h).snaps = s.snaps := rfl
@[simp] theorem State.modLaunch_saved (s : State) (k : Nat) (h : Launch → Launch) : (s.modLaunch k h).saved = s.saved := rfl
@[simp] theorem State.modLaunch_cslots (s : State) (k : Nat) (h : Launch → Launch) : (s.modLaunch k h).cslots = s.cslots := rfl
@[simp] theorem State.modLaunch_funcs (s : State) (k : Nat) (h : Launch → Launch) : (s.modLaunch k h).funcs = s.funcs := rfl
@[simp] theorem State.modLaunch_parts (s : State) (k : Nat) (h : Launch → Launch) : (s.modLaunch k h).parts = s.parts := rfl
@[simp] theorem State.modLaunch_mem (s : State) (k : Nat) (h : Launch → Launch) : (s.modLaunch k h).mem = s.mem := rfl
@[simp] theorem State.modLaunch_past (s : State) (k : Nat) (h : Launch → Launch) : (s.modLaunch k h).past = s.past := rfl
@[simp] theorem State.modLaunch_frames (s : State) (k : Nat) (h : Launch → Launch) : (s.modLaunch k h).frames = s.frames := rfl
@[simp] theorem State.modLaunch_dirty (s : State) (k : Nat) (h : Launch → Launch) : (s.modLaunch k h).dirty = s.dirty := rfl
@[simp] theorem State.modLaunch_poison (s : State) (k : Nat) (h : Launch → Launch) : (s.modLaunch k h).poison = s.poison := rfl
@[simp] theorem State.modLaunch_tlb (s : State) (k : Nat) (h : Launch → Launch) : (s.modLaunch k h).tlb = s.tlb := rfl
@[simp] theorem State.modLaunch_inval (s : State) (k : Nat) (h : Launch → Launch) : (s.modLaunch k h).inval = s.inval := rfl
@[simp] theorem State.modLaunch_s2iaddr (s : State) (k : Nat) (h : Launch → Launch) : (s.modLaunch k h).s2iaddr = s.s2iaddr := rfl
@[simp] theorem State.modLaunch_s2ictl (s : State) (k : Nat) (h : Launch → Launch) : (s.modLaunch k h).s2ictl = s.s2ictl := rfl
@[simp] theorem State.modLaunch_dtvec (s : State) (k : Nat) (h : Launch → Launch) : (s.modLaunch k h).dtvec = s.dtvec := rfl
@[simp] theorem State.modLaunch_ptoken (s : State) (k : Nat) (h : Launch → Launch) : (s.modLaunch k h).ptoken = s.ptoken := rfl
@[simp] theorem State.modLaunch_tokenLast (s : State) (k : Nat) (h : Launch → Launch) : (s.modLaunch k h).tokenLast = s.tokenLast := rfl
@[simp] theorem State.modLaunch_dbgIn (s : State) (k : Nat) (h : Launch → Launch) : (s.modLaunch k h).dbgIn = s.dbgIn := rfl
@[simp] theorem State.modLaunch_dbgInf (s : State) (k : Nat) (h : Launch → Launch) : (s.modLaunch k h).dbgInf = s.dbgInf := rfl
@[simp] theorem State.modLaunch_dbgOut (s : State) (k : Nat) (h : Launch → Launch) : (s.modLaunch k h).dbgOut = s.dbgOut := rfl
@[simp] theorem State.modLaunch_dbgOutf (s : State) (k : Nat) (h : Launch → Launch) : (s.modLaunch k h).dbgOutf = s.dbgOutf := rfl
@[simp] theorem State.modLaunch_dbgIen (s : State) (k : Nat) (h : Launch → Launch) : (s.modLaunch k h).dbgIen = s.dbgIen := rfl
@[simp] theorem State.modLaunch_dbgVec (s : State) (k : Nat) (h : Launch → Launch) : (s.modLaunch k h).dbgVec = s.dbgVec := rfl
@[simp] theorem State.modLaunch_dbgHold (s : State) (k : Nat) (h : Launch → Launch) : (s.modLaunch k h).dbgHold = s.dbgHold := rfl
@[simp] theorem State.modLaunch_dbghreq (s : State) (k : Nat) (h : Launch → Launch) : (s.modLaunch k h).dbghreq = s.dbghreq := rfl
@[simp] theorem State.modLaunch_jcan (s : State) (k : Nat) (h : Launch → Launch) : (s.modLaunch k h).jcan = s.jcan := rfl
@[simp] theorem State.modLaunch_jcanOf (s : State) (k : Nat) (h : Launch → Launch) : (s.modLaunch k h).jcanOf = s.jcanOf := rfl
@[simp] theorem State.modLaunch_stopLog (s : State) (k : Nat) (h : Launch → Launch) : (s.modLaunch k h).stopLog = s.stopLog := rfl
@[simp] theorem State.modLaunch_stopCount (s : State) (k : Nat) (h : Launch → Launch) : (s.modLaunch k h).stopCount = s.stopCount := rfl
@[simp] theorem State.modLaunch_kdata (s : State) (k : Nat) (h : Launch → Launch) : (s.modLaunch k h).kdata = s.kdata := rfl
@[simp] theorem State.modLaunch_kcmd (s : State) (k : Nat) (h : Launch → Launch) : (s.modLaunch k h).kcmd = s.kcmd := rfl
@[simp] theorem State.modLaunch_rtcmd (s : State) (k : Nat) (h : Launch → Launch) : (s.modLaunch k h).rtcmd = s.rtcmd := rfl
@[simp] theorem State.modLaunch_keyData (s : State) (k : Nat) (h : Launch → Launch) : (s.modLaunch k h).keyData = s.keyData := rfl
@[simp] theorem State.modLaunch_rtaddr (s : State) (k : Nat) (h : Launch → Launch) : (s.modLaunch k h).rtaddr = s.rtaddr := rfl
@[simp] theorem State.modLaunch_throt (s : State) (k : Nat) (h : Launch → Launch) : (s.modLaunch k h).throt = s.throt := rfl
@[simp] theorem State.modLaunch_rows (s : State) (k : Nat) (h : Launch → Launch) : (s.modLaunch k h).rows = s.rows := rfl
@[simp] theorem State.modLaunch_mfwd (s : State) (k : Nat) (h : Launch → Launch) : (s.modLaunch k h).mfwd = s.mfwd := rfl
@[simp] theorem State.modLaunch_rdidx (s : State) (k : Nat) (h : Launch → Launch) : (s.modLaunch k h).rdidx = s.rdidx := rfl
@[simp] theorem State.modLaunch_redirect (s : State) (k : Nat) (h : Launch → Launch) : (s.modLaunch k h).redirect = s.redirect := rfl
@[simp] theorem State.modLaunch_windows (s : State) (k : Nat) (h : Launch → Launch) : (s.modLaunch k h).windows = s.windows := rfl
@[simp] theorem State.modLaunch_movedSlots (s : State) (k : Nat) (h : Launch → Launch) : (s.modLaunch k h).movedSlots = s.movedSlots := rfl
@[simp] theorem State.modLaunch_arriving (s : State) (k : Nat) (h : Launch → Launch) : (s.modLaunch k h).arriving = s.arriving := rfl
@[simp] theorem State.modLaunch_sessions (s : State) (k : Nat) (h : Launch → Launch) : (s.modLaunch k h).sessions = s.sessions := rfl
@[simp] theorem State.modLaunch_links (s : State) (k : Nat) (h : Launch → Launch) : (s.modLaunch k h).links = s.links := rfl
@[simp] theorem State.modLaunch_held (s : State) (k : Nat) (h : Launch → Launch) : (s.modLaunch k h).held = s.held := rfl
@[simp] theorem State.modLaunch_plim (s : State) (k : Nat) (h : Launch → Launch) : (s.modLaunch k h).plim = s.plim := rfl
@[simp] theorem State.modLaunch_tj (s : State) (k : Nat) (h : Launch → Launch) : (s.modLaunch k h).tj = s.tj := rfl
@[simp] theorem State.modLaunch_tin (s : State) (k : Nat) (h : Launch → Launch) : (s.modLaunch k h).tin = s.tin := rfl
@[simp] theorem State.modLaunch_thermal (s : State) (k : Nat) (h : Launch → Launch) : (s.modLaunch k h).thermal = s.thermal := rfl
@[simp] theorem State.modLaunch_anonce (s : State) (k : Nat) (h : Launch → Launch) : (s.modLaunch k h).anonce = s.anonce := rfl
@[simp] theorem State.modLaunch_aaddr (s : State) (k : Nat) (h : Launch → Launch) : (s.modLaunch k h).aaddr = s.aaddr := rfl
@[simp] theorem State.modLaunch_acmdErr (s : State) (k : Nat) (h : Launch → Launch) : (s.modLaunch k h).acmdErr = s.acmdErr := rfl
@[simp] theorem State.modLaunch_warm (s : State) (k : Nat) (h : Launch → Launch) : (s.modLaunch k h).warm = s.warm := rfl
@[simp] theorem State.modLaunch_boot (s : State) (k : Nat) (h : Launch → Launch) : (s.modLaunch k h).boot = s.boot := rfl
@[simp] theorem State.modLaunch_dbgUsed (s : State) (k : Nat) (h : Launch → Launch) : (s.modLaunch k h).dbgUsed = s.dbgUsed := rfl
@[simp] theorem State.modLaunch_modNo (s : State) (k : Nat) (h : Launch → Launch) : (s.modLaunch k h).modNo = s.modNo := rfl
@[simp] theorem State.modLaunch_fatal (s : State) (k : Nat) (h : Launch → Launch) : (s.modLaunch k h).fatal = s.fatal := rfl
@[simp] theorem State.modLaunch_aerAt (s : State) (k : Nat) (h : Launch → Launch) : (s.modLaunch k h).aerAt = s.aerAt := rfl
@[simp] theorem State.modLaunch_out (s : State) (k : Nat) (h : Launch → Launch) : (s.modLaunch k h).out = s.out := rfl

/-! State.modGraph -/

@[simp] theorem State.modGraph_agenda (s : State) (k : Nat) (h : Graph → Graph) : (s.modGraph k h).agenda = s.agenda := rfl
@[simp] theorem State.modGraph_choices (s : State) (k : Nat) (h : Graph → Graph) : (s.modGraph k h).choices = s.choices := rfl
@[simp] theorem State.modGraph_free (s : State) (k : Nat) (h : Graph → Graph) : (s.modGraph k h).free = s.free := rfl
@[simp] theorem State.modGraph_nextId (s : State) (k : Nat) (h : Graph → Graph) : (s.modGraph k h).nextId = s.nextId := rfl
@[simp] theorem State.modGraph_cycle (s : State) (k : Nat) (h : Graph → Graph) : (s.modGraph k h).cycle = s.cycle := rfl
@[simp] theorem State.modGraph_pod (s : State) (k : Nat) (h : Graph → Graph) : (s.modGraph k h).pod = s.pod := rfl
@[simp] theorem State.modGraph_cur (s : State) (k : Nat) (h : Graph → Graph) : (s.modGraph k h).cur = s.cur := rfl
@[simp] theorem State.modGraph_cands (s : State) (k : Nat) (h : Graph → Graph) : (s.modGraph k h).cands = s.cands := rfl
@[simp] theorem State.modGraph_picked (s : State) (k : Nat) (h : Graph → Graph) : (s.modGraph k h).picked = s.picked := rfl
@[simp] theorem State.modGraph_sels (s : State) (k : Nat) (h : Graph → Graph) : (s.modGraph k h).sels = s.sels := rfl
@[simp] theorem State.modGraph_cores (s : State) (k : Nat) (h : Graph → Graph) : (s.modGraph k h).cores = s.cores := rfl
@[simp] theorem State.modGraph_powered (s : State) (k : Nat) (h : Graph → Graph) : (s.modGraph k h).powered = s.powered := rfl
@[simp] theorem State.modGraph_groups (s : State) (k : Nat) (h : Graph → Graph) : (s.modGraph k h).groups = s.groups := rfl
@[simp] theorem State.modGraph_launches (s : State) (k : Nat) (h : Graph → Graph) : (s.modGraph k h).launches = s.launches := rfl
@[simp] theorem State.modGraph_graphs (s : State) (k : Nat) (h : Graph → Graph) : (s.modGraph k h).graphs = Cells.modify s.graphs k h := rfl
@[simp] theorem State.modGraph_jobs (s : State) (k : Nat) (h : Graph → Graph) : (s.modGraph k h).jobs = s.jobs := rfl
@[simp] theorem State.modGraph_reqs (s : State) (k : Nat) (h : Graph → Graph) : (s.modGraph k h).reqs = s.reqs := rfl
@[simp] theorem State.modGraph_tags (s : State) (k : Nat) (h : Graph → Graph) : (s.modGraph k h).tags = s.tags := rfl
@[simp] theorem State.modGraph_early (s : State) (k : Nat) (h : Graph → Graph) : (s.modGraph k h).early = s.early := rfl
@[simp] theorem State.modGraph_copies (s : State) (k : Nat) (h : Graph → Graph) : (s.modGraph k h).copies = s.copies := rfl
@[simp] theorem State.modGraph_emits (s : State) (k : Nat) (h : Graph → Graph) : (s.modGraph k h).emits = s.emits := rfl
@[simp] theorem State.modGraph_creds (s : State) (k : Nat) (h : Graph → Graph) : (s.modGraph k h).creds = s.creds := rfl
@[simp] theorem State.modGraph_snaps (s : State) (k : Nat) (h : Graph → Graph) : (s.modGraph k h).snaps = s.snaps := rfl
@[simp] theorem State.modGraph_saved (s : State) (k : Nat) (h : Graph → Graph) : (s.modGraph k h).saved = s.saved := rfl
@[simp] theorem State.modGraph_cslots (s : State) (k : Nat) (h : Graph → Graph) : (s.modGraph k h).cslots = s.cslots := rfl
@[simp] theorem State.modGraph_funcs (s : State) (k : Nat) (h : Graph → Graph) : (s.modGraph k h).funcs = s.funcs := rfl
@[simp] theorem State.modGraph_parts (s : State) (k : Nat) (h : Graph → Graph) : (s.modGraph k h).parts = s.parts := rfl
@[simp] theorem State.modGraph_mem (s : State) (k : Nat) (h : Graph → Graph) : (s.modGraph k h).mem = s.mem := rfl
@[simp] theorem State.modGraph_past (s : State) (k : Nat) (h : Graph → Graph) : (s.modGraph k h).past = s.past := rfl
@[simp] theorem State.modGraph_frames (s : State) (k : Nat) (h : Graph → Graph) : (s.modGraph k h).frames = s.frames := rfl
@[simp] theorem State.modGraph_dirty (s : State) (k : Nat) (h : Graph → Graph) : (s.modGraph k h).dirty = s.dirty := rfl
@[simp] theorem State.modGraph_poison (s : State) (k : Nat) (h : Graph → Graph) : (s.modGraph k h).poison = s.poison := rfl
@[simp] theorem State.modGraph_tlb (s : State) (k : Nat) (h : Graph → Graph) : (s.modGraph k h).tlb = s.tlb := rfl
@[simp] theorem State.modGraph_inval (s : State) (k : Nat) (h : Graph → Graph) : (s.modGraph k h).inval = s.inval := rfl
@[simp] theorem State.modGraph_s2iaddr (s : State) (k : Nat) (h : Graph → Graph) : (s.modGraph k h).s2iaddr = s.s2iaddr := rfl
@[simp] theorem State.modGraph_s2ictl (s : State) (k : Nat) (h : Graph → Graph) : (s.modGraph k h).s2ictl = s.s2ictl := rfl
@[simp] theorem State.modGraph_dtvec (s : State) (k : Nat) (h : Graph → Graph) : (s.modGraph k h).dtvec = s.dtvec := rfl
@[simp] theorem State.modGraph_ptoken (s : State) (k : Nat) (h : Graph → Graph) : (s.modGraph k h).ptoken = s.ptoken := rfl
@[simp] theorem State.modGraph_tokenLast (s : State) (k : Nat) (h : Graph → Graph) : (s.modGraph k h).tokenLast = s.tokenLast := rfl
@[simp] theorem State.modGraph_dbgIn (s : State) (k : Nat) (h : Graph → Graph) : (s.modGraph k h).dbgIn = s.dbgIn := rfl
@[simp] theorem State.modGraph_dbgInf (s : State) (k : Nat) (h : Graph → Graph) : (s.modGraph k h).dbgInf = s.dbgInf := rfl
@[simp] theorem State.modGraph_dbgOut (s : State) (k : Nat) (h : Graph → Graph) : (s.modGraph k h).dbgOut = s.dbgOut := rfl
@[simp] theorem State.modGraph_dbgOutf (s : State) (k : Nat) (h : Graph → Graph) : (s.modGraph k h).dbgOutf = s.dbgOutf := rfl
@[simp] theorem State.modGraph_dbgIen (s : State) (k : Nat) (h : Graph → Graph) : (s.modGraph k h).dbgIen = s.dbgIen := rfl
@[simp] theorem State.modGraph_dbgVec (s : State) (k : Nat) (h : Graph → Graph) : (s.modGraph k h).dbgVec = s.dbgVec := rfl
@[simp] theorem State.modGraph_dbgHold (s : State) (k : Nat) (h : Graph → Graph) : (s.modGraph k h).dbgHold = s.dbgHold := rfl
@[simp] theorem State.modGraph_dbghreq (s : State) (k : Nat) (h : Graph → Graph) : (s.modGraph k h).dbghreq = s.dbghreq := rfl
@[simp] theorem State.modGraph_jcan (s : State) (k : Nat) (h : Graph → Graph) : (s.modGraph k h).jcan = s.jcan := rfl
@[simp] theorem State.modGraph_jcanOf (s : State) (k : Nat) (h : Graph → Graph) : (s.modGraph k h).jcanOf = s.jcanOf := rfl
@[simp] theorem State.modGraph_stopLog (s : State) (k : Nat) (h : Graph → Graph) : (s.modGraph k h).stopLog = s.stopLog := rfl
@[simp] theorem State.modGraph_stopCount (s : State) (k : Nat) (h : Graph → Graph) : (s.modGraph k h).stopCount = s.stopCount := rfl
@[simp] theorem State.modGraph_kdata (s : State) (k : Nat) (h : Graph → Graph) : (s.modGraph k h).kdata = s.kdata := rfl
@[simp] theorem State.modGraph_kcmd (s : State) (k : Nat) (h : Graph → Graph) : (s.modGraph k h).kcmd = s.kcmd := rfl
@[simp] theorem State.modGraph_rtcmd (s : State) (k : Nat) (h : Graph → Graph) : (s.modGraph k h).rtcmd = s.rtcmd := rfl
@[simp] theorem State.modGraph_keyData (s : State) (k : Nat) (h : Graph → Graph) : (s.modGraph k h).keyData = s.keyData := rfl
@[simp] theorem State.modGraph_rtaddr (s : State) (k : Nat) (h : Graph → Graph) : (s.modGraph k h).rtaddr = s.rtaddr := rfl
@[simp] theorem State.modGraph_throt (s : State) (k : Nat) (h : Graph → Graph) : (s.modGraph k h).throt = s.throt := rfl
@[simp] theorem State.modGraph_rows (s : State) (k : Nat) (h : Graph → Graph) : (s.modGraph k h).rows = s.rows := rfl
@[simp] theorem State.modGraph_mfwd (s : State) (k : Nat) (h : Graph → Graph) : (s.modGraph k h).mfwd = s.mfwd := rfl
@[simp] theorem State.modGraph_rdidx (s : State) (k : Nat) (h : Graph → Graph) : (s.modGraph k h).rdidx = s.rdidx := rfl
@[simp] theorem State.modGraph_redirect (s : State) (k : Nat) (h : Graph → Graph) : (s.modGraph k h).redirect = s.redirect := rfl
@[simp] theorem State.modGraph_windows (s : State) (k : Nat) (h : Graph → Graph) : (s.modGraph k h).windows = s.windows := rfl
@[simp] theorem State.modGraph_movedSlots (s : State) (k : Nat) (h : Graph → Graph) : (s.modGraph k h).movedSlots = s.movedSlots := rfl
@[simp] theorem State.modGraph_arriving (s : State) (k : Nat) (h : Graph → Graph) : (s.modGraph k h).arriving = s.arriving := rfl
@[simp] theorem State.modGraph_sessions (s : State) (k : Nat) (h : Graph → Graph) : (s.modGraph k h).sessions = s.sessions := rfl
@[simp] theorem State.modGraph_links (s : State) (k : Nat) (h : Graph → Graph) : (s.modGraph k h).links = s.links := rfl
@[simp] theorem State.modGraph_held (s : State) (k : Nat) (h : Graph → Graph) : (s.modGraph k h).held = s.held := rfl
@[simp] theorem State.modGraph_plim (s : State) (k : Nat) (h : Graph → Graph) : (s.modGraph k h).plim = s.plim := rfl
@[simp] theorem State.modGraph_tj (s : State) (k : Nat) (h : Graph → Graph) : (s.modGraph k h).tj = s.tj := rfl
@[simp] theorem State.modGraph_tin (s : State) (k : Nat) (h : Graph → Graph) : (s.modGraph k h).tin = s.tin := rfl
@[simp] theorem State.modGraph_thermal (s : State) (k : Nat) (h : Graph → Graph) : (s.modGraph k h).thermal = s.thermal := rfl
@[simp] theorem State.modGraph_anonce (s : State) (k : Nat) (h : Graph → Graph) : (s.modGraph k h).anonce = s.anonce := rfl
@[simp] theorem State.modGraph_aaddr (s : State) (k : Nat) (h : Graph → Graph) : (s.modGraph k h).aaddr = s.aaddr := rfl
@[simp] theorem State.modGraph_acmdErr (s : State) (k : Nat) (h : Graph → Graph) : (s.modGraph k h).acmdErr = s.acmdErr := rfl
@[simp] theorem State.modGraph_warm (s : State) (k : Nat) (h : Graph → Graph) : (s.modGraph k h).warm = s.warm := rfl
@[simp] theorem State.modGraph_boot (s : State) (k : Nat) (h : Graph → Graph) : (s.modGraph k h).boot = s.boot := rfl
@[simp] theorem State.modGraph_dbgUsed (s : State) (k : Nat) (h : Graph → Graph) : (s.modGraph k h).dbgUsed = s.dbgUsed := rfl
@[simp] theorem State.modGraph_modNo (s : State) (k : Nat) (h : Graph → Graph) : (s.modGraph k h).modNo = s.modNo := rfl
@[simp] theorem State.modGraph_fatal (s : State) (k : Nat) (h : Graph → Graph) : (s.modGraph k h).fatal = s.fatal := rfl
@[simp] theorem State.modGraph_aerAt (s : State) (k : Nat) (h : Graph → Graph) : (s.modGraph k h).aerAt = s.aerAt := rfl
@[simp] theorem State.modGraph_out (s : State) (k : Nat) (h : Graph → Graph) : (s.modGraph k h).out = s.out := rfl

/-! State.modJob -/

@[simp] theorem State.modJob_agenda (s : State) (n j : Nat) (h : Job → Job) : (s.modJob n j h).agenda = s.agenda := rfl
@[simp] theorem State.modJob_choices (s : State) (n j : Nat) (h : Job → Job) : (s.modJob n j h).choices = s.choices := rfl
@[simp] theorem State.modJob_free (s : State) (n j : Nat) (h : Job → Job) : (s.modJob n j h).free = s.free := rfl
@[simp] theorem State.modJob_nextId (s : State) (n j : Nat) (h : Job → Job) : (s.modJob n j h).nextId = s.nextId := rfl
@[simp] theorem State.modJob_cycle (s : State) (n j : Nat) (h : Job → Job) : (s.modJob n j h).cycle = s.cycle := rfl
@[simp] theorem State.modJob_pod (s : State) (n j : Nat) (h : Job → Job) : (s.modJob n j h).pod = s.pod := rfl
@[simp] theorem State.modJob_cur (s : State) (n j : Nat) (h : Job → Job) : (s.modJob n j h).cur = s.cur := rfl
@[simp] theorem State.modJob_cands (s : State) (n j : Nat) (h : Job → Job) : (s.modJob n j h).cands = s.cands := rfl
@[simp] theorem State.modJob_picked (s : State) (n j : Nat) (h : Job → Job) : (s.modJob n j h).picked = s.picked := rfl
@[simp] theorem State.modJob_sels (s : State) (n j : Nat) (h : Job → Job) : (s.modJob n j h).sels = s.sels := rfl
@[simp] theorem State.modJob_cores (s : State) (n j : Nat) (h : Job → Job) : (s.modJob n j h).cores = s.cores := rfl
@[simp] theorem State.modJob_powered (s : State) (n j : Nat) (h : Job → Job) : (s.modJob n j h).powered = s.powered := rfl
@[simp] theorem State.modJob_groups (s : State) (n j : Nat) (h : Job → Job) : (s.modJob n j h).groups = s.groups := rfl
@[simp] theorem State.modJob_launches (s : State) (n j : Nat) (h : Job → Job) : (s.modJob n j h).launches = s.launches := rfl
@[simp] theorem State.modJob_graphs (s : State) (n j : Nat) (h : Job → Job) : (s.modJob n j h).graphs = s.graphs := rfl
@[simp] theorem State.modJob_jobs (s : State) (n j : Nat) (h : Job → Job) : (s.modJob n j h).jobs = Cells.modify s.jobs (jobKey n j) h := rfl
@[simp] theorem State.modJob_reqs (s : State) (n j : Nat) (h : Job → Job) : (s.modJob n j h).reqs = s.reqs := rfl
@[simp] theorem State.modJob_tags (s : State) (n j : Nat) (h : Job → Job) : (s.modJob n j h).tags = s.tags := rfl
@[simp] theorem State.modJob_early (s : State) (n j : Nat) (h : Job → Job) : (s.modJob n j h).early = s.early := rfl
@[simp] theorem State.modJob_copies (s : State) (n j : Nat) (h : Job → Job) : (s.modJob n j h).copies = s.copies := rfl
@[simp] theorem State.modJob_emits (s : State) (n j : Nat) (h : Job → Job) : (s.modJob n j h).emits = s.emits := rfl
@[simp] theorem State.modJob_creds (s : State) (n j : Nat) (h : Job → Job) : (s.modJob n j h).creds = s.creds := rfl
@[simp] theorem State.modJob_snaps (s : State) (n j : Nat) (h : Job → Job) : (s.modJob n j h).snaps = s.snaps := rfl
@[simp] theorem State.modJob_saved (s : State) (n j : Nat) (h : Job → Job) : (s.modJob n j h).saved = s.saved := rfl
@[simp] theorem State.modJob_cslots (s : State) (n j : Nat) (h : Job → Job) : (s.modJob n j h).cslots = s.cslots := rfl
@[simp] theorem State.modJob_funcs (s : State) (n j : Nat) (h : Job → Job) : (s.modJob n j h).funcs = s.funcs := rfl
@[simp] theorem State.modJob_parts (s : State) (n j : Nat) (h : Job → Job) : (s.modJob n j h).parts = s.parts := rfl
@[simp] theorem State.modJob_mem (s : State) (n j : Nat) (h : Job → Job) : (s.modJob n j h).mem = s.mem := rfl
@[simp] theorem State.modJob_past (s : State) (n j : Nat) (h : Job → Job) : (s.modJob n j h).past = s.past := rfl
@[simp] theorem State.modJob_frames (s : State) (n j : Nat) (h : Job → Job) : (s.modJob n j h).frames = s.frames := rfl
@[simp] theorem State.modJob_dirty (s : State) (n j : Nat) (h : Job → Job) : (s.modJob n j h).dirty = s.dirty := rfl
@[simp] theorem State.modJob_poison (s : State) (n j : Nat) (h : Job → Job) : (s.modJob n j h).poison = s.poison := rfl
@[simp] theorem State.modJob_tlb (s : State) (n j : Nat) (h : Job → Job) : (s.modJob n j h).tlb = s.tlb := rfl
@[simp] theorem State.modJob_inval (s : State) (n j : Nat) (h : Job → Job) : (s.modJob n j h).inval = s.inval := rfl
@[simp] theorem State.modJob_s2iaddr (s : State) (n j : Nat) (h : Job → Job) : (s.modJob n j h).s2iaddr = s.s2iaddr := rfl
@[simp] theorem State.modJob_s2ictl (s : State) (n j : Nat) (h : Job → Job) : (s.modJob n j h).s2ictl = s.s2ictl := rfl
@[simp] theorem State.modJob_dtvec (s : State) (n j : Nat) (h : Job → Job) : (s.modJob n j h).dtvec = s.dtvec := rfl
@[simp] theorem State.modJob_ptoken (s : State) (n j : Nat) (h : Job → Job) : (s.modJob n j h).ptoken = s.ptoken := rfl
@[simp] theorem State.modJob_tokenLast (s : State) (n j : Nat) (h : Job → Job) : (s.modJob n j h).tokenLast = s.tokenLast := rfl
@[simp] theorem State.modJob_dbgIn (s : State) (n j : Nat) (h : Job → Job) : (s.modJob n j h).dbgIn = s.dbgIn := rfl
@[simp] theorem State.modJob_dbgInf (s : State) (n j : Nat) (h : Job → Job) : (s.modJob n j h).dbgInf = s.dbgInf := rfl
@[simp] theorem State.modJob_dbgOut (s : State) (n j : Nat) (h : Job → Job) : (s.modJob n j h).dbgOut = s.dbgOut := rfl
@[simp] theorem State.modJob_dbgOutf (s : State) (n j : Nat) (h : Job → Job) : (s.modJob n j h).dbgOutf = s.dbgOutf := rfl
@[simp] theorem State.modJob_dbgIen (s : State) (n j : Nat) (h : Job → Job) : (s.modJob n j h).dbgIen = s.dbgIen := rfl
@[simp] theorem State.modJob_dbgVec (s : State) (n j : Nat) (h : Job → Job) : (s.modJob n j h).dbgVec = s.dbgVec := rfl
@[simp] theorem State.modJob_dbgHold (s : State) (n j : Nat) (h : Job → Job) : (s.modJob n j h).dbgHold = s.dbgHold := rfl
@[simp] theorem State.modJob_dbghreq (s : State) (n j : Nat) (h : Job → Job) : (s.modJob n j h).dbghreq = s.dbghreq := rfl
@[simp] theorem State.modJob_jcan (s : State) (n j : Nat) (h : Job → Job) : (s.modJob n j h).jcan = s.jcan := rfl
@[simp] theorem State.modJob_jcanOf (s : State) (n j : Nat) (h : Job → Job) : (s.modJob n j h).jcanOf = s.jcanOf := rfl
@[simp] theorem State.modJob_stopLog (s : State) (n j : Nat) (h : Job → Job) : (s.modJob n j h).stopLog = s.stopLog := rfl
@[simp] theorem State.modJob_stopCount (s : State) (n j : Nat) (h : Job → Job) : (s.modJob n j h).stopCount = s.stopCount := rfl
@[simp] theorem State.modJob_kdata (s : State) (n j : Nat) (h : Job → Job) : (s.modJob n j h).kdata = s.kdata := rfl
@[simp] theorem State.modJob_kcmd (s : State) (n j : Nat) (h : Job → Job) : (s.modJob n j h).kcmd = s.kcmd := rfl
@[simp] theorem State.modJob_rtcmd (s : State) (n j : Nat) (h : Job → Job) : (s.modJob n j h).rtcmd = s.rtcmd := rfl
@[simp] theorem State.modJob_keyData (s : State) (n j : Nat) (h : Job → Job) : (s.modJob n j h).keyData = s.keyData := rfl
@[simp] theorem State.modJob_rtaddr (s : State) (n j : Nat) (h : Job → Job) : (s.modJob n j h).rtaddr = s.rtaddr := rfl
@[simp] theorem State.modJob_throt (s : State) (n j : Nat) (h : Job → Job) : (s.modJob n j h).throt = s.throt := rfl
@[simp] theorem State.modJob_rows (s : State) (n j : Nat) (h : Job → Job) : (s.modJob n j h).rows = s.rows := rfl
@[simp] theorem State.modJob_mfwd (s : State) (n j : Nat) (h : Job → Job) : (s.modJob n j h).mfwd = s.mfwd := rfl
@[simp] theorem State.modJob_rdidx (s : State) (n j : Nat) (h : Job → Job) : (s.modJob n j h).rdidx = s.rdidx := rfl
@[simp] theorem State.modJob_redirect (s : State) (n j : Nat) (h : Job → Job) : (s.modJob n j h).redirect = s.redirect := rfl
@[simp] theorem State.modJob_windows (s : State) (n j : Nat) (h : Job → Job) : (s.modJob n j h).windows = s.windows := rfl
@[simp] theorem State.modJob_movedSlots (s : State) (n j : Nat) (h : Job → Job) : (s.modJob n j h).movedSlots = s.movedSlots := rfl
@[simp] theorem State.modJob_arriving (s : State) (n j : Nat) (h : Job → Job) : (s.modJob n j h).arriving = s.arriving := rfl
@[simp] theorem State.modJob_sessions (s : State) (n j : Nat) (h : Job → Job) : (s.modJob n j h).sessions = s.sessions := rfl
@[simp] theorem State.modJob_links (s : State) (n j : Nat) (h : Job → Job) : (s.modJob n j h).links = s.links := rfl
@[simp] theorem State.modJob_held (s : State) (n j : Nat) (h : Job → Job) : (s.modJob n j h).held = s.held := rfl
@[simp] theorem State.modJob_plim (s : State) (n j : Nat) (h : Job → Job) : (s.modJob n j h).plim = s.plim := rfl
@[simp] theorem State.modJob_tj (s : State) (n j : Nat) (h : Job → Job) : (s.modJob n j h).tj = s.tj := rfl
@[simp] theorem State.modJob_tin (s : State) (n j : Nat) (h : Job → Job) : (s.modJob n j h).tin = s.tin := rfl
@[simp] theorem State.modJob_thermal (s : State) (n j : Nat) (h : Job → Job) : (s.modJob n j h).thermal = s.thermal := rfl
@[simp] theorem State.modJob_anonce (s : State) (n j : Nat) (h : Job → Job) : (s.modJob n j h).anonce = s.anonce := rfl
@[simp] theorem State.modJob_aaddr (s : State) (n j : Nat) (h : Job → Job) : (s.modJob n j h).aaddr = s.aaddr := rfl
@[simp] theorem State.modJob_acmdErr (s : State) (n j : Nat) (h : Job → Job) : (s.modJob n j h).acmdErr = s.acmdErr := rfl
@[simp] theorem State.modJob_warm (s : State) (n j : Nat) (h : Job → Job) : (s.modJob n j h).warm = s.warm := rfl
@[simp] theorem State.modJob_boot (s : State) (n j : Nat) (h : Job → Job) : (s.modJob n j h).boot = s.boot := rfl
@[simp] theorem State.modJob_dbgUsed (s : State) (n j : Nat) (h : Job → Job) : (s.modJob n j h).dbgUsed = s.dbgUsed := rfl
@[simp] theorem State.modJob_modNo (s : State) (n j : Nat) (h : Job → Job) : (s.modJob n j h).modNo = s.modNo := rfl
@[simp] theorem State.modJob_fatal (s : State) (n j : Nat) (h : Job → Job) : (s.modJob n j h).fatal = s.fatal := rfl
@[simp] theorem State.modJob_aerAt (s : State) (n j : Nat) (h : Job → Job) : (s.modJob n j h).aerAt = s.aerAt := rfl
@[simp] theorem State.modJob_out (s : State) (n j : Nat) (h : Job → Job) : (s.modJob n j h).out = s.out := rfl

/-! State.modCopy -/

@[simp] theorem State.modCopy_agenda (s : State) (id : Nat) (h : Copy → Copy) : (s.modCopy id h).agenda = s.agenda := rfl
@[simp] theorem State.modCopy_choices (s : State) (id : Nat) (h : Copy → Copy) : (s.modCopy id h).choices = s.choices := rfl
@[simp] theorem State.modCopy_free (s : State) (id : Nat) (h : Copy → Copy) : (s.modCopy id h).free = s.free := rfl
@[simp] theorem State.modCopy_nextId (s : State) (id : Nat) (h : Copy → Copy) : (s.modCopy id h).nextId = s.nextId := rfl
@[simp] theorem State.modCopy_cycle (s : State) (id : Nat) (h : Copy → Copy) : (s.modCopy id h).cycle = s.cycle := rfl
@[simp] theorem State.modCopy_pod (s : State) (id : Nat) (h : Copy → Copy) : (s.modCopy id h).pod = s.pod := rfl
@[simp] theorem State.modCopy_cur (s : State) (id : Nat) (h : Copy → Copy) : (s.modCopy id h).cur = s.cur := rfl
@[simp] theorem State.modCopy_cands (s : State) (id : Nat) (h : Copy → Copy) : (s.modCopy id h).cands = s.cands := rfl
@[simp] theorem State.modCopy_picked (s : State) (id : Nat) (h : Copy → Copy) : (s.modCopy id h).picked = s.picked := rfl
@[simp] theorem State.modCopy_sels (s : State) (id : Nat) (h : Copy → Copy) : (s.modCopy id h).sels = s.sels := rfl
@[simp] theorem State.modCopy_cores (s : State) (id : Nat) (h : Copy → Copy) : (s.modCopy id h).cores = s.cores := rfl
@[simp] theorem State.modCopy_powered (s : State) (id : Nat) (h : Copy → Copy) : (s.modCopy id h).powered = s.powered := rfl
@[simp] theorem State.modCopy_groups (s : State) (id : Nat) (h : Copy → Copy) : (s.modCopy id h).groups = s.groups := rfl
@[simp] theorem State.modCopy_launches (s : State) (id : Nat) (h : Copy → Copy) : (s.modCopy id h).launches = s.launches := rfl
@[simp] theorem State.modCopy_graphs (s : State) (id : Nat) (h : Copy → Copy) : (s.modCopy id h).graphs = s.graphs := rfl
@[simp] theorem State.modCopy_jobs (s : State) (id : Nat) (h : Copy → Copy) : (s.modCopy id h).jobs = s.jobs := rfl
@[simp] theorem State.modCopy_reqs (s : State) (id : Nat) (h : Copy → Copy) : (s.modCopy id h).reqs = s.reqs := rfl
@[simp] theorem State.modCopy_tags (s : State) (id : Nat) (h : Copy → Copy) : (s.modCopy id h).tags = s.tags := rfl
@[simp] theorem State.modCopy_early (s : State) (id : Nat) (h : Copy → Copy) : (s.modCopy id h).early = s.early := rfl
@[simp] theorem State.modCopy_copies (s : State) (id : Nat) (h : Copy → Copy) : (s.modCopy id h).copies = Cells.modify s.copies id h := rfl
@[simp] theorem State.modCopy_emits (s : State) (id : Nat) (h : Copy → Copy) : (s.modCopy id h).emits = s.emits := rfl
@[simp] theorem State.modCopy_creds (s : State) (id : Nat) (h : Copy → Copy) : (s.modCopy id h).creds = s.creds := rfl
@[simp] theorem State.modCopy_snaps (s : State) (id : Nat) (h : Copy → Copy) : (s.modCopy id h).snaps = s.snaps := rfl
@[simp] theorem State.modCopy_saved (s : State) (id : Nat) (h : Copy → Copy) : (s.modCopy id h).saved = s.saved := rfl
@[simp] theorem State.modCopy_cslots (s : State) (id : Nat) (h : Copy → Copy) : (s.modCopy id h).cslots = s.cslots := rfl
@[simp] theorem State.modCopy_funcs (s : State) (id : Nat) (h : Copy → Copy) : (s.modCopy id h).funcs = s.funcs := rfl
@[simp] theorem State.modCopy_parts (s : State) (id : Nat) (h : Copy → Copy) : (s.modCopy id h).parts = s.parts := rfl
@[simp] theorem State.modCopy_mem (s : State) (id : Nat) (h : Copy → Copy) : (s.modCopy id h).mem = s.mem := rfl
@[simp] theorem State.modCopy_past (s : State) (id : Nat) (h : Copy → Copy) : (s.modCopy id h).past = s.past := rfl
@[simp] theorem State.modCopy_frames (s : State) (id : Nat) (h : Copy → Copy) : (s.modCopy id h).frames = s.frames := rfl
@[simp] theorem State.modCopy_dirty (s : State) (id : Nat) (h : Copy → Copy) : (s.modCopy id h).dirty = s.dirty := rfl
@[simp] theorem State.modCopy_poison (s : State) (id : Nat) (h : Copy → Copy) : (s.modCopy id h).poison = s.poison := rfl
@[simp] theorem State.modCopy_tlb (s : State) (id : Nat) (h : Copy → Copy) : (s.modCopy id h).tlb = s.tlb := rfl
@[simp] theorem State.modCopy_inval (s : State) (id : Nat) (h : Copy → Copy) : (s.modCopy id h).inval = s.inval := rfl
@[simp] theorem State.modCopy_s2iaddr (s : State) (id : Nat) (h : Copy → Copy) : (s.modCopy id h).s2iaddr = s.s2iaddr := rfl
@[simp] theorem State.modCopy_s2ictl (s : State) (id : Nat) (h : Copy → Copy) : (s.modCopy id h).s2ictl = s.s2ictl := rfl
@[simp] theorem State.modCopy_dtvec (s : State) (id : Nat) (h : Copy → Copy) : (s.modCopy id h).dtvec = s.dtvec := rfl
@[simp] theorem State.modCopy_ptoken (s : State) (id : Nat) (h : Copy → Copy) : (s.modCopy id h).ptoken = s.ptoken := rfl
@[simp] theorem State.modCopy_tokenLast (s : State) (id : Nat) (h : Copy → Copy) : (s.modCopy id h).tokenLast = s.tokenLast := rfl
@[simp] theorem State.modCopy_dbgIn (s : State) (id : Nat) (h : Copy → Copy) : (s.modCopy id h).dbgIn = s.dbgIn := rfl
@[simp] theorem State.modCopy_dbgInf (s : State) (id : Nat) (h : Copy → Copy) : (s.modCopy id h).dbgInf = s.dbgInf := rfl
@[simp] theorem State.modCopy_dbgOut (s : State) (id : Nat) (h : Copy → Copy) : (s.modCopy id h).dbgOut = s.dbgOut := rfl
@[simp] theorem State.modCopy_dbgOutf (s : State) (id : Nat) (h : Copy → Copy) : (s.modCopy id h).dbgOutf = s.dbgOutf := rfl
@[simp] theorem State.modCopy_dbgIen (s : State) (id : Nat) (h : Copy → Copy) : (s.modCopy id h).dbgIen = s.dbgIen := rfl
@[simp] theorem State.modCopy_dbgVec (s : State) (id : Nat) (h : Copy → Copy) : (s.modCopy id h).dbgVec = s.dbgVec := rfl
@[simp] theorem State.modCopy_dbgHold (s : State) (id : Nat) (h : Copy → Copy) : (s.modCopy id h).dbgHold = s.dbgHold := rfl
@[simp] theorem State.modCopy_dbghreq (s : State) (id : Nat) (h : Copy → Copy) : (s.modCopy id h).dbghreq = s.dbghreq := rfl
@[simp] theorem State.modCopy_jcan (s : State) (id : Nat) (h : Copy → Copy) : (s.modCopy id h).jcan = s.jcan := rfl
@[simp] theorem State.modCopy_jcanOf (s : State) (id : Nat) (h : Copy → Copy) : (s.modCopy id h).jcanOf = s.jcanOf := rfl
@[simp] theorem State.modCopy_stopLog (s : State) (id : Nat) (h : Copy → Copy) : (s.modCopy id h).stopLog = s.stopLog := rfl
@[simp] theorem State.modCopy_stopCount (s : State) (id : Nat) (h : Copy → Copy) : (s.modCopy id h).stopCount = s.stopCount := rfl
@[simp] theorem State.modCopy_kdata (s : State) (id : Nat) (h : Copy → Copy) : (s.modCopy id h).kdata = s.kdata := rfl
@[simp] theorem State.modCopy_kcmd (s : State) (id : Nat) (h : Copy → Copy) : (s.modCopy id h).kcmd = s.kcmd := rfl
@[simp] theorem State.modCopy_rtcmd (s : State) (id : Nat) (h : Copy → Copy) : (s.modCopy id h).rtcmd = s.rtcmd := rfl
@[simp] theorem State.modCopy_keyData (s : State) (id : Nat) (h : Copy → Copy) : (s.modCopy id h).keyData = s.keyData := rfl
@[simp] theorem State.modCopy_rtaddr (s : State) (id : Nat) (h : Copy → Copy) : (s.modCopy id h).rtaddr = s.rtaddr := rfl
@[simp] theorem State.modCopy_throt (s : State) (id : Nat) (h : Copy → Copy) : (s.modCopy id h).throt = s.throt := rfl
@[simp] theorem State.modCopy_rows (s : State) (id : Nat) (h : Copy → Copy) : (s.modCopy id h).rows = s.rows := rfl
@[simp] theorem State.modCopy_mfwd (s : State) (id : Nat) (h : Copy → Copy) : (s.modCopy id h).mfwd = s.mfwd := rfl
@[simp] theorem State.modCopy_rdidx (s : State) (id : Nat) (h : Copy → Copy) : (s.modCopy id h).rdidx = s.rdidx := rfl
@[simp] theorem State.modCopy_redirect (s : State) (id : Nat) (h : Copy → Copy) : (s.modCopy id h).redirect = s.redirect := rfl
@[simp] theorem State.modCopy_windows (s : State) (id : Nat) (h : Copy → Copy) : (s.modCopy id h).windows = s.windows := rfl
@[simp] theorem State.modCopy_movedSlots (s : State) (id : Nat) (h : Copy → Copy) : (s.modCopy id h).movedSlots = s.movedSlots := rfl
@[simp] theorem State.modCopy_arriving (s : State) (id : Nat) (h : Copy → Copy) : (s.modCopy id h).arriving = s.arriving := rfl
@[simp] theorem State.modCopy_sessions (s : State) (id : Nat) (h : Copy → Copy) : (s.modCopy id h).sessions = s.sessions := rfl
@[simp] theorem State.modCopy_links (s : State) (id : Nat) (h : Copy → Copy) : (s.modCopy id h).links = s.links := rfl
@[simp] theorem State.modCopy_held (s : State) (id : Nat) (h : Copy → Copy) : (s.modCopy id h).held = s.held := rfl
@[simp] theorem State.modCopy_plim (s : State) (id : Nat) (h : Copy → Copy) : (s.modCopy id h).plim = s.plim := rfl
@[simp] theorem State.modCopy_tj (s : State) (id : Nat) (h : Copy → Copy) : (s.modCopy id h).tj = s.tj := rfl
@[simp] theorem State.modCopy_tin (s : State) (id : Nat) (h : Copy → Copy) : (s.modCopy id h).tin = s.tin := rfl
@[simp] theorem State.modCopy_thermal (s : State) (id : Nat) (h : Copy → Copy) : (s.modCopy id h).thermal = s.thermal := rfl
@[simp] theorem State.modCopy_anonce (s : State) (id : Nat) (h : Copy → Copy) : (s.modCopy id h).anonce = s.anonce := rfl
@[simp] theorem State.modCopy_aaddr (s : State) (id : Nat) (h : Copy → Copy) : (s.modCopy id h).aaddr = s.aaddr := rfl
@[simp] theorem State.modCopy_acmdErr (s : State) (id : Nat) (h : Copy → Copy) : (s.modCopy id h).acmdErr = s.acmdErr := rfl
@[simp] theorem State.modCopy_warm (s : State) (id : Nat) (h : Copy → Copy) : (s.modCopy id h).warm = s.warm := rfl
@[simp] theorem State.modCopy_boot (s : State) (id : Nat) (h : Copy → Copy) : (s.modCopy id h).boot = s.boot := rfl
@[simp] theorem State.modCopy_dbgUsed (s : State) (id : Nat) (h : Copy → Copy) : (s.modCopy id h).dbgUsed = s.dbgUsed := rfl
@[simp] theorem State.modCopy_modNo (s : State) (id : Nat) (h : Copy → Copy) : (s.modCopy id h).modNo = s.modNo := rfl
@[simp] theorem State.modCopy_fatal (s : State) (id : Nat) (h : Copy → Copy) : (s.modCopy id h).fatal = s.fatal := rfl
@[simp] theorem State.modCopy_aerAt (s : State) (id : Nat) (h : Copy → Copy) : (s.modCopy id h).aerAt = s.aerAt := rfl
@[simp] theorem State.modCopy_out (s : State) (id : Nat) (h : Copy → Copy) : (s.modCopy id h).out = s.out := rfl

/-! State.modSlot -/

@[simp] theorem State.modSlot_agenda (s : State) (n : Nat) (h : CSlot → CSlot) : (s.modSlot n h).agenda = s.agenda := rfl
@[simp] theorem State.modSlot_choices (s : State) (n : Nat) (h : CSlot → CSlot) : (s.modSlot n h).choices = s.choices := rfl
@[simp] theorem State.modSlot_free (s : State) (n : Nat) (h : CSlot → CSlot) : (s.modSlot n h).free = s.free := rfl
@[simp] theorem State.modSlot_nextId (s : State) (n : Nat) (h : CSlot → CSlot) : (s.modSlot n h).nextId = s.nextId := rfl
@[simp] theorem State.modSlot_cycle (s : State) (n : Nat) (h : CSlot → CSlot) : (s.modSlot n h).cycle = s.cycle := rfl
@[simp] theorem State.modSlot_pod (s : State) (n : Nat) (h : CSlot → CSlot) : (s.modSlot n h).pod = s.pod := rfl
@[simp] theorem State.modSlot_cur (s : State) (n : Nat) (h : CSlot → CSlot) : (s.modSlot n h).cur = s.cur := rfl
@[simp] theorem State.modSlot_cands (s : State) (n : Nat) (h : CSlot → CSlot) : (s.modSlot n h).cands = s.cands := rfl
@[simp] theorem State.modSlot_picked (s : State) (n : Nat) (h : CSlot → CSlot) : (s.modSlot n h).picked = s.picked := rfl
@[simp] theorem State.modSlot_sels (s : State) (n : Nat) (h : CSlot → CSlot) : (s.modSlot n h).sels = s.sels := rfl
@[simp] theorem State.modSlot_cores (s : State) (n : Nat) (h : CSlot → CSlot) : (s.modSlot n h).cores = s.cores := rfl
@[simp] theorem State.modSlot_powered (s : State) (n : Nat) (h : CSlot → CSlot) : (s.modSlot n h).powered = s.powered := rfl
@[simp] theorem State.modSlot_groups (s : State) (n : Nat) (h : CSlot → CSlot) : (s.modSlot n h).groups = s.groups := rfl
@[simp] theorem State.modSlot_launches (s : State) (n : Nat) (h : CSlot → CSlot) : (s.modSlot n h).launches = s.launches := rfl
@[simp] theorem State.modSlot_graphs (s : State) (n : Nat) (h : CSlot → CSlot) : (s.modSlot n h).graphs = s.graphs := rfl
@[simp] theorem State.modSlot_jobs (s : State) (n : Nat) (h : CSlot → CSlot) : (s.modSlot n h).jobs = s.jobs := rfl
@[simp] theorem State.modSlot_reqs (s : State) (n : Nat) (h : CSlot → CSlot) : (s.modSlot n h).reqs = s.reqs := rfl
@[simp] theorem State.modSlot_tags (s : State) (n : Nat) (h : CSlot → CSlot) : (s.modSlot n h).tags = s.tags := rfl
@[simp] theorem State.modSlot_early (s : State) (n : Nat) (h : CSlot → CSlot) : (s.modSlot n h).early = s.early := rfl
@[simp] theorem State.modSlot_copies (s : State) (n : Nat) (h : CSlot → CSlot) : (s.modSlot n h).copies = s.copies := rfl
@[simp] theorem State.modSlot_emits (s : State) (n : Nat) (h : CSlot → CSlot) : (s.modSlot n h).emits = s.emits := rfl
@[simp] theorem State.modSlot_creds (s : State) (n : Nat) (h : CSlot → CSlot) : (s.modSlot n h).creds = s.creds := rfl
@[simp] theorem State.modSlot_snaps (s : State) (n : Nat) (h : CSlot → CSlot) : (s.modSlot n h).snaps = s.snaps := rfl
@[simp] theorem State.modSlot_saved (s : State) (n : Nat) (h : CSlot → CSlot) : (s.modSlot n h).saved = s.saved := rfl
@[simp] theorem State.modSlot_cslots (s : State) (n : Nat) (h : CSlot → CSlot) : (s.modSlot n h).cslots = Cells.modify s.cslots n h := rfl
@[simp] theorem State.modSlot_funcs (s : State) (n : Nat) (h : CSlot → CSlot) : (s.modSlot n h).funcs = s.funcs := rfl
@[simp] theorem State.modSlot_parts (s : State) (n : Nat) (h : CSlot → CSlot) : (s.modSlot n h).parts = s.parts := rfl
@[simp] theorem State.modSlot_mem (s : State) (n : Nat) (h : CSlot → CSlot) : (s.modSlot n h).mem = s.mem := rfl
@[simp] theorem State.modSlot_past (s : State) (n : Nat) (h : CSlot → CSlot) : (s.modSlot n h).past = s.past := rfl
@[simp] theorem State.modSlot_frames (s : State) (n : Nat) (h : CSlot → CSlot) : (s.modSlot n h).frames = s.frames := rfl
@[simp] theorem State.modSlot_dirty (s : State) (n : Nat) (h : CSlot → CSlot) : (s.modSlot n h).dirty = s.dirty := rfl
@[simp] theorem State.modSlot_poison (s : State) (n : Nat) (h : CSlot → CSlot) : (s.modSlot n h).poison = s.poison := rfl
@[simp] theorem State.modSlot_tlb (s : State) (n : Nat) (h : CSlot → CSlot) : (s.modSlot n h).tlb = s.tlb := rfl
@[simp] theorem State.modSlot_inval (s : State) (n : Nat) (h : CSlot → CSlot) : (s.modSlot n h).inval = s.inval := rfl
@[simp] theorem State.modSlot_s2iaddr (s : State) (n : Nat) (h : CSlot → CSlot) : (s.modSlot n h).s2iaddr = s.s2iaddr := rfl
@[simp] theorem State.modSlot_s2ictl (s : State) (n : Nat) (h : CSlot → CSlot) : (s.modSlot n h).s2ictl = s.s2ictl := rfl
@[simp] theorem State.modSlot_dtvec (s : State) (n : Nat) (h : CSlot → CSlot) : (s.modSlot n h).dtvec = s.dtvec := rfl
@[simp] theorem State.modSlot_ptoken (s : State) (n : Nat) (h : CSlot → CSlot) : (s.modSlot n h).ptoken = s.ptoken := rfl
@[simp] theorem State.modSlot_tokenLast (s : State) (n : Nat) (h : CSlot → CSlot) : (s.modSlot n h).tokenLast = s.tokenLast := rfl
@[simp] theorem State.modSlot_dbgIn (s : State) (n : Nat) (h : CSlot → CSlot) : (s.modSlot n h).dbgIn = s.dbgIn := rfl
@[simp] theorem State.modSlot_dbgInf (s : State) (n : Nat) (h : CSlot → CSlot) : (s.modSlot n h).dbgInf = s.dbgInf := rfl
@[simp] theorem State.modSlot_dbgOut (s : State) (n : Nat) (h : CSlot → CSlot) : (s.modSlot n h).dbgOut = s.dbgOut := rfl
@[simp] theorem State.modSlot_dbgOutf (s : State) (n : Nat) (h : CSlot → CSlot) : (s.modSlot n h).dbgOutf = s.dbgOutf := rfl
@[simp] theorem State.modSlot_dbgIen (s : State) (n : Nat) (h : CSlot → CSlot) : (s.modSlot n h).dbgIen = s.dbgIen := rfl
@[simp] theorem State.modSlot_dbgVec (s : State) (n : Nat) (h : CSlot → CSlot) : (s.modSlot n h).dbgVec = s.dbgVec := rfl
@[simp] theorem State.modSlot_dbgHold (s : State) (n : Nat) (h : CSlot → CSlot) : (s.modSlot n h).dbgHold = s.dbgHold := rfl
@[simp] theorem State.modSlot_dbghreq (s : State) (n : Nat) (h : CSlot → CSlot) : (s.modSlot n h).dbghreq = s.dbghreq := rfl
@[simp] theorem State.modSlot_jcan (s : State) (n : Nat) (h : CSlot → CSlot) : (s.modSlot n h).jcan = s.jcan := rfl
@[simp] theorem State.modSlot_jcanOf (s : State) (n : Nat) (h : CSlot → CSlot) : (s.modSlot n h).jcanOf = s.jcanOf := rfl
@[simp] theorem State.modSlot_stopLog (s : State) (n : Nat) (h : CSlot → CSlot) : (s.modSlot n h).stopLog = s.stopLog := rfl
@[simp] theorem State.modSlot_stopCount (s : State) (n : Nat) (h : CSlot → CSlot) : (s.modSlot n h).stopCount = s.stopCount := rfl
@[simp] theorem State.modSlot_kdata (s : State) (n : Nat) (h : CSlot → CSlot) : (s.modSlot n h).kdata = s.kdata := rfl
@[simp] theorem State.modSlot_kcmd (s : State) (n : Nat) (h : CSlot → CSlot) : (s.modSlot n h).kcmd = s.kcmd := rfl
@[simp] theorem State.modSlot_rtcmd (s : State) (n : Nat) (h : CSlot → CSlot) : (s.modSlot n h).rtcmd = s.rtcmd := rfl
@[simp] theorem State.modSlot_keyData (s : State) (n : Nat) (h : CSlot → CSlot) : (s.modSlot n h).keyData = s.keyData := rfl
@[simp] theorem State.modSlot_rtaddr (s : State) (n : Nat) (h : CSlot → CSlot) : (s.modSlot n h).rtaddr = s.rtaddr := rfl
@[simp] theorem State.modSlot_throt (s : State) (n : Nat) (h : CSlot → CSlot) : (s.modSlot n h).throt = s.throt := rfl
@[simp] theorem State.modSlot_rows (s : State) (n : Nat) (h : CSlot → CSlot) : (s.modSlot n h).rows = s.rows := rfl
@[simp] theorem State.modSlot_mfwd (s : State) (n : Nat) (h : CSlot → CSlot) : (s.modSlot n h).mfwd = s.mfwd := rfl
@[simp] theorem State.modSlot_rdidx (s : State) (n : Nat) (h : CSlot → CSlot) : (s.modSlot n h).rdidx = s.rdidx := rfl
@[simp] theorem State.modSlot_redirect (s : State) (n : Nat) (h : CSlot → CSlot) : (s.modSlot n h).redirect = s.redirect := rfl
@[simp] theorem State.modSlot_windows (s : State) (n : Nat) (h : CSlot → CSlot) : (s.modSlot n h).windows = s.windows := rfl
@[simp] theorem State.modSlot_movedSlots (s : State) (n : Nat) (h : CSlot → CSlot) : (s.modSlot n h).movedSlots = s.movedSlots := rfl
@[simp] theorem State.modSlot_arriving (s : State) (n : Nat) (h : CSlot → CSlot) : (s.modSlot n h).arriving = s.arriving := rfl
@[simp] theorem State.modSlot_sessions (s : State) (n : Nat) (h : CSlot → CSlot) : (s.modSlot n h).sessions = s.sessions := rfl
@[simp] theorem State.modSlot_links (s : State) (n : Nat) (h : CSlot → CSlot) : (s.modSlot n h).links = s.links := rfl
@[simp] theorem State.modSlot_held (s : State) (n : Nat) (h : CSlot → CSlot) : (s.modSlot n h).held = s.held := rfl
@[simp] theorem State.modSlot_plim (s : State) (n : Nat) (h : CSlot → CSlot) : (s.modSlot n h).plim = s.plim := rfl
@[simp] theorem State.modSlot_tj (s : State) (n : Nat) (h : CSlot → CSlot) : (s.modSlot n h).tj = s.tj := rfl
@[simp] theorem State.modSlot_tin (s : State) (n : Nat) (h : CSlot → CSlot) : (s.modSlot n h).tin = s.tin := rfl
@[simp] theorem State.modSlot_thermal (s : State) (n : Nat) (h : CSlot → CSlot) : (s.modSlot n h).thermal = s.thermal := rfl
@[simp] theorem State.modSlot_anonce (s : State) (n : Nat) (h : CSlot → CSlot) : (s.modSlot n h).anonce = s.anonce := rfl
@[simp] theorem State.modSlot_aaddr (s : State) (n : Nat) (h : CSlot → CSlot) : (s.modSlot n h).aaddr = s.aaddr := rfl
@[simp] theorem State.modSlot_acmdErr (s : State) (n : Nat) (h : CSlot → CSlot) : (s.modSlot n h).acmdErr = s.acmdErr := rfl
@[simp] theorem State.modSlot_warm (s : State) (n : Nat) (h : CSlot → CSlot) : (s.modSlot n h).warm = s.warm := rfl
@[simp] theorem State.modSlot_boot (s : State) (n : Nat) (h : CSlot → CSlot) : (s.modSlot n h).boot = s.boot := rfl
@[simp] theorem State.modSlot_dbgUsed (s : State) (n : Nat) (h : CSlot → CSlot) : (s.modSlot n h).dbgUsed = s.dbgUsed := rfl
@[simp] theorem State.modSlot_modNo (s : State) (n : Nat) (h : CSlot → CSlot) : (s.modSlot n h).modNo = s.modNo := rfl
@[simp] theorem State.modSlot_fatal (s : State) (n : Nat) (h : CSlot → CSlot) : (s.modSlot n h).fatal = s.fatal := rfl
@[simp] theorem State.modSlot_aerAt (s : State) (n : Nat) (h : CSlot → CSlot) : (s.modSlot n h).aerAt = s.aerAt := rfl
@[simp] theorem State.modSlot_out (s : State) (n : Nat) (h : CSlot → CSlot) : (s.modSlot n h).out = s.out := rfl

/-! State.modSel -/

@[simp] theorem State.modSel_agenda (s : State) (k : Nat) (h : Sel → Sel) : (s.modSel k h).agenda = s.agenda := rfl
@[simp] theorem State.modSel_choices (s : State) (k : Nat) (h : Sel → Sel) : (s.modSel k h).choices = s.choices := rfl
@[simp] theorem State.modSel_free (s : State) (k : Nat) (h : Sel → Sel) : (s.modSel k h).free = s.free := rfl
@[simp] theorem State.modSel_nextId (s : State) (k : Nat) (h : Sel → Sel) : (s.modSel k h).nextId = s.nextId := rfl
@[simp] theorem State.modSel_cycle (s : State) (k : Nat) (h : Sel → Sel) : (s.modSel k h).cycle = s.cycle := rfl
@[simp] theorem State.modSel_pod (s : State) (k : Nat) (h : Sel → Sel) : (s.modSel k h).pod = s.pod := rfl
@[simp] theorem State.modSel_cur (s : State) (k : Nat) (h : Sel → Sel) : (s.modSel k h).cur = s.cur := rfl
@[simp] theorem State.modSel_cands (s : State) (k : Nat) (h : Sel → Sel) : (s.modSel k h).cands = s.cands := rfl
@[simp] theorem State.modSel_picked (s : State) (k : Nat) (h : Sel → Sel) : (s.modSel k h).picked = s.picked := rfl
@[simp] theorem State.modSel_sels (s : State) (k : Nat) (h : Sel → Sel) : (s.modSel k h).sels = Cells.put s.sels k (h (s.sel k)) := rfl
@[simp] theorem State.modSel_cores (s : State) (k : Nat) (h : Sel → Sel) : (s.modSel k h).cores = s.cores := rfl
@[simp] theorem State.modSel_powered (s : State) (k : Nat) (h : Sel → Sel) : (s.modSel k h).powered = s.powered := rfl
@[simp] theorem State.modSel_groups (s : State) (k : Nat) (h : Sel → Sel) : (s.modSel k h).groups = s.groups := rfl
@[simp] theorem State.modSel_launches (s : State) (k : Nat) (h : Sel → Sel) : (s.modSel k h).launches = s.launches := rfl
@[simp] theorem State.modSel_graphs (s : State) (k : Nat) (h : Sel → Sel) : (s.modSel k h).graphs = s.graphs := rfl
@[simp] theorem State.modSel_jobs (s : State) (k : Nat) (h : Sel → Sel) : (s.modSel k h).jobs = s.jobs := rfl
@[simp] theorem State.modSel_reqs (s : State) (k : Nat) (h : Sel → Sel) : (s.modSel k h).reqs = s.reqs := rfl
@[simp] theorem State.modSel_tags (s : State) (k : Nat) (h : Sel → Sel) : (s.modSel k h).tags = s.tags := rfl
@[simp] theorem State.modSel_early (s : State) (k : Nat) (h : Sel → Sel) : (s.modSel k h).early = s.early := rfl
@[simp] theorem State.modSel_copies (s : State) (k : Nat) (h : Sel → Sel) : (s.modSel k h).copies = s.copies := rfl
@[simp] theorem State.modSel_emits (s : State) (k : Nat) (h : Sel → Sel) : (s.modSel k h).emits = s.emits := rfl
@[simp] theorem State.modSel_creds (s : State) (k : Nat) (h : Sel → Sel) : (s.modSel k h).creds = s.creds := rfl
@[simp] theorem State.modSel_snaps (s : State) (k : Nat) (h : Sel → Sel) : (s.modSel k h).snaps = s.snaps := rfl
@[simp] theorem State.modSel_saved (s : State) (k : Nat) (h : Sel → Sel) : (s.modSel k h).saved = s.saved := rfl
@[simp] theorem State.modSel_cslots (s : State) (k : Nat) (h : Sel → Sel) : (s.modSel k h).cslots = s.cslots := rfl
@[simp] theorem State.modSel_funcs (s : State) (k : Nat) (h : Sel → Sel) : (s.modSel k h).funcs = s.funcs := rfl
@[simp] theorem State.modSel_parts (s : State) (k : Nat) (h : Sel → Sel) : (s.modSel k h).parts = s.parts := rfl
@[simp] theorem State.modSel_mem (s : State) (k : Nat) (h : Sel → Sel) : (s.modSel k h).mem = s.mem := rfl
@[simp] theorem State.modSel_past (s : State) (k : Nat) (h : Sel → Sel) : (s.modSel k h).past = s.past := rfl
@[simp] theorem State.modSel_frames (s : State) (k : Nat) (h : Sel → Sel) : (s.modSel k h).frames = s.frames := rfl
@[simp] theorem State.modSel_dirty (s : State) (k : Nat) (h : Sel → Sel) : (s.modSel k h).dirty = s.dirty := rfl
@[simp] theorem State.modSel_poison (s : State) (k : Nat) (h : Sel → Sel) : (s.modSel k h).poison = s.poison := rfl
@[simp] theorem State.modSel_tlb (s : State) (k : Nat) (h : Sel → Sel) : (s.modSel k h).tlb = s.tlb := rfl
@[simp] theorem State.modSel_inval (s : State) (k : Nat) (h : Sel → Sel) : (s.modSel k h).inval = s.inval := rfl
@[simp] theorem State.modSel_s2iaddr (s : State) (k : Nat) (h : Sel → Sel) : (s.modSel k h).s2iaddr = s.s2iaddr := rfl
@[simp] theorem State.modSel_s2ictl (s : State) (k : Nat) (h : Sel → Sel) : (s.modSel k h).s2ictl = s.s2ictl := rfl
@[simp] theorem State.modSel_dtvec (s : State) (k : Nat) (h : Sel → Sel) : (s.modSel k h).dtvec = s.dtvec := rfl
@[simp] theorem State.modSel_ptoken (s : State) (k : Nat) (h : Sel → Sel) : (s.modSel k h).ptoken = s.ptoken := rfl
@[simp] theorem State.modSel_tokenLast (s : State) (k : Nat) (h : Sel → Sel) : (s.modSel k h).tokenLast = s.tokenLast := rfl
@[simp] theorem State.modSel_dbgIn (s : State) (k : Nat) (h : Sel → Sel) : (s.modSel k h).dbgIn = s.dbgIn := rfl
@[simp] theorem State.modSel_dbgInf (s : State) (k : Nat) (h : Sel → Sel) : (s.modSel k h).dbgInf = s.dbgInf := rfl
@[simp] theorem State.modSel_dbgOut (s : State) (k : Nat) (h : Sel → Sel) : (s.modSel k h).dbgOut = s.dbgOut := rfl
@[simp] theorem State.modSel_dbgOutf (s : State) (k : Nat) (h : Sel → Sel) : (s.modSel k h).dbgOutf = s.dbgOutf := rfl
@[simp] theorem State.modSel_dbgIen (s : State) (k : Nat) (h : Sel → Sel) : (s.modSel k h).dbgIen = s.dbgIen := rfl
@[simp] theorem State.modSel_dbgVec (s : State) (k : Nat) (h : Sel → Sel) : (s.modSel k h).dbgVec = s.dbgVec := rfl
@[simp] theorem State.modSel_dbgHold (s : State) (k : Nat) (h : Sel → Sel) : (s.modSel k h).dbgHold = s.dbgHold := rfl
@[simp] theorem State.modSel_dbghreq (s : State) (k : Nat) (h : Sel → Sel) : (s.modSel k h).dbghreq = s.dbghreq := rfl
@[simp] theorem State.modSel_jcan (s : State) (k : Nat) (h : Sel → Sel) : (s.modSel k h).jcan = s.jcan := rfl
@[simp] theorem State.modSel_jcanOf (s : State) (k : Nat) (h : Sel → Sel) : (s.modSel k h).jcanOf = s.jcanOf := rfl
@[simp] theorem State.modSel_stopLog (s : State) (k : Nat) (h : Sel → Sel) : (s.modSel k h).stopLog = s.stopLog := rfl
@[simp] theorem State.modSel_stopCount (s : State) (k : Nat) (h : Sel → Sel) : (s.modSel k h).stopCount = s.stopCount := rfl
@[simp] theorem State.modSel_kdata (s : State) (k : Nat) (h : Sel → Sel) : (s.modSel k h).kdata = s.kdata := rfl
@[simp] theorem State.modSel_kcmd (s : State) (k : Nat) (h : Sel → Sel) : (s.modSel k h).kcmd = s.kcmd := rfl
@[simp] theorem State.modSel_rtcmd (s : State) (k : Nat) (h : Sel → Sel) : (s.modSel k h).rtcmd = s.rtcmd := rfl
@[simp] theorem State.modSel_keyData (s : State) (k : Nat) (h : Sel → Sel) : (s.modSel k h).keyData = s.keyData := rfl
@[simp] theorem State.modSel_rtaddr (s : State) (k : Nat) (h : Sel → Sel) : (s.modSel k h).rtaddr = s.rtaddr := rfl
@[simp] theorem State.modSel_throt (s : State) (k : Nat) (h : Sel → Sel) : (s.modSel k h).throt = s.throt := rfl
@[simp] theorem State.modSel_rows (s : State) (k : Nat) (h : Sel → Sel) : (s.modSel k h).rows = s.rows := rfl
@[simp] theorem State.modSel_mfwd (s : State) (k : Nat) (h : Sel → Sel) : (s.modSel k h).mfwd = s.mfwd := rfl
@[simp] theorem State.modSel_rdidx (s : State) (k : Nat) (h : Sel → Sel) : (s.modSel k h).rdidx = s.rdidx := rfl
@[simp] theorem State.modSel_redirect (s : State) (k : Nat) (h : Sel → Sel) : (s.modSel k h).redirect = s.redirect := rfl
@[simp] theorem State.modSel_windows (s : State) (k : Nat) (h : Sel → Sel) : (s.modSel k h).windows = s.windows := rfl
@[simp] theorem State.modSel_movedSlots (s : State) (k : Nat) (h : Sel → Sel) : (s.modSel k h).movedSlots = s.movedSlots := rfl
@[simp] theorem State.modSel_arriving (s : State) (k : Nat) (h : Sel → Sel) : (s.modSel k h).arriving = s.arriving := rfl
@[simp] theorem State.modSel_sessions (s : State) (k : Nat) (h : Sel → Sel) : (s.modSel k h).sessions = s.sessions := rfl
@[simp] theorem State.modSel_links (s : State) (k : Nat) (h : Sel → Sel) : (s.modSel k h).links = s.links := rfl
@[simp] theorem State.modSel_held (s : State) (k : Nat) (h : Sel → Sel) : (s.modSel k h).held = s.held := rfl
@[simp] theorem State.modSel_plim (s : State) (k : Nat) (h : Sel → Sel) : (s.modSel k h).plim = s.plim := rfl
@[simp] theorem State.modSel_tj (s : State) (k : Nat) (h : Sel → Sel) : (s.modSel k h).tj = s.tj := rfl
@[simp] theorem State.modSel_tin (s : State) (k : Nat) (h : Sel → Sel) : (s.modSel k h).tin = s.tin := rfl
@[simp] theorem State.modSel_thermal (s : State) (k : Nat) (h : Sel → Sel) : (s.modSel k h).thermal = s.thermal := rfl
@[simp] theorem State.modSel_anonce (s : State) (k : Nat) (h : Sel → Sel) : (s.modSel k h).anonce = s.anonce := rfl
@[simp] theorem State.modSel_aaddr (s : State) (k : Nat) (h : Sel → Sel) : (s.modSel k h).aaddr = s.aaddr := rfl
@[simp] theorem State.modSel_acmdErr (s : State) (k : Nat) (h : Sel → Sel) : (s.modSel k h).acmdErr = s.acmdErr := rfl
@[simp] theorem State.modSel_warm (s : State) (k : Nat) (h : Sel → Sel) : (s.modSel k h).warm = s.warm := rfl
@[simp] theorem State.modSel_boot (s : State) (k : Nat) (h : Sel → Sel) : (s.modSel k h).boot = s.boot := rfl
@[simp] theorem State.modSel_dbgUsed (s : State) (k : Nat) (h : Sel → Sel) : (s.modSel k h).dbgUsed = s.dbgUsed := rfl
@[simp] theorem State.modSel_modNo (s : State) (k : Nat) (h : Sel → Sel) : (s.modSel k h).modNo = s.modNo := rfl
@[simp] theorem State.modSel_fatal (s : State) (k : Nat) (h : Sel → Sel) : (s.modSel k h).fatal = s.fatal := rfl
@[simp] theorem State.modSel_aerAt (s : State) (k : Nat) (h : Sel → Sel) : (s.modSel k h).aerAt = s.aerAt := rfl
@[simp] theorem State.modSel_out (s : State) (k : Nat) (h : Sel → Sel) : (s.modSel k h).out = s.out := rfl

/-! State.modLink -/

@[simp] theorem State.modLink_agenda (s : State) (l : Nat) (h : Link → Link) : (s.modLink l h).agenda = s.agenda := rfl
@[simp] theorem State.modLink_choices (s : State) (l : Nat) (h : Link → Link) : (s.modLink l h).choices = s.choices := rfl
@[simp] theorem State.modLink_free (s : State) (l : Nat) (h : Link → Link) : (s.modLink l h).free = s.free := rfl
@[simp] theorem State.modLink_nextId (s : State) (l : Nat) (h : Link → Link) : (s.modLink l h).nextId = s.nextId := rfl
@[simp] theorem State.modLink_cycle (s : State) (l : Nat) (h : Link → Link) : (s.modLink l h).cycle = s.cycle := rfl
@[simp] theorem State.modLink_pod (s : State) (l : Nat) (h : Link → Link) : (s.modLink l h).pod = s.pod := rfl
@[simp] theorem State.modLink_cur (s : State) (l : Nat) (h : Link → Link) : (s.modLink l h).cur = s.cur := rfl
@[simp] theorem State.modLink_cands (s : State) (l : Nat) (h : Link → Link) : (s.modLink l h).cands = s.cands := rfl
@[simp] theorem State.modLink_picked (s : State) (l : Nat) (h : Link → Link) : (s.modLink l h).picked = s.picked := rfl
@[simp] theorem State.modLink_sels (s : State) (l : Nat) (h : Link → Link) : (s.modLink l h).sels = s.sels := rfl
@[simp] theorem State.modLink_cores (s : State) (l : Nat) (h : Link → Link) : (s.modLink l h).cores = s.cores := rfl
@[simp] theorem State.modLink_powered (s : State) (l : Nat) (h : Link → Link) : (s.modLink l h).powered = s.powered := rfl
@[simp] theorem State.modLink_groups (s : State) (l : Nat) (h : Link → Link) : (s.modLink l h).groups = s.groups := rfl
@[simp] theorem State.modLink_launches (s : State) (l : Nat) (h : Link → Link) : (s.modLink l h).launches = s.launches := rfl
@[simp] theorem State.modLink_graphs (s : State) (l : Nat) (h : Link → Link) : (s.modLink l h).graphs = s.graphs := rfl
@[simp] theorem State.modLink_jobs (s : State) (l : Nat) (h : Link → Link) : (s.modLink l h).jobs = s.jobs := rfl
@[simp] theorem State.modLink_reqs (s : State) (l : Nat) (h : Link → Link) : (s.modLink l h).reqs = s.reqs := rfl
@[simp] theorem State.modLink_tags (s : State) (l : Nat) (h : Link → Link) : (s.modLink l h).tags = s.tags := rfl
@[simp] theorem State.modLink_early (s : State) (l : Nat) (h : Link → Link) : (s.modLink l h).early = s.early := rfl
@[simp] theorem State.modLink_copies (s : State) (l : Nat) (h : Link → Link) : (s.modLink l h).copies = s.copies := rfl
@[simp] theorem State.modLink_emits (s : State) (l : Nat) (h : Link → Link) : (s.modLink l h).emits = s.emits := rfl
@[simp] theorem State.modLink_creds (s : State) (l : Nat) (h : Link → Link) : (s.modLink l h).creds = s.creds := rfl
@[simp] theorem State.modLink_snaps (s : State) (l : Nat) (h : Link → Link) : (s.modLink l h).snaps = s.snaps := rfl
@[simp] theorem State.modLink_saved (s : State) (l : Nat) (h : Link → Link) : (s.modLink l h).saved = s.saved := rfl
@[simp] theorem State.modLink_cslots (s : State) (l : Nat) (h : Link → Link) : (s.modLink l h).cslots = s.cslots := rfl
@[simp] theorem State.modLink_funcs (s : State) (l : Nat) (h : Link → Link) : (s.modLink l h).funcs = s.funcs := rfl
@[simp] theorem State.modLink_parts (s : State) (l : Nat) (h : Link → Link) : (s.modLink l h).parts = s.parts := rfl
@[simp] theorem State.modLink_mem (s : State) (l : Nat) (h : Link → Link) : (s.modLink l h).mem = s.mem := rfl
@[simp] theorem State.modLink_past (s : State) (l : Nat) (h : Link → Link) : (s.modLink l h).past = s.past := rfl
@[simp] theorem State.modLink_frames (s : State) (l : Nat) (h : Link → Link) : (s.modLink l h).frames = s.frames := rfl
@[simp] theorem State.modLink_dirty (s : State) (l : Nat) (h : Link → Link) : (s.modLink l h).dirty = s.dirty := rfl
@[simp] theorem State.modLink_poison (s : State) (l : Nat) (h : Link → Link) : (s.modLink l h).poison = s.poison := rfl
@[simp] theorem State.modLink_tlb (s : State) (l : Nat) (h : Link → Link) : (s.modLink l h).tlb = s.tlb := rfl
@[simp] theorem State.modLink_inval (s : State) (l : Nat) (h : Link → Link) : (s.modLink l h).inval = s.inval := rfl
@[simp] theorem State.modLink_s2iaddr (s : State) (l : Nat) (h : Link → Link) : (s.modLink l h).s2iaddr = s.s2iaddr := rfl
@[simp] theorem State.modLink_s2ictl (s : State) (l : Nat) (h : Link → Link) : (s.modLink l h).s2ictl = s.s2ictl := rfl
@[simp] theorem State.modLink_dtvec (s : State) (l : Nat) (h : Link → Link) : (s.modLink l h).dtvec = s.dtvec := rfl
@[simp] theorem State.modLink_ptoken (s : State) (l : Nat) (h : Link → Link) : (s.modLink l h).ptoken = s.ptoken := rfl
@[simp] theorem State.modLink_tokenLast (s : State) (l : Nat) (h : Link → Link) : (s.modLink l h).tokenLast = s.tokenLast := rfl
@[simp] theorem State.modLink_dbgIn (s : State) (l : Nat) (h : Link → Link) : (s.modLink l h).dbgIn = s.dbgIn := rfl
@[simp] theorem State.modLink_dbgInf (s : State) (l : Nat) (h : Link → Link) : (s.modLink l h).dbgInf = s.dbgInf := rfl
@[simp] theorem State.modLink_dbgOut (s : State) (l : Nat) (h : Link → Link) : (s.modLink l h).dbgOut = s.dbgOut := rfl
@[simp] theorem State.modLink_dbgOutf (s : State) (l : Nat) (h : Link → Link) : (s.modLink l h).dbgOutf = s.dbgOutf := rfl
@[simp] theorem State.modLink_dbgIen (s : State) (l : Nat) (h : Link → Link) : (s.modLink l h).dbgIen = s.dbgIen := rfl
@[simp] theorem State.modLink_dbgVec (s : State) (l : Nat) (h : Link → Link) : (s.modLink l h).dbgVec = s.dbgVec := rfl
@[simp] theorem State.modLink_dbgHold (s : State) (l : Nat) (h : Link → Link) : (s.modLink l h).dbgHold = s.dbgHold := rfl
@[simp] theorem State.modLink_dbghreq (s : State) (l : Nat) (h : Link → Link) : (s.modLink l h).dbghreq = s.dbghreq := rfl
@[simp] theorem State.modLink_jcan (s : State) (l : Nat) (h : Link → Link) : (s.modLink l h).jcan = s.jcan := rfl
@[simp] theorem State.modLink_jcanOf (s : State) (l : Nat) (h : Link → Link) : (s.modLink l h).jcanOf = s.jcanOf := rfl
@[simp] theorem State.modLink_stopLog (s : State) (l : Nat) (h : Link → Link) : (s.modLink l h).stopLog = s.stopLog := rfl
@[simp] theorem State.modLink_stopCount (s : State) (l : Nat) (h : Link → Link) : (s.modLink l h).stopCount = s.stopCount := rfl
@[simp] theorem State.modLink_kdata (s : State) (l : Nat) (h : Link → Link) : (s.modLink l h).kdata = s.kdata := rfl
@[simp] theorem State.modLink_kcmd (s : State) (l : Nat) (h : Link → Link) : (s.modLink l h).kcmd = s.kcmd := rfl
@[simp] theorem State.modLink_rtcmd (s : State) (l : Nat) (h : Link → Link) : (s.modLink l h).rtcmd = s.rtcmd := rfl
@[simp] theorem State.modLink_keyData (s : State) (l : Nat) (h : Link → Link) : (s.modLink l h).keyData = s.keyData := rfl
@[simp] theorem State.modLink_rtaddr (s : State) (l : Nat) (h : Link → Link) : (s.modLink l h).rtaddr = s.rtaddr := rfl
@[simp] theorem State.modLink_throt (s : State) (l : Nat) (h : Link → Link) : (s.modLink l h).throt = s.throt := rfl
@[simp] theorem State.modLink_rows (s : State) (l : Nat) (h : Link → Link) : (s.modLink l h).rows = s.rows := rfl
@[simp] theorem State.modLink_mfwd (s : State) (l : Nat) (h : Link → Link) : (s.modLink l h).mfwd = s.mfwd := rfl
@[simp] theorem State.modLink_rdidx (s : State) (l : Nat) (h : Link → Link) : (s.modLink l h).rdidx = s.rdidx := rfl
@[simp] theorem State.modLink_redirect (s : State) (l : Nat) (h : Link → Link) : (s.modLink l h).redirect = s.redirect := rfl
@[simp] theorem State.modLink_windows (s : State) (l : Nat) (h : Link → Link) : (s.modLink l h).windows = s.windows := rfl
@[simp] theorem State.modLink_movedSlots (s : State) (l : Nat) (h : Link → Link) : (s.modLink l h).movedSlots = s.movedSlots := rfl
@[simp] theorem State.modLink_arriving (s : State) (l : Nat) (h : Link → Link) : (s.modLink l h).arriving = s.arriving := rfl
@[simp] theorem State.modLink_sessions (s : State) (l : Nat) (h : Link → Link) : (s.modLink l h).sessions = s.sessions := rfl
@[simp] theorem State.modLink_links (s : State) (l : Nat) (h : Link → Link) : (s.modLink l h).links = Cells.put s.links l (h (s.link l)) := rfl
@[simp] theorem State.modLink_held (s : State) (l : Nat) (h : Link → Link) : (s.modLink l h).held = s.held := rfl
@[simp] theorem State.modLink_plim (s : State) (l : Nat) (h : Link → Link) : (s.modLink l h).plim = s.plim := rfl
@[simp] theorem State.modLink_tj (s : State) (l : Nat) (h : Link → Link) : (s.modLink l h).tj = s.tj := rfl
@[simp] theorem State.modLink_tin (s : State) (l : Nat) (h : Link → Link) : (s.modLink l h).tin = s.tin := rfl
@[simp] theorem State.modLink_thermal (s : State) (l : Nat) (h : Link → Link) : (s.modLink l h).thermal = s.thermal := rfl
@[simp] theorem State.modLink_anonce (s : State) (l : Nat) (h : Link → Link) : (s.modLink l h).anonce = s.anonce := rfl
@[simp] theorem State.modLink_aaddr (s : State) (l : Nat) (h : Link → Link) : (s.modLink l h).aaddr = s.aaddr := rfl
@[simp] theorem State.modLink_acmdErr (s : State) (l : Nat) (h : Link → Link) : (s.modLink l h).acmdErr = s.acmdErr := rfl
@[simp] theorem State.modLink_warm (s : State) (l : Nat) (h : Link → Link) : (s.modLink l h).warm = s.warm := rfl
@[simp] theorem State.modLink_boot (s : State) (l : Nat) (h : Link → Link) : (s.modLink l h).boot = s.boot := rfl
@[simp] theorem State.modLink_dbgUsed (s : State) (l : Nat) (h : Link → Link) : (s.modLink l h).dbgUsed = s.dbgUsed := rfl
@[simp] theorem State.modLink_modNo (s : State) (l : Nat) (h : Link → Link) : (s.modLink l h).modNo = s.modNo := rfl
@[simp] theorem State.modLink_fatal (s : State) (l : Nat) (h : Link → Link) : (s.modLink l h).fatal = s.fatal := rfl
@[simp] theorem State.modLink_aerAt (s : State) (l : Nat) (h : Link → Link) : (s.modLink l h).aerAt = s.aerAt := rfl
@[simp] theorem State.modLink_out (s : State) (l : Nat) (h : Link → Link) : (s.modLink l h).out = s.out := rfl

/-! State.modSession -/

@[simp] theorem State.modSession_agenda (s : State) (n : Nat) (h : Session → Session) : (s.modSession n h).agenda = s.agenda := rfl
@[simp] theorem State.modSession_choices (s : State) (n : Nat) (h : Session → Session) : (s.modSession n h).choices = s.choices := rfl
@[simp] theorem State.modSession_free (s : State) (n : Nat) (h : Session → Session) : (s.modSession n h).free = s.free := rfl
@[simp] theorem State.modSession_nextId (s : State) (n : Nat) (h : Session → Session) : (s.modSession n h).nextId = s.nextId := rfl
@[simp] theorem State.modSession_cycle (s : State) (n : Nat) (h : Session → Session) : (s.modSession n h).cycle = s.cycle := rfl
@[simp] theorem State.modSession_pod (s : State) (n : Nat) (h : Session → Session) : (s.modSession n h).pod = s.pod := rfl
@[simp] theorem State.modSession_cur (s : State) (n : Nat) (h : Session → Session) : (s.modSession n h).cur = s.cur := rfl
@[simp] theorem State.modSession_cands (s : State) (n : Nat) (h : Session → Session) : (s.modSession n h).cands = s.cands := rfl
@[simp] theorem State.modSession_picked (s : State) (n : Nat) (h : Session → Session) : (s.modSession n h).picked = s.picked := rfl
@[simp] theorem State.modSession_sels (s : State) (n : Nat) (h : Session → Session) : (s.modSession n h).sels = s.sels := rfl
@[simp] theorem State.modSession_cores (s : State) (n : Nat) (h : Session → Session) : (s.modSession n h).cores = s.cores := rfl
@[simp] theorem State.modSession_powered (s : State) (n : Nat) (h : Session → Session) : (s.modSession n h).powered = s.powered := rfl
@[simp] theorem State.modSession_groups (s : State) (n : Nat) (h : Session → Session) : (s.modSession n h).groups = s.groups := rfl
@[simp] theorem State.modSession_launches (s : State) (n : Nat) (h : Session → Session) : (s.modSession n h).launches = s.launches := rfl
@[simp] theorem State.modSession_graphs (s : State) (n : Nat) (h : Session → Session) : (s.modSession n h).graphs = s.graphs := rfl
@[simp] theorem State.modSession_jobs (s : State) (n : Nat) (h : Session → Session) : (s.modSession n h).jobs = s.jobs := rfl
@[simp] theorem State.modSession_reqs (s : State) (n : Nat) (h : Session → Session) : (s.modSession n h).reqs = s.reqs := rfl
@[simp] theorem State.modSession_tags (s : State) (n : Nat) (h : Session → Session) : (s.modSession n h).tags = s.tags := rfl
@[simp] theorem State.modSession_early (s : State) (n : Nat) (h : Session → Session) : (s.modSession n h).early = s.early := rfl
@[simp] theorem State.modSession_copies (s : State) (n : Nat) (h : Session → Session) : (s.modSession n h).copies = s.copies := rfl
@[simp] theorem State.modSession_emits (s : State) (n : Nat) (h : Session → Session) : (s.modSession n h).emits = s.emits := rfl
@[simp] theorem State.modSession_creds (s : State) (n : Nat) (h : Session → Session) : (s.modSession n h).creds = s.creds := rfl
@[simp] theorem State.modSession_snaps (s : State) (n : Nat) (h : Session → Session) : (s.modSession n h).snaps = s.snaps := rfl
@[simp] theorem State.modSession_saved (s : State) (n : Nat) (h : Session → Session) : (s.modSession n h).saved = s.saved := rfl
@[simp] theorem State.modSession_cslots (s : State) (n : Nat) (h : Session → Session) : (s.modSession n h).cslots = s.cslots := rfl
@[simp] theorem State.modSession_funcs (s : State) (n : Nat) (h : Session → Session) : (s.modSession n h).funcs = s.funcs := rfl
@[simp] theorem State.modSession_parts (s : State) (n : Nat) (h : Session → Session) : (s.modSession n h).parts = s.parts := rfl
@[simp] theorem State.modSession_mem (s : State) (n : Nat) (h : Session → Session) : (s.modSession n h).mem = s.mem := rfl
@[simp] theorem State.modSession_past (s : State) (n : Nat) (h : Session → Session) : (s.modSession n h).past = s.past := rfl
@[simp] theorem State.modSession_frames (s : State) (n : Nat) (h : Session → Session) : (s.modSession n h).frames = s.frames := rfl
@[simp] theorem State.modSession_dirty (s : State) (n : Nat) (h : Session → Session) : (s.modSession n h).dirty = s.dirty := rfl
@[simp] theorem State.modSession_poison (s : State) (n : Nat) (h : Session → Session) : (s.modSession n h).poison = s.poison := rfl
@[simp] theorem State.modSession_tlb (s : State) (n : Nat) (h : Session → Session) : (s.modSession n h).tlb = s.tlb := rfl
@[simp] theorem State.modSession_inval (s : State) (n : Nat) (h : Session → Session) : (s.modSession n h).inval = s.inval := rfl
@[simp] theorem State.modSession_s2iaddr (s : State) (n : Nat) (h : Session → Session) : (s.modSession n h).s2iaddr = s.s2iaddr := rfl
@[simp] theorem State.modSession_s2ictl (s : State) (n : Nat) (h : Session → Session) : (s.modSession n h).s2ictl = s.s2ictl := rfl
@[simp] theorem State.modSession_dtvec (s : State) (n : Nat) (h : Session → Session) : (s.modSession n h).dtvec = s.dtvec := rfl
@[simp] theorem State.modSession_ptoken (s : State) (n : Nat) (h : Session → Session) : (s.modSession n h).ptoken = s.ptoken := rfl
@[simp] theorem State.modSession_tokenLast (s : State) (n : Nat) (h : Session → Session) : (s.modSession n h).tokenLast = s.tokenLast := rfl
@[simp] theorem State.modSession_dbgIn (s : State) (n : Nat) (h : Session → Session) : (s.modSession n h).dbgIn = s.dbgIn := rfl
@[simp] theorem State.modSession_dbgInf (s : State) (n : Nat) (h : Session → Session) : (s.modSession n h).dbgInf = s.dbgInf := rfl
@[simp] theorem State.modSession_dbgOut (s : State) (n : Nat) (h : Session → Session) : (s.modSession n h).dbgOut = s.dbgOut := rfl
@[simp] theorem State.modSession_dbgOutf (s : State) (n : Nat) (h : Session → Session) : (s.modSession n h).dbgOutf = s.dbgOutf := rfl
@[simp] theorem State.modSession_dbgIen (s : State) (n : Nat) (h : Session → Session) : (s.modSession n h).dbgIen = s.dbgIen := rfl
@[simp] theorem State.modSession_dbgVec (s : State) (n : Nat) (h : Session → Session) : (s.modSession n h).dbgVec = s.dbgVec := rfl
@[simp] theorem State.modSession_dbgHold (s : State) (n : Nat) (h : Session → Session) : (s.modSession n h).dbgHold = s.dbgHold := rfl
@[simp] theorem State.modSession_dbghreq (s : State) (n : Nat) (h : Session → Session) : (s.modSession n h).dbghreq = s.dbghreq := rfl
@[simp] theorem State.modSession_jcan (s : State) (n : Nat) (h : Session → Session) : (s.modSession n h).jcan = s.jcan := rfl
@[simp] theorem State.modSession_jcanOf (s : State) (n : Nat) (h : Session → Session) : (s.modSession n h).jcanOf = s.jcanOf := rfl
@[simp] theorem State.modSession_stopLog (s : State) (n : Nat) (h : Session → Session) : (s.modSession n h).stopLog = s.stopLog := rfl
@[simp] theorem State.modSession_stopCount (s : State) (n : Nat) (h : Session → Session) : (s.modSession n h).stopCount = s.stopCount := rfl
@[simp] theorem State.modSession_kdata (s : State) (n : Nat) (h : Session → Session) : (s.modSession n h).kdata = s.kdata := rfl
@[simp] theorem State.modSession_kcmd (s : State) (n : Nat) (h : Session → Session) : (s.modSession n h).kcmd = s.kcmd := rfl
@[simp] theorem State.modSession_rtcmd (s : State) (n : Nat) (h : Session → Session) : (s.modSession n h).rtcmd = s.rtcmd := rfl
@[simp] theorem State.modSession_keyData (s : State) (n : Nat) (h : Session → Session) : (s.modSession n h).keyData = s.keyData := rfl
@[simp] theorem State.modSession_rtaddr (s : State) (n : Nat) (h : Session → Session) : (s.modSession n h).rtaddr = s.rtaddr := rfl
@[simp] theorem State.modSession_throt (s : State) (n : Nat) (h : Session → Session) : (s.modSession n h).throt = s.throt := rfl
@[simp] theorem State.modSession_rows (s : State) (n : Nat) (h : Session → Session) : (s.modSession n h).rows = s.rows := rfl
@[simp] theorem State.modSession_mfwd (s : State) (n : Nat) (h : Session → Session) : (s.modSession n h).mfwd = s.mfwd := rfl
@[simp] theorem State.modSession_rdidx (s : State) (n : Nat) (h : Session → Session) : (s.modSession n h).rdidx = s.rdidx := rfl
@[simp] theorem State.modSession_redirect (s : State) (n : Nat) (h : Session → Session) : (s.modSession n h).redirect = s.redirect := rfl
@[simp] theorem State.modSession_windows (s : State) (n : Nat) (h : Session → Session) : (s.modSession n h).windows = s.windows := rfl
@[simp] theorem State.modSession_movedSlots (s : State) (n : Nat) (h : Session → Session) : (s.modSession n h).movedSlots = s.movedSlots := rfl
@[simp] theorem State.modSession_arriving (s : State) (n : Nat) (h : Session → Session) : (s.modSession n h).arriving = s.arriving := rfl
@[simp] theorem State.modSession_sessions (s : State) (n : Nat) (h : Session → Session) : (s.modSession n h).sessions = Cells.put s.sessions n (h (s.session n)) := rfl
@[simp] theorem State.modSession_links (s : State) (n : Nat) (h : Session → Session) : (s.modSession n h).links = s.links := rfl
@[simp] theorem State.modSession_held (s : State) (n : Nat) (h : Session → Session) : (s.modSession n h).held = s.held := rfl
@[simp] theorem State.modSession_plim (s : State) (n : Nat) (h : Session → Session) : (s.modSession n h).plim = s.plim := rfl
@[simp] theorem State.modSession_tj (s : State) (n : Nat) (h : Session → Session) : (s.modSession n h).tj = s.tj := rfl
@[simp] theorem State.modSession_tin (s : State) (n : Nat) (h : Session → Session) : (s.modSession n h).tin = s.tin := rfl
@[simp] theorem State.modSession_thermal (s : State) (n : Nat) (h : Session → Session) : (s.modSession n h).thermal = s.thermal := rfl
@[simp] theorem State.modSession_anonce (s : State) (n : Nat) (h : Session → Session) : (s.modSession n h).anonce = s.anonce := rfl
@[simp] theorem State.modSession_aaddr (s : State) (n : Nat) (h : Session → Session) : (s.modSession n h).aaddr = s.aaddr := rfl
@[simp] theorem State.modSession_acmdErr (s : State) (n : Nat) (h : Session → Session) : (s.modSession n h).acmdErr = s.acmdErr := rfl
@[simp] theorem State.modSession_warm (s : State) (n : Nat) (h : Session → Session) : (s.modSession n h).warm = s.warm := rfl
@[simp] theorem State.modSession_boot (s : State) (n : Nat) (h : Session → Session) : (s.modSession n h).boot = s.boot := rfl
@[simp] theorem State.modSession_dbgUsed (s : State) (n : Nat) (h : Session → Session) : (s.modSession n h).dbgUsed = s.dbgUsed := rfl
@[simp] theorem State.modSession_modNo (s : State) (n : Nat) (h : Session → Session) : (s.modSession n h).modNo = s.modNo := rfl
@[simp] theorem State.modSession_fatal (s : State) (n : Nat) (h : Session → Session) : (s.modSession n h).fatal = s.fatal := rfl
@[simp] theorem State.modSession_aerAt (s : State) (n : Nat) (h : Session → Session) : (s.modSession n h).aerAt = s.aerAt := rfl
@[simp] theorem State.modSession_out (s : State) (n : Nat) (h : Session → Session) : (s.modSession n h).out = s.out := rfl

/-! State.send -/

@[simp] theorem State.send_agenda (s : State) (m : OutMsg) : (s.send m).agenda = s.agenda := rfl
@[simp] theorem State.send_choices (s : State) (m : OutMsg) : (s.send m).choices = s.choices := rfl
@[simp] theorem State.send_free (s : State) (m : OutMsg) : (s.send m).free = s.free := rfl
@[simp] theorem State.send_nextId (s : State) (m : OutMsg) : (s.send m).nextId = s.nextId := rfl
@[simp] theorem State.send_cycle (s : State) (m : OutMsg) : (s.send m).cycle = s.cycle := rfl
@[simp] theorem State.send_pod (s : State) (m : OutMsg) : (s.send m).pod = s.pod := rfl
@[simp] theorem State.send_cur (s : State) (m : OutMsg) : (s.send m).cur = s.cur := rfl
@[simp] theorem State.send_cands (s : State) (m : OutMsg) : (s.send m).cands = s.cands := rfl
@[simp] theorem State.send_picked (s : State) (m : OutMsg) : (s.send m).picked = s.picked := rfl
@[simp] theorem State.send_sels (s : State) (m : OutMsg) : (s.send m).sels = s.sels := rfl
@[simp] theorem State.send_cores (s : State) (m : OutMsg) : (s.send m).cores = s.cores := rfl
@[simp] theorem State.send_powered (s : State) (m : OutMsg) : (s.send m).powered = s.powered := rfl
@[simp] theorem State.send_groups (s : State) (m : OutMsg) : (s.send m).groups = s.groups := rfl
@[simp] theorem State.send_launches (s : State) (m : OutMsg) : (s.send m).launches = s.launches := rfl
@[simp] theorem State.send_graphs (s : State) (m : OutMsg) : (s.send m).graphs = s.graphs := rfl
@[simp] theorem State.send_jobs (s : State) (m : OutMsg) : (s.send m).jobs = s.jobs := rfl
@[simp] theorem State.send_reqs (s : State) (m : OutMsg) : (s.send m).reqs = s.reqs := rfl
@[simp] theorem State.send_tags (s : State) (m : OutMsg) : (s.send m).tags = s.tags := rfl
@[simp] theorem State.send_early (s : State) (m : OutMsg) : (s.send m).early = s.early := rfl
@[simp] theorem State.send_copies (s : State) (m : OutMsg) : (s.send m).copies = s.copies := rfl
@[simp] theorem State.send_emits (s : State) (m : OutMsg) : (s.send m).emits = s.emits := rfl
@[simp] theorem State.send_creds (s : State) (m : OutMsg) : (s.send m).creds = s.creds := rfl
@[simp] theorem State.send_snaps (s : State) (m : OutMsg) : (s.send m).snaps = s.snaps := rfl
@[simp] theorem State.send_saved (s : State) (m : OutMsg) : (s.send m).saved = s.saved := rfl
@[simp] theorem State.send_cslots (s : State) (m : OutMsg) : (s.send m).cslots = s.cslots := rfl
@[simp] theorem State.send_funcs (s : State) (m : OutMsg) : (s.send m).funcs = s.funcs := rfl
@[simp] theorem State.send_parts (s : State) (m : OutMsg) : (s.send m).parts = s.parts := rfl
@[simp] theorem State.send_mem (s : State) (m : OutMsg) : (s.send m).mem = s.mem := rfl
@[simp] theorem State.send_past (s : State) (m : OutMsg) : (s.send m).past = s.past := rfl
@[simp] theorem State.send_frames (s : State) (m : OutMsg) : (s.send m).frames = s.frames := rfl
@[simp] theorem State.send_dirty (s : State) (m : OutMsg) : (s.send m).dirty = s.dirty := rfl
@[simp] theorem State.send_poison (s : State) (m : OutMsg) : (s.send m).poison = s.poison := rfl
@[simp] theorem State.send_tlb (s : State) (m : OutMsg) : (s.send m).tlb = s.tlb := rfl
@[simp] theorem State.send_inval (s : State) (m : OutMsg) : (s.send m).inval = s.inval := rfl
@[simp] theorem State.send_s2iaddr (s : State) (m : OutMsg) : (s.send m).s2iaddr = s.s2iaddr := rfl
@[simp] theorem State.send_s2ictl (s : State) (m : OutMsg) : (s.send m).s2ictl = s.s2ictl := rfl
@[simp] theorem State.send_dtvec (s : State) (m : OutMsg) : (s.send m).dtvec = s.dtvec := rfl
@[simp] theorem State.send_ptoken (s : State) (m : OutMsg) : (s.send m).ptoken = s.ptoken := rfl
@[simp] theorem State.send_tokenLast (s : State) (m : OutMsg) : (s.send m).tokenLast = s.tokenLast := rfl
@[simp] theorem State.send_dbgIn (s : State) (m : OutMsg) : (s.send m).dbgIn = s.dbgIn := rfl
@[simp] theorem State.send_dbgInf (s : State) (m : OutMsg) : (s.send m).dbgInf = s.dbgInf := rfl
@[simp] theorem State.send_dbgOut (s : State) (m : OutMsg) : (s.send m).dbgOut = s.dbgOut := rfl
@[simp] theorem State.send_dbgOutf (s : State) (m : OutMsg) : (s.send m).dbgOutf = s.dbgOutf := rfl
@[simp] theorem State.send_dbgIen (s : State) (m : OutMsg) : (s.send m).dbgIen = s.dbgIen := rfl
@[simp] theorem State.send_dbgVec (s : State) (m : OutMsg) : (s.send m).dbgVec = s.dbgVec := rfl
@[simp] theorem State.send_dbgHold (s : State) (m : OutMsg) : (s.send m).dbgHold = s.dbgHold := rfl
@[simp] theorem State.send_dbghreq (s : State) (m : OutMsg) : (s.send m).dbghreq = s.dbghreq := rfl
@[simp] theorem State.send_jcan (s : State) (m : OutMsg) : (s.send m).jcan = s.jcan := rfl
@[simp] theorem State.send_jcanOf (s : State) (m : OutMsg) : (s.send m).jcanOf = s.jcanOf := rfl
@[simp] theorem State.send_stopLog (s : State) (m : OutMsg) : (s.send m).stopLog = s.stopLog := rfl
@[simp] theorem State.send_stopCount (s : State) (m : OutMsg) : (s.send m).stopCount = s.stopCount := rfl
@[simp] theorem State.send_kdata (s : State) (m : OutMsg) : (s.send m).kdata = s.kdata := rfl
@[simp] theorem State.send_kcmd (s : State) (m : OutMsg) : (s.send m).kcmd = s.kcmd := rfl
@[simp] theorem State.send_rtcmd (s : State) (m : OutMsg) : (s.send m).rtcmd = s.rtcmd := rfl
@[simp] theorem State.send_keyData (s : State) (m : OutMsg) : (s.send m).keyData = s.keyData := rfl
@[simp] theorem State.send_rtaddr (s : State) (m : OutMsg) : (s.send m).rtaddr = s.rtaddr := rfl
@[simp] theorem State.send_throt (s : State) (m : OutMsg) : (s.send m).throt = s.throt := rfl
@[simp] theorem State.send_rows (s : State) (m : OutMsg) : (s.send m).rows = s.rows := rfl
@[simp] theorem State.send_mfwd (s : State) (m : OutMsg) : (s.send m).mfwd = s.mfwd := rfl
@[simp] theorem State.send_rdidx (s : State) (m : OutMsg) : (s.send m).rdidx = s.rdidx := rfl
@[simp] theorem State.send_redirect (s : State) (m : OutMsg) : (s.send m).redirect = s.redirect := rfl
@[simp] theorem State.send_windows (s : State) (m : OutMsg) : (s.send m).windows = s.windows := rfl
@[simp] theorem State.send_movedSlots (s : State) (m : OutMsg) : (s.send m).movedSlots = s.movedSlots := rfl
@[simp] theorem State.send_arriving (s : State) (m : OutMsg) : (s.send m).arriving = s.arriving := rfl
@[simp] theorem State.send_sessions (s : State) (m : OutMsg) : (s.send m).sessions = s.sessions := rfl
@[simp] theorem State.send_links (s : State) (m : OutMsg) : (s.send m).links = s.links := rfl
@[simp] theorem State.send_held (s : State) (m : OutMsg) : (s.send m).held = s.held := rfl
@[simp] theorem State.send_plim (s : State) (m : OutMsg) : (s.send m).plim = s.plim := rfl
@[simp] theorem State.send_tj (s : State) (m : OutMsg) : (s.send m).tj = s.tj := rfl
@[simp] theorem State.send_tin (s : State) (m : OutMsg) : (s.send m).tin = s.tin := rfl
@[simp] theorem State.send_thermal (s : State) (m : OutMsg) : (s.send m).thermal = s.thermal := rfl
@[simp] theorem State.send_anonce (s : State) (m : OutMsg) : (s.send m).anonce = s.anonce := rfl
@[simp] theorem State.send_aaddr (s : State) (m : OutMsg) : (s.send m).aaddr = s.aaddr := rfl
@[simp] theorem State.send_acmdErr (s : State) (m : OutMsg) : (s.send m).acmdErr = s.acmdErr := rfl
@[simp] theorem State.send_warm (s : State) (m : OutMsg) : (s.send m).warm = s.warm := rfl
@[simp] theorem State.send_boot (s : State) (m : OutMsg) : (s.send m).boot = s.boot := rfl
@[simp] theorem State.send_dbgUsed (s : State) (m : OutMsg) : (s.send m).dbgUsed = s.dbgUsed := rfl
@[simp] theorem State.send_modNo (s : State) (m : OutMsg) : (s.send m).modNo = s.modNo := rfl
@[simp] theorem State.send_fatal (s : State) (m : OutMsg) : (s.send m).fatal = s.fatal := rfl
@[simp] theorem State.send_aerAt (s : State) (m : OutMsg) : (s.send m).aerAt = s.aerAt := rfl
@[simp] theorem State.send_out (s : State) (m : OutMsg) : (s.send m).out = s.out ++ [m] := rfl

/-! State.later -/

@[simp] theorem State.later_agenda (s : State) (i : Instr) : (s.later i).agenda = s.agenda ++ [(s.cycle, i)] := rfl
@[simp] theorem State.later_choices (s : State) (i : Instr) : (s.later i).choices = s.choices := rfl
@[simp] theorem State.later_free (s : State) (i : Instr) : (s.later i).free = s.free := rfl
@[simp] theorem State.later_nextId (s : State) (i : Instr) : (s.later i).nextId = s.nextId := rfl
@[simp] theorem State.later_cycle (s : State) (i : Instr) : (s.later i).cycle = s.cycle := rfl
@[simp] theorem State.later_pod (s : State) (i : Instr) : (s.later i).pod = s.pod := rfl
@[simp] theorem State.later_cur (s : State) (i : Instr) : (s.later i).cur = s.cur := rfl
@[simp] theorem State.later_cands (s : State) (i : Instr) : (s.later i).cands = s.cands := rfl
@[simp] theorem State.later_picked (s : State) (i : Instr) : (s.later i).picked = s.picked := rfl
@[simp] theorem State.later_sels (s : State) (i : Instr) : (s.later i).sels = s.sels := rfl
@[simp] theorem State.later_cores (s : State) (i : Instr) : (s.later i).cores = s.cores := rfl
@[simp] theorem State.later_powered (s : State) (i : Instr) : (s.later i).powered = s.powered := rfl
@[simp] theorem State.later_groups (s : State) (i : Instr) : (s.later i).groups = s.groups := rfl
@[simp] theorem State.later_launches (s : State) (i : Instr) : (s.later i).launches = s.launches := rfl
@[simp] theorem State.later_graphs (s : State) (i : Instr) : (s.later i).graphs = s.graphs := rfl
@[simp] theorem State.later_jobs (s : State) (i : Instr) : (s.later i).jobs = s.jobs := rfl
@[simp] theorem State.later_reqs (s : State) (i : Instr) : (s.later i).reqs = s.reqs := rfl
@[simp] theorem State.later_tags (s : State) (i : Instr) : (s.later i).tags = s.tags := rfl
@[simp] theorem State.later_early (s : State) (i : Instr) : (s.later i).early = s.early := rfl
@[simp] theorem State.later_copies (s : State) (i : Instr) : (s.later i).copies = s.copies := rfl
@[simp] theorem State.later_emits (s : State) (i : Instr) : (s.later i).emits = s.emits := rfl
@[simp] theorem State.later_creds (s : State) (i : Instr) : (s.later i).creds = s.creds := rfl
@[simp] theorem State.later_snaps (s : State) (i : Instr) : (s.later i).snaps = s.snaps := rfl
@[simp] theorem State.later_saved (s : State) (i : Instr) : (s.later i).saved = s.saved := rfl
@[simp] theorem State.later_cslots (s : State) (i : Instr) : (s.later i).cslots = s.cslots := rfl
@[simp] theorem State.later_funcs (s : State) (i : Instr) : (s.later i).funcs = s.funcs := rfl
@[simp] theorem State.later_parts (s : State) (i : Instr) : (s.later i).parts = s.parts := rfl
@[simp] theorem State.later_mem (s : State) (i : Instr) : (s.later i).mem = s.mem := rfl
@[simp] theorem State.later_past (s : State) (i : Instr) : (s.later i).past = s.past := rfl
@[simp] theorem State.later_frames (s : State) (i : Instr) : (s.later i).frames = s.frames := rfl
@[simp] theorem State.later_dirty (s : State) (i : Instr) : (s.later i).dirty = s.dirty := rfl
@[simp] theorem State.later_poison (s : State) (i : Instr) : (s.later i).poison = s.poison := rfl
@[simp] theorem State.later_tlb (s : State) (i : Instr) : (s.later i).tlb = s.tlb := rfl
@[simp] theorem State.later_inval (s : State) (i : Instr) : (s.later i).inval = s.inval := rfl
@[simp] theorem State.later_s2iaddr (s : State) (i : Instr) : (s.later i).s2iaddr = s.s2iaddr := rfl
@[simp] theorem State.later_s2ictl (s : State) (i : Instr) : (s.later i).s2ictl = s.s2ictl := rfl
@[simp] theorem State.later_dtvec (s : State) (i : Instr) : (s.later i).dtvec = s.dtvec := rfl
@[simp] theorem State.later_ptoken (s : State) (i : Instr) : (s.later i).ptoken = s.ptoken := rfl
@[simp] theorem State.later_tokenLast (s : State) (i : Instr) : (s.later i).tokenLast = s.tokenLast := rfl
@[simp] theorem State.later_dbgIn (s : State) (i : Instr) : (s.later i).dbgIn = s.dbgIn := rfl
@[simp] theorem State.later_dbgInf (s : State) (i : Instr) : (s.later i).dbgInf = s.dbgInf := rfl
@[simp] theorem State.later_dbgOut (s : State) (i : Instr) : (s.later i).dbgOut = s.dbgOut := rfl
@[simp] theorem State.later_dbgOutf (s : State) (i : Instr) : (s.later i).dbgOutf = s.dbgOutf := rfl
@[simp] theorem State.later_dbgIen (s : State) (i : Instr) : (s.later i).dbgIen = s.dbgIen := rfl
@[simp] theorem State.later_dbgVec (s : State) (i : Instr) : (s.later i).dbgVec = s.dbgVec := rfl
@[simp] theorem State.later_dbgHold (s : State) (i : Instr) : (s.later i).dbgHold = s.dbgHold := rfl
@[simp] theorem State.later_dbghreq (s : State) (i : Instr) : (s.later i).dbghreq = s.dbghreq := rfl
@[simp] theorem State.later_jcan (s : State) (i : Instr) : (s.later i).jcan = s.jcan := rfl
@[simp] theorem State.later_jcanOf (s : State) (i : Instr) : (s.later i).jcanOf = s.jcanOf := rfl
@[simp] theorem State.later_stopLog (s : State) (i : Instr) : (s.later i).stopLog = s.stopLog := rfl
@[simp] theorem State.later_stopCount (s : State) (i : Instr) : (s.later i).stopCount = s.stopCount := rfl
@[simp] theorem State.later_kdata (s : State) (i : Instr) : (s.later i).kdata = s.kdata := rfl
@[simp] theorem State.later_kcmd (s : State) (i : Instr) : (s.later i).kcmd = s.kcmd := rfl
@[simp] theorem State.later_rtcmd (s : State) (i : Instr) : (s.later i).rtcmd = s.rtcmd := rfl
@[simp] theorem State.later_keyData (s : State) (i : Instr) : (s.later i).keyData = s.keyData := rfl
@[simp] theorem State.later_rtaddr (s : State) (i : Instr) : (s.later i).rtaddr = s.rtaddr := rfl
@[simp] theorem State.later_throt (s : State) (i : Instr) : (s.later i).throt = s.throt := rfl
@[simp] theorem State.later_rows (s : State) (i : Instr) : (s.later i).rows = s.rows := rfl
@[simp] theorem State.later_mfwd (s : State) (i : Instr) : (s.later i).mfwd = s.mfwd := rfl
@[simp] theorem State.later_rdidx (s : State) (i : Instr) : (s.later i).rdidx = s.rdidx := rfl
@[simp] theorem State.later_redirect (s : State) (i : Instr) : (s.later i).redirect = s.redirect := rfl
@[simp] theorem State.later_windows (s : State) (i : Instr) : (s.later i).windows = s.windows := rfl
@[simp] theorem State.later_movedSlots (s : State) (i : Instr) : (s.later i).movedSlots = s.movedSlots := rfl
@[simp] theorem State.later_arriving (s : State) (i : Instr) : (s.later i).arriving = s.arriving := rfl
@[simp] theorem State.later_sessions (s : State) (i : Instr) : (s.later i).sessions = s.sessions := rfl
@[simp] theorem State.later_links (s : State) (i : Instr) : (s.later i).links = s.links := rfl
@[simp] theorem State.later_held (s : State) (i : Instr) : (s.later i).held = s.held := rfl
@[simp] theorem State.later_plim (s : State) (i : Instr) : (s.later i).plim = s.plim := rfl
@[simp] theorem State.later_tj (s : State) (i : Instr) : (s.later i).tj = s.tj := rfl
@[simp] theorem State.later_tin (s : State) (i : Instr) : (s.later i).tin = s.tin := rfl
@[simp] theorem State.later_thermal (s : State) (i : Instr) : (s.later i).thermal = s.thermal := rfl
@[simp] theorem State.later_anonce (s : State) (i : Instr) : (s.later i).anonce = s.anonce := rfl
@[simp] theorem State.later_aaddr (s : State) (i : Instr) : (s.later i).aaddr = s.aaddr := rfl
@[simp] theorem State.later_acmdErr (s : State) (i : Instr) : (s.later i).acmdErr = s.acmdErr := rfl
@[simp] theorem State.later_warm (s : State) (i : Instr) : (s.later i).warm = s.warm := rfl
@[simp] theorem State.later_boot (s : State) (i : Instr) : (s.later i).boot = s.boot := rfl
@[simp] theorem State.later_dbgUsed (s : State) (i : Instr) : (s.later i).dbgUsed = s.dbgUsed := rfl
@[simp] theorem State.later_modNo (s : State) (i : Instr) : (s.later i).modNo = s.modNo := rfl
@[simp] theorem State.later_fatal (s : State) (i : Instr) : (s.later i).fatal = s.fatal := rfl
@[simp] theorem State.later_aerAt (s : State) (i : Instr) : (s.later i).aerAt = s.aerAt := rfl
@[simp] theorem State.later_out (s : State) (i : Instr) : (s.later i).out = s.out := rfl

/-! State.after -/

@[simp] theorem State.after_agenda (s : State) (d : Nat) (i : Instr) : (s.after d i).agenda = s.agenda ++ [(s.cycle + d, i)] := rfl
@[simp] theorem State.after_choices (s : State) (d : Nat) (i : Instr) : (s.after d i).choices = s.choices := rfl
@[simp] theorem State.after_free (s : State) (d : Nat) (i : Instr) : (s.after d i).free = s.free := rfl
@[simp] theorem State.after_nextId (s : State) (d : Nat) (i : Instr) : (s.after d i).nextId = s.nextId := rfl
@[simp] theorem State.after_cycle (s : State) (d : Nat) (i : Instr) : (s.after d i).cycle = s.cycle := rfl
@[simp] theorem State.after_pod (s : State) (d : Nat) (i : Instr) : (s.after d i).pod = s.pod := rfl
@[simp] theorem State.after_cur (s : State) (d : Nat) (i : Instr) : (s.after d i).cur = s.cur := rfl
@[simp] theorem State.after_cands (s : State) (d : Nat) (i : Instr) : (s.after d i).cands = s.cands := rfl
@[simp] theorem State.after_picked (s : State) (d : Nat) (i : Instr) : (s.after d i).picked = s.picked := rfl
@[simp] theorem State.after_sels (s : State) (d : Nat) (i : Instr) : (s.after d i).sels = s.sels := rfl
@[simp] theorem State.after_cores (s : State) (d : Nat) (i : Instr) : (s.after d i).cores = s.cores := rfl
@[simp] theorem State.after_powered (s : State) (d : Nat) (i : Instr) : (s.after d i).powered = s.powered := rfl
@[simp] theorem State.after_groups (s : State) (d : Nat) (i : Instr) : (s.after d i).groups = s.groups := rfl
@[simp] theorem State.after_launches (s : State) (d : Nat) (i : Instr) : (s.after d i).launches = s.launches := rfl
@[simp] theorem State.after_graphs (s : State) (d : Nat) (i : Instr) : (s.after d i).graphs = s.graphs := rfl
@[simp] theorem State.after_jobs (s : State) (d : Nat) (i : Instr) : (s.after d i).jobs = s.jobs := rfl
@[simp] theorem State.after_reqs (s : State) (d : Nat) (i : Instr) : (s.after d i).reqs = s.reqs := rfl
@[simp] theorem State.after_tags (s : State) (d : Nat) (i : Instr) : (s.after d i).tags = s.tags := rfl
@[simp] theorem State.after_early (s : State) (d : Nat) (i : Instr) : (s.after d i).early = s.early := rfl
@[simp] theorem State.after_copies (s : State) (d : Nat) (i : Instr) : (s.after d i).copies = s.copies := rfl
@[simp] theorem State.after_emits (s : State) (d : Nat) (i : Instr) : (s.after d i).emits = s.emits := rfl
@[simp] theorem State.after_creds (s : State) (d : Nat) (i : Instr) : (s.after d i).creds = s.creds := rfl
@[simp] theorem State.after_snaps (s : State) (d : Nat) (i : Instr) : (s.after d i).snaps = s.snaps := rfl
@[simp] theorem State.after_saved (s : State) (d : Nat) (i : Instr) : (s.after d i).saved = s.saved := rfl
@[simp] theorem State.after_cslots (s : State) (d : Nat) (i : Instr) : (s.after d i).cslots = s.cslots := rfl
@[simp] theorem State.after_funcs (s : State) (d : Nat) (i : Instr) : (s.after d i).funcs = s.funcs := rfl
@[simp] theorem State.after_parts (s : State) (d : Nat) (i : Instr) : (s.after d i).parts = s.parts := rfl
@[simp] theorem State.after_mem (s : State) (d : Nat) (i : Instr) : (s.after d i).mem = s.mem := rfl
@[simp] theorem State.after_past (s : State) (d : Nat) (i : Instr) : (s.after d i).past = s.past := rfl
@[simp] theorem State.after_frames (s : State) (d : Nat) (i : Instr) : (s.after d i).frames = s.frames := rfl
@[simp] theorem State.after_dirty (s : State) (d : Nat) (i : Instr) : (s.after d i).dirty = s.dirty := rfl
@[simp] theorem State.after_poison (s : State) (d : Nat) (i : Instr) : (s.after d i).poison = s.poison := rfl
@[simp] theorem State.after_tlb (s : State) (d : Nat) (i : Instr) : (s.after d i).tlb = s.tlb := rfl
@[simp] theorem State.after_inval (s : State) (d : Nat) (i : Instr) : (s.after d i).inval = s.inval := rfl
@[simp] theorem State.after_s2iaddr (s : State) (d : Nat) (i : Instr) : (s.after d i).s2iaddr = s.s2iaddr := rfl
@[simp] theorem State.after_s2ictl (s : State) (d : Nat) (i : Instr) : (s.after d i).s2ictl = s.s2ictl := rfl
@[simp] theorem State.after_dtvec (s : State) (d : Nat) (i : Instr) : (s.after d i).dtvec = s.dtvec := rfl
@[simp] theorem State.after_ptoken (s : State) (d : Nat) (i : Instr) : (s.after d i).ptoken = s.ptoken := rfl
@[simp] theorem State.after_tokenLast (s : State) (d : Nat) (i : Instr) : (s.after d i).tokenLast = s.tokenLast := rfl
@[simp] theorem State.after_dbgIn (s : State) (d : Nat) (i : Instr) : (s.after d i).dbgIn = s.dbgIn := rfl
@[simp] theorem State.after_dbgInf (s : State) (d : Nat) (i : Instr) : (s.after d i).dbgInf = s.dbgInf := rfl
@[simp] theorem State.after_dbgOut (s : State) (d : Nat) (i : Instr) : (s.after d i).dbgOut = s.dbgOut := rfl
@[simp] theorem State.after_dbgOutf (s : State) (d : Nat) (i : Instr) : (s.after d i).dbgOutf = s.dbgOutf := rfl
@[simp] theorem State.after_dbgIen (s : State) (d : Nat) (i : Instr) : (s.after d i).dbgIen = s.dbgIen := rfl
@[simp] theorem State.after_dbgVec (s : State) (d : Nat) (i : Instr) : (s.after d i).dbgVec = s.dbgVec := rfl
@[simp] theorem State.after_dbgHold (s : State) (d : Nat) (i : Instr) : (s.after d i).dbgHold = s.dbgHold := rfl
@[simp] theorem State.after_dbghreq (s : State) (d : Nat) (i : Instr) : (s.after d i).dbghreq = s.dbghreq := rfl
@[simp] theorem State.after_jcan (s : State) (d : Nat) (i : Instr) : (s.after d i).jcan = s.jcan := rfl
@[simp] theorem State.after_jcanOf (s : State) (d : Nat) (i : Instr) : (s.after d i).jcanOf = s.jcanOf := rfl
@[simp] theorem State.after_stopLog (s : State) (d : Nat) (i : Instr) : (s.after d i).stopLog = s.stopLog := rfl
@[simp] theorem State.after_stopCount (s : State) (d : Nat) (i : Instr) : (s.after d i).stopCount = s.stopCount := rfl
@[simp] theorem State.after_kdata (s : State) (d : Nat) (i : Instr) : (s.after d i).kdata = s.kdata := rfl
@[simp] theorem State.after_kcmd (s : State) (d : Nat) (i : Instr) : (s.after d i).kcmd = s.kcmd := rfl
@[simp] theorem State.after_rtcmd (s : State) (d : Nat) (i : Instr) : (s.after d i).rtcmd = s.rtcmd := rfl
@[simp] theorem State.after_keyData (s : State) (d : Nat) (i : Instr) : (s.after d i).keyData = s.keyData := rfl
@[simp] theorem State.after_rtaddr (s : State) (d : Nat) (i : Instr) : (s.after d i).rtaddr = s.rtaddr := rfl
@[simp] theorem State.after_throt (s : State) (d : Nat) (i : Instr) : (s.after d i).throt = s.throt := rfl
@[simp] theorem State.after_rows (s : State) (d : Nat) (i : Instr) : (s.after d i).rows = s.rows := rfl
@[simp] theorem State.after_mfwd (s : State) (d : Nat) (i : Instr) : (s.after d i).mfwd = s.mfwd := rfl
@[simp] theorem State.after_rdidx (s : State) (d : Nat) (i : Instr) : (s.after d i).rdidx = s.rdidx := rfl
@[simp] theorem State.after_redirect (s : State) (d : Nat) (i : Instr) : (s.after d i).redirect = s.redirect := rfl
@[simp] theorem State.after_windows (s : State) (d : Nat) (i : Instr) : (s.after d i).windows = s.windows := rfl
@[simp] theorem State.after_movedSlots (s : State) (d : Nat) (i : Instr) : (s.after d i).movedSlots = s.movedSlots := rfl
@[simp] theorem State.after_arriving (s : State) (d : Nat) (i : Instr) : (s.after d i).arriving = s.arriving := rfl
@[simp] theorem State.after_sessions (s : State) (d : Nat) (i : Instr) : (s.after d i).sessions = s.sessions := rfl
@[simp] theorem State.after_links (s : State) (d : Nat) (i : Instr) : (s.after d i).links = s.links := rfl
@[simp] theorem State.after_held (s : State) (d : Nat) (i : Instr) : (s.after d i).held = s.held := rfl
@[simp] theorem State.after_plim (s : State) (d : Nat) (i : Instr) : (s.after d i).plim = s.plim := rfl
@[simp] theorem State.after_tj (s : State) (d : Nat) (i : Instr) : (s.after d i).tj = s.tj := rfl
@[simp] theorem State.after_tin (s : State) (d : Nat) (i : Instr) : (s.after d i).tin = s.tin := rfl
@[simp] theorem State.after_thermal (s : State) (d : Nat) (i : Instr) : (s.after d i).thermal = s.thermal := rfl
@[simp] theorem State.after_anonce (s : State) (d : Nat) (i : Instr) : (s.after d i).anonce = s.anonce := rfl
@[simp] theorem State.after_aaddr (s : State) (d : Nat) (i : Instr) : (s.after d i).aaddr = s.aaddr := rfl
@[simp] theorem State.after_acmdErr (s : State) (d : Nat) (i : Instr) : (s.after d i).acmdErr = s.acmdErr := rfl
@[simp] theorem State.after_warm (s : State) (d : Nat) (i : Instr) : (s.after d i).warm = s.warm := rfl
@[simp] theorem State.after_boot (s : State) (d : Nat) (i : Instr) : (s.after d i).boot = s.boot := rfl
@[simp] theorem State.after_dbgUsed (s : State) (d : Nat) (i : Instr) : (s.after d i).dbgUsed = s.dbgUsed := rfl
@[simp] theorem State.after_modNo (s : State) (d : Nat) (i : Instr) : (s.after d i).modNo = s.modNo := rfl
@[simp] theorem State.after_fatal (s : State) (d : Nat) (i : Instr) : (s.after d i).fatal = s.fatal := rfl
@[simp] theorem State.after_aerAt (s : State) (d : Nat) (i : Instr) : (s.after d i).aerAt = s.aerAt := rfl
@[simp] theorem State.after_out (s : State) (d : Nat) (i : Instr) : (s.after d i).out = s.out := rfl

/-! State.bumpId -/

@[simp] theorem State.bumpId_agenda (s : State) : (s.bumpId).agenda = s.agenda := rfl
@[simp] theorem State.bumpId_choices (s : State) : (s.bumpId).choices = s.choices := rfl
@[simp] theorem State.bumpId_free (s : State) : (s.bumpId).free = s.free := rfl
@[simp] theorem State.bumpId_nextId (s : State) : (s.bumpId).nextId = s.nextId + 1 := rfl
@[simp] theorem State.bumpId_cycle (s : State) : (s.bumpId).cycle = s.cycle := rfl
@[simp] theorem State.bumpId_pod (s : State) : (s.bumpId).pod = s.pod := rfl
@[simp] theorem State.bumpId_cur (s : State) : (s.bumpId).cur = s.cur := rfl
@[simp] theorem State.bumpId_cands (s : State) : (s.bumpId).cands = s.cands := rfl
@[simp] theorem State.bumpId_picked (s : State) : (s.bumpId).picked = s.picked := rfl
@[simp] theorem State.bumpId_sels (s : State) : (s.bumpId).sels = s.sels := rfl
@[simp] theorem State.bumpId_cores (s : State) : (s.bumpId).cores = s.cores := rfl
@[simp] theorem State.bumpId_powered (s : State) : (s.bumpId).powered = s.powered := rfl
@[simp] theorem State.bumpId_groups (s : State) : (s.bumpId).groups = s.groups := rfl
@[simp] theorem State.bumpId_launches (s : State) : (s.bumpId).launches = s.launches := rfl
@[simp] theorem State.bumpId_graphs (s : State) : (s.bumpId).graphs = s.graphs := rfl
@[simp] theorem State.bumpId_jobs (s : State) : (s.bumpId).jobs = s.jobs := rfl
@[simp] theorem State.bumpId_reqs (s : State) : (s.bumpId).reqs = s.reqs := rfl
@[simp] theorem State.bumpId_tags (s : State) : (s.bumpId).tags = s.tags := rfl
@[simp] theorem State.bumpId_early (s : State) : (s.bumpId).early = s.early := rfl
@[simp] theorem State.bumpId_copies (s : State) : (s.bumpId).copies = s.copies := rfl
@[simp] theorem State.bumpId_emits (s : State) : (s.bumpId).emits = s.emits := rfl
@[simp] theorem State.bumpId_creds (s : State) : (s.bumpId).creds = s.creds := rfl
@[simp] theorem State.bumpId_snaps (s : State) : (s.bumpId).snaps = s.snaps := rfl
@[simp] theorem State.bumpId_saved (s : State) : (s.bumpId).saved = s.saved := rfl
@[simp] theorem State.bumpId_cslots (s : State) : (s.bumpId).cslots = s.cslots := rfl
@[simp] theorem State.bumpId_funcs (s : State) : (s.bumpId).funcs = s.funcs := rfl
@[simp] theorem State.bumpId_parts (s : State) : (s.bumpId).parts = s.parts := rfl
@[simp] theorem State.bumpId_mem (s : State) : (s.bumpId).mem = s.mem := rfl
@[simp] theorem State.bumpId_past (s : State) : (s.bumpId).past = s.past := rfl
@[simp] theorem State.bumpId_frames (s : State) : (s.bumpId).frames = s.frames := rfl
@[simp] theorem State.bumpId_dirty (s : State) : (s.bumpId).dirty = s.dirty := rfl
@[simp] theorem State.bumpId_poison (s : State) : (s.bumpId).poison = s.poison := rfl
@[simp] theorem State.bumpId_tlb (s : State) : (s.bumpId).tlb = s.tlb := rfl
@[simp] theorem State.bumpId_inval (s : State) : (s.bumpId).inval = s.inval := rfl
@[simp] theorem State.bumpId_s2iaddr (s : State) : (s.bumpId).s2iaddr = s.s2iaddr := rfl
@[simp] theorem State.bumpId_s2ictl (s : State) : (s.bumpId).s2ictl = s.s2ictl := rfl
@[simp] theorem State.bumpId_dtvec (s : State) : (s.bumpId).dtvec = s.dtvec := rfl
@[simp] theorem State.bumpId_ptoken (s : State) : (s.bumpId).ptoken = s.ptoken := rfl
@[simp] theorem State.bumpId_tokenLast (s : State) : (s.bumpId).tokenLast = s.tokenLast := rfl
@[simp] theorem State.bumpId_dbgIn (s : State) : (s.bumpId).dbgIn = s.dbgIn := rfl
@[simp] theorem State.bumpId_dbgInf (s : State) : (s.bumpId).dbgInf = s.dbgInf := rfl
@[simp] theorem State.bumpId_dbgOut (s : State) : (s.bumpId).dbgOut = s.dbgOut := rfl
@[simp] theorem State.bumpId_dbgOutf (s : State) : (s.bumpId).dbgOutf = s.dbgOutf := rfl
@[simp] theorem State.bumpId_dbgIen (s : State) : (s.bumpId).dbgIen = s.dbgIen := rfl
@[simp] theorem State.bumpId_dbgVec (s : State) : (s.bumpId).dbgVec = s.dbgVec := rfl
@[simp] theorem State.bumpId_dbgHold (s : State) : (s.bumpId).dbgHold = s.dbgHold := rfl
@[simp] theorem State.bumpId_dbghreq (s : State) : (s.bumpId).dbghreq = s.dbghreq := rfl
@[simp] theorem State.bumpId_jcan (s : State) : (s.bumpId).jcan = s.jcan := rfl
@[simp] theorem State.bumpId_jcanOf (s : State) : (s.bumpId).jcanOf = s.jcanOf := rfl
@[simp] theorem State.bumpId_stopLog (s : State) : (s.bumpId).stopLog = s.stopLog := rfl
@[simp] theorem State.bumpId_stopCount (s : State) : (s.bumpId).stopCount = s.stopCount := rfl
@[simp] theorem State.bumpId_kdata (s : State) : (s.bumpId).kdata = s.kdata := rfl
@[simp] theorem State.bumpId_kcmd (s : State) : (s.bumpId).kcmd = s.kcmd := rfl
@[simp] theorem State.bumpId_rtcmd (s : State) : (s.bumpId).rtcmd = s.rtcmd := rfl
@[simp] theorem State.bumpId_keyData (s : State) : (s.bumpId).keyData = s.keyData := rfl
@[simp] theorem State.bumpId_rtaddr (s : State) : (s.bumpId).rtaddr = s.rtaddr := rfl
@[simp] theorem State.bumpId_throt (s : State) : (s.bumpId).throt = s.throt := rfl
@[simp] theorem State.bumpId_rows (s : State) : (s.bumpId).rows = s.rows := rfl
@[simp] theorem State.bumpId_mfwd (s : State) : (s.bumpId).mfwd = s.mfwd := rfl
@[simp] theorem State.bumpId_rdidx (s : State) : (s.bumpId).rdidx = s.rdidx := rfl
@[simp] theorem State.bumpId_redirect (s : State) : (s.bumpId).redirect = s.redirect := rfl
@[simp] theorem State.bumpId_windows (s : State) : (s.bumpId).windows = s.windows := rfl
@[simp] theorem State.bumpId_movedSlots (s : State) : (s.bumpId).movedSlots = s.movedSlots := rfl
@[simp] theorem State.bumpId_arriving (s : State) : (s.bumpId).arriving = s.arriving := rfl
@[simp] theorem State.bumpId_sessions (s : State) : (s.bumpId).sessions = s.sessions := rfl
@[simp] theorem State.bumpId_links (s : State) : (s.bumpId).links = s.links := rfl
@[simp] theorem State.bumpId_held (s : State) : (s.bumpId).held = s.held := rfl
@[simp] theorem State.bumpId_plim (s : State) : (s.bumpId).plim = s.plim := rfl
@[simp] theorem State.bumpId_tj (s : State) : (s.bumpId).tj = s.tj := rfl
@[simp] theorem State.bumpId_tin (s : State) : (s.bumpId).tin = s.tin := rfl
@[simp] theorem State.bumpId_thermal (s : State) : (s.bumpId).thermal = s.thermal := rfl
@[simp] theorem State.bumpId_anonce (s : State) : (s.bumpId).anonce = s.anonce := rfl
@[simp] theorem State.bumpId_aaddr (s : State) : (s.bumpId).aaddr = s.aaddr := rfl
@[simp] theorem State.bumpId_acmdErr (s : State) : (s.bumpId).acmdErr = s.acmdErr := rfl
@[simp] theorem State.bumpId_warm (s : State) : (s.bumpId).warm = s.warm := rfl
@[simp] theorem State.bumpId_boot (s : State) : (s.bumpId).boot = s.boot := rfl
@[simp] theorem State.bumpId_dbgUsed (s : State) : (s.bumpId).dbgUsed = s.dbgUsed := rfl
@[simp] theorem State.bumpId_modNo (s : State) : (s.bumpId).modNo = s.modNo := rfl
@[simp] theorem State.bumpId_fatal (s : State) : (s.bumpId).fatal = s.fatal := rfl
@[simp] theorem State.bumpId_aerAt (s : State) : (s.bumpId).aerAt = s.aerAt := rfl
@[simp] theorem State.bumpId_out (s : State) : (s.bumpId).out = s.out := rfl

/-! State.popChoice -/

@[simp] theorem State.popChoice_agenda (s : State) : (s.popChoice).agenda = s.agenda := rfl
@[simp] theorem State.popChoice_choices (s : State) : (s.popChoice).choices = s.choices.drop 1 := rfl
@[simp] theorem State.popChoice_free (s : State) : (s.popChoice).free = s.free := rfl
@[simp] theorem State.popChoice_nextId (s : State) : (s.popChoice).nextId = s.nextId := rfl
@[simp] theorem State.popChoice_cycle (s : State) : (s.popChoice).cycle = s.cycle := rfl
@[simp] theorem State.popChoice_pod (s : State) : (s.popChoice).pod = s.pod := rfl
@[simp] theorem State.popChoice_cur (s : State) : (s.popChoice).cur = s.cur := rfl
@[simp] theorem State.popChoice_cands (s : State) : (s.popChoice).cands = s.cands := rfl
@[simp] theorem State.popChoice_picked (s : State) : (s.popChoice).picked = s.picked := rfl
@[simp] theorem State.popChoice_sels (s : State) : (s.popChoice).sels = s.sels := rfl
@[simp] theorem State.popChoice_cores (s : State) : (s.popChoice).cores = s.cores := rfl
@[simp] theorem State.popChoice_powered (s : State) : (s.popChoice).powered = s.powered := rfl
@[simp] theorem State.popChoice_groups (s : State) : (s.popChoice).groups = s.groups := rfl
@[simp] theorem State.popChoice_launches (s : State) : (s.popChoice).launches = s.launches := rfl
@[simp] theorem State.popChoice_graphs (s : State) : (s.popChoice).graphs = s.graphs := rfl
@[simp] theorem State.popChoice_jobs (s : State) : (s.popChoice).jobs = s.jobs := rfl
@[simp] theorem State.popChoice_reqs (s : State) : (s.popChoice).reqs = s.reqs := rfl
@[simp] theorem State.popChoice_tags (s : State) : (s.popChoice).tags = s.tags := rfl
@[simp] theorem State.popChoice_early (s : State) : (s.popChoice).early = s.early := rfl
@[simp] theorem State.popChoice_copies (s : State) : (s.popChoice).copies = s.copies := rfl
@[simp] theorem State.popChoice_emits (s : State) : (s.popChoice).emits = s.emits := rfl
@[simp] theorem State.popChoice_creds (s : State) : (s.popChoice).creds = s.creds := rfl
@[simp] theorem State.popChoice_snaps (s : State) : (s.popChoice).snaps = s.snaps := rfl
@[simp] theorem State.popChoice_saved (s : State) : (s.popChoice).saved = s.saved := rfl
@[simp] theorem State.popChoice_cslots (s : State) : (s.popChoice).cslots = s.cslots := rfl
@[simp] theorem State.popChoice_funcs (s : State) : (s.popChoice).funcs = s.funcs := rfl
@[simp] theorem State.popChoice_parts (s : State) : (s.popChoice).parts = s.parts := rfl
@[simp] theorem State.popChoice_mem (s : State) : (s.popChoice).mem = s.mem := rfl
@[simp] theorem State.popChoice_past (s : State) : (s.popChoice).past = s.past := rfl
@[simp] theorem State.popChoice_frames (s : State) : (s.popChoice).frames = s.frames := rfl
@[simp] theorem State.popChoice_dirty (s : State) : (s.popChoice).dirty = s.dirty := rfl
@[simp] theorem State.popChoice_poison (s : State) : (s.popChoice).poison = s.poison := rfl
@[simp] theorem State.popChoice_tlb (s : State) : (s.popChoice).tlb = s.tlb := rfl
@[simp] theorem State.popChoice_inval (s : State) : (s.popChoice).inval = s.inval := rfl
@[simp] theorem State.popChoice_s2iaddr (s : State) : (s.popChoice).s2iaddr = s.s2iaddr := rfl
@[simp] theorem State.popChoice_s2ictl (s : State) : (s.popChoice).s2ictl = s.s2ictl := rfl
@[simp] theorem State.popChoice_dtvec (s : State) : (s.popChoice).dtvec = s.dtvec := rfl
@[simp] theorem State.popChoice_ptoken (s : State) : (s.popChoice).ptoken = s.ptoken := rfl
@[simp] theorem State.popChoice_tokenLast (s : State) : (s.popChoice).tokenLast = s.tokenLast := rfl
@[simp] theorem State.popChoice_dbgIn (s : State) : (s.popChoice).dbgIn = s.dbgIn := rfl
@[simp] theorem State.popChoice_dbgInf (s : State) : (s.popChoice).dbgInf = s.dbgInf := rfl
@[simp] theorem State.popChoice_dbgOut (s : State) : (s.popChoice).dbgOut = s.dbgOut := rfl
@[simp] theorem State.popChoice_dbgOutf (s : State) : (s.popChoice).dbgOutf = s.dbgOutf := rfl
@[simp] theorem State.popChoice_dbgIen (s : State) : (s.popChoice).dbgIen = s.dbgIen := rfl
@[simp] theorem State.popChoice_dbgVec (s : State) : (s.popChoice).dbgVec = s.dbgVec := rfl
@[simp] theorem State.popChoice_dbgHold (s : State) : (s.popChoice).dbgHold = s.dbgHold := rfl
@[simp] theorem State.popChoice_dbghreq (s : State) : (s.popChoice).dbghreq = s.dbghreq := rfl
@[simp] theorem State.popChoice_jcan (s : State) : (s.popChoice).jcan = s.jcan := rfl
@[simp] theorem State.popChoice_jcanOf (s : State) : (s.popChoice).jcanOf = s.jcanOf := rfl
@[simp] theorem State.popChoice_stopLog (s : State) : (s.popChoice).stopLog = s.stopLog := rfl
@[simp] theorem State.popChoice_stopCount (s : State) : (s.popChoice).stopCount = s.stopCount := rfl
@[simp] theorem State.popChoice_kdata (s : State) : (s.popChoice).kdata = s.kdata := rfl
@[simp] theorem State.popChoice_kcmd (s : State) : (s.popChoice).kcmd = s.kcmd := rfl
@[simp] theorem State.popChoice_rtcmd (s : State) : (s.popChoice).rtcmd = s.rtcmd := rfl
@[simp] theorem State.popChoice_keyData (s : State) : (s.popChoice).keyData = s.keyData := rfl
@[simp] theorem State.popChoice_rtaddr (s : State) : (s.popChoice).rtaddr = s.rtaddr := rfl
@[simp] theorem State.popChoice_throt (s : State) : (s.popChoice).throt = s.throt := rfl
@[simp] theorem State.popChoice_rows (s : State) : (s.popChoice).rows = s.rows := rfl
@[simp] theorem State.popChoice_mfwd (s : State) : (s.popChoice).mfwd = s.mfwd := rfl
@[simp] theorem State.popChoice_rdidx (s : State) : (s.popChoice).rdidx = s.rdidx := rfl
@[simp] theorem State.popChoice_redirect (s : State) : (s.popChoice).redirect = s.redirect := rfl
@[simp] theorem State.popChoice_windows (s : State) : (s.popChoice).windows = s.windows := rfl
@[simp] theorem State.popChoice_movedSlots (s : State) : (s.popChoice).movedSlots = s.movedSlots := rfl
@[simp] theorem State.popChoice_arriving (s : State) : (s.popChoice).arriving = s.arriving := rfl
@[simp] theorem State.popChoice_sessions (s : State) : (s.popChoice).sessions = s.sessions := rfl
@[simp] theorem State.popChoice_links (s : State) : (s.popChoice).links = s.links := rfl
@[simp] theorem State.popChoice_held (s : State) : (s.popChoice).held = s.held := rfl
@[simp] theorem State.popChoice_plim (s : State) : (s.popChoice).plim = s.plim := rfl
@[simp] theorem State.popChoice_tj (s : State) : (s.popChoice).tj = s.tj := rfl
@[simp] theorem State.popChoice_tin (s : State) : (s.popChoice).tin = s.tin := rfl
@[simp] theorem State.popChoice_thermal (s : State) : (s.popChoice).thermal = s.thermal := rfl
@[simp] theorem State.popChoice_anonce (s : State) : (s.popChoice).anonce = s.anonce := rfl
@[simp] theorem State.popChoice_aaddr (s : State) : (s.popChoice).aaddr = s.aaddr := rfl
@[simp] theorem State.popChoice_acmdErr (s : State) : (s.popChoice).acmdErr = s.acmdErr := rfl
@[simp] theorem State.popChoice_warm (s : State) : (s.popChoice).warm = s.warm := rfl
@[simp] theorem State.popChoice_boot (s : State) : (s.popChoice).boot = s.boot := rfl
@[simp] theorem State.popChoice_dbgUsed (s : State) : (s.popChoice).dbgUsed = s.dbgUsed := rfl
@[simp] theorem State.popChoice_modNo (s : State) : (s.popChoice).modNo = s.modNo := rfl
@[simp] theorem State.popChoice_fatal (s : State) : (s.popChoice).fatal = s.fatal := rfl
@[simp] theorem State.popChoice_aerAt (s : State) : (s.popChoice).aerAt = s.aerAt := rfl
@[simp] theorem State.popChoice_out (s : State) : (s.popChoice).out = s.out := rfl

/-! Accessors after updates. -/

theorem State.core_setCore (s : State) (k : Nat) (c : Core) (k' : Nat) : (s.setCore k c).core k' = if k = k' then c else s.core k' := by
  simp only [State.core, State.setCore_cores, Cells.getD_put]

theorem State.core_modCore (s : State) (k : Nat) (h : Core → Core) (k' : Nat) : (s.modCore k h).core k' = if k = k' then h (s.core k) else s.core k' :=
  State.core_setCore s k (h (s.core k)) k'

@[simp] theorem State.core_setCore_self (s : State) (k : Nat) (c : Core) : (s.setCore k c).core k = c := by
  simp [State.core_setCore]

theorem State.gang?_setGang (s : State) (k sl : Nat) (g : Gang) (k' sl' : Nat) :
    (s.setGang k sl g).gang? k' sl' = if k = k' ∧ sl = sl' then some g else s.gang? k' sl' := by
  simp only [State.gang?, State.setGang, State.core_modCore]
  by_cases hk : k = k'
  · subst hk
    simp [Cells.find?_put]
  · simp [hk]

/-- An update of a gang that is there reaches it, and no other. -/
theorem State.gang?_modGang (s : State) (k sl : Nat) (h : Gang → Gang) (k' sl' : Nat) :
    (s.modGang k sl h).gang? k' sl' = if k = k' ∧ sl = sl' then (s.gang? k sl).map h else s.gang? k' sl' := by
  unfold State.modGang
  cases hg : s.gang? k sl with
  | none =>
    by_cases hk : k = k' ∧ sl = sl'
    · obtain ⟨rfl, rfl⟩ := hk
      simp [hg]
    · simp [hk]
  | some g => simp [State.gang?_setGang]

theorem State.func_modFunc (s : State) (n : Nat) (h : Func → Func) (n' : Nat) : (s.modFunc n h).func n' = if n = n' then h (s.func n) else s.func n' := by
  simp only [State.func, State.modFunc_funcs, Cells.getD_put]

theorem State.px_modPx (s : State) (n : Nat) (h : Px → Px) (n' : Nat) : (s.modPx n h).px n' = if n = n' then h (s.px n) else s.px n' := by
  simp only [State.px, State.modPx, State.func_modFunc]
  split <;> rfl

theorem State.part_modPart (s : State) (t : Nat) (h : Partition → Partition) (t' : Nat) :
    (s.modPart t h).part t' = if t = t' then h (s.part t) else s.part t' := by
  simp only [State.part, State.modPart_parts, Cells.getD_put]

/-- An update of an entry of a map that may be absent. -/
theorem Cells.find?_modify {α : Type} (m : Cells α) (k : Nat) (h : α → α) (k' : Nat) :
    Cells.find? (Cells.modify m k h) k' = if k = k' then (Cells.find? m k).map h else Cells.find? m k' := by
  unfold Cells.modify
  cases hm : Cells.find? m k with
  | none =>
    by_cases hk : k = k'
    · subst hk
      simp [hm]
    · simp [hk]
  | some v => simp [Cells.find?_put]

theorem State.group?_modGroup (s : State) (k : Nat) (h : Group → Group) (k' : Nat) :
    (s.modGroup k h).group? k' = if k = k' then (s.group? k).map h else s.group? k' := Cells.find?_modify s.groups k h k'

theorem State.launch?_modLaunch (s : State) (k : Nat) (h : Launch → Launch) (k' : Nat) :
    (s.modLaunch k h).launch? k' = if k = k' then (s.launch? k).map h else s.launch? k' := Cells.find?_modify s.launches k h k'

theorem State.graph?_modGraph (s : State) (k : Nat) (h : Graph → Graph) (k' : Nat) :
    (s.modGraph k h).graph? k' = if k = k' then (s.graph? k).map h else s.graph? k' := Cells.find?_modify s.graphs k h k'

end Sys2Proof.Machine
end

