-- ==== Sys2Proof/Laws/Run.lean ====
section
/-! SUPPORT. What the shared operations of an issue can do, said once: running a fetched instruction, performing it, and taking a cause. -/
namespace Sys2Proof.Machine

/-- R94, R151, R287, R289: all that running an instruction can come to. It answers a next state: nothing where no fragment issues,
a trap of orders 7 to 10, LOOP_NEST, a wait, the cause that its own effect raises, or its effect. -/
theorem run_cases {i : Instr} {eff : Ctx → Eff} {s : State} {o : Out} (h : run i eff s = o) :
    (s.ctx (Instr.long i) = none ∧ o = .next s) ∨
    ∃ c, s.ctx (Instr.long i) = some c ∧
      ((∃ cause v, c.operandCause i = some (cause, v) ∧
          o = .next ((s.trapSync c.k c.sl c.f (readsLatch i) cause v).noteIssue c.k c.sl)) ∨
        (c.operandCause i = none ∧ o = .next (c.perform i eff))) := by
  unfold run at h
  cases hc : s.ctx (Instr.long i) with
  | none => exact .inl ⟨rfl, by rw [hc] at h; exact h.symm⟩
  | some c =>
    refine .inr ⟨c, rfl, ?_⟩
    rw [hc] at h
    cases ho : c.operandCause i with
    | none => exact .inr ⟨rfl, by simp only [ho] at h; exact h.symm⟩
    | some x => exact .inl ⟨x.1, x.2, rfl, by simp only [ho] at h; exact h.symm⟩

/-- All that performing an instruction can come to. -/
theorem Ctx.perform_cases (c : Ctx) (i : Instr) (eff : Ctx → Eff) :
    (c.loopNest i = true ∧ c.voided i = false ∧
      c.perform i eff = (c.st.trapSync c.k c.sl c.f (readsLatch i) 0x0A (c.st.reportWords i)).noteIssue c.k c.sl) ∨
    ((c.loopNest i = false ∨ c.voided i = true) ∧
      ((c.ready i = false ∧ c.perform i eff = c.joinQueue i) ∨
        (c.ready i = true ∧ c.voided i = true ∧ c.perform i eff = c.conclude i (c.goOn i c.claim.st)) ∨
        (c.ready i = true ∧ c.voided i = false ∧
          ((∃ cause v, eff c.claim = .raise cause v ∧
              c.perform i eff = (c.st.trapSync c.k c.sl c.f (readsLatch i) cause v).noteIssue c.k c.sl) ∨
            (∃ t, eff c.claim = .next t ∧ c.perform i eff = c.conclude i (c.goOn i t)) ∨
            (∃ t, eff c.claim = .placed t ∧ c.perform i eff = c.conclude i t))))) := by
  unfold Ctx.perform
  cases hv : c.voided i <;> cases hl : c.loopNest i <;> cases hr : c.ready i <;> simp
  cases he : eff c.claim <;> simp

/-- An instruction that issues runs its own effect in its context. -/
theorem run_of_issues {i : Instr} {eff : Ctx → Eff} {s : State} {c : Ctx} (h : Issues i s c) :
    run i eff s = .next (match eff c.claim with
      | .raise cause v => (c.st.trapSync c.k c.sl c.f (readsLatch i) cause v).noteIssue c.k c.sl
      | .next t => c.conclude i (c.goOn i t)
      | .placed t => c.conclude i t) := by
  obtain ⟨-, hc, ho, hl, hr, hv⟩ := h
  simp only [run, hc, ho, Ctx.perform, hl, hr, hv]
  cases eff c.claim <;> rfl

/-- R24: a voided instruction only goes on. -/
theorem run_of_voided {i : Instr} {eff : Ctx → Eff} {s : State} {c : Ctx} (hc : s.ctx (Instr.long i) = some c)
    (ho : c.operandCause i = none) (hr : c.ready i = true) (hv : c.voided i = true) :
    run i eff s = .next (c.conclude i (c.goOn i c.claim.st)) := by
  simp [run, hc, ho, Ctx.perform, hr, hv]

/-- R240, R245: all that a cause can do: nothing to a slot without a gang; at level 2 it stops the gang; else it is taken at the level it is
routed to, with the level's registers saved and the fragment at the vector. -/
theorem State.trap_cases (s : State) (k sl fid : Nat) (cause : BitVec 6) (value epc xofs kind : Nat) (lost : Bool) :
    (s.gang? k sl = none ∧ s.trap k sl fid cause value epc xofs kind lost = s) ∨
    ∃ g, s.gang? k sl = some g ∧
      ((g.level = 2 ∧ s.trap k sl fid cause value epc xofs kind lost = s.stopGang k sl g cause value) ∨
        (g.level ≠ 2 ∧ ∃ lvl entry, lvl = (if g.level = 0 then route (s.func g.fn).deleg cause else 2) ∧
          entry = toPc (vecEntry (if lvl = 1 then (s.func g.fn).gtvec else s.dtvec)) ∧
          s.trap k sl fid cause value epc xofs kind lost =
            (s.setGang k sl { ((g.clearWait.loseChains fid).modFrag fid fun f =>
                { f with pc := entry, chead := entry, wait := .run, chainRd := [], chainX := false, lost := false }) with
              level := lvl, sysFid := if g.level = 0 then fid else g.sysFid, entry1 := decide (lvl = 1),
              t1 := if lvl = 1 then g.t1.enter cause epc value xofs kind 0 lost g.pending else g.t1,
              t2 := if lvl = 2 then g.t2.enter cause epc value xofs kind g.level lost g.pending else g.t2 }).modCore k
              fun c => c.loseRings sl)) := by
  unfold State.trap
  cases hg : s.gang? k sl with
  | none => exact .inl ⟨rfl, rfl⟩
  | some g =>
    refine .inr ⟨g, rfl, ?_⟩
    by_cases hl : g.level = 2
    · exact .inl ⟨hl, by simp [hl]⟩
    · exact .inr ⟨hl, _, _, rfl, rfl, by simp only [hl, if_false]⟩

end Sys2Proof.Machine
end

