-- ==== Sys2Proof/Machine/BarRead.lean ====
section
/-! DEFINITION. What a host read of a BAR returns (R7, R346 to R350, R357 to R359, R370, R371, R373, R375, R379,
R383, R385, R389, R401, R402, R412, R414, R420, R428, R436 to R439). A read changes nothing, so it is no step. -/
namespace Sys2Proof.Machine

/-- The low or the high half of a 64-bit register. -/
def halfOf (v : Nat) (hi : Bool) : Nat := if hi then v / 2 ^ 32 % 2 ^ 32 else v % 2 ^ 32

def bit (b : Bool) (i : Nat) : Nat := if b then 2 ^ i else 0

/-- R350: word i of a queue block. -/
def State.readQueue (s : State) (fn q i : Nat) : Nat :=
  let qu := s.queue fn q
  match i with
  | 0 => halfOf qu.base false
  | 1 => halfOf qu.base true
  | 2 => qu.hold * 2 ^ 24 + qu.qweight * 2 ^ 16 + qu.log2 * 32 + bit (qu.np && (s.func fn).npok) 1 + bit qu.en 0
  | 3 => qu.job
  | 4 => qu.head.toNat
  | 5 => qu.tail.toNat
  | 6 => qu.ecode * 2 ^ 16 + bit qu.idle 3 + bit qu.err 2 + bit qu.pend.isSome 1 + bit qu.slot 0
  | _ => 0

/-- R347, R371, R373: the first 4 KiB of a function's BAR 0. -/
def State.readFn (s : State) (fn off : Nat) : Nat :=
  let f := s.func fn
  match off with
  | 0x000 => 0x01000000 + fn
  | 0x004 => f.evec * 2 ^ 16 + f.weight
  | 0x008 => f.evt.toNat
  | 0x00C => f.evten.toNat
  | 0x100 => halfOf f.s1root.toNat false
  | 0x104 => halfOf f.s1root.toNat true
  | 0x108 => halfOf f.s1iaddr.toNat false
  | 0x10C => halfOf f.s1iaddr.toNat true
  | 0x110 => f.s1ictl.toNat
  | _ => 0

/-- R371: the stage-2 registers of function n. -/
def State.readStage2 (s : State) (n i : Nat) : Nat :=
  let f := s.func n
  match i / 2 with
  | 0 => halfOf f.s2root.toNat (i % 2 = 1)
  | 1 => halfOf f.strtab.toNat (i % 2 = 1)
  | 2 => halfOf f.fcfg.toNat (i % 2 = 1)
  | _ => halfOf f.ways.toNat (i % 2 = 1)

/-- R370: CMX of requester port r, at which cores 16r to 16r + 15 stand. -/
def State.cmx (s : State) (r : Nat) : Nat := (s.portMask (.core (16 * r))).toNat

/-- R375: word i of the entry of partition t. -/
def State.readPart (s : State) (t i : Nat) : Nat :=
  let p := s.part t
  match i / 2 with
  | 0 => halfOf p.req.toNat (i % 2 = 1)
  | 1 => halfOf p.mem.toNat (i % 2 = 1)
  | 2 => halfOf p.qos.toNat (i % 2 = 1)
  | 3 => halfOf p.fto (i % 2 = 1)
  | 4 => halfOf p.stg.toNat (i % 2 = 1)
  | 5 => halfOf (bit p.err 3 + bit p.stop 2 + bit p.valid 0) (i % 2 = 1)
  | _ => 0

/-- R373, R379, R383, R385: 0x3E00 to 0x3FFF of the physical function's BAR 0; KDATA is write-only. -/
def State.readKeys (s : State) (off : Nat) : Nat :=
  match off with
  | 0x3E40 => s.kcmd.toNat
  | 0x3E80 => halfOf s.rtaddr.toNat false
  | 0x3E84 => halfOf s.rtaddr.toNat true
  | 0x3E88 => s.rtcmd.toNat
  | 0x3EC0 => halfOf s.s2iaddr.toNat false
  | 0x3EC4 => halfOf s.s2iaddr.toNat true
  | 0x3EC8 => s.s2ictl.toNat
  | 0x3F00 => s.throt.toNat
  | _ => 0

/-- R348: VFCTL of function n. -/
def State.readVfctl (s : State) (n : Nat) : Nat :=
  let f := s.func n
  f.holdmax * 2 ^ 16 + bit f.npok 8 + f.weight

/-- R349: VFVDN of function n. -/
def State.readVfvdn (s : State) (n : Nat) : Nat := bit (s.func n).vdnValid 31 + (s.func n).vdn.toNat

/-- R401: word i of migration session n. -/
def State.readSession (s : State) (n i : Nat) : Nat :=
  let x := s.session n
  match i with
  | 0 => x.peer * 2 ^ 20 + x.resid * 2 ^ 8 + bit x.dir 7 + x.fn
  | 1 => x.links.toNat * 2 ^ 8 + x.maxr
  | 2 => x.cmd
  | 4 => x.ecode * 2 ^ 24 + x.round * 2 ^ 16 + x.state
  | 5 => x.dirty % 2 ^ 32
  | 6 => x.black % 2 ^ 32
  | 8 => halfOf x.stg false
  | 9 => halfOf x.stg true
  | _ => 0

/-- R402: MFWD, RDIDX and RDDATA. -/
def State.readMove (s : State) (off : Nat) : Nat :=
  match off with
  | 0x5100 => s.mfwd
  | 0x5108 => s.rdidx
  | 0x5110 => (Cells.getD s.redirect s.rdidx 0).toNat
  | _ => 0

/-- R389: word i of the proof context of function n. -/
def State.readPx (s : State) (n i : Nat) : Nat :=
  let p := s.px n
  if 6 ≤ i ∧ i < 14 then bits p.mem.toNat (32 * (i - 6) + 31) (32 * (i - 6))
  else match i with
    | 0 => p.foln % 2 ^ 32
    | 1 => p.job * 2 ^ 16 + p.chlmax
    | 2 => halfOf p.base false
    | 3 => halfOf p.base true
    | 4 => p.len
    | 14 => p.cmd.toNat
    | 16 => p.num.toNat
    | 18 => p.ecode * 2 ^ 24 + p.e.toNat * 16 + bit p.en 3 + bit p.drain 2 + bit p.pend 1 + bit p.busy 0
    | 19 => p.last % 2 ^ 32
    | 20 => p.first % 2 ^ 32
    | 22 => halfOf (p.head % 2 ^ 40) false
    | 23 => halfOf (p.head % 2 ^ 40) true
    | _ => 0

/-- R358: a word of the stop log. -/
def State.readStopLog (s : State) (i : Nat) : Nat :=
  bits (Cells.getD s.stopLog (i / 4) 0).toNat (32 * (i % 4) + 31) (32 * (i % 4))

/-- R436: word i of the block of link l. -/
def State.readLink (s : State) (l i : Nat) : Nat :=
  let x := s.link l
  match i with
  | 0 => halfOf x.stale false
  | 1 => halfOf x.stale true
  | 2 => halfOf x.retry false
  | 3 => halfOf x.retry true
  | 4 => x.farLink % 32 * 2 ^ 16 + x.farMod % 16 * 2 ^ 8 + bit x.up 0
  | _ => 0

/-- R436: word i of the counters of partition t. -/
def State.readCounter (s : State) (t i : Nat) : Nat :=
  let p := s.part t
  match i / 2 with
  | 0 => halfOf p.kref (i % 2 = 1)
  | 1 => halfOf p.cerr (i % 2 = 1)
  | 2 => halfOf p.uerr (i % 2 = 1)
  | 3 => halfOf p.late (i % 2 = 1)
  | 4 => halfOf p.xdem (i % 2 = 1)
  | 5 => halfOf p.ndrop (i % 2 = 1)
  | _ => 0

/-- R412, R420, R428, R436 to R439: 0x9000 to 0xAFFF; DBGIN and ANONCE are write-only. -/
def State.readDebug (s : State) (off : Nat) : Nat :=
  if 0xA100 ≤ off ∧ off < 0xA340 then s.readLink ((off - 0xA100) / 32) (off % 32 / 4)
  else if 0xA400 ≤ off ∧ off < 0xA800 then s.readCounter ((off - 0xA400) / 64) (off % 64 / 4)
  else
    let out := s.dbgOut.toNat + bit s.dbgOutf 63
    match off with
    | 0x9008 => halfOf out false
    | 0x900C => halfOf out true
    | 0x9010 => bit s.dbgIen 16 + s.dbgVec * 2 ^ 8 + bit s.dbgHold 2 + bit s.dbgInf 1 + bit s.dbgOutf 0
    | 0x9018 => s.dbghreq.toNat
    | 0xA020 => halfOf s.aaddr.toNat false
    | 0xA024 => halfOf s.aaddr.toNat true
    | 0xA028 => bit s.acmdErr 30
    | 0xA800 => s.plim
    | 0xA808 => s.tj.toNat * 2 ^ 16 + s.tin.toNat * 2 ^ 8 + s.thermal
    | 0xA810 => halfOf (s.pod / 11) false
    | 0xA814 => halfOf (s.pod / 11) true
    | _ => 0

/-- R414: the comparator of core c. -/
def State.readWatch (s : State) (c i : Nat) : Nat :=
  match i with
  | 0 => halfOf (s.core c).watchA.toNat false
  | 1 => halfOf (s.core c).watchA.toNat true
  | 2 => halfOf (s.core c).watchM.toNat false
  | _ => halfOf (s.core c).watchM.toNat true

/-- R346: the device-wide registers in the physical function's BAR 0. -/
def State.readDevice (s : State) (off : Nat) : Nat :=
  if off < 0x3800 then s.readStage2 ((off - 0x3000) / 32) (off % 32 / 4)
  else if off < 0x3A00 then halfOf (s.cmx ((off - 0x3800) / 8)) (off % 8 = 4)
  else if off < 0x3E00 then s.readPart ((off - 0x3A00) / 64) (off % 64 / 4)
  else if off < 0x4000 then s.readKeys off
  else if off < 0x4200 then (if off % 8 = 0 then s.readVfctl ((off - 0x4000) / 8) else s.readVfvdn ((off - 0x4000) / 8))
  else if off < 0x5000 then 0
  else if off < 0x5100 then s.readSession ((off - 0x5000) / 64) (off % 64 / 4)
  else if off < 0x6000 then s.readMove off
  else if off < 0x8000 then s.readPx ((off - 0x6000) / 128) (off % 128 / 4)
  else if off < 0x8400 then s.readStopLog ((off - 0x8000) / 4)
  else if off = 0x8400 then s.stopCount % 2 ^ 32
  else if off = 0x8800 then s.jcan.toNat
  else if off < 0x9000 then 0
  else if off < 0xB000 then s.readDebug off
  else if off < 0xC000 then (s.core ((off - 0xB000) / 4)).bkptctl.toNat
  else s.readWatch ((off - 0xC000) / 16) (off % 16 / 4)

/-- R346: a 32-bit word of a function's BAR 0. -/
def State.readBar0 (s : State) (fn off : Nat) : Nat :=
  if off < 0x1000 then s.readFn fn off
  else if off < 0x3000 then s.readQueue fn ((off - 0x1000) / 32) (off % 32 / 4)
  else if fn = 0 ∧ off < 0x10000 then s.readDevice off
  else 0

/-- R346: the MSI-X table and the PBA. -/
def State.readMsix (s : State) (fn off : Nat) : Nat :=
  if off < 1024 then ((s.func fn).msixDword (off / 4)).toNat
  else if off = 0x2000 ∨ off = 0x2004 then halfOf (s.func fn).pba.toNat (off = 0x2004)
  else 0

/-- R346: the 32-bit word at a multiple of 4 of a BAR. A notify register gives nothing back (log 68). -/
def State.readBarWord (s : State) (fn bar off : Nat) : Nat :=
  match bar with
  | 0 => s.readBar0 fn off
  | 4 => s.readMsix fn off
  | _ => 0

/-- R346: what a host read of `size` bytes at an offset of a function's BAR returns. -/
def State.readBar (s : State) (fn bar off size : Nat) : Nat :=
  if 64 ≤ fn ∨ (s.func fn).enabled = false then 0
  else
    let w := s.readBarWord fn bar (off / 4 * 4) + s.readBarWord fn bar (off / 4 * 4 + 4) * 2 ^ 32
    w / 2 ^ (8 * (off % 4)) % 2 ^ (8 * size)

end Sys2Proof.Machine
end

