-- ==== Sys2Proof/Tests/Slice0.lean ====
section
/-! SUPPORT. Tests: terms that are not well formed, words of the spec's encoding tables, single steps on small
states with results computed by hand from the spec, and, for every statement of Certificates/Slice0, states and
operands that meet its hypotheses. -/
namespace Sys2Proof.Tests
open Sys2Proof Sys2Proof.Machine

set_option Elab.async false

/-! ## Small states -/

/-- Gang 0 of a group of function 0 stands in slot 0 of core 0, at level 0 with all lanes, and its fragment issues. -/
def base : State := { State.reset.withFetchWord 32 0 with cur := ⟨0, 0, 0, 0, 0⟩, picked := [] }

/-- The same with another gang state, core or group. -/
def withGang (f : Gang → Gang) : State := base.modGang 0 0 f
def withGroup (f : Group → Group) (s : State) : State := s.modGroup 0 f
def withCore (f : Core → Core) (s : State) : State := s.modCore 0 f

/-- The gang at a level. -/
def atLevel (n : Nat) : State := withGang fun g => { g with level := n }

/-- A gang some of whose lanes have exited. -/
def withLanes (m : Mask) : State := withGang fun g => { g with frags := g.frags.map fun f => { f with mask := m } }

/-- The fields of a long form with destination v2 and sources v4, v6, v8. -/
def L0 : Long := ⟨0, false, false, 2, 4, 6, 0, 0, 0, false, 0, 0, none⟩
def S0 : Short := ⟨false, false, 2, 4, 6, none⟩

/-- Whether an instruction issues in a state, in a context that a test accepts. -/
def issuesWith (s : State) (p : Ctx → Bool) (i : Instr) : Bool :=
  match s.ctx (Machine.Instr.long i) with
  | some c => (decodeCause false i).isNone && (c.operandCause i).isNone && !c.loopNest i && c.ready i && !c.voided i && p c
  | none => false

theorem issues_of_check {s : State} {P : Ctx → Prop} [DecidablePred P] {i : Instr} (h : issuesWith s (fun c => decide (P c)) i = true) :
    ∃ c, Issues i s c ∧ P c := by
  unfold issuesWith at h
  split at h
  · rename_i c hc
    simp only [Bool.and_eq_true, Option.isNone_iff_eq_none, Bool.not_eq_true', decide_eq_true_eq, and_assoc] at h
    obtain ⟨legal, operands, nest, rdy, guard, rest⟩ := h
    exact ⟨c, ⟨legal, hc, operands, nest, rdy, guard⟩, rest⟩
  · exact absurd h (by simp)

theorem issues_each {s : State} {P : Instr → Ctx → Prop} [∀ i, DecidablePred (P i)] {l : List Instr}
    (h : l.all (fun i => issuesWith s (fun c => decide (P i c)) i) = true) : ∀ i ∈ l, ∃ c, Issues i s c ∧ P i c :=
  fun i hi => issues_of_check (List.all_eq_true.mp h i hi)

/-- A next state that a test accepts. -/
theorem next_of_check {o : Out} {P : State → Prop} [DecidablePred P] (h : (match o with | .next t => decide (P t) | _ => false) = true) :
    ∃ t, o = .next t ∧ P t := by
  split at h
  · exact ⟨_, rfl, by simpa using h⟩
  · exact absurd h (by simp)

/-- A context that an instruction finds and no test of readiness has looked at. -/
theorem ctx_of_check {s : State} {P : Ctx → Prop} [DecidablePred P] {l : Long}
    (h : (match s.ctx l with | some c => decide (P c) | none => false) = true) : ∃ c, s.ctx l = some c ∧ P c := by
  split at h
  · rename_i c hc
    exact ⟨c, hc, by simpa using h⟩
  · exact absurd h (by simp)

/-! ## Witnesses: register instructions -/

theorem witness_IntegerArithmetic :
    (∀ i ∈ [Instr.iaddShort S0, .iadd L0, .isubShort S0, .isub L0, .imulShort S0, .imul L0, .imulhShort S0, .imulh L0],
      ∃ c, Issues i base c ∧ True) ∧
    (∀ f ∈ [{ L0 with sub := 1 }], ∃ c, Issues (.iadd f) base c ∧ (ovfBit f = true ∧ ccBit f = false ∧
      InRange c (intFmtOf f) (fmtElems f.fmt) fun lane j => elemA (intFmtOf f) c (.iadd f) lane j + elemB (intFmtOf f) c (.iadd f) lane j)) ∧
    (∀ f ∈ [{ L0 with sub := 2, c := 0xE5, imm := 7 }, { L0 with sub := 2, c := 0xBC, fmt := 3 }],
      (∃ c, Issues (.iadd f) base c ∧ ccBit f = true) ∧ ∃ c, Issues (.isub f) base c ∧ ccBit f = true) ∧
    (∃ c, Issues (.imad { L0 with c := 8 }) base c ∧ ccBit { L0 with c := 8 } = false) ∧
    ∃ c, Issues (.imad { L0 with c := 8, sub := 2, fmt := 1 }) base c ∧ ccBit { L0 with c := 8, sub := 2, fmt := 1 } = true := by
  unfold InRange
  exact ⟨issues_each (by decide +kernel), fun f hf => by fin_cases hf; exact issues_of_check (by decide +kernel),
    fun f hf => by fin_cases hf <;> exact ⟨issues_of_check (by decide +kernel), issues_of_check (by decide +kernel)⟩,
    issues_of_check (by decide +kernel), issues_of_check (by decide +kernel)⟩

/-- v4 of lane 0 is the least number of 32 bits, and v6 the value given; v8 and v9 hold the greatest of 64 bits. -/
def edge (x : Word) : State := withGang fun g => (((g.setV 4 0 0x80000000).setV 6 0 x).setV 8 0 0xFFFFFFFF).setV 9 0 0x7FFFFFFF

/-- A lane of an OVF instruction is out of range. -/
def Overflows (m : IntFmt) (e : Nat) (x : Ctx → Nat → Nat → Int) (c : Ctx) : Prop :=
  c.g.level < 2 ∧ c.lanes.filter (fun lane => (List.range e).any fun j => m.outside (x c lane j)) ≠ []

theorem witness_OverflowTraps :
    let f : Long := { L0 with sub := 1 }
    (∃ c, Issues (.iadd f) (edge 0x80000000) c ∧ Overflows ⟨32, true⟩ 1 (fun c lane j => elemA ⟨32, true⟩ c (.iadd f) lane j + elemB ⟨32, true⟩ c (.iadd f) lane j) c) ∧
    (∃ c, Issues (.isub f) (edge 1) c ∧ Overflows ⟨32, true⟩ 1 (fun c lane j => elemA ⟨32, true⟩ c (.isub f) lane j - elemB ⟨32, true⟩ c (.isub f) lane j) c) ∧
    (∃ c, Issues (.imul f) (edge 0x80000000) c ∧ Overflows ⟨32, true⟩ 1 (fun c lane j => elemA ⟨32, true⟩ c (.imul f) lane j * elemB ⟨32, true⟩ c (.imul f) lane j) c) ∧
    (∃ c, Issues (.imad { f with c := 8 }) (edge 0x80000000) c ∧ Overflows ⟨32, true⟩ 1 (fun c lane j =>
      elemA ⟨32, true⟩ c (.imad { f with c := 8 }) lane j * elemB ⟨32, true⟩ c (.imad { f with c := 8 }) lane j +
        (⟨32, true⟩ : IntFmt).val (srcC c (.imad { f with c := 8 }) 32 lane)) c) ∧
    (∃ c, Issues (.imad { f with c := 8, sub := 3 }) (edge 0x80000000) c ∧ Overflows ⟨64, true⟩ 1 (fun c lane _ =>
      (⟨32, true⟩ : IntFmt).val (srcA c (.imad { f with c := 8, sub := 3 }) 32 lane) * (⟨32, true⟩ : IntFmt).val (srcB c (.imad { f with c := 8, sub := 3 }) 32 lane) +
        (⟨64, true⟩ : IntFmt).val (srcC c (.imad { f with c := 8, sub := 3 }) 64 lane)) c) ∧
    ∃ c, Issues (.shl f) (edge 1) c ∧ Overflows ⟨32, true⟩ 1 (fun c lane j => elemA ⟨32, true⟩ c (.shl f) lane j * ((2 ^ srcB c (.shl f) 32 lane : Nat) : Int)) c := by
  unfold Overflows
  refine ⟨issues_of_check ?_, issues_of_check ?_, issues_of_check ?_, issues_of_check ?_, issues_of_check ?_,
    issues_of_check ?_⟩ <;> decide +kernel

theorem witness_LogicAndShifts : ∀ i ∈ [Instr.iminShort S0, .imin L0, .imaxShort S0, .imax { L0 with fmt := 7 }, .andShort S0, .and L0, .orShort S0, .or L0,
    .xorShort S0, .xor { L0 with fmt := 3 }, .tern { L0 with c := 8, sub := 0x96 }, .shlShort S0, .shl L0, .shrShort S0, .shr L0, .sarShort S0,
    .sar { L0 with fmt := 2 }], ∃ c, Issues i base c ∧ True := issues_each (by decide +kernel)

theorem witness_BitFields :
    (∀ i ∈ [Instr.bitop { L0 with b := 0 }, .bitop { L0 with b := 0, sub := 1, fmt := 3 }, .bitop { L0 with b := 0, sub := 2 },
      .bitop { L0 with b := 0, sub := 3 }, .bitop { L0 with b := 0, sub := 4, fmt := 3 }, .bfe L0, .bfi { L0 with c := 8 }], ∃ c, Issues i base c ∧ True) ∧
    (∃ c, Issues (.bfe { L0 with b := 0, sub := 1, imm := 0x011F }) base c ∧ fieldLen 32 0x011F = 1) ∧
    (∃ c, Issues (.bfe { L0 with b := 0, sub := 1, imm := 0x0120 }) base c ∧ fieldLen 32 0x0120 = 0) ∧
    ∃ c, Issues (.bfi { L0 with sub := 1, imm := 0xFF1F }) base c ∧ (InField 32 0xFF1F 31 ∧ ¬ InField 32 0xFF1F 30) := by
  unfold InField
  exact ⟨issues_each (by decide +kernel), issues_of_check (by decide +kernel), issues_of_check (by decide +kernel), issues_of_check (by decide +kernel)⟩

theorem witness_CompareMoveAndAddress :
    (∀ i ∈ [Instr.icmp { L0 with d := 0xE5 }, .icmp { L0 with c := 0xE4, sub := 0x15 }, .sel { L0 with c := 0xEB }, .movShort { S0 with b := 0 },
      .mov { L0 with b := 0, fmt := 14, d := 4, a := 8 }, .movFromIndex { L0 with a := 0, b := 0, sub := 0x1F }, .movToIndex { L0 with d := 0, b := 0, sub := 0x17 },
      .nopShort ⟨false, false, 0, 0, 0, none⟩, .nop ⟨0, false, false, 0, 0, 0, 0, 0, 0, false, 0, 0, none⟩], ∃ c, Issues i base c ∧ True) ∧
    (∃ c, Issues (.lea { L0 with sub := 0x0F, fmt := 2, imm := 0xFFFFFFFF }) base c ∧ subF { L0 with sub := 0x0F } 7 4 = 0) ∧
    ∃ c, Issues (.lea { L0 with sub := 0x10, c := 0xC0 }) base c ∧ subF { L0 with sub := 0x10 } 7 4 = 1 :=
  ⟨issues_each (by decide +kernel), issues_of_check (by decide +kernel), issues_of_check (by decide +kernel)⟩

theorem witness_RoundingChoosesItsValue :
    (FpFmt.e4m3 ∈ allFormats ∧ 0x7E < 2 ^ FpFmt.e4m3.w ∧ FpFmt.e4m3.decode 0x7E = .fin 14 5) ∧
    (FpFmt.f64 ∈ allFormats ∧ 1 < 2 ^ FpFmt.f64.w ∧ FpFmt.f64.decode 1 = .fin 1 (-1074)) ∧
    ∀ rnd ∈ [1, 2, 3, 4, 5, 6], (FpFmt.f16.round ⟨rnd, 0, false, false⟩ (-1) (-30)).2 &&& Flags.ovf = 0 := by decide +kernel

theorem witness_GalleySumsDoNotDependOnOrder :
    let l : List Contrib := [.val (.fin 3 0), .val (.fin (-5) (-20)), .val (.inf false)]
    let q := l.map fun x => (x.parts (-16)).2
    Galley.cls (Galley.ofM (2 ^ 124)) = 0 ∧ Galley.m (Galley.ofM (2 ^ 124)) + (q.filter (0 < ·)).sum ≤ 2 ^ 125 - 1 ∧
      -(2 ^ 125) ≤ Galley.m (Galley.ofM (2 ^ 124)) + (q.filter (· < 0)).sum := by decide +kernel

/-- Signed zeros, a signalling and a quiet NaN, an infinity and a subnormal of FP32 in lanes 0 to 4 of v4, and one in v6. -/
def fpState : State := withGang fun g => (((((g.setV 4 0 0x80000000).setV 4 1 0x7F800001).setV 4 2 0x7FC00000).setV 4 3 0xFF800000).setV 4 4 1).setV 6 3 0x7F800000

/-- The same with every trap enabled. -/
def fpTraps : State := fpState.modGang 0 0 fun g => { g with mode := g.mode ||| 0xF800#32 }

theorem witness_FloatArithmetic : ∀ s ∈ [fpState, fpTraps], ∀ i ∈ [Instr.faddShort S0, .fadd L0, .daddShort S0, .dadd L0, .hadd2Short S0, .hadd2 { L0 with fmt := 11 },
    .fmulShort S0, .fmul { L0 with rnd := 6, c := 8 }, .dmulShort S0, .dmul L0, .hmul2Short S0, .hmul2 L0, .ffma { L0 with c := 8 }, .dfma { L0 with c := 8 },
    .hfma2 { L0 with c := 8, fmt := 10, rnd := 5 }], ∃ c, Issues i s c ∧ c.g.level < 2 := by
  intro s hs
  fin_cases hs <;> exact issues_each (by decide +kernel)

/-- The sum of opposite infinities raises NV, which fpTraps enables and fpState does not. -/
theorem witness_FloatArithmetic_flags :
    (∃ c, Issues (.fadd L0) fpState c ∧ allFlags c 1 (fun lane j => (roundsOnce .f32 (.fadd L0) 1 (fun rnd => Val.sum rnd [fpA c (.fadd L0) .f32 32 lane j,
      fpB c (.fadd L0) .f32 32 lane j]) c lane j).2) &&& c.g.trapen = 0) ∧
    ∃ c, Issues (.fadd L0) fpTraps c ∧ (allFlags c 1 (fun lane j => (roundsOnce .f32 (.fadd L0) 1 (fun rnd => Val.sum rnd [fpA c (.fadd L0) .f32 32 lane j,
      fpB c (.fadd L0) .f32 32 lane j]) c lane j).2) &&& c.g.trapen).getLsbD 4 = true :=
  ⟨issues_of_check (by decide +kernel), issues_of_check (by decide +kernel)⟩

theorem witness_FloatSelectAndCompare : ∀ i ∈ [Instr.fminShort S0, .fmin L0, .fmaxShort S0, .fmax { L0 with sub := 1 }, .dminShort S0, .dmin L0, .dmaxShort S0, .dmax L0,
    .hmin2Short S0, .hmin2 { L0 with fmt := 11 }, .hmax2Short S0, .hmax2 L0, .fcmp { L0 with d := 0xE5, sub := 7 }, .dcmp { L0 with sub := 0x10, c := 0xE5 },
    .hcmp2 { L0 with fmt := 11, d := 0xE6, sub := 0x60 }, .hcmp2 L0], ∃ c, Issues i fpState c ∧ True := issues_each (by decide +kernel)

theorem witness_FloatFunctionsAndHelpers :
    (∀ i ∈ [Instr.ffunc { L0 with b := 0 }, .ffunc { L0 with b := 0, sub := 6 }, .dfunc { L0 with b := 0 }, .fmisc { L0 with b := 0, rnd := 5 },
      .fmisc { L0 with b := 0, sub := 1 }, .fmisc { L0 with sub := 2 }, .fmisc { L0 with b := 0, sub := 3 }, .fmisc { L0 with b := 0, sub := 4 },
      .fmisc { L0 with b := 0, sub := 4, d := 0xE5, imm := 0x3FF }, .dmisc { L0 with b := 0 }, .dmisc { L0 with b := 0, sub := 1 }, .dmisc { L0 with sub := 2 },
      .dmisc { L0 with b := 0, sub := 3 }, .dmisc { L0 with b := 0, sub := 4 }], ∃ c, Issues i fpState c ∧ True) ∧
    (FpFmt.f32 ∈ [FpFmt.f32, FpFmt.f64] ∧ (-100 : Int) ≤ 100 ∧ (100 : Int) ≠ 0) := ⟨issues_each (by decide +kernel), by decide⟩

/-- A gang whose v8 to v11 hold in lane 0 the largest galley word, with GOVT set. -/
def fullWindow (govt : Bool) : State := withGang fun g =>
  { ((((g.setV 8 0 0xFFFFFFFF).setV 9 0 0xFFFFFFFF).setV 10 0 0xFFFFFFFF).setV 11 0 0x1FFFFFFF).setV 4 0 0x3F800000 with
      mode := g.mode ||| if govt then 0x40000#32 else 0 }

theorem witness_ConversionsAndExactWindows :
    (∀ i ∈ [Instr.fdot2 { L0 with c := 8, fmt := 11 }, .idot4 { L0 with c := 8, sub := 3 }, .pack { L0 with imm := 0xFFFF }, .unpk { L0 with b := 0, fmt := 7, d := 4, a := 8 },
      .rng { L0 with d := 4, a := 8, b := 12 }, .xacc { L0 with d := 8, fmt := 8, sub := 1 }, .xcvtTo { L0 with d := 8, b := 0, fmt := 8 },
      .xcvtFrom { L0 with d := 8, a := 12, b := 0, fmt := 14, sub := 1, imm := 0x044CFB50 }], ∃ c, Issues i base c ∧ True) ∧
    (let f : Long := { L0 with b := 0, fmt := 6, sub := 0xC8 }
     ∃ c, Issues (.cvt f) fpState c ∧ allFlags c 1 (fun lane _ => (cvtElem c.g.mode (c.rcfg (.cvt f) .f32 lane 1 0) (fmtOf 8) (fmtOf 6)
      (elem (srcA c (.cvt f) 32 lane) 32 0)).2) &&& c.g.trapen = 0) ∧
    (let f : Long := { L0 with d := 8, b := 0, fmt := 8, imm := 0x0000 }
     (∃ c, Issues (.xacc f) (fullWindow true) c ∧ (c.g.govt = true ∧ c.g.level < 2 ∧ c.active.getLsbD 0 = true ∧
       (wadd (anchorVal 0) (BitVec.ofNat 128 (c.src none f.d 128 0)) (.val ((fmtOf f.fmt).exact (elem (c.src f.lit f.a 32 0) 32 0)))).2.2 = true)) ∧
     ∃ c, Issues (.xacc f) (fullWindow false) c ∧ c.g.govt = false) ∧
    (let f : Long := { L0 with a := 12, b := 0, fmt := 8, sub := 1 }
     ∃ c, Issues (.xcvtFrom f) base c ∧ (f.fmt ≠ 14 ∧ allFlags c 1 (fun lane _ => ((fmtOf f.fmt).convert { c.rcfg (.xcvtFrom f) .f32 lane 1 0 with
      ftz := (fmtOf f.fmt).ftz c.g.mode } (Galley.value (anchorVal (immF f 15 0)) (BitVec.ofNat 128 (srcA c (.xcvtFrom f) 128 lane)))).2) &&& c.g.trapen = 0)) := by
  refine ⟨issues_each ?_, issues_of_check ?_, ⟨issues_of_check ?_, issues_of_check ?_⟩, issues_of_check ?_⟩ <;> decide +kernel

theorem witness_LaneAndPredicateInstructions :
    (∀ i ∈ [Instr.shfl { L0 with sub := 2, imm := 5 }, .vote { L0 with a := 0xE5, b := 0, sub := 3 }, .match { L0 with b := 0, sub := 1 },
      .plop { L0 with d := 0xE5, a := 0xE6, b := 0xBC, c := 0xEB, sub := 0x96 }, .pmovSave { L0 with a := 0, b := 0 },
      .pmovLoad { L0 with d := 0, b := 0, sub := 1, imm := 0xFE }], ∃ c, Issues i base c ∧ True) ∧
    (∃ c, Issues (.redx { L0 with b := 0, fmt := 8 }) (withLanes 0x80000001) c ∧ (c.active ≠ 0 ∧
      treeOver (redStep c (.redx { L0 with b := 0, fmt := 8 })) (fun lane => if c.active.getLsbD lane then some (redIn c (.redx { L0 with b := 0, fmt := 8 }) lane) else none)
        5 0 = some ⟨0, 0, false⟩)) ∧
    (∃ c, Issues (.scan { L0 with b := 0 }) (withLanes 0x80000001) c ∧ c.active ≠ 0) ∧
    ∃ c, Issues (.scan { L0 with sub := 8 }) (withLanes 0x80000001) c ∧ (c.active ≠ 0 ∧ lowest c.active = 0) :=
  ⟨issues_each (by decide +kernel), issues_of_check (by decide +kernel), issues_of_check (by decide +kernel), issues_of_check (by decide +kernel)⟩

/-- An addition that writes v2 in lane 0 and leaves lane 1, which is not ACTIVE, alone. -/
theorem witness_RegisterInstructionFrame :
    (∃ o short, Instr.opc (.iadd L0) = some (o, short) ∧ o ≤ 0x3E) ∧
    (∃ c, Issues (.iadd L0) (withLanes 1) c ∧ (c.f.inBody c.g.level = false ∧ c.active.getLsbD 1 = false)) ∧
    ∃ t, exec (.iadd L0) (withLanes 1) = .next t ∧ (t.gang? 0 0).isSome = true := by
  exact ⟨⟨0x01, false, by decide, by decide⟩, issues_of_check (by decide +kernel), next_of_check (by decide +kernel)⟩
/-! ## Witnesses: encodings, steps and traps -/

theorem fetches_of_check {s : State} {k : Nat} {g : Gang} {a : Nat} {ws : List Word}
    (h : (List.range ws.length).all (fun j => match s.fetchWord k g.fetchFn (s.launchOf g) (a + 4 * j) with | .ok (w, none) => w == ws.getD j 0 | _ => false) = true) :
    Fetches s k g a ws := by
  intro j w hj
  have hl : j < ws.length := by
    by_contra hc
    simp [List.getElem?_eq_none (by omega : ws.length ≤ j)] at hj
  have := List.all_eq_true.mp h j (List.mem_range.mpr hl)
  split at this
  · rename_i x hx
    rw [hx]
    simp [List.getD, hj] at this
    rw [this]
  · exact absurd this (by simp)

/-- Both sides of a test on an optional value. -/
theorem some_of_check {α : Type} {o : Option α} {P : α → Prop} [DecidablePred P] (h : o.any (fun x => decide (P x)) = true) :
    ∃ x, o = some x ∧ P x := by
  cases o with
  | none => simp at h
  | some x => exact ⟨x, rfl, by simpa using h⟩

theorem witness_DecodeOfEncode : ∀ i ∈ [Instr.nopShort ⟨false, false, 0, 0, 0, none⟩, .iaddShort ⟨true, true, 79, 0xBF, 0xE3, some 1⟩,
    .hfma2 { L0 with pg := 7, pn := true, nwb := true, d := 175, c := 8, fmt := 10, rnd := 5, sat := true, sub := 0x3F },
    .ld { L0 with b := 0, fmt := 14, d := 172, imm := 0xFB3FFFFF }, .swr { L0 with d := 0, b := 0, imm := 0x20C, a := 0xBF, lit := some (BitVec.allOnes 64) }],
    Machine.Instr.opc i ≠ none ∧ i.wellFormed = true := by decide +kernel

/-- The fragment at an instruction that withFetchWord placed, and the same as the first body instruction of a LOOP of
three iterations, with its step word before it. -/
def atWord (n w : Nat) : State := State.reset.withFetchWord n w
def inLoop : State := (atWord 64 0x0C101004_00000001).modGang 0 0 fun g => { g with frags := g.frags.map fun f =>
  { f with pc := toPc (hostPage + 4), chead := toPc (hostPage + 4), loop := some ⟨hostPage + 4, 1, 3, 2, [hostPage + 4]⟩ } }

theorem witness_StepRunsDecoded :
    (∃ x rest g f ws i, Selected (atWord 96 0x00000002_0203BC04_00020005) x rest g f ∧ Fetches (atWord 96 0x00000002_0203BC04_00020005) x.core g (pcAddr f.pc) ws ∧
      ws.length = lenWords (ws.headD 0) ∧ f.stepWord g.level = none ∧ decode ws = .ok i) ∧
    ∃ x rest g f ws a k st i j, Selected inLoop x rest g f ∧ Fetches inLoop x.core g (pcAddr f.pc) ws ∧ ws.length = lenWords (ws.headD 0) ∧
      f.stepWord g.level = some (a, k) ∧ Fetches inLoop x.core g a [st] ∧ opcAssigned (ws.headD 0) = true ∧ parse (ws.headD 0) ws.tail = some i ∧
      stepInstr (highBits (ws.headD 0)) i st k = .ok j := by
  refine ⟨⟨⟨0, 0, 0⟩, [], _, _, [0x00020005, 0x0203BC04, 2], _, ⟨rfl, by decide +kernel, rfl, rfl, rfl, rfl, by decide +kernel, Or.inl (by decide +kernel), by decide +kernel⟩,
    fetches_of_check (by decide +kernel), by decide, by decide +kernel, rfl⟩, ?_⟩
  refine ⟨⟨0, 0, 0⟩, [], _, _, [0x0C101004], hostPage, 2, 1, _, _, ⟨rfl, ?_, rfl, rfl, rfl, rfl, ?_, Or.inl ?_, ?_⟩, fetches_of_check ?_,
    by decide, ?_, fetches_of_check ?_, by decide, rfl, rfl⟩ <;> decide +kernel
/-- An unassigned opcode and words whose fetch fails at the fragment's address. -/
theorem witness_UndecodableWordsTrap :
    (∃ c, base.ctx L0 = some c ∧ c.g.level < 2) ∧
    (∃ c, (withGang fun g => { g with level := 1, entry1 := true }).ctx L0 = some c ∧ (c.g.level < 2 ∧ c.g.level = 1 ∧ c.g.entry1 = true)) ∧
    (∃ x rest g f, Selected (atWord 32 0xFFFFFFFF) x rest g f ∧ Fetches (atWord 32 0xFFFFFFFF) x.core g (pcAddr f.pc) [0xFFFFFFFF] ∧
      opcAssigned 0xFFFFFFFF = false) ∧
    (∃ x rest g f, Selected { atWord 32 0 with tlb := [] } x rest g f ∧ ({ atWord 32 0 with tlb := [] } : State).fetchWord x.core g.fetchFn (({ atWord 32 0 with tlb := [] } : State).launchOf g) (pcAddr f.pc) = .error 0x13) ∧
    ∃ x rest g f ws i, Selected (atWord 96 0x00000000_00000000_800001B9) x rest g f ∧
      Fetches (atWord 96 0x00000000_00000000_800001B9) x.core g (pcAddr f.pc) ws ∧ ws.length = lenWords (ws.headD 0) ∧ opcAssigned (ws.headD 0) = true ∧
      parse (ws.headD 0) ws.tail = some i ∧ f.stepWord g.level = none ∧ decodeCause (highBits (ws.headD 0)) i = some 0x03 ∧ g.level < 2 := by
  refine ⟨ctx_of_check ?_, ctx_of_check ?_, ⟨⟨0, 0, 0⟩, [], _, _, ⟨rfl, ?_, rfl, rfl, rfl, rfl, ?_, Or.inl ?_, ?_⟩, fetches_of_check ?_,
    by decide⟩, ⟨⟨0, 0, 0⟩, [], _, _, ⟨rfl, ?_, rfl, rfl, rfl, rfl, ?_, Or.inl ?_, ?_⟩, rfl⟩, ⟨⟨0, 0, 0⟩, [], _, _, [0x800001B9, 0, 0], _, ⟨rfl, ?_, rfl, rfl, rfl, rfl, ?_, Or.inl ?_, ?_⟩, fetches_of_check ?_, by decide, by decide, rfl, ?_, ?_, ?_⟩⟩ <;> decide +kernel

theorem witness_StepKeepsInv : (atWord 32 0).Inv ∧ ∃ t, step (atWord 32 0) = .next t := ⟨by unfold State.Inv; decide +kernel, _, rfl⟩

/-- A group with one galley at the start of a scratchpad of 32 KiB. -/
def matrixState : State := withGroup (fun g => { g with kern := { g.kern with galleys := [(0, 0)], scratch := 32768 } }) base

/-- The engine belongs to slot sl. -/
def owned (sl : Nat) : State := withCore (fun c => { c with mxOwner := some sl }) matrixState

/-- No fields. -/
def N0 : Long := ⟨0, false, false, 0, 0, 0, 0, 0, 0, false, 0, 0, none⟩

theorem witness_InstructionsWaitUntilReady :
    (∃ c, (withGang fun g => { g with busy := [(4, 9)] }).ctx L0 = some c ∧
      (Machine.Instr.opc (.iadd L0) ≠ none ∧ c.operandCause (.iadd L0) = none ∧ c.loopNest (.iadd L0) = false ∧ c.ready (.iadd L0) = false)) ∧
    (let f : Long := ⟨0, false, false, 0, 0, 0, 0, 0, 0, false, 0, 0, none⟩
     ∃ c, (owned 1).ctx f = some c ∧ (Machine.Instr.opc (.mxacq f) ≠ none ∧ c.operandCause (.mxacq f) = none ∧ c.loopNest (.mxacq f) = false ∧
      c.ready (.mxacq f) = false ∧ c.isMatrixGroup = true ∧ c.ownsMx = false)) ∧
    ∃ c, base.ctx { N0 with pn := true } = some c ∧ (c.operandCause (.rgang { N0 with pn := true }) = none ∧ c.loopNest (.rgang { N0 with pn := true }) = false ∧
      c.ready (.rgang { N0 with pn := true }) = true ∧ c.voided (.rgang { N0 with pn := true }) = true ∧ pcAddr c.f.pc + 12 < 2 ^ 57 ∧ c.f.loop = none) :=
  ⟨ctx_of_check (by decide +kernel), ctx_of_check (by decide +kernel), ctx_of_check (by decide +kernel)⟩

/-- An index register that admits one register, with an index of the number given. -/
def indexed (n : Word) : State := withGang fun g => g.setX 0 0 (0x010000#32 ||| n)

theorem witness_CausesAndLevels :
    (∃ c, base.ctx L0 = some c ∧ (c.g.level < 2 ∧ c.g.level = 0 ∧ ∃ u ∈ (Instr.shape (.iadd { L0 with d := 0xB0 })).uses, privOperand u = true)) ∧
    (∃ c, (atLevel 1).ctx L0 = some c ∧ (c.g.level < 2 ∧ c.g.level < (Instr.shape (.srd { L0 with a := 0, b := 0, imm := 0x20C })).level)) ∧
    (∃ c, base.ctx L0 = some c ∧ (c.g.level < 2 ∧ readsLatch (.iadd { L0 with a := 0xE0 }) = true ∧ c.f.chead = c.f.pc)) ∧
    (∃ c, base.ctx L0 = some c ∧ (c.g.level < 2 ∧ ∃ u ∈ (Instr.shape (.iadd { L0 with d := 175, fmt := 2 })).uses, allocBad (16 * c.g.nblk) u = true)) ∧
    (∃ c, (indexed 1).ctx L0 = some c ∧ (c.g.level < 2 ∧ ∃ u ∈ (Instr.shape (.iadd { L0 with a := 0xB4 })).uses, isIx u.code = true ∧
      ∃ lane ∈ c.lanes, indexBad c.g (16 * c.g.nblk) u lane = true)) ∧
    (∃ c, ((atLevel 1).ctx L0 = some c) ∧ (c.g.level < 2 ∧ c.loopNest (.loop ⟨0, false, false, 0, 0, 0, 0, 0, 0, false, 0, 1, none⟩) = true ∧
      c.operandCause (.loop ⟨0, false, false, 0, 0, 0, 0, 0, 0, false, 0, 1, none⟩) = none)) ∧
    (∃ c, (atLevel 2).ctx L0 = some c ∧ (c.g.level = 2 ∧ (c.operandCause (.iadd { L0 with a := 0xE0 })).isSome = true)) ∧
    ∃ g, base.gang? 0 0 = some g ∧ True := by
  refine ⟨ctx_of_check ?_, ctx_of_check ?_, ctx_of_check ?_, ctx_of_check ?_, ctx_of_check ?_, ctx_of_check ?_, ctx_of_check ?_,
    some_of_check ?_⟩ <;> decide +kernel

/-- A gang at a level whose trap registers of that level hold a return address and a status. -/
def inTrap (level : Nat) (epc : Quad) (status : Word) : State := withGang fun g =>
  if level = 1 then { g with level := 1, t1 := ⟨0, epc, 0, 0, status⟩ } else { g with level := 2, t2 := ⟨0, epc, 0, 0, status⟩ }

theorem witness_TrapsAndReturns :
    (∀ i ∈ [Instr.trap { N0 with imm := 0xFFFF }, .bkpt { N0 with imm := 0xFFFF }], ∃ c, Issues i base c ∧ (c.active ≠ 0 ∧ c.g.level < 2)) ∧
    (∃ c, Issues (.rte N0) (inTrap 2 0 0x300) c ∧ (c.active ≠ 0 ∧ c.g.level = 2 ∧ bits c.g.t2.status.toNat 10 8 = 3 ∧ c.k < 1024)) ∧
    (∃ c, Issues (.rte N0) (inTrap 1 0 0x2000) c ∧ (c.active ≠ 0 ∧ c.g.level = 1 ∧ bits c.g.t1.status.toNat 10 8 = 0 ∧ c.g.t1.status.getLsbD 13 = true)) ∧
    (∃ c, Issues (.rte N0) (inTrap 2 0 0x4000) c ∧ (c.active ≠ 0 ∧ bits c.g.t2.status.toNat 10 8 = 0 ∧ c.g.t2.status.getLsbD 14 = true)) ∧
    (∃ c, Issues (.rte N0) (inTrap 1 0x10001 0) c ∧ (c.active ≠ 0 ∧ bits c.g.t1.status.toNat 10 8 = 0 ∧ c.g.t1.status.getLsbD 13 = false ∧
      c.g.t1.status.getLsbD 14 = false ∧ c.g.t1.epc.toNat % 4 ≠ 0)) ∧
    (∃ c, Issues (.rte N0) (inTrap 1 0x0200000000000000 0) c ∧ (c.active ≠ 0 ∧ c.g.t1.epc.toNat % 4 = 0 ∧ 2 ^ 57 ≤ c.g.t1.epc.toNat)) ∧
    (∃ c, Issues (.rte N0) (inTrap 1 0x01FFFFFFFFFFFFFC 0) c ∧ (c.active ≠ 0 ∧ c.g.t1.epc.toNat % 4 = 0 ∧ c.g.t1.epc.toNat < 2 ^ 57)) ∧
    (∃ c, Issues (.rte N0) ((inTrap 2 0x10000 0).modGang 0 0 fun g => { g with frags := g.frags.map fun f => { f with loop := some ⟨0x10000, 1, 3, 2, [0x10000]⟩ } }) c ∧
      (c.active ≠ 0 ∧ c.f.loop = some ⟨0x10000, 1, 3, 2, [0x10000]⟩)) ∧
    ∃ c, Issues (.rte N0) (inTrap 2 0x10000 0x110) c ∧ (c.active ≠ 0 ∧ bits c.g.t2.status.toNat 10 8 = 1 ∧ bits c.g.t2.status.toNat 5 4 = 1) := by
  refine ⟨issues_each ?_, issues_of_check ?_, issues_of_check ?_, issues_of_check ?_, issues_of_check ?_, issues_of_check ?_,
    issues_of_check ?_, issues_of_check ?_, issues_of_check ?_⟩ <;> decide +kernel

theorem witness_SpecialRegisters :
    (∀ i ∈ [0x001, 0x002, 0x003, 0x004, 0x005, 0x006, 0x007, 0x008, 0x009, 0x00A, 0x00B, 0x00C, 0x00D, 0x00E, 0x00F, 0x010, 0x011, 0x012, 0x013, 0x100,
      0x101, 0x102, 0x103, 0x104, 0x105, 0x200, 0x201, 0x202, 0x203, 0x204, 0x205, 0x206, 0x207, 0x208, 0x209, 0x20A, 0x20B, 0x20C].map
      (fun n => Instr.srd { N0 with d := 2, imm := BitVec.ofNat 32 n }), ∃ c, Issues i (atLevel 2) c ∧ c.active ≠ 0) ∧
    (∀ i ∈ [0x001, 0x00C, 0x100, 0x101, 0x102, 0x103, 0x104, 0x105, 0x200, 0x201, 0x202, 0x203, 0x204, 0x205, 0x206, 0x207, 0x208, 0x209, 0x20A, 0x20B,
      0x20C].map (fun n => Instr.swr { N0 with a := 0xBF, imm := BitVec.ofNat 32 n, lit := some (BitVec.allOnes 64) }),
      ∃ c, Issues i (atLevel 2) c ∧ c.active ≠ 0) ∧
    ∃ c, Issues (.swr { N0 with a := 4, imm := 0xC }) (withGang fun g => { g with newFlAt := 1 }) c ∧ (c.active ≠ 0 ∧ c.g.newFlAt ≠ c.st.cycle) :=
  ⟨issues_each (by decide +kernel), issues_each (by decide +kernel), issues_of_check (by decide +kernel)⟩

/-- A gang at level 2 of function 0, whose stage 2 maps intermediate addresses below 128 KiB onto 128 KiB from 0x1000000,
with the tables at 0x800000 to 0x804000 (R364). -/
def frameState : State :=
  let s := (atLevel 2).modFunc 0 fun f => { f with s2root := 0x800001#64 }
  let entries : List (Nat × Nat) := [(0x800000, 0x801001), (0x801000, 0x802001), (0x802000, 0x803001), (0x803000, 0x804001), (0x804000, 0x100000F), (0x804008, 0x101000F)]
  { s with mem := entries.foldl (fun m e => Memory.write m e.1 8 e.2) s.mem,
           frames := Cells.put (Cells.put (Cells.put s.frames 0x80 { s.frame 0 with keyid := 0, vld := BitVec.allOnes 16 }) 0x100 ⟨s.keyOf 0, 0, 0, 0xFFFF⟩)
             0x101 ⟨s.keyOf 0, 0, 0, 0xFFFF⟩ }

theorem witness_SaveAndRestoreRegisters :
    (∀ f ∈ [{ N0 with a := 0xBC, imm := 10 }, { N0 with a := 0xBC, sub := 1 }, { N0 with a := 0xBC, sub := 2 }, { N0 with a := 0xBC, sub := 3 },
      { N0 with a := 0xBC, sub := 4 }], ∃ c pa, Issues (.ctxs f) frameState c ∧ c.active ≠ 0 ∧ FrameAt c f ⟨false, true, false⟩ pa ∧ (frameState.px c.g.fn).en = false) ∧
    ∀ f ∈ [{ N0 with a := 0xBC, imm := 10 }, { N0 with a := 0xBC, sub := 1 }, { N0 with a := 0xBC, sub := 2 }, { N0 with a := 0xBC, sub := 3 },
      { N0 with a := 0xBC, sub := 4 }], ∃ c pa, Issues (.ctxr f) frameState c ∧ c.active ≠ 0 ∧ FrameAt c f ⟨true, false, false⟩ pa ∧
        ∀ n < frameWords f, frameState.spoilt 0 (pa + 4 * n) = false := by
  have h : ∀ acc : Rights, ∀ f, ∀ i, ∀ P : Prop, (∃ c, Issues i frameState c ∧ (c.active ≠ 0 ∧ (c.src f.lit f.a 64 (lowest c.active) % 131072 = 0 ∧
      c.st.translateIa (.core c.k) c.g.fn (c.src f.lit f.a 64 (lowest c.active) + frameOffset f) acc = .ok (.dev (0x1000000 + frameOffset f)) ∧
      c.st.keyOk (c.st.keyOf c.g.fn) (0x1000000 + frameOffset f) = true) ∧ (frameState.px c.g.fn).en = false)) → P →
      ∃ c, Issues i frameState c ∧ c.active ≠ 0 ∧ FrameAt c f acc (0x1000000 + frameOffset f) ∧ (frameState.px c.g.fn).en = false ∧ P :=
    fun acc f i P ⟨c, hi, ha, hf, hp⟩ q => ⟨c, hi, ha, hf, hp, q⟩
  refine ⟨fun f hf => ?_, fun f hf => ?_⟩
  · obtain ⟨c, hi, ha, hq, hp, _⟩ := h ⟨false, true, false⟩ f (.ctxs f) True (by fin_cases hf <;> exact issues_of_check (by decide +kernel)) trivial
    exact ⟨c, _, hi, ha, hq, hp⟩
  · obtain ⟨c, hi, ha, hq, _, hr⟩ := h ⟨true, false, false⟩ f (.ctxr f) (∀ n < frameWords f, frameState.spoilt 0 (0x1000000 + frameOffset f + 4 * n) = false)
      (by fin_cases hf <;> exact issues_of_check (by decide +kernel)) (fun n _ => by simp [State.spoilt, show ∀ pa, frameState.poisoned pa = false from fun _ => rfl])
    exact ⟨c, _, hi, ha, hq, hr⟩
/-! ## Witnesses: control instructions and gangs -/

/-- The fields of word 1 that give a join. -/
def withJoin (f : Long) (b : BitVec 8) : Long := { f with b := b }

theorem witness_BranchesSplitByTarget :
    (∀ i ∈ [Instr.bra { withJoin N0 5 with pg := 1, imm := 3 }, .call { N0 with d := 30, imm := 0x20 }, .brx { N0 with a := 0xBF, lit := some 0x10000 },
      .ret { N0 with a := 4 }], ∃ c, Issues i base c ∧ (c.g.level = 0 ∧ (∀ lane < 32, (c.active.getLsbD lane && decide (branchTarget c i lane % 4 ≠ 0)) = false ∧
        (c.active.getLsbD lane && (decide (branchTarget c i lane < 0) || decide ((2 : Int) ^ 57 ≤ branchTarget c i lane))) = false) ∧
        pcAddr c.f.pc + 4 * Instr.words i < 2 ^ 57)) ∧
    (∃ c, Issues (.bra { N0 with imm := 3 }) (atLevel 1) c ∧ (0 < c.g.level ∧ branchTarget c (.bra { N0 with imm := 3 }) 31 = 0x1000C)) ∧
    (∃ c, Issues (.brx { N0 with a := 0xBF, lit := some 0x10002 }) base c ∧ (c.g.level < 2 ∧ ∃ lane < 32, (c.active.getLsbD lane &&
      decide (branchTarget c (.brx { N0 with a := 0xBF, lit := some 0x10002 }) lane % 4 ≠ 0)) = true)) ∧
    (∃ c, Issues (.brx { N0 with a := 0xBF, lit := some 0x0200000000000000 }) base c ∧ (c.g.level < 2 ∧ (∀ lane < 32, (c.active.getLsbD lane &&
      decide (branchTarget c (.brx { N0 with a := 0xBF, lit := some 0x0200000000000000 }) lane % 4 ≠ 0)) = false) ∧
      (2 : Int) ^ 57 ≤ branchTarget c (.brx { N0 with a := 0xBF, lit := some 0x0200000000000000 }) 0)) ∧
    ∃ c, Issues (.bra { N0 with imm := 0xFFFF0000 }) base c ∧ (c.g.level < 2 ∧ branchTarget c (.bra { N0 with imm := 0xFFFF0000 }) 0 < 0) := by
  refine ⟨issues_each ?_, issues_of_check ?_, issues_of_check ?_, issues_of_check ?_, issues_of_check ?_⟩ <;> decide +kernel

/-- A fragment in the second body instruction of a LOOP with two, in iteration k of 5. -/
def inBodyState (k : Nat) (second : Bool) : State := withGang fun g => { g with frags := g.frags.map fun f =>
  { f with pc := toPc (if second then 0x10004 else 0x10000), chead := toPc 0x10000,
           loop := some ⟨0x10000, 2, 5, k, if second then [0x10000, 0x10004] else [0x10000]⟩ } }

/-- A gang of two fragments, of the lower and the upper half of its lanes, the second with what `h` makes of it. -/
def twoFrags (h : Frag → Frag) : State := withGang fun g => { g with nextFid := 2, frags := g.frags.flatMap fun f =>
  [{ f with mask := 0x0000FFFF }, h { f with mask := 0xFFFF0000, fid := 1 }] }

theorem witness_FragmentControlAndLoops :
    (∃ c, Issues (.rgang N0) base c ∧ c.g.level = 0) ∧
    (∃ c, Issues (.rgang N0) (atLevel 1) c ∧ (0 < c.g.level ∧ pcAddr c.f.pc + 12 < 2 ^ 57)) ∧
    (∃ c, Issues (.loop { N0 with imm := 0x10000, sub := 0x1F }) base c ∧ (1 ≤ immF { N0 with imm := 0x10000, sub := 0x1F } 16 0 ∧
      immF { N0 with imm := 0x10000, sub := 0x1F } 16 0 ≤ 65536)) ∧
    (∃ c, Issues (.loopR { N0 with a := 4, sub := 0x20 }) (withGang fun g => g.setV 4 0 0x10001) c ∧
      (c.g.level < 2 ∧ 65536 < c.src none 4 32 (lowest c.active))) ∧
    (∃ c, Issues (.loop N0) base c ∧ (∃ a ∈ [(0x10014 : Nat)], base.walkBody c.k c.g.fetchFn (base.launchOf c.g) 1 (pcAddr c.f.pc + 16) = .ok a)) ∧
    (∃ c, Issues (.exitShort ⟨false, false, 0, 0, 0, none⟩) (twoFrags id) c ∧ (c.f.mask &&& ~~~c.active = 0 ∧ ∃ x ∈ c.g.frags, x.fid ≠ c.f.fid)) ∧
    (∃ c, Issues (.exit { N0 with pg := 1, pn := true }) (withGang fun g => g.setP 1 1) c ∧ c.f.mask &&& ~~~c.active ≠ 0) ∧
    (∃ c, Issues (.exit N0) base c ∧ (c.f.mask &&& ~~~c.active = 0 ∧ ∀ x ∈ c.g.frags, x.fid = c.f.fid)) ∧
    (∀ i ∈ [Instr.yieldShort ⟨false, false, 0, 0, 0, none⟩, .yield N0], ∃ c, Issues i base c ∧ (c.f.loop = none ∧ pcAddr c.f.pc + 12 < 2 ^ 57)) ∧
    (∃ c, Issues (.iaddShort S0) (inBodyState 0 false) c ∧ (c.f.loop = some ⟨0x10000, 2, 5, 0, [0x10000]⟩ ∧ c.g.level = 0 ∧ c.f.pc = toPc 0x10000)) ∧
    (∃ c, Issues (.iaddShort S0) (inBodyState 3 true) c ∧ (c.f.loop = some ⟨0x10000, 2, 5, 3, [0x10000, 0x10004]⟩ ∧ c.f.pc = toPc 0x10004)) ∧
    (∃ c, Issues (.iaddShort S0) (inBodyState 4 true) c ∧ c.f.loop = some ⟨0x10000, 2, 5, 4, [0x10000, 0x10004]⟩) ∧
    ∃ t, exec (.iaddShort S0) (inBodyState 4 true) = .next t ∧ (t.gang? 0 0).any (fun g => decide (g.seq = 1)) = true := by
  refine ⟨issues_of_check ?_, issues_of_check ?_, issues_of_check ?_, issues_of_check ?_, issues_of_check ?_, issues_of_check ?_,
    issues_of_check ?_, issues_of_check ?_, issues_each ?_, issues_of_check ?_, issues_of_check ?_, issues_of_check ?_, next_of_check ?_⟩ <;> decide +kernel

/-- Both fragments wait: the first at its join, the second as given. -/
def waiting (w : Wait) (cyc : Nat) : State := (twoFrags fun f => { f with wait := w, waitCyc := cyc, jv := true, join := f.pc }).modGang 0 0 fun g =>
  { g with frags := g.frags.map fun f => if f.fid = 0 then { f with wait := if w = .rgang then .rgang else .join, jv := true, join := f.pc } else f }

theorem witness_FragmentsMerge :
    (∃ g, (waiting .join 0).gang? 0 0 = some g ∧ (g.merges = true ∧ (∃ x ∈ g.frags, atJoinAt 0x10000 x = true) ∧
      (∀ x ∈ g.frags, x.wait ≠ .join → x.wait ≠ .rgang → x.jv = true → 0x10000 < pcAddr x.join) ∧ ∀ x ∈ g.frags, x.wait = .join → 0x10000 ≤ pcAddr x.pc)) ∧
    (∃ g, (waiting .rgang 0).gang? 0 0 = some g ∧ (g.merges = true ∧ (∀ y ∈ g.frags, y.wait = .rgang) ∧ (g.frags.find? (fun y => y.wait == .rgang)).isSome = true)) ∧
    (∃ g, (waiting .join 4096).gang? 0 0 = some g ∧ (g.merges = true ∧ (g.frag? 1).any (fun f => decide (4096 ≤ f.waitCyc) && f.wait == .join) = true)) ∧
    (∃ g, (waiting .rgang 4096).gang? 0 0 = some g ∧ (g.merges = true ∧ (g.frag? 1).any (fun f => decide (4096 ≤ f.waitCyc) && f.wait == .rgang) = true)) ∧
    (∃ g, (twoFrags fun f => { f with defer := 8 }).gang? 0 0 = some g ∧ (g.frag? 1).any (fun f => decide (8 ≤ f.defer) && f.urg.isNone) = true) ∧
    ∃ g, ({ withGang fun g => { g with yieldEnd := 16 } with cycle := 17 } : State).gang? 0 0 = some g ∧ g.yieldEnd < 17 := by
  refine ⟨some_of_check ?_, some_of_check ?_, some_of_check ?_, some_of_check ?_, some_of_check ?_, some_of_check ?_⟩ <;> decide +kernel

/-- A gang that waits at a BAR with the operands, in a group of `n` gangs of which those in `arrived` have arrived. -/
def atBar (b : BarArg) (n : Nat) (arrived : List Nat) (count : Option Nat) : State :=
  withGroup (fun g => { g with kern := { g.kern with gangs := n }, live := List.range n, bars := [(b.id, ⟨arrived, count, arrived⟩)] })
    (withGang fun g => { g with frags := g.frags.map fun f => { f with wait := .bar b } })

/-- A gang stands in slot 0 of core 0 in the group of that name, and they fulfil a condition. -/
def gangAndGroup (s : State) (p : Gang → Group → Bool) : Bool := (s.gang? 0 0).any fun g => (s.group? g.group).any fun x => p g x

theorem gangAndGroup_spec {s : State} {P : Gang → Group → Prop} [∀ g x, Decidable (P g x)] (h : gangAndGroup s (fun g x => decide (P g x)) = true) :
    ∃ g x, s.gang? 0 0 = some g ∧ s.group? g.group = some x ∧ P g x := by
  unfold gangAndGroup at h
  rw [Option.any_eq_true] at h
  obtain ⟨g, hg, h⟩ := h
  rw [Option.any_eq_true] at h
  obtain ⟨x, hx, h⟩ := h
  exact ⟨g, x, hg, hx, by simpa using h⟩

/-- Two fragments that wait at BARs of different barriers. -/
def twoBars : State := (twoFrags fun f => { f with wait := .bar ⟨false, 14, 0, 1⟩ }).modGang 0 0 fun g =>
  { g with frags := g.frags.map fun f => if f.fid = 0 then { f with wait := .bar ⟨false, 15, 0, 1⟩ } else f }

theorem witness_GangsArriveAtBarriers :
    (∃ g x, (atBar ⟨false, 15, 0, 1⟩ 2 [] none).gang? 0 0 = some g ∧ (atBar ⟨false, 15, 0, 1⟩ 2 [] none).group? g.group = some x ∧
      ((∃ f ∈ g.frags, f.wait = .bar ⟨false, 15, 0, 1⟩) ∧ g.stopped = false ∧ g.halt = none ∧ g.olog = [] ∧ (x.bar 15).arrived.length + 1 < x.live.length ∧
        (x.bar 15).count = none)) ∧
    (∃ g x, (atBar ⟨true, 0, 2, 1⟩ 2 [1] (some 2)).gang? 0 0 = some g ∧ (atBar ⟨true, 0, 2, 1⟩ 2 [1] (some 2)).group? g.group = some x ∧
      ((∃ f ∈ g.frags, f.wait = .bar ⟨true, 0, 2, 1⟩) ∧ 2 ≤ x.kern.gangs ∧ (x.bar 0).count = some 2 ∧ 2 ≤ (x.bar 0).arrived.length + 1 ∧ x.core = 0)) ∧
    (∃ g x, (atBar ⟨false, 0, 2, 1⟩ 1 [] none).gang? 0 0 = some g ∧ (atBar ⟨false, 0, 2, 1⟩ 1 [] none).group? g.group = some x ∧
      ((∃ f ∈ g.frags, f.wait = .bar ⟨false, 0, 2, 1⟩) ∧ ¬ 2 ≤ x.kern.gangs ∧ g.level < 2)) ∧
    (∃ g x, (twoBars).gang? 0 0 = some g ∧ twoBars.group? g.group = some x ∧ ((∃ f ∈ g.frags, f.wait = .bar ⟨false, 15, 0, 1⟩) ∧
      (∃ f ∈ g.frags, f.wait = .bar ⟨false, 14, 0, 1⟩) ∧ g.stopped = false ∧ g.halt = none ∧ g.level < 2)) ∧
    (∀ b ∈ [(⟨false, 15, 0, 1⟩ : BarArg), ⟨true, 0, 2, 1⟩, ⟨false, 0, 2, 1⟩], ∀ n < 3, ((atBar b n [] none).gang? 0 0).all (fun g => (g.priorTo g.level ((atBar b n [] none).gangReqs 0 0)).isEmpty) = true) := by
  refine ⟨gangAndGroup_spec ?_, gangAndGroup_spec ?_, gangAndGroup_spec ?_, gangAndGroup_spec ?_, ?_⟩ <;> decide +kernel

/-- A request of the gang of slot 0 of core 0, that nothing came before, for lane 0 at an address. -/
def req0 (i : Instr) (tgt : Target) (addr data : Nat) : Req :=
  { core := 0, slot := 0, gen := 0, fn := 0, group := 0, seq := 0, instr := i, active := 1, lanes := [⟨0, addr, 0, 2, data, 0⟩], buf := 0, size := 4,
    line := addr / 128 * 128, tgt := tgt, rd := true, wr := false, ord := 0, scope := 0, pxmt := false, level := 0, sent := some 0, mute := false, own := .gang, cls := 1,
    fences := [], turn := 0, entry := false, part := false }

theorem at_of_check {s : State} {P : Ctx → Prop} [DecidablePred P]
    (h : (s.gang? 0 0).any (fun g => (g.frag? 0).any fun f => decide (P { st := s, k := 0, sl := 0, g := g, f := f, active := 0 })) = true) :
    ∃ c, At s 0 0 0 c ∧ P c := by
  rw [Option.any_eq_true] at h
  obtain ⟨g, hg, h⟩ := h
  rw [Option.any_eq_true] at h
  obtain ⟨f, hf, h⟩ := h
  exact ⟨{ st := s, k := 0, sl := 0, g := g, f := f, active := 0 }, ⟨rfl, rfl, rfl, hg, hf⟩, by simpa using h⟩

/-- The next instruction of the gang writes v2, for which a parked load is to bring a value. -/
def parkedState : State := (atWord 32 0x0C101004).modGang 0 0 fun g =>
  { g with olog := [⟨0, [req0 (.ld { L0 with b := 0 }) (.dev 0) 0x20000 0], none, 0x13, 0x20000, false, 0⟩] }

theorem witness_ReportsAreTaken :
    (∃ c, At (withGang fun g => { g with canc := some 3 }) 0 0 0 c ∧ ((withGang fun g => { g with canc := some 3 }).takesReport c.g c.f = true ∧ c.g.canc = some 3)) ∧
    (∃ c, At (withGang fun g => { g with defq := [⟨0x1D, 5⟩], lost := true }) 0 0 0 c ∧
      ((withGang fun g => { g with defq := [⟨0x1D, 5⟩], lost := true }).takesReport c.g c.f = true ∧ c.g.canc = none ∧ c.g.defq = [⟨0x1D, 5⟩] ∧ c.g.lost = true)) ∧
    (∃ c, At parkedState 0 0 0 c ∧ (parkedState.takesParked 0 0 c.g c.f = true ∧ c.g.olog.length = 1 ∧ (c.g.olog.all fun e => !e.taken) = true)) ∧
    (∃ c, At (withGang fun g => { g with mode := g.mode ||| 0x80000, frags := g.frags.map fun f => { f with stepDue := true } }) 0 0 0 c ∧
      (withGang fun g => { g with mode := g.mode ||| 0x80000, frags := g.frags.map fun f => { f with stepDue := true } }).takesStep 0 c.g c.f = true) ∧
    (∃ c, At (withCore (fun co => { co with watchA := 0xC000000000010000, watchM := 0x01FFFFFFFFFFFFFF }) base) 0 0 0 c ∧
      (withCore (fun co => { co with watchA := 0xC000000000010000, watchM := 0x01FFFFFFFFFFFFFF }) base).breaks 0 c.g c.f = true) ∧
    (∃ g, base.gang? 0 0 = some g ∧ g.defq.length < 8) ∧
    ∃ g, (withGang fun g => { g with defq := List.replicate 8 ⟨0x3F, 1⟩ }).gang? 0 0 = some g ∧ 8 ≤ g.defq.length := by
  refine ⟨at_of_check ?_, at_of_check ?_, at_of_check ?_, at_of_check ?_, at_of_check ?_, some_of_check ?_,
    some_of_check ?_⟩ <;> decide +kernel
/-- A gang with a halt request, requested or taken. -/
def halting (taken : Bool) : State := withGang fun g => { g with halt := some ⟨0x35, 0x20000, taken⟩ }

/-- The gang of group 0 is saved, with a record of 32 split-table entries at frame 0 whose VERSION has major version `v`; its
slot is free. Stage 2 maps the first GiB onto itself, with its tables at 0x2000000 to 0x2002000 (R364). -/
def savedState (v : Byte) : State :=
  { State.reset with
    groups := [(0, hostGroup)], launches := [(0, hostLaunch)], graphs := [(0, hostGraph)],
    cores := [(1024, { Core.reset with gangs := [(0, { newGang hostGroup 0 0 with halt := some ⟨0x36, 0, true⟩ })] })],
    funcs := [(0, { Func.reset with enabled := true, s2root := 0x2000001#64 })],
    mem := [(2, v), (5, 32), (0x2000000, 1), (0x2000001, 16), (0x2000003, 2), (0x2001000, 1), (0x2001001, 32), (0x2001003, 2), (0x2002000, 15)], frames := [(0, ⟨0, 0, 0, 0xFFFF⟩), (0x200, ⟨0, 0, 0, 0xFFFF⟩)] }

/-- Group 0 is being halted, and its gang is saved; or it has been saved whole. -/
def groupReadyState : State := withGroup (fun g => { g with halting := true }) (savedState 1)
def groupSavedState : State :=
  { savedState 1 with groups := [], saved := [(0, { group := { hostGroup with halting := true }, frame := 0, tile := [], tileWritten := 0 })] }

/-- Two gangs of one group, in slots 0 and 1 of core 0. -/
def twoGangs : State := withCore (fun co => { co with gangs := co.gangs ++ [(1, newGang hostGroup 0 1)] }) base

theorem witness_GangsAreHaltedAndRestored :
    ((twoGangs.othersOf 0 0 0)[0]? = some (0, 1) ∧ (twoGangs.gang? 0 1).any (fun y => y.halt.isNone && !y.stopped) = true) ∧
    (∃ g, base.gang? 0 0 = some g ∧ (g.halt = none ∧ g.stopped = false)) ∧
    (∃ g, (halting false).gang? 0 0 = some g ∧ ((g.frag? 0).isSome = true ∧ g.halt = some ⟨0x35, 0x20000, false⟩ ∧ g.level < 2 ∧ g.stopped = false)) ∧
    (∃ g, (halting true).gang? 0 0 = some g ∧ (g.halt = some ⟨0x35, 0x20000, true⟩ ∧ g.level < 2 ∧ (halting true).quiesced 0 0 = true)) ∧
    (∃ g, (savedState 1).gang? 1024 0 = some g ∧ (g.halt = some ⟨0x36, 0, true⟩ ∧ g.stopped = false ∧
      ((savedState 1).freeSlots 0).contains 31 = true ∧ (savedState 1).recordBad 0 g.fn 0 = false ∧
      ((savedState 1).group? 0).any (fun x => decide (x.core = 0)) = true)) ∧
    (∃ g, (savedState 2).gang? 1024 0 = some g ∧ (g.stopped = false ∧ (savedState 2).recordBad 0 g.fn 0 = true)) ∧
    (groupReadyState.setOf 0 ≠ [] ∧ (groupReadyState.setOf 0).all groupReadyState.groupReady = true) ∧
    groupSavedState.restorable 0 0 = true := by
  refine ⟨?_, some_of_check ?_, some_of_check ?_, some_of_check ?_, some_of_check ?_, some_of_check ?_, ?_, ?_⟩ <;> decide +kernel
/-! ## Witnesses: memory instructions and the fabric -/

/-- Buffer record 2 covers 64 KiB from the mapped page, with a stride of 4; v4 of lane i is i. -/
def recWord (base extent stride extra : Nat) : Galley := BitVec.ofNat 128 (base + extent * 2 ^ 64 + stride * 2 ^ 104 + extra)
def memRec (w : Galley) : State := withGang fun g => (List.range 32).foldl (fun g i => g.setV 4 i (BitVec.ofNat 32 i)) (g.setB 2 w)
def memState : State := memRec (recWord 0x10000 0x10000 32 0)

/-- The group's scratchpad has 1 MiB. -/
def scratchState : State := withGroup (fun g => { g with kern := { g.kern with scratch := 1048576 } }) memState

/-- Long forms of memory instructions through record 2. -/
def M0 : Long := { N0 with a := 4, imm := 0x20000000 }

theorem witness_AtomicsAndScratchpads :
    (fmtOf 3 = .int ⟨64, false⟩ ∧ (3 : BitVec 4).toNat ≤ 3 ∧ 2 ^ 64 - 1 < 2 ^ (⟨64, false⟩ : IntFmt).w) ∧ (fmtOf 11 = .fp .bf16 ∧ 1 < 2) ∧
    (∃ c, Issues (.lds { N0 with d := 8, a := 4, fmt := 6 }) scratchState c ∧ ((∀ lane ∈ c.lanes, scratchAddr c .load { N0 with d := 8, a := 4, fmt := 6 } lane < 2 ^ 20 ∧
      scratchAddr c .load { N0 with d := 8, a := 4, fmt := 6 } lane + 1 ≤ 1048576) ∧ c.g.racew = false ∧ (c.st.core c.k).watchA.getLsbD 63 = false ∧
      (c.st.group? c.g.group).any (fun x => decide (x.kern.scratch = 1048576)) = true)) ∧
    (∃ c, Issues (.sts { N0 with a := 0xBF, b := 4, imm := 0x3FFFFC, lit := some 0x100000 }) scratchState c ∧
      (∀ lane ∈ c.lanes, scratchAddr c .store { N0 with a := 0xBF, b := 4, imm := 0x3FFFFC, lit := some 0x100000 } lane = 0xFFFFC)) ∧
    ∃ c, Issues (.atoms { N0 with d := 8, a := 0xBC, b := 4, sub := 5, imm := 0x02000000 }) scratchState c ∧
      (∀ lane ∈ c.lanes, scratchAddr c .atomic { N0 with d := 8, a := 0xBC, b := 4, sub := 5, imm := 0x02000000 } lane = 0) :=
  ⟨by decide, by decide, issues_of_check (by decide +kernel), issues_of_check (by decide +kernel), issues_of_check (by decide +kernel)⟩

/-- Clause by clause whether the checks pass. -/
def passesB (c : Ctx) (k : MemKind) (f : Long) : Bool :=
  decide ((recOf c f).base + (recOf c f).extent ≤ 2 ^ 57) && decide ((recOf c f).swz ≤ 3) && decide ((recOf c f).ronly = true → accWrite k f = false) &&
    decide (∀ lane : Nat, lane < 32 → takesPart c k lane = true → inBounds c k f lane = true → addressOf c k f lane % accSize k f = 0) &&
    (modeOobz c.g.mode || decide (∀ lane : Nat, lane < 32 → takesPart c k lane = true → inBounds c k f lane = true)) && !(c.st.core c.k).watchA.getLsbD 63

theorem passes_of_check {c : Ctx} {k : MemKind} {f : Long} (h : passesB c k f = true) : Passes c k f := by
  unfold passesB at h
  simp only [Bool.and_eq_true, Bool.or_eq_true, decide_eq_true_eq, Bool.not_eq_true', and_assoc] at h
  obtain ⟨extent, swz, ronly, aligned, oobz, watch⟩ := h
  exact ⟨extent, swz, ronly, aligned, oobz, watch⟩

/-- The checks pass, and the lines of all lanes that access translate to device memory. -/
def SendsAll (s : State) (k : MemKind) (f : Long) (c : Ctx) : Prop :=
  Passes c k f ∧ ∀ lane : Nat, lane < 32 → (takesPart c k lane = true ∧ inBounds c k f lane = true) →
    s.translate (.core c.k) c.g.fn (lineOf c k f lane) (accRights k f) = .ok (.dev (lineOf c k f lane), none)

theorem sends_of_check {s : State} {k : MemKind} {f : Long} {i : Instr} (h : issuesWith s (fun c => passesB c k f && decide (∀ lane : Nat, lane < 32 →
    (takesPart c k lane = true ∧ inBounds c k f lane = true) →
      s.translate (.core c.k) c.g.fn (lineOf c k f lane) (accRights k f) = .ok (.dev (lineOf c k f lane), none))) i = true) :
    ∃ c, Issues i s c ∧ SendsAll s k f c := by
  obtain ⟨c, hc, hp⟩ := issues_of_check (P := fun c => (passesB c k f && decide (∀ lane : Nat, lane < 32 →
    (takesPart c k lane = true ∧ inBounds c k f lane = true) →
      s.translate (.core c.k) c.g.fn (lineOf c k f lane) (accRights k f) = .ok (.dev (lineOf c k f lane), none))) = true) (by simpa using h)
  rw [Bool.and_eq_true, decide_eq_true_eq] at hp
  exact ⟨c, hc, passes_of_check hp.1, hp.2⟩

theorem witness_GlobalAccessesAreSent :
    (∃ c, Issues (.ld { M0 with d := 8, fmt := 6 }) memState c ∧ SendsAll memState .load { M0 with d := 8, fmt := 6 } c) ∧
    (∃ c, Issues (.st { M0 with b := 4 }) memState c ∧ SendsAll memState .store { M0 with b := 4 } c) ∧
    (∃ c, Issues (.cstr { M0 with b := 4 }) memState c ∧ SendsAll memState .cstr { M0 with b := 4 } c) ∧
    (∃ c, Issues (.atom { M0 with d := 8, b := 4, imm := 0x22000000 }) memState c ∧ SendsAll memState .atomic { M0 with d := 8, b := 4, imm := 0x22000000 } c) ∧
    (∃ c, Issues (.red { M0 with b := 4, imm := 0x22000000 }) memState c ∧ SendsAll memState .reduction { M0 with b := 4, imm := 0x22000000 } c) ∧
    (∃ c, Issues (.ldbrM { M0 with sub := 0x1F }) memState c ∧ SendsAll memState .ldbr { M0 with sub := 0x1F } c) ∧
    (∃ c, Issues (.nmx { M0 with d := 8, b := 16, c := 24, sub := 0x18, imm := 0x22000000 }) memState c ∧
      SendsAll memState .nmx { M0 with d := 8, b := 16, c := 24, sub := 0x18, imm := 0x22000000 } c) ∧
    (∃ c, Issues (.ld { M0 with d := 8 }) (memRec (recWord 0x10000 4 4 0) |>.modGang 0 0 fun g => { g with mode := g.mode ||| 0x100000 }) c ∧
      (takesPart c .load 31 = true ∧ inBounds c .load { M0 with d := 8 } 31 = false ∧ modeOobz c.g.mode = true ∧ inBounds c .load { M0 with d := 8 } 0 = true)) := by
  refine ⟨sends_of_check ?_, sends_of_check ?_, sends_of_check ?_, sends_of_check ?_, sends_of_check ?_, sends_of_check ?_,
    sends_of_check ?_, issues_of_check ?_⟩ <;> decide +kernel

/-- A state whose second page is not mapped, with a record over both pages of stride 0x8000; lanes 2 and 3 reach the second. -/
def parkState (level : Nat) : State := (memRec (recWord 0x10000 0x20000 0x8000 0)).modGang 0 0 fun g =>
  { g with level := level, frags := g.frags.map fun f => { f with mask := 0xF } }

theorem witness_GlobalChecksAndParking :
    (∃ c, Issues (.ld { M0 with d := 8 }) (memRec (recWord 0x10000 0xFFFFFFFFFF 0 (2 ^ 120 * 4))) c ∧ (c.active ≠ 0 ∧ c.g.level < 2 ∧ 3 < (recOf c { M0 with d := 8 }).swz)) ∧
    (∃ c, Issues (.ld { M0 with d := 8 }) (memRec (recWord (2 ^ 57 - 1) 2 0 0)) c ∧ 2 ^ 57 < (recOf c { M0 with d := 8 }).base + (recOf c { M0 with d := 8 }).extent) ∧
    (∃ c, Issues (.st { M0 with b := 4 }) (memRec (recWord 0x10000 0x10000 4 (2 ^ 61))) c ∧ ((recOf c { M0 with b := 4 }).ronly = true ∧ accWrite .store { M0 with b := 4 } = true ∧
      (recOf c { M0 with b := 4 }).base + (recOf c { M0 with b := 4 }).extent ≤ 2 ^ 57)) ∧
    (∃ c, Issues (.ld { M0 with d := 8 }) (memRec (recWord 0x10000 127 4 0)) c ∧ (modeOobz c.g.mode = false ∧ (takesPart c .load 31 && !inBounds c .load { M0 with d := 8 } 31) = true)) ∧
    (∃ c, Issues (.ld { M0 with d := 8 }) (memRec (recWord 0x10000 0x10000 2 0)) c ∧ ((∀ lane : Nat, lane < 32 → (takesPart c .load lane && !inBounds c .load { M0 with d := 8 } lane) = false) ∧
      (takesPart c .load 1 && inBounds c .load { M0 with d := 8 } 1 && decide (addressOf c .load { M0 with d := 8 } 1 % 4 ≠ 0)) = true)) ∧
    (∃ c, Issues (.ld { M0 with d := 8 }) (parkState 0) c ∧ (Passes c .load { M0 with d := 8 } ∧ c.g.level = 0 ∧
      (∀ lane : Nat, lane < 2 → (parkState 0).translate (.core c.k) c.g.fn (lineOf c .load { M0 with d := 8 } lane) ⟨true, false, false⟩ =
        .ok (.dev (lineOf c .load { M0 with d := 8 } lane), none)) ∧
      (∀ lane : Nat, lane < 4 → 2 ≤ lane → (parkState 0).translate (.core c.k) c.g.fn (lineOf c .load { M0 with d := 8 } lane) ⟨true, false, false⟩ = .error 0x13 ∧
        0x20000 ≤ lineOf c .load { M0 with d := 8 } lane) ∧ lineOf c .load { M0 with d := 8 } 2 = 0x20000)) ∧
    ∃ c, Issues (.nmx { M0 with d := 8, b := 16, c := 24, imm := 0x22000000 }) (parkState 1) c ∧ (c.g.level = 1 ∧
      (parkState 1).translate (.core c.k) c.g.fn (lineOf c .nmx { M0 with d := 8, b := 16, c := 24, imm := 0x22000000 } 2) ⟨true, true, false⟩ = .error 0x13) := by
  refine ⟨issues_of_check (by decide +kernel), issues_of_check (by decide +kernel), issues_of_check (by decide +kernel), issues_of_check (by decide +kernel),
    issues_of_check (by decide +kernel), ?_, issues_of_check (by decide +kernel)⟩
  obtain ⟨c, hc, hp, h⟩ := issues_of_check (i := .ld { M0 with d := 8 }) (s := parkState 0) (P := fun c => passesB c .load { M0 with d := 8 } = true ∧ c.g.level = 0 ∧
      (∀ lane : Nat, lane < 2 → (parkState 0).translate (.core c.k) c.g.fn (lineOf c .load { M0 with d := 8 } lane) ⟨true, false, false⟩ =
        .ok (.dev (lineOf c .load { M0 with d := 8 } lane), none)) ∧
      (∀ lane : Nat, lane < 4 → 2 ≤ lane → (parkState 0).translate (.core c.k) c.g.fn (lineOf c .load { M0 with d := 8 } lane) ⟨true, false, false⟩ = .error 0x13 ∧
        0x20000 ≤ lineOf c .load { M0 with d := 8 } lane) ∧ lineOf c .load { M0 with d := 8 } 2 = 0x20000) (by decide +kernel)
  exact ⟨c, hc, passes_of_check hp, h⟩

theorem witness_FencesRecordsAndPrefetches :
    (∃ c, Issues (.fence { N0 with imm := 0x0B000000 }) base c ∧ True) ∧
    (∃ c, Issues (.ldbr { N0 with a := 8, sub := 0xF }) base c ∧ (c.active ≠ 0 ∧ ¬ (c.src none 8 128 (lowest c.active) / 2 ^ 124 ≠ 0 ∨ (c.src none 8 128 (lowest c.active)).testBit 63 = true))) ∧
    (∃ c, Issues (.ldbr { N0 with a := 8, sub := 0xF }) (withGang fun g => g.setV 11 0 0x10000000) c ∧ (c.active ≠ 0 ∧ c.g.level < 2 ∧
      (c.src none 8 128 (lowest c.active) / 2 ^ 124 ≠ 0 ∨ (c.src none 8 128 (lowest c.active)).testBit 63 = true))) ∧
    ∃ c, Issues (.pref { M0 with sub := 4 }) memState c ∧ True :=
  ⟨issues_of_check (by decide +kernel), issues_of_check (by decide +kernel), issues_of_check (by decide +kernel), issues_of_check (by decide +kernel)⟩

theorem witness_MemoryInstructionFrame :
    (0x40 ≤ opcN (.st { M0 with b := 4 }) ∧ opcN (.pref { M0 with sub := 4 }) ≤ 0x4B) ∧
    ∃ t, exec (.st { M0 with b := 4 }) memState = .next t ∧ (t.reqs.length = 8 ∧ (memState.ctx { M0 with b := 4 }).isSome = true) :=
  ⟨by decide, next_of_check (by decide +kernel)⟩

/-- A request in flight under identity 1, to the mapped page of function 0, whose owner key is 0 or 5. -/
def inFlight (i : Instr) (tgt : Target) (key : BitVec 12) : State :=
  { base with reqs := [(1, req0 i tgt 0x10000 7)], nextId := 2, frames := [(1, ⟨key, 0, 0, 0xFFFF⟩)] }

/-- The request under identity 1 may end, and its gang and it fulfil a condition. -/
def mayEndCheck (s : State) (p : Req → Gang → Bool) : Bool :=
  (Cells.find? s.reqs 1).any fun r => (s.gang? r.core r.slot).any fun g => decide (r.own = .gang) && !s.mustWait r && r.sent.isSome && !r.mute && decide (s.gen r.core r.slot = r.gen) && !g.away && p r g

theorem mayEnd_of_check {s : State} {P : Req → Gang → Prop} [∀ r g, Decidable (P r g)] (h : mayEndCheck s (fun r g => decide (P r g)) = true) :
    ∃ r g, MayEnd s 1 r g ∧ P r g := by
  unfold mayEndCheck at h
  rw [Option.any_eq_true] at h
  obtain ⟨r, hr, h⟩ := h
  rw [Option.any_eq_true] at h
  obtain ⟨g, hg, h⟩ := h
  simp only [Bool.and_eq_true, Bool.not_eq_true', decide_eq_true_eq, and_assoc] at h
  obtain ⟨own, free, sent, heard, gen, home, rest⟩ := h
  exact ⟨r, g, ⟨by decide, hr, own, free, sent, heard, gen, hg, home⟩, rest⟩

/-- The one lane of such a request is one that a value returns to. -/
theorem witness_returnsTo (g : Gang) (hg : g.mask.getLsbD 0 = true) : returnsTo g (req0 (.ld L0) (.dev 0) 0 0) ⟨0, 0, 0, 2, 0, 0⟩ :=
  ⟨by decide, by decide, hg, [], [], rfl, by simp⟩

theorem witness_RequestsArePerformed :
    (∀ key ∈ [(0 : BitVec 12), 5], ∃ r g, MayEnd (inFlight (.ld { M0 with d := 8 }) (.dev 0x10000) key) 1 r g ∧ (r.instr = .ld { M0 with d := 8 } ∧
      decodeCause false r.instr = none ∧ r.tgt = .dev 0x10000 ∧ (inFlight (.ld { M0 with d := 8 }) (.dev 0x10000) key).spoilt 0 0x10000 = false ∧
      (inFlight (.ld { M0 with d := 8 }) (.dev 0x10000) key).keyOk ((inFlight (.ld { M0 with d := 8 }) (.dev 0x10000) key).keyOf r.fn) 0x10000 = (key == 0) ∧
      g.mask.getLsbD 0 = true)) ∧
    (∀ i ∈ [Instr.st { M0 with b := 4 }, .cstr { M0 with b := 4 }], ∃ r g, MayEnd (inFlight i (.dev 0x10000) 0) 1 r g ∧ (r.instr = i ∧ decodeCause false r.instr = none ∧
      r.tgt = .dev 0x10000 ∧ (∀ a ∈ r.lanes, a.addr % 4 = 0 ∧ a.addr % 128 + 4 ≤ 128) ∧ ((inFlight i (.dev 0x10000) 0).px r.fn).en = false)) ∧
    (∀ i ∈ [Instr.red { M0 with b := 4, imm := 0x22000000 }, .atom { M0 with d := 8, b := 4, imm := 0x22000000 }],
      ∃ r g, MayEnd (inFlight i (.dev 0x10000) 0) 1 r g ∧ (r.instr = i ∧ decodeCause false r.instr = none ∧ r.tgt = .dev 0x10000 ∧
        (∀ a ∈ r.lanes, a.addr % 4 = 0 ∧ a.addr % 128 + 4 ≤ 128) ∧ (inFlight i (.dev 0x10000) 0).keyOk 0 0x10000 = true)) ∧
    ∃ r g, MayEnd (inFlight (.ldbrM { M0 with sub := 0x12 }) (.dev 0x10000) 0) 1 r g ∧ (r.instr = .ldbrM { M0 with sub := 0x12 } ∧ r.lanes.length = 1) := by
  refine ⟨fun key hk => ?_, fun i hi => ?_, fun i hi => ?_, mayEnd_of_check (by decide +kernel)⟩
  · fin_cases hk <;> exact mayEnd_of_check (by decide +kernel)
  · fin_cases hi <;> exact mayEnd_of_check (by decide +kernel)
  · fin_cases hi <;> exact mayEnd_of_check (by decide +kernel)

/-- Two requests of the gang of slot 0 of core 0, the second performed at its home or not. -/
def twoReqs (x r : Req) : State := { base with reqs := [(1, x), (2, r)], nextId := 3 }

def pairCheck (x r : Req) (p : Gang → Bool) : Bool :=
  let s := twoReqs x r
  decide (r.own = .gang ∧ isAccess r.instr = true ∧ r.mute = false ∧ r.level = 0 ∧ s.gen r.core r.slot = r.gen ∧ x ∈ s.gangReqs r.core r.slot) &&
    (s.gang? r.core r.slot).any p

theorem pair_of_check {x r : Req} {P : Gang → Prop} [DecidablePred P] (h : pairCheck x r (fun g => decide (P g)) = true) :
    ∃ g, OfOneGang (twoReqs x r) 2 r g x ∧ P g := by
  simp only [pairCheck, Bool.and_eq_true, decide_eq_true_eq] at h
  obtain ⟨⟨h0, h1, h2, h3, h4, h5⟩, h⟩ := h
  rw [Option.any_eq_true] at h
  obtain ⟨g, hg, h⟩ := h
  exact ⟨g, ⟨by decide, rfl, h0, h1, h2, h3, h4, hg, .inl h5⟩, by simpa using h⟩

/-- A load of the word at 0x10000, and a store of the gang's next place of another word, or of the load's last byte. -/
def wordX : Req := req0 (.ld L0) (.dev 0x10000) 0x10000 0
def wordR : Req := { req0 (.st L0) (.dev 0x10000) 0x10040 0 with seq := 2, rd := false, wr := true }
def byteR : Req := { wordR with lanes := [⟨31, 0x10003, 0, 0, 0, 0⟩], size := 1 }

/-- One request comes before the other, and the later one stands at its home. -/
def Barred (x r : Req) : Prop :=
  (∃ g, OfOneGang (twoReqs x r) 2 r g x) ∧ PerformedFirst (twoReqs x r) x r ∧ r.sent.isSome = true ∧ r.tgt.away = false

theorem barred (x r : Req) (h : pairCheck x r (fun _ => decide True) = true) (hp : PerformedFirst (twoReqs x r) x r)
    (hs : r.sent.isSome = true ∧ r.tgt.away = false) : Barred x r :=
  let ⟨g, hg, _⟩ := pair_of_check (P := fun _ => True) h
  ⟨⟨g, hg⟩, hp, hs⟩

theorem witness_AccessesKeepTheirOrder :
    Barred wordX byteR ∧ Barred wordX { byteR with seq := 0 } ∧ Barred wordX { wordR with ord := 3, scope := 4 } ∧
    (∀ n ∈ [2, 4], Barred { wordX with ord := n, scope := 1 } wordR) ∧
    Barred { wordX with rd := false, ord := 5, scope := 4 } { wordR with wr := false, ord := 5, scope := 4 } ∧
    (∀ n ∈ [2, 3, 4, 5], Barred wordX { wordR with fences := [⟨1, n, 4⟩] }) ∧
    (∃ g, OfOneGang (twoReqs wordX { byteR with tgt := .peer 1 0, sent := none }) 2 { byteR with tgt := .peer 1 0, sent := none } g wordX ∧
      wordX.seq < byteR.seq ∧ OrderedToward wordX { byteR with ord := 3, scope := 4 } 4) ∧
    ∃ r g, Cells.find? (twoReqs wordX wordR).reqs 1 = some r ∧ (twoReqs wordX wordR).gang? r.core r.slot = some g ∧
      (twoReqs wordX wordR).gen r.core r.slot = r.gen ∧ r.turn = 0 ∧ (twoReqs wordX wordR).early = [] ∧
      ∀ x, x ∈ (twoReqs wordX wordR).gangReqs r.core r.slot ∨ x ∈ g.parkedReqs ∨ x ∈ g.packets →
        r.seq ≤ x.seq ∧ (x.seq = r.seq → (r.lanes.map (·.lane)).headD 0 ≤ (x.lanes.map (·.lane)).headD 0) := by
  have share : ∀ n, SharesByte wordX { byteR with seq := n } := fun n =>
    ⟨0x10000, 0x10000, ⟨0, 0x10000, 0, 2, 0, 0⟩, ⟨31, 0x10003, 0, 0, 0, 0⟩, 0x10003, rfl, rfl, by simp [wordX, req0], by simp [byteR], by decide, by decide,
      by simp [homeOf], by simp [homeOf, byteR]⟩
  refine ⟨barred _ _ (by decide +kernel) (.inr ⟨by decide, .inl (share 2)⟩) (by decide),
    barred _ _ (by decide +kernel) (.inl ⟨rfl, by decide, share 0⟩) (by decide),
    barred _ _ (by decide +kernel) (.inr ⟨by decide, .inr ⟨4, .inl ⟨rfl, by decide, rfl⟩, by decide⟩⟩) (by decide), fun n hn => ?_,
    barred _ _ (by decide +kernel) (.inr ⟨by decide, .inr ⟨4, .inr (.inr (.inl ⟨rfl, rfl, rfl⟩)), by decide⟩⟩) (by decide), fun n hn => ?_, ?_, ?_⟩
  · fin_cases hn <;> exact barred _ _ (by decide +kernel)
      (.inr ⟨by decide, .inr ⟨1, .inr (.inl ⟨rfl, by decide, rfl⟩), by decide, .inr (by decide +kernel)⟩⟩) (by decide)
  · have fence : ∀ n, pairCheck wordX { wordR with fences := [⟨1, n, 4⟩] } (fun _ => decide True) = true →
        (((n = 3 ∨ n = 4) ∧ wordR.wr = true) ∨ ((n = 2 ∨ n = 4) ∧ wordX.rd = true) ∨ n = 5) → Barred wordX { wordR with fences := [⟨1, n, 4⟩] } := fun n h hf =>
      barred _ _ h (.inr ⟨Nat.zero_lt_two, .inr ⟨4, .inr (.inr (.inr ⟨⟨1, n, 4⟩, by simp, Nat.one_pos, rfl, hf⟩)), by omega, .inl (by omega)⟩⟩) (by simp [wordR, req0, Target.away])
    fin_cases hn <;> exact fence _ (by decide +kernel) (by decide)
  · obtain ⟨g, hg, -⟩ := pair_of_check (x := wordX) (r := { byteR with tgt := .peer 1 0, sent := none }) (P := fun _ => True) (by decide +kernel)
    exact ⟨g, hg, by decide, .inl ⟨rfl, by decide, rfl⟩⟩
  · obtain ⟨g, -, hg⟩ := pair_of_check (x := wordX) (r := wordR)
      (P := fun g => (twoReqs wordX wordR).gang? 0 0 = some g ∧ g.parkedReqs = [] ∧ g.packets = []) (by decide +kernel)
    refine ⟨wordX, g, rfl, hg.1, by decide +kernel, rfl, rfl, fun x hx => ?_⟩
    have h : ∀ x ∈ (twoReqs wordX wordR).gangReqs 0 0, wordX.seq ≤ x.seq ∧ (x.seq = wordX.seq →
        (wordX.lanes.map (·.lane)).headD 0 ≤ (x.lanes.map (·.lane)).headD 0) := by decide +kernel
    rw [hg.2.1, hg.2.2] at hx
    exact h x (hx.resolve_right (by simp))

/-- The four NMX operations, at the end of a line or with 256-bit data. -/
theorem witness_NearMemoryOperations :
    ∀ i ∈ [Instr.nmx { M0 with d := 8, b := 16, c := 24, sub := 0x18, imm := 0x22000000 }, .nmx { M0 with d := 8, b := 16, sub := 1, imm := 0x22000000 },
      .nmx { M0 with d := 8, sub := 2, imm := 0x22000000 }, .nmx { M0 with d := 8, b := 16, fmt := 14, sub := 3, imm := 0x22000000 }],
      ∃ r g, MayEnd (inFlight i (.dev 0x10000) 0) 1 r g ∧ (r.instr = i ∧ decodeCause false r.instr = none ∧ r.tgt = .dev 0x10000 ∧ inBulk 0x10000 = false ∧
        (inFlight i (.dev 0x10000) 0).spoilt 0 0x10000 = false ∧ r.lanes.length = 1 ∧ (∀ a ∈ r.lanes, a.addr % 32 = 0 ∧ a.addr % 128 + 32 ≤ 128) ∧
        ((inFlight i (.dev 0x10000) 0).px r.fn).en = false ∧ (inFlight i (.dev 0x10000) 0).keyOk ((inFlight i (.dev 0x10000) 0).keyOf r.fn) 0x10000 = true) := by
  intro i hi
  fin_cases hi <;> exact mayEnd_of_check (by decide +kernel)
/-! ## Witnesses: the fabric and isolation -/

/-- The request under identity 1 is its gang's own, and they fulfil a condition. -/
def ownCheck (s : State) (p : Req → Gang → Bool) : Bool :=
  (Cells.find? s.reqs 1).any fun r => (s.gang? r.core r.slot).any fun g =>
    decide (r.own = .gang) && !r.mute && !isMma r.instr && decide (s.gen r.core r.slot = r.gen) && !g.away && p r g

theorem own_of_check {s : State} {P : Req → Gang → Prop} [∀ r g, Decidable (P r g)] (h : ownCheck s (fun r g => decide (P r g)) = true) :
    ∃ r g, OwnAccess s 1 r g ∧ P r g := by
  unfold ownCheck at h
  rw [Option.any_eq_true] at h
  obtain ⟨r, hr, h⟩ := h
  rw [Option.any_eq_true] at h
  obtain ⟨g, hg, h⟩ := h
  simp only [Bool.and_eq_true, Bool.not_eq_true', decide_eq_true_eq, and_assoc] at h
  obtain ⟨own, heard, line, gen, home, rest⟩ := h
  exact ⟨r, g, ⟨hr, own, heard, line, gen, hg, home⟩, rest⟩

/-- A packet of a peer with the least fields. -/
def packet (op : PeerOp) (dst ia : Nat) : PeerReq := ⟨9, dst, op, ia, 0, 0, 0, 0, [], [], 0, 4, false, 1⟩

/-- A request of the gang to function 3 of the fabric, made at another level, under its core's first tag in generation 1. -/
def toPeer (level : Nat) : State :=
  { base with
    reqs := [(1, { req0 (.ld { M0 with d := 8 }) (.peer 3 0x20000) 0x10000 0 with level := level })], nextId := 2
    tags := [(0, ⟨1, some ⟨1, packet .load 3 0x20000⟩, []⟩)] }

/-- The number of that tag, what arrives under it, and a full operand log. -/
def tag1 : Nat := wireBase + 1
def arrival : Arrival := ⟨2, 0, []⟩
def fullLog (s : State) : State := s.modGang 0 0 fun g => { g with olog := List.replicate 4 ⟨9, [], none, 0x15, 0, false, 0⟩ }

theorem answers_of_check {s : State} {f : Flight} (h : s.flight? tag1 = some f ∧ f.id = 1) (hh : s.holdReply f arrival = none) : Answers s tag1 arrival 1 :=
  ⟨by decide, f, h.1, h.2, hh⟩

/-- The request under identity 1 may be answered under its tag. -/
theorem answered_toPeer (level : Nat) : Answers (toPeer level) tag1 arrival 1 :=
  answers_of_check (f := ⟨1, packet .load 3 0x20000⟩) ⟨rfl, rfl⟩ rfl

theorem witness_RemoteRequestsAndFabricFailures :
    (∃ r g, MayEnd (inFlight (.sts { N0 with b := 4 }) (.scratch 0) 0) 1 r g ∧ (r.instr = .sts { N0 with b := 4 } ∧ r.tgt = .scratch 0 ∧
      ((inFlight (.sts { N0 with b := 4 }) (.scratch 0) 0).group? 0).isSome = true)) ∧
    (∃ r g, MayEnd (inFlight (.lds { N0 with d := 8 }) (.scratch 0) 0) 1 r g ∧ (r.instr = .lds { N0 with d := 8 } ∧ decodeCause false r.instr = none ∧
      r.tgt = .scratch 0 ∧ ((inFlight (.lds { N0 with d := 8 }) (.scratch 0) 0).group? 0).isSome = true)) ∧
    ∃ r, Cells.find? (inFlight (.mma { N0 with sub := 8 }) (.dev 0x10000) 0).reqs 1 = some r ∧
      ((inFlight (.mma { N0 with sub := 8 }) (.dev 0x10000) 0).mustWait r = false ∧ r.sent.isSome = true ∧ r.mute = false ∧ r.tgt = .dev 0x10000 ∧
        (inFlight (.mma { N0 with sub := 8 }) (.dev 0x10000) 0).spoilt 0 0x10000 = false) :=
  ⟨mayEnd_of_check (by decide +kernel), mayEnd_of_check (by decide +kernel), some_of_check (by decide +kernel)⟩

theorem witness_RemoteRequestsAndFabricFailures_fabric :
    (Answers (toPeer 0) tag1 arrival 1 ∧ ∃ r g, OwnAccess (toPeer 0) 1 r g ∧ (r.level = 0 ∧ (∀ e ∈ g.olog, e.seq ≠ r.seq) ∧ g.olog.length < 4)) ∧
    (Answers (fullLog (toPeer 0)) tag1 arrival 1 ∧
      ∃ r g, OwnAccess (fullLog (toPeer 0)) 1 r g ∧ (r.level = 0 ∧ (∀ e ∈ g.olog, e.seq ≠ r.seq) ∧ 4 ≤ g.olog.length)) ∧
    (Answers (toPeer 1) tag1 arrival 1 ∧ ∃ r g, OwnAccess (toPeer 1) 1 r g ∧ (0 < r.level ∧ g.defq.length < 8)) ∧
    (∃ r g, OwnAccess { toPeer 0 with cycle := 2200000 } 1 r g ∧
      (({ toPeer 0 with cycle := 2200000 } : State).inTransit r.fn = false ∧ (r.sent.any fun at0 => decide (at0 + ({ toPeer 0 with cycle := 2200000 } : State).timeoutCycles r.fn ≤ 2200000)) = true)) ∧
    (∃ f, (toPeer 0).flight? tag1 = some f ∧ (f.id = 1 ∧ f.req.dst = 3)) ∧
    (∃ r, Cells.find? (toPeer 0).reqs 1 = some r ∧ r.tgt = .peer 3 0x20000) ∧
    base.flight? tag1 = none ∧
    ∃ q, ({ base with held := [packet .load 0 0] } : State).held.find? (fun (q : PeerReq) => decide (q.tag = 4)) = some q ∧ q = packet .load 0 0 := by
  refine ⟨⟨answered_toPeer 0, own_of_check ?_⟩, ⟨answers_of_check (f := ⟨1, packet .load 3 0x20000⟩) ?_ ?_, own_of_check ?_⟩,
    ⟨answered_toPeer 1, own_of_check ?_⟩, own_of_check ?_, some_of_check ?_, some_of_check ?_, ?_, ⟨_, rfl, rfl⟩⟩ <;> decide +kernel

/-- Function 0 holds the number 5, over the stage 2 of `frameState`. -/
def serving : State := frameState.modFunc 0 fun f => { f with vdnValid := true, vdn := 5 }

/-- A session that moves function 0 and has stopped it. -/
def stopSession : Session := ⟨0, 0, 0, 0, false, 0, 0, 0, 0, 0, 2, 0, 0, 0, false, 0⟩

/-- Function 0 with a partition that has been stopped, and with a session in its stop phase. -/
def stopped : State := serving.modPart 0 fun p => { p with stop := true }
def moving : State := { serving with sessions := [(0, stopSession)] }

/-- Nothing in a state keeps its function from serving a peer. -/
def servesFn (s : State) : Bool :=
  decide (s.fnOfVdn 5 = some 0) && s.windows.isEmpty && !(s.part (s.partOf 0)).stop && !s.stopPhase 0 && !(s.px 0).en

theorem witness_PeersAreServed :
    (servesFn serving = true ∧ serving.translateIa (.agent 0) 0 0x10000 ⟨true, false, false⟩ = .ok (.dev 0x1010000) ∧
      serving.translateIa (.agent 0) 0 0x10000 ⟨false, true, false⟩ = .ok (.dev 0x1010000) ∧ serving.spoilt 0 0x1010000 = false ∧
      serving.keyOk (serving.keyOf 0) 0x1010000 = true ∧ serving.translateIa (.agent 0) 0 0x20000 (peerRights (packet .load 5 0x20000)) = .error 0x15) ∧
    (stopped.fnOfVdn 5 = some 0 ∧ stopped.windows = [] ∧ (stopped.part (stopped.partOf 0)).stop = true) ∧
    (moving.fnOfVdn 5 = some 0 ∧ moving.windows = [] ∧ (moving.part (moving.partOf 0)).stop = false ∧ moving.stopPhase 0 = true) ∧
    (({ base with windows := [(5, 7, 1)] } : State).fnOfVdn 5 = none ∧
      (({ base with windows := [(5, 7, 1)] } : State).windows.find? fun (w : Nat × Nat × Nat) => decide (w.1 = 5)) = some (5, 7, 1)) ∧
    (({ base with redirect := [(5, 0x80030002)] } : State).fnOfVdn 5 = none ∧ ({ base with redirect := [(5, 0x80030002)] } : State).windows = [] ∧
      ({ base with redirect := [(5, 0x80030002)] } : State).resolve 5 = some (3, 2) ∧ 3 ≠ base.modNo) ∧
    (base.fnOfVdn 5 = none ∧ base.windows = [] ∧ base.resolve 5 = none) := by
  and_intros <;> decide +kernel

/-- A page that lies in host memory. -/
def hostMapped : State := { base with tlb := [{ hostTlb with kind := 5 }] }

theorem witness_PartitionsAndKeysIsolate :
    (base.translate (.core 1023) 0 0x10000 ⟨true, false, false⟩ = Except.ok (.dev 0x10000, none)) ∧
    (hostMapped.translate (.core 0) 0 0x10000 ⟨true, false, false⟩ = Except.ok (.host 0x10000, none)) ∧
    (base.keyOk (base.keyOf 0) 0x1007F = true ∧ 0x1007F % 128 + [(1 : Byte)].length ≤ 128 ∧ base.keyOk 5 0x1007F = false) :=
  ⟨by decide +kernel, by decide +kernel, by decide +kernel⟩
/-! ## Witnesses: copies, batches and barriers -/

/-- 32 elements of 4 bytes, a step of 4 apart, through record 2. -/
def fourBytes : Forme := ⟨2, 2, 0xDEADBEEF, [(32, 4)]⟩

/-- The gang's group has 1 MiB of scratchpad, that forme and a galley. -/
def copyState : State := withGroup (fun g => { g with kern := { g.kern with scratch := 1048576, formes := [fourBytes], galleys := [(0, 0)] } }) memState

/-- The four copies, with origin and dense base 0. -/
def copies4 : List Instr :=
  [.cpyIn { N0 with a := 0xBC, b := 0xBC }, .cpyOut { N0 with a := 0xBC, b := 0xBC, sub := 1 }, .cpyt { N0 with a := 0xBC, imm := 0x180 },
    .cpytS { N0 with a := 0xBC, sub := 1, imm := 0x3FE00 }]

/-- Every instruction that acts once for the gang, under p1, which no lane holds. -/
def onceUnderP1 : List Instr :=
  [.cpyIn { N0 with pg := 1, a := 0xBC, b := 0xBC }, .cpyOut { N0 with pg := 1, a := 0xBC, b := 0xBC, sub := 1 }, .cpyt { N0 with pg := 1, a := 0xBC },
    .cpytS { N0 with pg := 1, a := 0xBC, sub := 1 }, .seal { N0 with pg := 1, d := 8 }, .waitb { N0 with pg := 1 },
    .xarv { N0 with pg := 1, d := 8, a := 4, b := 4 }, .xwait { N0 with pg := 1, a := 4, b := 4 }, .waitc { N0 with pg := 1, a := 4 },
    .barWait { N0 with pg := 1, imm := 0x400000 }, .barNote { N0 with pg := 1, sub := 1, imm := 0x400000 },
    .cred { N0 with pg := 1, d := 8, a := 4, b := 4 }, .snap { N0 with pg := 1, d := 8 }, .emit { N0 with pg := 1, a := 4 },
    .cntrRd { N0 with pg := 1, d := 8 }, .cntrCancel { N0 with pg := 1, sub := 1 }, .mxacq { N0 with pg := 1 }, .mxrel { N0 with pg := 1 },
    .mma { N0 with pg := 1, a := 4, b := 4, fmt := 6, sub := 6 }, .mmas { N0 with pg := 1, a := 4, b := 4, c := 4, fmt := 6, sub := 6 }, .mzero { N0 with pg := 1 },
    .mout { N0 with pg := 1, d := 8 }, .manc { N0 with pg := 1 }]

theorem witness_CopiesAreIssued_lane : ∀ i ∈ onceUnderP1, ∃ c, Issues i copyState c ∧
    (((0x50 ≤ opcN i ∧ opcN i ≤ 0x5B) ∨ (0x60 ≤ opcN i ∧ opcN i ≤ 0x66)) ∧ c.active = 0 ∧ c.f.loop = none) :=
  issues_each (by decide +kernel)

theorem witness_CopiesAreIssued :
    (∀ i ∈ copies4, ∃ c, Issues i copyState c ∧ (c.active ≠ 0 ∧ c.copyCause i = none ∧
      ((copyState.group? c.g.group).any fun g => g.kern.formes[copyForme i]? == some fourBytes) = true ∧ 0 < fourBytes.elems ∧
      copyState.copyTurn c.k copyState.nextId = false)) ∧
    (∃ c, Issues (.cpyIn { N0 with a := 0xBC, b := 0xBC, imm := 63 }) copyState c ∧ (c.active ≠ 0 ∧ c.g.level < 2 ∧
      (c.copyCause (.cpyIn { N0 with a := 0xBC, b := 0xBC, imm := 63 })).isSome = true)) ∧
    ∃ c, Issues (.cpyOut { N0 with a := 0xBC, b := 0xBF, sub := 1, lit := some 0xFFFFC }) copyState c ∧ (c.active ≠ 0 ∧ c.g.level < 2 ∧
      c.copyCause (.cpyOut { N0 with a := 0xBC, b := 0xBF, sub := 1, lit := some 0xFFFFC }) = some (0x17, 1)) :=
  ⟨issues_each (by decide +kernel), issues_of_check (by decide +kernel), issues_of_check (by decide +kernel)⟩

/-- A copy of the gang whose one piece is still to move, through a record of that base and extent. -/
def oneCopy (i : Instr) (base extent : Nat) : Copy :=
  { core := 0, slot := 0, gen := 0, fn := 0, group := 0, seq := 0, instr := i, forme := fourBytes, origin := 0, dense := 0, xbar := none, batch := 1, row := 0,
    col := 0, buf := recWord base extent 32 0, left := [0], pages := [], fixups := [], asked := [], got := [], dropped := [], halted := false, level := 0 }
def copying (c : Copy) : State := { copyState with copies := [(1, c)], nextId := 2 }
def cpyI : Instr := .cpyIn { N0 with a := 0xBC, b := 0xBC }
def cpyO : Instr := .cpyOut { N0 with a := 0xBC, b := 0xBC, sub := 1 }
def cpyS : Instr := .cpytS { N0 with a := 0xBC, sub := 1 }

/-- The whole forme lies in the mapped page, or all but its first element out of bounds in a page that is not mapped. -/
def inCopy : Copy := oneCopy cpyI 0x10000 0x10000
def outCopy : Copy := oneCopy cpyO 0x1FF80 0x80
def tileCopy : Copy := { oneCopy cpyS 0x10000 0x10000 with row := 511, col := 384 }
def faultCopy : Copy := oneCopy cpyI 0x20000 4
def fixCopy : Copy := { inCopy with pages := [1], fixups := [0] }
def fixFault : Copy := { faultCopy with pages := [2], fixups := [0] }

/-- A copy that counts on the barrier word at 0 of the scratchpad. -/
def barCopy : Copy := { tileCopy with xbar := some 0 }
def barState (n : Int) : State :=
  withGroup (fun g => { g with scratch := Memory.write g.scratch 0 16 (barrierWord 65535 false 1 1 n) }) (copying barCopy)

theorem witness_CopyPiecesArrive :
    (MovesPiece (copying inCopy) 1 0 inCopy ∧ (copying inCopy).scratchTarget 0 0 = some 0 ∧ ((copying inCopy).group? 0).isSome = true ∧
      ∀ m ∈ fourBytes.pieceElems 0, inCopy.inBounds 0 m = true ∧ elemAt (copying inCopy) inCopy m (inCopy.va m) ∧ (copying inCopy).spoilt 0 (inCopy.va m) = false) ∧
    (MovesPiece (copying outCopy) 1 0 outCopy ∧ (copying outCopy).scratchTarget 0 0 = some 0 ∧ Untracked (copying outCopy) 0 ∧
      ∀ m ∈ fourBytes.pieceElems 0, elemAt (copying outCopy) outCopy m (outCopy.va m) ∧
        (copying outCopy).keyOk ((copying outCopy).keyOf 0) (outCopy.va m) = true ∧ outCopy.va m % 128 + 4 ≤ 128) ∧
    (MovesPiece (copying tileCopy) 1 0 tileCopy ∧ tileCopy.col + fourBytes.runBytes ≤ 512 ∧ tileCopy.row + fourBytes.runs ≤ 512) ∧
    (∀ n ∈ [(128 : Int), -2 ^ 31], MovesPiece (barState n) 1 0 barCopy ∧ (barState n).scratchTarget 0 0 = some 0 ∧ barrierFields 65535 1 1 n ∧
      ((barState n).group? 0).any (fun g => decide (Memory.read g.scratch 0 16 = barrierWord 65535 false 1 1 n)) = true) ∧
    (MovesPiece (copying faultCopy) 1 0 faultCopy ∧ (copying faultCopy).gen 0 0 = 0 ∧ ((copying faultCopy).gang? 0 0).isSome = true ∧
      fourBytes.pieceElems 0 = [] ++ 0 :: (List.range 31).map (· + 1) ∧ (∀ m ∈ (List.range 31).map (· + 1), faultCopy.inBounds 0 m = false) ∧
      faultCopy.inBounds 0 0 = true ∧ (copying faultCopy).translate (.core 0) 0 (faultCopy.va 0) ⟨true, false, false⟩ = Except.error 0x13) ∧
    (Cells.find? (copying fixCopy).copies 1 = some fixCopy ∧ fixCopy.asked = [] ∧ fixCopy.dropped = [] ∧ (copying fixCopy).scratchTarget 0 0 = some 0 ∧ fixCopy.fixElems.length = 32 ∧
      ∀ m ∈ fixCopy.fixElems, elemAt (copying fixCopy) fixCopy m (fixCopy.va m) ∧ (copying fixCopy).spoilt 0 (fixCopy.va m) = false) ∧
    (Cells.find? (copying fixFault).copies 1 = some fixFault ∧ (copying fixFault).gen 0 0 = 0 ∧ fixFault.fixElems = [0] ∧
      (copying fixFault).translate (.core 0) 0 (fixFault.va 0) ⟨true, false, false⟩ = Except.error 0x13) := by
  unfold MovesPiece elemAt Untracked barrierFields
  and_intros <;> decide +kernel

/-- A gang with so many sealed batches that have not finished. -/
def sealedState (n : Nat) : State := { copying inCopy with copies := (List.range n).map fun k => (k, { inCopy with batch := BitVec.ofNat 32 k }) }.modGang 0 0
  fun g => { g with sealed := (List.range n).map (BitVec.ofNat 32 ·), sealNo := BitVec.ofNat 32 n - 1 }

/-- A barrier of the given fields at 0 of the scratchpad; v4 of lane 0 holds 0. -/
def xbarState (gen : Nat) (err : Bool) (arr exp : Nat) (n : Int) : State :=
  withGroup (fun g => { g with scratch := Memory.write g.scratch 0 16 (barrierWord gen err arr exp n) }) copyState

theorem witness_BatchesAndByteBarriers :
    (∃ c, Issues (.seal { N0 with d := 8 }) (sealedState 14) c ∧ (c.active ≠ 0 ∧ c.g.sealed.length ≠ 15)) ∧
    (∃ c, Issues (.seal { N0 with d := 8 }) (sealedState 15) c ∧ (c.active ≠ 0 ∧ c.g.sealed.length = 15 ∧ c.g.level < 2)) ∧
    (∃ c, Issues (.waitb { N0 with imm := 14 }) (sealedState 14) c ∧ c.active ≠ 0) ∧
    (∃ c, Issues (.waitc { N0 with a := 0xBF, sub := 0x10, lit := some 1 }) copyState c ∧ c.active ≠ 0) ∧
    (∃ c, Issues (.xarv { N0 with d := 8, a := 0xBC, b := 0xBC }) (xbarState 65535 false 65534 65535 0) c ∧ (c.active ≠ 0 ∧
      c.scratchCause (c.barAddr { N0 with d := 8, a := 0xBC, b := 0xBC }) 16 16 (lowest c.active) false = none ∧
      c.st.scratchTarget c.g.group (c.barAddr { N0 with d := 8, a := 0xBC, b := 0xBC }) = some 0)) ∧
    (∃ c, Issues (.xarv { N0 with d := 8, a := 0xBC, b := 0xBC }) (xbarState 0 false 0 0 0) c ∧ (c.active ≠ 0 ∧ c.g.level < 2 ∧
      c.scratchCause (c.barAddr { N0 with d := 8, a := 0xBC, b := 0xBC }) 16 16 (lowest c.active) false = none)) ∧
    (∃ c, Issues (.xwait { N0 with a := 0xBC, b := 0xBC }) (xbarState 65535 false 0 1 0) c ∧ (c.active ≠ 0 ∧
      c.scratchCause (c.barAddr { N0 with a := 0xBC, b := 0xBC }) 16 16 (lowest c.active) true = none)) ∧
    ∃ c, Issues (.xwait { N0 with a := 0xBC, b := 0xBC }) (xbarState 0 true 0 1 0) c ∧ (c.active ≠ 0 ∧ c.g.level < 2 ∧
      c.scratchCause (c.barAddr { N0 with a := 0xBC, b := 0xBC }) 16 16 (lowest c.active) true = none) := by
  refine ⟨issues_of_check ?_, issues_of_check ?_, issues_of_check ?_, issues_of_check ?_, issues_of_check ?_, issues_of_check ?_,
    issues_of_check ?_, issues_of_check ?_⟩ <;> decide +kernel

theorem witness_NamedBarriersAndCounters :
    (∀ i ∈ [Instr.barWait { N0 with imm := 0x40020F }, .barNote { N0 with sub := 1, imm := 0xC00000 }], ∃ c, Issues i base c ∧ c.active ≠ 0) ∧
    (∀ i ∈ [0x00, 0x10, 0x20, 0x30].map (fun n => Instr.cntrRd { N0 with d := 8, sub := n }), ∃ c, Issues i base c ∧ c.active ≠ 0) ∧
    ∃ c, Issues (.cntrCancel { N0 with sub := 1 }) base c ∧ (c.active ≠ 0 ∧ subF { N0 with sub := 1 } 5 4 = 0 ∧ c.g.stopped = false ∧
      (base.group? c.g.group).any (fun g => g.started && decide (g.core = c.k) && (base.launch? g.launch).any fun l => !l.cancelled && !l.done) = true) :=
  ⟨issues_each (by decide +kernel), issues_each (by decide +kernel), issues_of_check (by decide +kernel)⟩
/-! ## Witnesses: collectives and records -/

/-- Slot 5 of function 0's job 0, of two members, whose root is this device; its open round is the last of the numbering. -/
def slot5 : CSlot :=
  { fn := 0, job := 0, p := 2, members := [7, 0], timeout := 100, round := 0xFFFFFFFF, prev := none, counted := [], held := [], start := none, paused := false,
    closing := false }
def slotState (c : CSlot) : State := { base with cslots := [(5, c)] }

/-- A contribution to the open round. -/
def con0 (vdn : Nat) : Contribution :=
  { slot := 5, job := 0, vdn := vdn, round := 0xFFFFFFFF, op := 1, prop := false, fmt := 1, anchor := 0, mask := 0x80000001, vals := List.replicate 32 0x80000000,
    tag := 3, colour := 0 }

/-- CRED of slot 5, with its round in B. -/
def credOf (round : Quad) : Instr := .cred { N0 with d := 8, a := 4, b := 0xBF, imm := 0xE005, lit := some round }

/-- A CRED that waits for its round. -/
def cred9 (credt : Bool) : CredOp :=
  { core := 0, slot := 0, gen := 0, fn := 0, group := 0, seq := 0, instr := credOf 0, active := 0x80000001, dsts := [(0, 8), (31, 8)], cslot := 5,
    round := 0xFFFFFFFF, credt := credt, con := { con0 0 with tag := 9 } }
def result5 (mismatch status : Bool) : RoundResult :=
  { answer := false, who := [(7, 1), (0, 9)], slot := 5, round := 0xFFFFFFFF, status := status, mismatch := mismatch, mask := 1, vals := List.replicate 32 1, job := 0, root := 0, colour := 0 }
def waitingCred (credt : Bool) : State := { slotState slot5 with creds := [(9, cred9 credt)] }

/-- The gang that a result reaches stands in its slot. -/
def reachesCred (s : State) (res : RoundResult) : Prop :=
  s.cslot? res.slot = some slot5 ∧ s.slotAhead res.slot res.root res.colour = none ∧ slot5.round = res.round ∧ slot5.job = res.job ∧ res.answer = false ∧
    slot5.closing = false ∧ (res.who.filter fun w => decide (w.1 = s.ownVdn slot5)) = [(s.ownVdn slot5, 9)] ∧ s.credKey (s.ownVdn slot5) 9 = some 9 ∧
    Cells.find? s.creds 9 = some (cred9 (s.creds.any fun x => x.2.credt)) ∧
    s.gen 0 0 = 0 ∧ ((s.gang? 0 0).any fun g => !g.away) = true

/-- The function of slot 5 has left for module 3. -/
def slotGone : State := { base with movedSlots := [(5, (0, 0))], windows := [(0, 3, 1)] }

theorem witness_CollectivesRunInRounds :
    (∀ i ∈ [credOf 0xFFFFFFFF, credOf 0], ∃ c, Issues i (slotState slot5) c ∧ (c.active ≠ 0 ∧ c.g.fn = 0 ∧ c.launch?.any (fun l => decide (l.job = 0)) = true ∧ slot5.root = (slotState slot5).ownVdn slot5)) ∧
    (∃ c, Issues (credOf 0) base c ∧ (c.active ≠ 0 ∧ c.g.level < 2 ∧ base.cslot? 5 = none)) ∧
    (OpenRound (slotState slot5) (con0 7) slot5 ∧ slot5.counted.length + 1 < slot5.p) ∧
    (OpenRound (slotState { slot5 with counted := [con0 7] }) (con0 0) { slot5 with counted := [con0 7] } ∧ sameAsk (con0 7) (con0 0)) ∧
    (OpenRound (slotState { slot5 with counted := [{ con0 7 with fmt := 0 }] }) (con0 0) { slot5 with counted := [{ con0 7 with fmt := 0 }] } ∧
      ¬ sameAsk { con0 7 with fmt := 0 } (con0 0)) ∧
    (AtRoot (slotState slot5) { con0 7 with round := 0 } slot5 ∧ ({ con0 7 with round := 0 } : Contribution).round = slot5.round + 1) ∧
    (base.cslot? (con0 7).slot = none ∧ Cells.find? base.movedSlots (con0 7).slot = none) ∧
    (slotGone.cslot? 5 = none ∧ slotGone.slotLeft 5 0 = some 0 ∧ slotGone.window? 0 = some 3 ∧ slotGone.slotAhead 5 0 0 = none) ∧
    (let s := { slotGone with windows := [], redirect := [(0, 0x80030002)] }
     s.slotLeft 5 0 = some 0 ∧ s.window? 0 = none ∧ s.resolve 0 = some (3, 2)) ∧
    (({ slotState { slot5 with start := some 0 } with cycle := 110001 } : State).cslot? 5 = some { slot5 with start := some 0 } ∧ 0 + 1100 * slot5.timeout < 110001 ∧
      slot5.held = [] ∧ slot5.closing = false ∧ slot5.paused = false) ∧
    (slotState { slot5 with paused := true, start := some 0 }).cslot? 5 = some { slot5 with paused := true, start := some 0 } ∧
    (reachesCred (waitingCred false) (result5 false true) ∧ ((result5 false true).status && (cred9 false).credt) = false) ∧
    (reachesCred (waitingCred true) (result5 false true) ∧ ((result5 false true).status && (cred9 true).credt) = true) ∧
    reachesCred (waitingCred false) (result5 true false) := by
  unfold OpenRound AtRoot sameAsk reachesCred
  refine ⟨issues_each ?_, issues_of_check ?_, ?_⟩ <;> and_intros <;> decide +kernel

/-- Node 0 of the launch's graph with that many records, each of 16 bytes, in a bin of that count. -/
def nodeRt (size count n : Nat) : NodeRt := ⟨⟨hostKernel, size, count, 0, 0⟩, 0, List.replicate n ⟨List.replicate 16 0, 0⟩⟩
def nodeState (size count n ended : Nat) : State :=
  { copyState with graphs := Cells.modify copyState.graphs 0 fun g => { g with nodes := [nodeRt size count n], bins := 0x10000, binLen := 16, ovfLen := 16 },
                   launches := Cells.modify copyState.launches 0 fun l => { l with ended := ended } }
def emitting (size : Nat) : State :=
  { nodeState size 2 0 0 with emits := [(1, ⟨0, 0, 0, 0, 0, 0, 0, [0xFFFF0], 1, .emit noFields, 1, 0⟩)], nextId := 2 }

/-- EMIT to node 0 of the record at A. -/
def emitAt (a : Quad) : Instr := .emit { N0 with a := 0xBF, lit := some a }

/-- The launch's job has an open proof context. -/
def provenState : State := base.modFunc 0 fun f => { f with px := { f.px with en := true } }

/-- The node that an EMIT names. -/
def namesNode (c : Ctx) (size : Nat) : Prop :=
  c.active ≠ 0 ∧ c.g.level < 2 ∧ (c.launch?.bind fun l => (c.st.graph? l.graph).bind fun g => g.nodes[l.nbase]?) = some (nodeRt size 2 0) ∧
    (c.st.group? c.g.group).any (fun x => decide (x.kern.scratch = 1048576)) = true

theorem witness_RecordsReachTheirNodes :
    (∃ c, Issues (.snap { N0 with d := 8 }) provenState c ∧ (c.active ≠ 0 ∧ c.launch?.any (fun l => (provenState.px c.g.fn).en && decide ((provenState.px c.g.fn).job = l.job)) = true)) ∧
    (∃ c, Issues (.snap { N0 with d := 8 }) base c ∧ (c.active ≠ 0 ∧ c.g.level < 2 ∧ c.launch?.isSome = true ∧ (base.px c.g.fn).en = false)) ∧
    (∀ a ∈ [(0xFFFF1 : Quad), 0x100000, 0xFFFF0, 8], ∃ c, Issues (emitAt a) (nodeState 16 2 0 0) c ∧ namesNode c 16) ∧
    (∃ c, Issues (emitAt 0) base c ∧ (c.active ≠ 0 ∧ c.g.level < 2 ∧ c.launch?.any (fun l => ((base.graph? l.graph).bind fun g => g.nodes[l.nbase]?).isNone) = true)) ∧
    (Cells.find? (emitting 16).emits 1 = some ⟨0, 0, 0, 0, 0, 0, 0, [0xFFFF0], 1, .emit noFields, 1, 0⟩ ∧ (emitting 16).isHalted 0 0 0 = false ∧
      (emitting 16).accessBefore 0 0 0 0 0 = false ∧ (emitting 16).nodeOff { hostGraph with nodes := [nodeRt 16 2 0], bins := 0x10000, binLen := 16, ovfLen := 16 } 0 = false ∧
      (emitting 16).graph? 0 = some { hostGraph with nodes := [nodeRt 16 2 0], bins := 0x10000, binLen := 16, ovfLen := 16 } ∧
      (nodeRt 16 2 0).bin.length + 1 < 2) ∧
    ({ hostGraph with nodes := [nodeRt 16 2 0], bins := 0x10000, binLen := 16, ovfLen := 16 } : Graph).room 0 = true ∧
    ({ hostGraph with nodes := [nodeRt (Config.binOnChip + 17) 2 0], bins := 0x10000, binLen := 16, ovfLen := 16 } : Graph).room 0 = false ∧
    (∃ g, (nodeState 16 1 1 0).graph? 0 = some g ∧ (g.nodes[0]? = some (nodeRt 16 1 1) ∧ (nodeRt 16 1 1).node.count ≤ (nodeRt 16 1 1).bin.length ∧
      (nodeState 16 1 1 0).findBuffer 0 g (1 * 16) = some 0x10000)) ∧
    ∃ g, (nodeState 16 2 1 1).graph? 0 = some g ∧ (g.nodes = [nodeRt 16 2 1] ∧ (nodeState 16 2 1 1).quiet 0 = true ∧
      (nodeState 16 2 1 1).findBuffer 0 g (1 * 16) = some 0x10000) := by
  unfold namesNode
  refine ⟨issues_of_check (by decide +kernel), issues_of_check (by decide +kernel), fun a ha => ?_, issues_of_check (by decide +kernel), by decide +kernel, ?_, ?_,
    some_of_check (by decide +kernel), some_of_check (by decide +kernel)⟩
  · fin_cases ha <;> exact issues_of_check (by decide +kernel)
  · simp [Graph.room, Graph.spilled, nodeRt]
  · simp [Graph.room, Graph.spilled, nodeRt]
/-! ## Witnesses: the matrix engine -/

/-- The gang of slot 0 owns the engine of its core, with record 2 in its registers. -/
def owner : State := withCore (fun c => { c with mxOwner := some 0 })
  (withGroup (fun g => { g with kern := { g.kern with galleys := [(0, 0)], scratch := 32768 } }) memState)

/-- A galley whose header's reserved word 15 is not zero. -/
def badHeader : State := withGroup (fun g => { g with scratch := Memory.write g.scratch 60 4 1 }) owner

/-- A galley whose word 0 of row 31 has more bits than a float, for a gang with every trap enabled. -/
def inexactRow : State :=
  (withGroup (fun g => { g with scratch := Memory.write g.scratch 15936 16 0x1000001 }) owner).modGang 0 0 fun g => { g with mode := 0xF800 }

/-- A galley whose row 31 is in state OVF, for the same gang. -/
def ovfRow : State := (withGroup (fun g => { g with scratch := Memory.write g.scratch 4 4 0x80000000 }) owner).modGang 0 0 fun g => { g with mode := 0xF800 }

/-- The matrix instructions on galley 0; the operands in the tile store, and B from memory. -/
def mmaI : Instr := .mma { N0 with a := 0xBC, b := 0xBC, fmt := 6, sub := 6 }
def mmaL2 : Instr := .mma { N0 with a := 0xBC, b := 0xBC, fmt := 6, sub := 0x46, imm := 0x08000000 }
def mmasI : Instr := .mmas { N0 with a := 0xBC, b := 0xBC, c := 0xBC, fmt := 6, sub := 6 }
def moutI : Instr := .mout { N0 with d := 8, fmt := 8, imm := 0x7C00 }

/-- What a matrix instruction that goes to the engine needs, and where its lines lie. -/
def toEngine (i : Instr) (c : Ctx) : Prop :=
  c.active ≠ 0 ∧ c.mmaCause i = none ∧ c.mxCause i = none ∧ (∀ x ∈ (owner.core c.k).mxOps, x.slot = c.sl → x.seq < c.g.seq) ∧
    retire [] c.g.fly = c.g.fly ∧
    ∀ line ∈ (c.mxOp i).l2Lines, owner.translate (.core c.k) c.g.fn line ⟨true, false, false⟩ = Except.ok (.dev line, none)

/-- The gang has the engine of its core. -/
def has (c : Ctx) : Prop :=
  c.active ≠ 0 ∧ (c.st.group? c.g.group).any (fun grp => decide (grp.kern.galleys.length = 1)) = true ∧ (c.st.core c.k).mxOwner = some c.sl

theorem witness_MatrixInstructionsIssue :
    (∃ c, Issues (.mxacq N0) matrixState c ∧ (c.active ≠ 0 ∧ (matrixState.group? c.g.group).any (fun grp => !grp.kern.galleys.isEmpty) = true)) ∧
    (∃ c, Issues (.mxrel N0) owner c ∧ has c) ∧
    (∀ i ∈ [Instr.mxacq N0, .mxrel N0, mmaI, mmasI, .mzero N0, moutI, .manc N0], ∃ c, Issues i base c ∧ (c.active ≠ 0 ∧ c.g.level < 2 ∧
      (base.group? c.g.group).any (fun grp => grp.kern.galleys.isEmpty) = true)) ∧
    (∀ i ∈ [Instr.mxrel N0, mmaI, mmasI, .mzero N0, moutI, .manc N0], ∃ c, Issues i matrixState c ∧ (c.active ≠ 0 ∧ c.g.level < 2 ∧
      (matrixState.core c.k).mxOwner ≠ some c.sl ∧ c.g.reown = false)) ∧
    (∃ c, Issues (.mzero { N0 with imm := 1 }) owner c ∧ (has c ∧ c.g.level < 2)) ∧
    (∃ c, Issues (.mzero N0) badHeader c ∧ (has c ∧ c.g.level < 2 ∧ (badHeader.group? c.g.group).any (fun grp => decide (headerWord grp 0 15 ≠ 0)) = true)) ∧
    (∀ i ∈ [mmaI, mmaL2, mmasI], ∃ c, Issues i owner c ∧ toEngine i c) ∧
    (∀ i ∈ [Instr.mzero N0, .manc { N0 with imm := 0x00600000 }], ∃ c, Issues i owner c ∧ (c.active ≠ 0 ∧ c.mxCause i = none)) ∧
    (∀ i ∈ [moutI, .mout { N0 with d := 8, fmt := 14, imm := 0x01F0 }], ∃ c, Issues i owner c ∧ (has c ∧ c.mxCause i = none ∧
      (c.st.group? c.g.group).any (fun grp => decide (flagTrap c.g.trapen c.lanes (moutTrap c i grp) = none)) = true)) ∧
    (∃ c, Issues moutI ovfRow c ∧ (has c ∧ c.mxCause moutI = none ∧
      (c.st.group? c.g.group).any (fun grp => decide (flagTrap c.g.trapen c.lanes (moutTrap c moutI grp) = none)) = true)) ∧
    ∃ c, Issues moutI inexactRow c ∧ (has c ∧ c.mxCause moutI = none ∧ c.g.level < 2 ∧
      (c.st.group? c.g.group).any (fun grp => (flagTrap c.g.trapen c.lanes (moutTrap c moutI grp)).isSome) = true) := by
  unfold has toEngine
  refine ⟨issues_of_check (by decide +kernel), issues_of_check (by decide +kernel), issues_each (by decide +kernel), issues_each (by decide +kernel),
    issues_of_check (by decide +kernel), issues_of_check (by decide +kernel), fun i hi => ?_, issues_each (by decide +kernel), issues_each (by decide +kernel),
    issues_of_check (by decide +kernel), issues_of_check (by decide +kernel)⟩
  fin_cases hi <;> exact issues_of_check (by decide +kernel)

/-- An instruction of the gang in the engine; the tile store's first row holds an E4M3 one at its end. -/
def mxOf0 (i : Instr) : MxOp :=
  { instr := i, slot := 0, gen := 0, group := 0, seq := 0, active := 0x80000001, a := 0, b := 0, c := 0, anchor := 0, mode := 0, level := 0, buf := 0, lines := [],
    l2 := [], bad := none, ran := false, folded := false }
def inEngine (m : MxOp) : State := withCore (fun c => { c with mxOps := [m], tile := Memory.write [] 31 1 0x38 }) owner

/-- The engine of core 0 has nothing to do before an instruction, and the oracle brings it no error. -/
def engineCheck (s : State) : Bool :=
  (s.core 0).fold.isNone && (s.core 0).mxq.isEmpty && !s.accessBefore 0 0 0 0 0 && !s.choice.testBit 99 && (s.group? 0).isSome

theorem next_of_engine {m : MxOp} {ch : Nat} (hm : m.slot = 0 ∧ m.gen = 0 ∧ m.seq = 0 ∧ m.level = 0 ∧ m.group = 0 ∧ m.ran = false ∧ m.lines = [])
    (h : engineCheck { inEngine m with choices := [ch] } = true)
    (hl : ({ inEngine m with choices := [ch] }.core 0).mxOps = [m]) : ∃ grp, EngineNext { inEngine m with choices := [ch] } 0 m grp := by
  obtain ⟨h1, h2, h3, h4, h5, h6, h7⟩ := hm
  simp only [engineCheck, Bool.and_eq_true, Option.isNone_iff_eq_none, List.isEmpty_iff, Bool.not_eq_true', Option.isSome_iff_exists] at h
  obtain ⟨⟨⟨⟨a, b⟩, c⟩, d⟩, grp, e⟩ := h
  exact ⟨grp, ⟨[], [], hl, by simp⟩, h6, h7, a, b, by rw [h1, h2, h3, h4]; exact c, by rw [h5]; exact e, d⟩

/-- An open fold, of one word at the end of the galley. -/
def openFold : Fold :=
  { slot := 0, group := 0, gal := 0, active := 0x80000000, anchor := 0, count := 1, last := 0, ents := [(1023, ⟨-1, false, false, false, false, false⟩)] }

/-- A choice in which row 511 of the tile store has an error. -/
def badRowChoice : Nat := 511 * 2 ^ 256 + 2 ^ 98

theorem witness_TheEngineExecutes :
    (∀ i ∈ [Instr.mzero N0, .manc { N0 with imm := 0x00600000 }, mmaI], ∃ grp, EngineNext { inEngine (mxOf0 i) with choices := [0] } 0 (mxOf0 i) grp) ∧
    (let f : Long := { N0 with a := 0xBC, b := 0xBC, fmt := 6, sub := 6 }
     let prod := fun x => (Val.mul (tileElem ((inEngine (mxOf0 mmaI)).core 0).tile f.fmt (mxEs mmaI) 0 0 x)
      (tileElem ((inEngine (mxOf0 mmaI)).core 0).tile (f.sub.extractLsb' 0 4) (mxEs mmaI) 0 0 x)).1
     let parts := fun x => (Contrib.val (prod x)).parts (anchorVal 0)
     subF f 6 5 = 0 ∧ f.sub.getLsbD 4 = false ∧ (mxOf0 mmaI).active.getLsbD 0 = true ∧ (∀ x ∈ List.range (mxK mmaI), (parts x).1 = 0) ∧
       (∀ j ∈ List.range (mxK mmaI + 1), (((List.range j).map fun x => (parts x).2).sum).natAbs < 2 ^ 127) ∧
       (((List.range (mxK mmaI)).map fun x => (parts x).2).sum) ≠ 0) ∧
    (∀ i ∈ [mmaI, mmasI], ∀ bad ∈ [some 0x10000, none],
      (∃ grp, EngineNext { inEngine { mxOf0 i with bad := some bad } with choices := [0] } 0 { mxOf0 i with bad := some bad } grp) ∧
      ((inEngine { mxOf0 i with bad := some bad }).gen 0 0 = 0 ∧ ((inEngine { mxOf0 i with bad := some bad }).gang? 0 0).isSome = true)) ∧
    (∀ i ∈ [{ mxOf0 mmaI with a := 480 * 512 }, { mxOf0 mmasI with c := 480 * 512 }],
      (∃ grp, EngineNext { inEngine i with choices := [badRowChoice] } 0 i grp) ∧ i.bad = none ∧ badRowChoice.testBit 98 = true ∧
        i.readsRow (badRowChoice / 2 ^ 256 % 512) = true) ∧
    (({ withCore (fun c => { c with fold := some openFold }) owner with cycle := 64 } : State).core 0).fold = some openFold ∧ owner.choice.testBit 99 = false ∧
    (openFold.last + 64 ≤ 64 ∧ Cells.risesFrom 0 openFold.ents = true ∧ (∀ p ∈ openFold.ents, p.1 < 1024)) ∧
    ∃ g, ((inEngine { mxOf0 mmaI with ran := true }).modGang 0 0 fun g => { g with fly := [⟨0, .m, 1⟩] }).gang? 0 0 = some g ∧ g.fly = [] ++ ⟨0, .m, 1⟩ :: [] := by
  refine ⟨fun i hi => ?_, by decide +kernel, fun i hi bad hb => ⟨?_, ?_⟩, fun i hi => ?_, by decide +kernel, by decide +kernel, by decide +kernel,
    some_of_check (by decide +kernel)⟩
  · fin_cases hi <;> exact next_of_engine (by decide) (by decide +kernel) (by decide +kernel)
  · fin_cases hi <;> fin_cases hb <;> exact next_of_engine (by decide) (by decide +kernel) (by decide +kernel)
  · fin_cases hi <;> fin_cases hb <;> decide +kernel
  · fin_cases hi <;> exact ⟨next_of_engine (by decide) (by decide +kernel) (by decide +kernel), by decide +kernel, by decide +kernel, by decide +kernel⟩
/-! ## Witnesses: launches and queues -/

/-- The launch and the group of the gang, changed. -/
def withLaunch (f : Launch → Launch) (s : State) : State := { s with launches := Cells.modify s.launches 0 f }

/-- Its second group is to be placed. -/
def placing : State := withLaunch (fun l => { l with groups := 2 }) { base with jobs := [(jobKey 0 0, ⟨0, 0, 0, 1, false, [], []⟩)] }

/-- A group of 31 gangs and two galleys that may start beside the gang. -/
def starting : State := withGroup (fun g => { g with started := false, kern := { g.kern with gangs := 31, galleys := [(0, 0), (64, 96)] } }) base

/-- A landing of two lines, to be filled from that address. -/
def filling (va : Nat) : State := withGroup (fun g => { g with started := false, fills := [⟨va, false, 256, 0, [0, 1], [], 0, 0⟩] }) base
def faulting : State := { filling 0x1FF80 with launches := [] }
def ending : State := withGroup (fun g => { g with live := [] }) base
def staging : State := withLaunch (fun l => { l with placed := 0, kern := { l.kern with decls := [⟨false, 0, 0, 0, 128⟩] } }) base
def overrun : State := withLaunch (fun l => { l with runlim := 1, run := 11000 }) base

theorem witness_LaunchesRunAsGroups :
    (∃ l, placing.launch? 0 = some l ∧ (placing.placeable 0 l = true ∧ l.setsz = 1 ∧ placing.fits l.fn l.kern 1023 = true)) ∧
    (∃ g, starting.group? 0 = some g ∧ (g.started = false ∧ g.ended = false ∧ g.halting = false ∧ (∀ f ∈ g.fills, f.left = []) ∧
      g.kern.gangs ≤ (starting.freeSlots g.core).length ∧ g.kern.galleys = [(0, 0), (64, 96)])) ∧
    (∃ g, ending.group? 0 = some g ∧ (g.started = true ∧ g.ended = false ∧ g.live = [] ∧ ending.groupBusy 0 = false ∧ (ending.launch? g.launch).isSome = true)) ∧
    (∃ g, (filling 0x1FF00).group? 0 = some g ∧ (g.started = false ∧ g.fills[0]? = some ⟨0x1FF00, false, 256, 0, [0, 1], [], 0, 0⟩ ∧
      ∀ p ∈ (⟨0x1FF00, false, 256, 0, [0, 1], [], 0, 0⟩ : Fill).parts 1,
        (filling 0x1FF00).translate (.agent g.fn) g.fn p.1 ⟨true, false, false⟩ = Except.ok (.dev p.1, none) ∧ (filling 0x1FF00).spoilt g.fn p.1 = false)) ∧
    (∃ g, faulting.group? 0 = some g ∧ (g.started = false ∧ g.fills[0]? = some ⟨0x1FF80, false, 256, 0, [0, 1], [], 0, 0⟩ ∧
      faulting.launch? 0 = none ∧ (0x20000, 128) ∈ (⟨0x1FF80, false, 256, 0, [0, 1], [], 0, 0⟩ : Fill).parts 1 ∧
      faulting.translate (.agent g.fn) g.fn 0x20000 ⟨true, false, false⟩ = Except.error 0x13)) ∧
    (∃ l, staging.launch? 0 = some l ∧ (staging.mayStage 0 0 = true ∧ l.kern.decls[0]? = some ⟨false, 0, 0, 0, 128⟩)) ∧
    ∃ l, overrun.launch? 0 = some l ∧ (l.runlim ≠ 0 ∧ l.watched = false ∧ l.runlim * 11000 ≤ l.run) := by
  refine ⟨some_of_check ?_, some_of_check ?_, some_of_check ?_, some_of_check ?_, some_of_check ?_, some_of_check ?_,
    some_of_check ?_⟩ <;> decide +kernel

/-- Words in memory from an address on. -/
def putWords (m : Memory) (a : Nat) (w : List Nat) : Memory := (w.foldl (fun (p : Memory × Nat) x => (Memory.write p.1 p.2 4 x, p.2 + 4)) (m, a)).1

/-- Queue 0 of function 0 holds a packet in the last entry of its ring of 64, its HEAD at the end of its range; a kernel's descriptor stands at 0x12000, a node
table at 0x14000 with its one node at 0x15000, and graph 7 of job 0 is open with identity 0. -/
def queueState (ring : Nat) (w : List Nat) : State :=
  let m := putWords (putWords (putWords (putWords base.mem 0x10FC0 w) 0x12000 [0x01011000, 0, 0x10000, 0]) 0x14000 [0x15000, 0]) 0x15000
    [0x01000010, 1, 0, 0, 0x12000, 0, 0, 0]
  ({ base with mem := m, graphs := Cells.modify base.graphs 0 fun g => { g with gid := some 7 }, cslots := [(5, slot5)],
               jobs := [(jobKey 0 0, ⟨0, 0, 0, 1, false, [], [9]⟩)] } : State).modFunc 0 fun f =>
    { f with queues := [(0, { Queue.reset with base := ring, en := true, slot := true, head := 0xFFFFFFFF, tail := 0, qends := [(0, 3)] })],
             px := { f.px with en := true } }

/-- A packet, filled up with zeros. -/
def pkt (w : List Nat) : List Nat := w ++ List.replicate (16 - w.length) 0
def launchW : List Nat := pkt [0x01000001, 9, 0xFFFFFF, 1, 0x12000, 0, 0x13000, 0, 8]
def graphW : List Nat := pkt [0x01000002, 9, 0x00010008, 0, 0x14000, 0, 0x13000, 0, 8]
def signalW : List Nat := pkt [0x013F0105, 0, 0x10000, 0, 1, 2]
def copenW : List Nat := pkt [0x01000006, 63, 65535, 100000, 16, 0, 0x00010000]
def ccloseW : List Nat := pkt [0x01000007, 5]
def ovfW : List Nat := pkt [0x01000008, 0, 7, 0, 0, 0, 0x10000]

/-- The queue holds the packet and skips nothing. -/
def holds (cmd : Nat) (w : List Nat) : Prop := Presents (queueState 0x10000 w) 0 0 cmd w ∧ NoSkip (queueState 0x10000 w) 0 0

theorem witness_CommandsAreProcessed :
    holds 0 (pkt [0x01000000]) ∧
    (holds 1 launchW ∧ (queueState 0x10000 launchW).launchCodes 0 0 launchW = []) ∧
    (holds 2 graphW ∧ (queueState 0x10000 graphW).graphCodes 0 0 graphW = [] ∧ ((controllerRead (queueState 0x10000 graphW) 0 0 graphW).graphNodes 0 graphW).isSome = true) ∧
    holds 3 (pkt [0x01000003]) ∧
    (holds 4 (pkt [0x01000004]) ∧ ((queueState 0x10000 []).px 0).en = true ∧ ((queueState 0x10000 []).px 0).job = ((queueState 0x10000 []).queue 0 0).job ∧
      ((queueState 0x10000 []).queue 0 0).qends ≠ []) ∧
    (holds 5 signalW ∧ signalW.getD 0 0 &&& 0xC0FE00 = 0) ∧
    (holds 6 copenW ∧ (queueState 0x10000 copenW).cslot? 63 = none) ∧
    (holds 7 ccloseW ∧ (queueState 0x10000 ccloseW).cslot? 5 = some slot5 ∧ slot5.job = ((queueState 0x10000 ccloseW).queue 0 0).job ∧ slot5.fn = 0 ∧ slot5.closing = false) ∧
    (holds 8 ovfW ∧ (queueState 0x10000 ovfW).jobGraph 0 0 7 = some 0 ∧ ((queueState 0x10000 ovfW).graph? 0).isSome = true) ∧
    (∀ w ∈ [pkt [0x01000009, 9], pkt [0x01000109, 0, 7], pkt [0x01000209], pkt [0x01000309]], holds 9 w ∧ (queueState 0x10000 w).cancelCodes 0 0 w = []) ∧
    ((queueState 0x20000 []).canProcess 0 0 = true ∧ (queueState 0x20000 []).packetAt 0 0 0xFFFFFFFF = none) ∧
    (∀ w ∈ [pkt [0x0100000A], pkt [0x02000000]], (queueState 0x10000 w).canProcess 0 0 = true ∧ (queueState 0x10000 w).packetAt 0 0 0xFFFFFFFF = some w) ∧
    ∀ cmd ∈ List.range 10, holds cmd ((pkt [0x01000000 + cmd]).take 15 ++ [0xFFFFFFFF]) := by
  unfold holds Presents NoSkip
  and_intros <;> decide +kernel

/-- Function 0 with queues of those records. -/
def withQueues (l : List Queue) : State := base.modFunc 0 fun f => { f with queues := l.mapIdx fun i q => (i, q) }

/-- A queue that asks for a slot, and one that has one. -/
def asking : Queue := { Queue.reset with en := true, tail := 1 }
def firmQueue : Queue := { asking with slot := true, np := true, holdEnd := some 5 }

/-- 256 queues of function 0 and 256 of function 1 hold a slot each, and queue 0 of function 2 asks for one. -/
def allHeld : State :=
  let held := (List.range 256).map fun i => (i, { asking with slot := true })
  { base with funcs := [(0, { Func.reset with queues := held }), (1, { Func.reset with queues := held }), (2, { Func.reset with queues := [(0, asking)] })] }

/-- Both functions have as many slots as the other, and no more are left. -/
theorem allHeld_slots : allHeld.slotsOf 0 = 256 ∧ allHeld.slotsOf 1 = 256 ∧ allHeld.slotsOf 2 = 0 ∧ 512 ≤ allHeld.slotsHeld := by decide +kernel

theorem allHeld_mostOver : allHeld.mostOver 0 = true := by
  have h : ∀ x ∈ allHeld.allQueues, (x.1 = 0 ∨ x.1 = 1 ∨ x.1 = 2) := by decide +kernel
  have w : (allHeld.func 0).weight = 1 ∧ (allHeld.func 1).weight = 1 ∧ (allHeld.func 2).weight = 1 := by decide +kernel
  obtain ⟨h0, h1, h2, -⟩ := allHeld_slots
  rw [State.mostOver, List.all_eq_true]
  intro x hx
  rcases h x hx with e | e | e <;> simp [e, h0, h1, h2, w]

/-- A queue with a signal to write. -/
def signalQueue (addr : Nat) : State := withQueues [{ asking with pending := [.signal 3 addr 7 true 63 .unsent] }]

/-- A queue with a signal that a peer has answered. -/
def answeredQueue : State := withQueues [{ asking with pending := [.signal 3 0 7 true 63 (.answered true)] }]

theorem witness_QueuesAndFunctionsAreServed :
    (base.hasLeft 0 = none ∧ 2 ^ (base.queue 0 255).log2 < (65 - (base.queue 0 255).head : Word).toNat ∧
      (64 - (base.queue 0 255).head : Word).toNat ≤ 2 ^ (base.queue 0 255).log2 ∧
      ((base.queue 0 255).tail - (base.queue 0 255).head).toNat < (64 - (base.queue 0 255).head : Word).toNat) ∧
    ((withQueues [asking]).slotsHeld < 512 ∧ (withQueues [asking]).bestAsk = some (0, 0)) ∧
    ((allHeld.queue 0 255).slot = true ∧ (allHeld.queue 0 255).holdEnd = none ∧ allHeld.bestAsk ≠ none ∧ 512 ≤ allHeld.slotsHeld ∧ allHeld.mostOver 0 = true) ∧
    (let s := { withQueues [firmQueue] with pod := 5 }
     (s.queue 0 0).holdEnd = some 5 ∧ 5 ≤ s.pod ∧ s.firstPend = none) ∧
    (let s := { withQueues [firmQueue, { asking with pend := some 1 }] with pod := 5 }
     (s.queue 0 0).holdEnd = some 5 ∧ 5 ≤ s.pod ∧ s.firstPend = some (0, 1)) ∧
    (((signalQueue 0x1FFF8).queue 0 0).pending = .signal 3 0x1FFF8 7 true 63 .unsent :: [] ∧
      (signalQueue 0x1FFF8).vaTarget 0 0x1FFF8 ⟨false, true, false⟩ = Except.ok (.dev 0x1FFF8) ∧
      (signalQueue 0x1FFF8).keyOk ((signalQueue 0x1FFF8).keyOf 0) 0x1FFF8 = true ∧ ((signalQueue 0x1FFF8).px 0).en = false) ∧
    (((signalQueue 0x20000).queue 0 0).pending = .signal 3 0x20000 7 true 63 .unsent :: [] ∧
      (signalQueue 0x20000).vaTarget 0 0x20000 ⟨false, true, false⟩ = Except.error 0x13) ∧
    ((answeredQueue.queue 0 0).pending = .signal 3 0 7 true 63 (.answered true) :: []) ∧
    ((withQueues [asking]).jcan.getLsbD 31 = false ∧ (0x82000000 : Word).getLsbD 31 = true ∧ bits (0x82000000 : Word).toNat 25 24 = 2 ∧
      bits (0x83000000 : Word).toNat 25 24 = 3 ∧ (withQueues [asking]).jobNamed 0 0 = true) ∧
    (base.jcan.getLsbD 31 = false ∧ bits (0x81000000 : Word).toNat 25 24 < 2 ∧ base.jobNamed 63 65535 = false) ∧
    (let s := { withQueues [asking] with jcan := 0x82000000 }
     s.jcan.getLsbD 31 = true ∧ bits (0x02150007 : Word).toNat 21 16 = 0x15) ∧
    (((withQueues [asking]).queue 0 0).en = true ∧ (base.queue 0 0).en = false) ∧ base.fnActive 0 = true ∧ base.fnActive 63 = false := by
  refine ⟨?_, ?_, ⟨?_, ?_, ?_, allHeld_slots.2.2.2, allHeld_mostOver⟩, ?_⟩ <;> and_intros <;> decide +kernel
/-! ## Witnesses: translation caches, partitions, keys and proofs -/

/-- A request of function 63 is in flight, and an invalidation waits for it; or none is. -/
def invalidating (waits : List Nat) : State :=
  { base with reqs := [(7, { req0 (.ld M0) (.dev 0) 0 0 with fn := 63 })], nextId := 8, inval := [(64, ⟨true, 0, waits⟩), (3, ⟨false, 3, waits⟩)] }

theorem witness_InvalidationsDiscardAndWait :
    ((base.func 63).s1ictl.getLsbD 31 = false ∧ base.s2ictl.getLsbD 31 = false) ∧
    ((base.modFunc 63 fun f => { f with s1ictl := 0x80000000 }).func 63).s1ictl.getLsbD 31 = true ∧
    ({ base with s2ictl := 0x80000000 } : State).s2ictl.getLsbD 31 = true ∧
    (Cells.find? (invalidating [7]).inval 64 = some ⟨true, 0, [7]⟩ ∧ Cells.find? (invalidating [7]).reqs 7 ≠ none) ∧
    (∀ id ∈ [3, 64], Cells.find? (invalidating [6]).inval id ≠ none) ∧ Cells.find? (invalidating [6]).reqs 6 = none := by decide +kernel

/-- Partition 15 shares nothing, or memory-side port 47, with partition 0. -/
def partState (mem : BitVec 48) : State := (base.modPart 0 fun p => { p with req := 1, mem := 0x800000000000, qos := 0 }).modPart 15 fun p =>
  { p with req := 2, mem := mem, qos := 0, valid := false }

/-- Key 5 is loaded and not used. -/
def keyState : State := { base with keyData := [(5, 7)], kdata := 9, rtaddr := 0xFFFF0000 }

/-- `serving` under the key 5. -/
def keyed : State := { serving.modFunc 0 fun f => { f with fcfg := 0x0FFF000000000005 } with frames := Cells.put serving.frames 0x101 ⟨5, 0, 0, 0xFFFF⟩ }

/-- A line of function 0 that is dirty and cannot be corrected. -/
def spoiltState : State := { base with dirty := [(0x20000, [(0, 3), (127, 4)])], poison := [0x20000], mem := [(0x20001, 9)] }

theorem witness_PartitionsAndKeysAreManaged :
    (∃ u < 16, u ≠ 15 ∧ ((partState 0x800000000000).part u).valid = true ∧ Shares ((partState 0x800000000000).part 15) ((partState 0x800000000000).part u)) ∧
    (¬ ∃ u < 16, u ≠ 15 ∧ ((partState 0x400000000000).part u).valid = true ∧ Shares ((partState 0x400000000000).part 15) ((partState 0x400000000000).part u)) ∧
    ((partState 0).partBusy 0 = true ∧ (partState 0).partBusy 15 = false) ∧
    (∃ f, Cells.find? base.funcs 0 = some f ∧ f.partNo = 0) ∧
    (spoiltState.Inv ∧ LinesKept spoiltState ∧ Cells.find? spoiltState.dirty 0x20000 = some [(0, 3), (127, 4)] ∧ spoiltState.poison.contains 0x20000 = true ∧
      (spoiltState.funcs.any fun p => decide (p.2.partNo = 0) && spoiltState.keyOf p.1 == (spoiltState.frame 0x20000).keyid) = true) ∧
    (keyState.keyUsed (keyState.keyOf 0) = true ∧ keyState.keyUsed 5 = false ∧ (5 : BitVec 12) ≠ 0) ∧
    (keyState.keyLoaded 6 = false ∧ keyState.keyLoaded 5 = true ∧ keyState.keyLoaded 0 = true) ∧
    ((∀ j < 8, keyed.translateIa (.agent 0) 0 (0x1FFF8 + j) ⟨false, true, false⟩ = Except.ok (.dev (0x101FFF8 + j))) ∧
      keyed.keyOk (keyed.keyOf 0) 0x101FFF8 = true ∧ keyed.keyOf 0 ≠ 0 ∧ (keyed.px 0).en = false) := by
  unfold Shares State.Inv LinesKept
  refine ⟨⟨0, by decide +kernel⟩, ?_, by decide +kernel, ⟨_, rfl, rfl⟩, by decide +kernel, by decide +kernel, by decide +kernel, fun j hj => ?_, by decide +kernel⟩
  · rintro ⟨u, hu, h⟩
    have : ∀ u ∈ List.range 16, u ≠ 15 → ((partState 0x400000000000).part u).valid = true → u = 0 := by decide +kernel
    obtain rfl := this u (List.mem_range.mpr hu) h.1 h.2.1
    revert h
    decide +kernel
  · have : ∀ j ∈ List.range 8, keyed.translateIa (.agent 0) 0 (0x1FFF8 + j) ⟨false, true, false⟩ = Except.ok (.dev (0x101FFF8 + j)) := by decide +kernel
    exact this j (List.mem_range.mpr hj)

/-- Function 0 with a proof context whose store is the mapped page, and with block 0x20000 under its own key. -/
def pxState (s : State) (h : Px → Px) : State :=
  { s with frames := Cells.put (Cells.put s.frames 1 ⟨s.keyOf 0, 0, 0, 0xFFFF⟩) 2 ⟨s.keyOf 0, 1, 0, 1⟩ }.modFunc 0 fun f =>
    { f with px := h { Px.reset with base := 0x10000, len := 1, chlmax := 1, en := true, e := 2, proof := 1, first := 1, mem := 0x80058007 } }

/-- Its next proof may be taken, with a SNAP of the gang in it. -/
def pointState (h : Px → Px) : State :=
  { pxState base fun p => h { p with pend := true } with snaps := [(1, ⟨0, 0, 0, 0, 0, 0x80000001, [(0, 8), (31, 8)], .snap { N0 with d := 8 }, true, 0⟩)] }

/-- A frozen record of one block, and two records that hold it, the first with the position of a queue. -/
def frozenR : PxRecord := ⟨0, 16384, 2, 2, 0, 1, 0, 0, 0, false, [], [], [0x20000], []⟩
def record1 (slots : List Nat) : PxRecord := ⟨0, 16384, 1, 2, 1, 1, 1, 0, 0, false, slots, [], slots, [(0, 3)]⟩
def record2 : PxRecord := ⟨16384, 16384, 2, 3, 0, 1, 1, 0, 0, false, [0x20000], [], [0x20000], []⟩
def draining (blocks : List Nat) : State := pxState base fun p => { p with drain := true, frozen := some frozenR, frozenF := blocks, closed := [5, 7] }
def rolling (slots : List Nat) : State :=
  pxState State.reset fun p => { p with records := [record1 slots, record2], num := 1, last := 2, proof := 2 }

/-- A point may be taken by a member that has another one, with a link that is up. -/
def marking : State :=
  { ((pointState id).modFunc 0 fun f => { f with vdnValid := true, vdn := 5 }) with redirect := [(7, 0x80010000)], links := [(17, { Link.reset with up := true, farMod := 1 })] }

theorem witness_ProofContextsRun :
    ((((pxState base id).px 0).en = true) ∧ ((base.px 0).en = false ∧ (base.px 0).len * 65536 < 16 * (base.px 0).foln + 65536) ∧
      (((pxState base fun p => { p with en := false }).px 0).en = false ∧ 16 * ((pxState base id).px 0).foln + 65536 ≤ ((pxState base id).px 0).len * 65536)) ∧
    ((((pxState base fun p => { p with busy := true }).px 0).busy = true ∧ ((pxState base fun p => { p with busy := true }).px 0).sweep = []) ∧
      (∀ g ∈ [(1 : Nat), 0], let s := pxState base fun p => { p with busy := true, sweep := [65536 * (g + 1)], foln := 1 }
        (s.px 0).busy = true ∧ (s.px 0).sweep = [65536 * (g + 1)] ∧ s.blockValid (65536 * (g + 1)) = true ∧ (s.blockGen (65536 * (g + 1)) = 0 ↔ g = 0))) ∧
    ((pxState base id).pointReady 0 = false ∧ (pointState id).pointReady 0 = true) ∧
    ((∃ o, (pointState id).snaps = [(1, o)] ∧ (o.fn = 0 ∧ (pointState id).gen o.core o.slot = o.gen ∧
        ((pointState id).gang? o.core o.slot).any (fun g => !g.away) = true)) ∧
      (let p := (pointState id).px 0
       p.dead = false ∧ p.openBad = false ∧ p.area + p.head + p.recordLen p.openF.length ≤ p.end_ ∧ (pointState id).keyOk ((pointState id).keyOf 0) (p.area + p.head) = true) ∧
      (let s := pointState fun p => { p with head := 65536 }
       s.pointReady 0 = true ∧ (s.px 0).end_ < (s.px 0).area + (s.px 0).head + Px.headLen (s.px 0).openF.length)) ∧
    (let p := (pxState base id).px 0
     p.isMember 9 = false ∧ p.isMember 7 = true ∧ p.isMember 5 = true ∧ p.job = 0 ∧ nextEpoch p.e = 3 ∧ Cells.find? p.marks (4 * 7 + 1) = none ∧
       Cells.getD p.recvd (4 * 7 + 1) 0 = 0 ∧ (pxState base id).stopPhase 0 = false ∧ (pxState base id).hasLeft 0 = none) ∧
    (((draining [0x20000]).px 0).frozen = some frozenR ∧ (draining [0x20000]).Inv ∧ ((draining [0x20000]).px 0).frozenF = [0x20000] ∧
      (draining [0x20000]).blockGen 0x20000 = prevEpoch ((draining [0x20000]).px 0).e ∧ ClearOf ((draining [0x20000]).px 0) frozenR 0x20000 ∧
      (draining [0x20000]).keyOk ((draining [0x20000]).keyOf 0) 0x12000 = true ∧ (draining [0x20000]).keyOk ((draining [0x20000]).keyOf 0) 0x11000 = true ∧
      frozenR.slotAddr ((draining [0x20000]).px 0) 0 = 0x12000 ∧ ((draining [0x20000]).px 0).area = 0x10000) ∧
    (((draining [0x10000]).px 0).frozenF = [0x10000] ∧ (draining [0x10000]).blockGen 0x10000 ≠ prevEpoch ((draining [0x10000]).px 0).e) ∧
    (((draining []).px 0).frozen = some frozenR ∧ (draining []).Inv ∧ ((draining []).px 0).frozenF = [] ∧ (draining []).channelsClosed 0 = true) ∧
    ((base.rollbackCode 0 (base.px 0).num.toNat).isSome = true ∧ ((rolling []).px 0).last < 3) ∧
    (∀ l ∈ [[], [0x20000]], (rolling l).rollbackCode 0 1 = none ∧ (rolling l).Inv ∧ ((rolling l).px 0).num.toNat = 1 ∧
      ((rolling l).px 0).records.find? (fun r => decide (r.k = 1)) = some (record1 l) ∧ (record1 l).chlog = [] ∧ ((rolling l).px 0).touched 1 = [0x20000] ∧
      (record1 l).origin = 1 ∧ (record1 l).qpos = [(0, 3)]) ∧
    (rolling []).snaps = [] ∧
    (marking.pointReady 0 = true ∧ (marking.func 0).vdnValid = true ∧ 7 ∈ marking.others 0 ∧ marking.resolve 7 = some (1, 0) ∧
      (Cells.find? marking.links 17).any (fun y => y.up && decide (y.farMod = 1)) = true) ∧
    (((rolling []).px 0).newestOf 1 0x20000 = none ∧ ((rolling [0x20000]).px 0).newestOf 1 0x20000 = some (record1 [0x20000], 0) ∧
      (record1 [0x20000]).slotAddr ((rolling [0x20000]).px 0) 0 + 4096 ≤ 0x20000) := by
  unfold State.Inv ClearOf
  refine ⟨?_, ?_, ?_, ⟨⟨_, rfl, ?_⟩, ?_, ?_⟩, ?_⟩ <;> and_intros <;> decide +kernel
/-! ## Witnesses: migration, debugging and fleet operation -/

/-- `serving` with session 3 of the fields, and block 0x101F000 of function 0 changed since the last round. -/
def session3 (dir : Bool) (fn state round : Nat) (stop : Bool) : Session := { stopSession with dir := dir, fn := fn, state := state, round := round, maxr := 2, stop := stop, links := 0x20000 }
def migrating (x : Session) : State :=
  { serving with sessions := [(3, x)], frames := Cells.put serving.frames 0x101 ⟨0, 0, 0x8000, 0xFFFF⟩ }

theorem witness_MigrationsMoveFunctions :
    (∀ st ∈ [0, 6, 7], ((migrating (session3 true 63 st 0 false)).session 3).state = st ∧ ((migrating (session3 true 63 st 0 false)).session 3).dir = true ∧
      (migrating (session3 true 63 st 0 false)).fnIdle 63 = true ∧ ((migrating (session3 false 0 st 0 false)).session 3).dir = false) ∧
    (∀ st ∈ [2, 4], (migrating (session3 false 0 st 0 false)).gang? 0 0 ≠ none ∧ ((migrating (session3 false 0 st 0 false)).gang? 0 0).any (fun g => decide (g.fn = 0)) = true) ∧
    (let x := session3 false 0 1 0 false
     x.dir = false ∧ x.state = 1 ∧ x.stopDue = false ∧ x.stop = false ∧ x.round + 1 < x.maxr ∧ x.resid = 0 ∧ (migrating x).blockDirty 0x101F000 = true ∧
       (0x1F000, 0x101F000) ∈ (migrating x).walkBlocks 0) ∧
    (let s := migrating (session3 false 0 1 1 true)
     (s.px 0).pend = false ∧ (s.px 0).drain = false ∧ (s.px 0).busy = false ∧ (s.gang? 0 0).any (fun g => !g.stopped && decide (g.halt = none)) = true) ∧
    (let s := migrating (session3 true 0 8 0 false)
     s.lookup2 0 0x20000 = none ∧ (s.lookup2 0 0x1F000).any (fun l => decide (l.kind ≤ 1) && decide ((l.addr + 0x1F000 % 65536) % 4096 = 0)) = true ∧
       s.keyOk (s.keyOf 0) 0x101F000 = true ∧ (s.px 0).en = false) ∧
    (ofBytes ((([0, 0, 1, 0] : List Byte).drop 0).take 4) = 0x00010000 ∧ ofBytes ((([] : List Byte).drop 0).take 4) ≠ 0x00010000) ∧
    (let s := { migrating (session3 false 0 5 0 false) with held := [packet .load 5 0] }
     s.sessions = [(3, s.session 3)] ∧ (s.session 3).dir = false ∧ (s.session 3).state = 5 ∧ (s.func 0).vdnValid = true ∧ (s.func 0).vdn.toNat = 5) ∧
    (let s := { migrating (session3 true 63 8 0 false) with arriving := [(3, groupSavedState.shadowOf 0)] }
     ∃ sh, Cells.find? s.arriving 3 = some sh ∧ (sh.saved.map (·.1) = [0] ∧ sh.cores.map (·.1) = [savedCore 0] ∧ sh.launches.map (·.1) = [0] ∧
       sh.cores.all (fun c => (Cells.find? c.2.gangs 0).isSome) = true)) ∧
    (let s := { migrating (session3 false 0 5 0 false) with cslots := [(5, slot5)] }
     s.cslots = [(5, slot5)] ∧ slot5.fn = (s.session 3).fn) := by
  refine ⟨?_, ?_, ?_, ?_, ?_, ?_, ?_, some_of_check ?_, ?_⟩ <;> decide +kernel

/-- The group of the gang has been halted by the debugger. -/
def debugged : State := withGroup (fun g => { g with debug := true }) base

theorem witness_DebuggerAndResets :
    (∃ g, base.gang? 0 0 = some g ∧ base.dbgOutf = false) ∧ (∃ g, ({ base with dbgOutf := true } : State).gang? 0 0 = some g ∧ True) ∧
    (let s := ({ base with dbgIen := true, dbgVec := 63 } : State).modFunc 0 fun f => { f with msixTable := [(255, 0)] }
     s.dbgIen = true ∧ ((s.func 0).msixDword (4 * s.dbgVec + 3)).getLsbD 0 = false) ∧
    base.dbgInf = false ∧ ({ base with dbgInf := true } : State).dbgInf = true ∧
    (bits (0x003F0F1F : Word).toNat 11 8 = 15 ∧ base.gang? (64 * 15 + 63) 31 = none ∧ base.debugGroups (64 * 15 + 63) 31 = []) ∧
    (∃ g, base.gang? 0 0 = some g ∧ (g.halt = none ∧ g.stopped = false ∧ (base.group? g.group).any (fun x => decide (x.core = 0)) = true)) ∧
    debugged.debugGroups 0 0 ≠ [] ∧
    ((base.func 63).enabled = false ∧ ((base.modFunc 63 fun f => { f with enabled := true }).func 63).enabled = true) ∧
    (∀ m ∈ base.boot.images, m.digest.length = 32) ∧ (imageGood base.boot.flash.slotA = false ∧ imageGood base.boot.flash.slotB = false) ∧
    (fieldAt [] 0 4 ≠ 0x4B595946 ∧ fieldAt (toBytes 4 0x4B595946) 0 4 = 0x4B595946 ∧
      sha256 (((toBytes 4 0x4B595946).drop 64).take (fieldAt (toBytes 4 0x4B595946) 12 4)) ≠ ((toBytes 4 0x4B595946).drop 16).take 32) := by
  refine ⟨⟨_, rfl, ?_⟩, ⟨_, rfl, trivial⟩, ?_, ?_, ?_, ?_, some_of_check ?_, ?_⟩ <;> and_intros <;> decide +kernel

/-- A line held dirty, of the mapped page or of function 5's key. -/
def dirtyState (key : BitVec 12) : State := { base with dirty := [(0x10000, [])], frames := [(1, ⟨key, 0, 0, 0xFFFF⟩)] }

theorem witness_FleetEventsAndRegisterWrites :
    (let s := migrating (session3 false 0 2 0 false)
     s.sessions = [(3, s.session 3)] ∧ (s.session 3).dir = false ∧ (s.session 3).state = 2 ∧ (s.session 3).links.getLsbD 17 = true ∧ s.modNo = 0) ∧
    (base.aerAt = none ∧ (10999999999 : Nat) < 0 + 11000000000 ∧ 0 + 11000000000 ≤ (11000000000 : Nat)) ∧
    (Cells.find? (dirtyState 5).dirty (0x1007F / 128 * 128) = some [] ∧ ((dirtyState 5).frame (0x1007F / 128 * 128)).keyid = 5) ∧
    (Cells.find? (dirtyState 0).dirty (0x1007F / 128 * 128) = some [] ∧ ((dirtyState 0).frame (0x1007F / 128 * 128)).keyid = 0) ∧
    (Cells.find? base.dirty 0 = none ∧ base.choice % 2 = 0 ∧ ({ base with choices := [1] } : State).choice % 2 = 1) ∧
    (base.thermal = 0 ∧ (105 : BitVec 8).toNat = 105 ∧ (104 : BitVec 8).toNat < 105 ∧ (99 : BitVec 8).toNat < 100 ∧ (92 : BitVec 8).toNat + 3 ≤ 90 + 5 * 1) ∧
    ((115 : BitVec 8).toNat = 115 ∧ (114 : BitVec 8).toNat < 115) ∧
    ((base.func 0).enabled = true ∧ (base.part 0).valid = true) ∧ ((base.modFunc 63 fun f => { f with enabled := true }).func 63).enabled = true := by decide +kernel
/-! ## Words and terms that the spec spells out -/

/-- Every encoding table of spec/05: source and words. -/
theorem test_encodings_05 :
    decode [0x00828005#32, 0x0203E606#32, 0#32] = .ok (.iadd { N0 with d := 10, a := 2, b := 6, c := 0xE6, fmt := 3, sub := 2 }) ∧
    decode [0x00798049#32, 0x02000002#32, 0#32] = .ok (.icmp { N0 with d := 0xE6, a := 1, b := 2, sub := 2 }) ∧
    decode [0x01C00051#32, 0x13000000#32, 0#32] = .ok (.movToIndex { N0 with a := 7, sub := 0x13 }) := by decide +kernel

/-- Of spec/06. -/
theorem test_encodings_06 :
    decode [0x00420069#32, 0x01100302#32, 0#32] = .ok (.ffma { N0 with d := 8, a := 1, b := 2, c := 3, rnd := 1, sub := 1 }) ∧
    decode [0x0079C075#32, 0x06000002#32, 0#32] = .ok (.fcmp { N0 with d := 0xE7, a := 1, b := 2, sub := 6 }) ∧
    decode [0x060500CD#32, 0x000000C4#32, 0#32] = .ok (.rng { N0 with d := 20, a := 24, b := 0xC4 }) ∧
    decode [0x010400D1#32, 0x01080005#32, 0x0000FFFC#32] = .ok (.xacc { N0 with d := 16, a := 4, b := 5, fmt := 8, sub := 1, imm := 0xFFFC }) := by decide +kernel

/-- Of spec/07. -/
theorem test_encodings_07 :
    decode [0x39C080E5#32, 0x03000000#32, 0#32] = .ok (.vote { N0 with d := 2, a := 0xE7, sub := 3 }) ∧
    decode [0x01B100ED#32, 0x00080000#32, 0#32] = .ok (.redx { N0 with d := 0xC4, a := 6, fmt := 8 }) ∧
    decode [0x000781A9#32, 3#32, 0x20#32] = .ok (.call { N0 with d := 30, b := 3, imm := 0x20 }) ∧
    decode [0x000001B1#32, 0#32, 0#32] = .ok (.rgang N0) ∧
    decode [0x000001B5#32, 0#32, 4#32] = .ok (.loop { N0 with imm := 4 }) ∧ decode [0x000001BC#32] = .ok (.yieldShort ⟨false, false, 0, 0, 0, none⟩) := by
  decide +kernel

/-- Of spec/08. -/
theorem test_encodings_08 :
    decode [0x00410101#32, 0x00010000#32, 0x20000040#32] = .ok (.ld { N0 with d := 4, a := 1, fmt := 1, imm := 0x20000040 }) ∧
    decode [0x00408109#32, 0x00010000#32, 0x00000010#32] = .ok (.lds { N0 with d := 2, a := 1, fmt := 1, imm := 0x10 }) ∧
    decode [0x03000115#32, 0x08080014#32, 0x56C0FFF8#32] = .ok (.red { N0 with a := 12, b := 20, fmt := 8, sub := 8, imm := 0x56C0FFF8 }) ∧
    decode [0x00000121#32, 0#32, 0x08C00000#32] = .ok (.fence { N0 with imm := 0x08C00000 }) := by decide +kernel

/-- Of spec/09. -/
theorem test_encodings_09 :
    decode [0x0030C149#32, 0#32, 0#32] = .ok (.seal { N0 with d := 0xC3 }) ∧ decode [0x0000014D#32, 0#32, 2#32] = .ok (.waitb { N0 with imm := 2 }) ∧
    decode [0x00408151#32, 0x000000C5#32, 0#32] = .ok (.xarv { N0 with d := 2, a := 1, b := 0xC5 }) ∧
    decode [0x01C20161#32, 0x0B0800C2#32, 0x00004003#32] = .ok (.cred { N0 with d := 8, a := 7, b := 0xC2, fmt := 8, sub := 0x0B, imm := 0x4003 }) ∧
    decode [0x00050165#32, 0#32, 0#32] = .ok (.snap { N0 with d := 20 }) ∧ decode [0x00C00169#32, 0#32, 5#32] = .ok (.emit { N0 with a := 3, imm := 5 }) := by
  decide +kernel

/-- Of spec/10. -/
theorem test_encodings_10 :
    decode [0x00000181#32, 0#32, 0#32] = .ok (.mxacq N0) ∧ decode [0x00000185#32, 0#32, 0#32] = .ok (.mxrel N0) ∧ decode [0x00000191#32, 0#32, 0#32] = .ok (.mzero N0) ∧
    decode [0x30400989#32, 0x0C0C00C2#32, 0#32] = .ok (.mma { N0 with pg := 2, a := 0xC1, b := 0xC2, fmt := 12, sub := 12 }) ∧
    decode [0x0100018D#32, 0x8C0C0605#32, 2#32] = .ok (.mmas { N0 with a := 4, b := 5, c := 6, fmt := 12, sub := 0x8C, imm := 2 }) ∧
    decode [0x000A0195#32, 0x00080000#32, 0x00007C00#32] = .ok (.mout { N0 with d := 40, fmt := 8, imm := 0x7C00 }) ∧
    decode [0x00000199#32, 0#32, 0xFFFC0001#32] = .ok (.manc { N0 with imm := 0xFFFC0001 }) := by decide +kernel

/-- Of spec/11. -/
theorem test_encodings_11 :
    decode [0x000001E1#32, 0#32, 0x42#32] = .ok (.trap { N0 with imm := 0x42 }) ∧ decode [0x000001E5#32, 0#32, 0#32] = .ok (.rte N0) ∧
    decode [0x000101E9#32, 0#32, 0xA#32] = .ok (.srd { N0 with d := 4, imm := 0xA }) ∧ decode [0x003701E9#32, 0#32, 0x203#32] = .ok (.srd { N0 with d := 0xDC, imm := 0x203 }) ∧
    decode [0x000001F1#32, 0#32, 7#32] = .ok (.bkpt { N0 with imm := 7 }) ∧ decode [0x370001F5#32, 0#32, 3#32] = .ok (.ctxs { N0 with a := 0xDC, imm := 3 }) ∧
    decode [0x370001F9#32, 0x01000000#32, 0#32] = .ok (.ctxr { N0 with a := 0xDC, sub := 1 }) := by decide +kernel

/-- The same instructions encode to the words of the tables. -/
theorem test_encoder :
    encode (.loop { N0 with imm := 4 }) = [0x000001B5#32, 0#32, 4#32] ∧ encode (.sarShort ⟨false, false, 2, 2, 0xC1, none⟩) = [0xA2081038#32] ∧
    encode (.shl { N0 with d := 3, a := 1, b := 0xBF, sat := true, lit := some 4 }) = [0x0040C033#32, 0x008000BF#32, 0#32, 4#32, 0#32] := by decide +kernel

/-- The words of spec/04 that are not instructions. -/
theorem test_notInstructions_04 :
    decode [0xFFFFFFFF#32] = .error .illegalOpc ∧ decode [0x00000068#32] = .error .illegalOpc ∧ decode [0x00000200#32] = .error .reservedBits ∧
    decode [0x40000001#32, 0#32, 0#32] = .error .reservedBits ∧ decode [0x00000002#32, 0#32, 0#32] = .error .illegalOperand ∧
    decode [0xCE000004#32] = .error .illegalOperand := by decide +kernel

/-- The worked encodings of spec/04. -/
theorem test_encodings_04 :
    decode [0x04041804#32] = .ok (.iaddShort ⟨false, false, 3, 1, 2, none⟩) ∧ decode [0x07802860#32] = .ok (.faddShort ⟨false, false, 5, 0xE0, 3, none⟩) ∧
    decode [0xFF485462#32, 0x3FC00000#32, 0#32] = .ok (.faddShort ⟨true, false, 10, 0xC2, 0xBF, some 0x3FC00000⟩) ∧
    decode [0x05452C69#32, 0x00A01716#32, 0#32] = .ok (.ffma { N0 with pg := 3, pn := true, d := 20, a := 21, b := 22, c := 23, rnd := 2, sat := true }) := by
  decide +kernel

/-- The forms that spec/07, spec/10 and spec/11 call not legal, in the short form. -/
theorem test_no_short_form :
    decode [0x000001A0#32] = .error .illegalOpc ∧ decode [0x00000188#32] = .error .illegalOpc ∧ decode [0x000001E0#32] = .error .illegalOpc := by decide +kernel

/-- Terms that are not well formed, with the cause that the spec's tables of encodings that are not legal give them: spec/05 and spec/06. -/
theorem test_notLegal_registers :
    [Instr.iadd { N0 with c := 0xBC, fmt := 6, sub := 2 }, .iadd { N0 with sub := 1, sat := true }, .iadd { N0 with d := 0xE6 }, .sel { N0 with c := 0xBC },
      .bitop { N0 with sub := 5 }, .movToIndex { N0 with d := 1, sub := 0x13 }, .imad { N0 with fmt := 2, sub := 2 }, .lea { N0 with sub := 8 },
      .bfe { N0 with sub := 1, imm := 0x10000 }, .fadd { N0 with c := 0xE6, rnd := 6 }, .ffma { N0 with rnd := 6 }, .fmin { N0 with rnd := 1 },
      .ffunc { N0 with sub := 7 }, .hadd2 { N0 with fmt := 8 }, .hcmp2 { N0 with sub := 0x20 }, .cvt { N0 with fmt := 14 }, .cvt { N0 with fmt := 8, sub := 0x2A },
      .cvt { N0 with rnd := 1, sub := 7 }, .unpk { N0 with d := 2, fmt := 7 }, .xacc { N0 with d := 18, fmt := 8 }, .xacc { N0 with fmt := 8, imm := 0xFB00 },
      .xacc { N0 with fmt := 8, imm := 0x10000 }, .xcvtTo { N0 with fmt := 8, rnd := 1 }].map (decodeCause false) =
    [0x02, 0x02, 0x04, 0x04, 0x02, 0x03, 0x02, 0x02, 0x03, 0x04, 0x02, 0x03, 0x02, 0x02, 0x03, 0x02, 0x02, 0x03, 0x04, 0x04, 0x02, 0x03, 0x03].map some := by
  decide +kernel

/-- Spec/07 and spec/08. -/
theorem test_notLegal_control_memory :
    [Instr.vote { N0 with d := 0xE5, a := 0xE7, sub := 3 }, .shfl { N0 with imm := 6 }, .redx { N0 with fmt := 8, sub := 4 }, .call { N0 with d := 31 },
      .ret { N0 with d := 0, a := 2, b := 1 }, .loop { N0 with imm := 0x10001 }, .exit { N0 with nwb := true }, .ld { N0 with nwb := true }, .ld { N0 with imm := 0x06000000 },
      .st { N0 with imm := 0x00C00000 }, .lds { N0 with imm := 0x04C00000 }, .red { N0 with sub := 7, imm := 0x02000000 },
      .atom { N0 with fmt := 8, sub := 3, imm := 0x02000000 }, .atom { N0 with fmt := 14, sub := 8, imm := 0x02000004 }, .nmx { N0 with d := 12, b := 16, c := 24, imm := 0x02000000 },
      .pref { N0 with imm := 0x02000000 }, .fence N0].map (decodeCause false) =
    [0x04, 0x02, 0x02, 0x04, 0x03, 0x02, 0x03, 0x03, 0x02, 0x03, 0x02, 0x02, 0x02, 0x03, 0x04, 0x03, 0x02].map some := by decide +kernel

/-- Spec/09, spec/10 and spec/11. -/
theorem test_notLegal_engines_system :
    [Instr.seal { N0 with nwb := true }, .waitb { N0 with imm := 0x10 }, .barWait { N0 with imm := 0x01000000 }, .cred { N0 with fmt := 8 },
      .cred { N0 with fmt := 14, sub := 6, imm := 0x10000 }, .snap { N0 with d := 21 }, .cntrCancel { N0 with d := 1, sub := 1 },
      .mma { N0 with fmt := 12, sub := 12, rnd := 1 }, .mma { N0 with fmt := 12, sub := 0x8C }, .mma { N0 with fmt := 12, sub := 10 }, .mma { N0 with fmt := 11, sub := 0x1B },
      .mma { N0 with fmt := 12, sub := 0x6C }, .mma { N0 with fmt := 11, sub := 11, imm := 0x80 }, .mmas { N0 with fmt := 10, sub := 10, imm := 0x20 },
      .mma { N0 with fmt := 12, sub := 12, imm := 0x04000000 }, .mout { N0 with fmt := 15 }, .mout { N0 with fmt := 10, imm := 0x800 }, .mout { N0 with fmt := 8, rnd := 6 },
      .mout { N0 with d := 42, fmt := 14 }, .manc { N0 with imm := 0xFB4F0000 }, .mxacq { N0 with nwb := true }, .srd { N0 with d := 2, imm := 0x14 },
      .srd { N0 with d := 2, imm := 0x100A }, .srd { N0 with d := 5, imm := 0xA }, .swr { N0 with nwb := true, imm := 0xC }, .ctxs { N0 with sub := 5 },
      .ctxs { N0 with sub := 1, imm := 1 }, .ctxs { N0 with imm := 11 }].map (decodeCause false) =
    [0x03, 0x03, 0x02, 0x02, 0x03, 0x04, 0x03, 0x03, 0x03, 0x02, 0x02, 0x02, 0x02, 0x02, 0x03, 0x02, 0x02, 0x02, 0x04, 0x02, 0x03, 0x02, 0x03, 0x04, 0x03, 0x02,
      0x03, 0x02].map some := by decide +kernel

/-- A term of each further check: reserved bits of word 0, a literal that no operand names, an operand that names no literal, a 64-bit operand at an odd
register, and a short form with an operand that has no short code. -/
theorem test_notWellFormed :
    decodeCause true (.iadd N0) = some 0x03 ∧ decodeCause false (.iadd { N0 with lit := some 4 }) = some 0x04 ∧ decodeCause false (.iadd { N0 with a := 0xBF }) = some 0x04 ∧
    decodeCause false (.iadd { N0 with d := 3, fmt := 2 }) = some 0x04 ∧ (Instr.iaddShort ⟨false, false, 0x50, 0, 0, none⟩).wellFormed = false ∧
    (Instr.iaddShort ⟨false, false, 0x4F, 0, 0, none⟩).wellFormed = true := by decide +kernel

/-! ## Single steps, with the results that the spec works out -/

/-- The gang with values in lane 0 of vector registers. -/
def withV (l : List (Nat × Word)) : State := withGang fun g => l.foldl (fun g p => g.setV p.1 0 p.2) g

/-- What lane 0 of a vector register holds after an instruction. -/
def vAfter (s : State) (i : Instr) (r : Nat) : Option Word := match exec i s with | .next t => (t.gang? 0 0).map fun g => g.vReg r 0 | _ => none

/-- A field of the gang after an instruction. -/
def after (s : State) (i : Instr) (p : Gang → Bool) : Bool := match exec i s with | .next t => (t.gang? 0 0).any p | _ => false

/-- R99: the example of a 128-bit sum, its low half; and of packed saturation. -/
theorem test_iadd :
    after (withV [(0, 0xFFFFFFFF), (1, 0xFFFFFFFF), (4, 1)]) (.iadd { N0 with d := 8, a := 0, b := 4, c := 0xBC, fmt := 3, sub := 2, imm := 2 })
      (fun g => g.vReg 8 0 == 0 && g.vReg 9 0 == 0 && (g.pReg 2).getLsbD 0) = true ∧
    vAfter (withV [(2, 0x7F800105), (3, 0x0180FF7F)]) (.iadd { N0 with d := 8, a := 2, b := 3, fmt := 6, sat := true }) 8 = some 0x7F80007F := by decide +kernel

/-- R100, R103, R104: the examples of IMULH, TERN and the shifts. -/
theorem test_imulh_tern_shifts :
    vAfter (withV [(2, 0xFFFFFFFF)]) (.imulh { N0 with d := 8, a := 2, b := 2, fmt := 1 }) 8 = some 0xFFFFFFFE ∧
    vAfter (withV [(2, 0xFFFFFFFF), (3, 1)]) (.imulh { N0 with d := 8, a := 2, b := 3 }) 8 = some 0xFFFFFFFF ∧
    vAfter (withV [(2, 0xFFFF), (3, 0x00FF00FF), (4, 0x0F0F0F0F)]) (.tern { N0 with d := 8, a := 2, b := 3, c := 4, sub := 0x96 }) 8 = some 0x0FF0F00F ∧
    vAfter (withV [(2, 0xFFFF), (3, 0x00FF00FF), (4, 0x0F0F0F0F)]) (.tern { N0 with d := 8, a := 2, b := 3, c := 4, sub := 0xE8 }) 8 = some 0x000F0FFF ∧
    vAfter (withV [(2, 0x10000000), (3, 4)]) (.shl { N0 with d := 8, a := 2, b := 3 }) 8 = some 0 ∧
    vAfter (withV [(2, 0x10000000), (3, 4)]) (.shl { N0 with d := 8, a := 2, b := 3, sat := true }) 8 = some 0x7FFFFFFF ∧
    vAfter (withV [(2, 0x80000000), (3, 40)]) (.sar { N0 with d := 8, a := 2, b := 3, fmt := 1 }) 8 = some 0xFFFFFFFF := by decide +kernel

/-- R105, R106, R111: the examples of BITOP, BFE and LEA. -/
theorem test_bits_lea :
    vAfter (withV [(2, 0x11223344)]) (.bitop { N0 with d := 8, a := 2, fmt := 1, sub := 4 }) 8 = some 0x44332211 ∧
    vAfter (withV [(2, 1)]) (.bitop { N0 with d := 8, a := 2, fmt := 3, sub := 1 }) 8 = some 63 ∧
    vAfter (withV [(2, 0xF0A0)]) (.bfe { N0 with d := 8, a := 2, sub := 1, imm := 0x0808 }) 8 = some 0xFFFFFFF0 ∧
    vAfter (withV [(2, 0xF0A0)]) (.bfe { N0 with d := 8, a := 2, sub := 1, imm := 0x1018 }) 8 = some 0 ∧
    after (withV [(1, 1), (2, 0xFFFFFFFF)]) (.lea { N0 with d := 4, a := 0, b := 2, fmt := 2, sub := 0x0B, imm := 64 })
      (fun g => g.vReg 4 0 == 0x38 && g.vReg 5 0 == 1) = true ∧
    after (withV [(1, 1), (2, 0xFFFFFFFF)]) (.lea { N0 with d := 4, a := 0, b := 2, fmt := 3, sub := 0x0B, imm := 64 })
      (fun g => g.vReg 4 0 == 0x38 && g.vReg 5 0 == 9) = true ∧
    vAfter (withV [(1, 0x100), (2, 3), (3, 5)]) (.lea { N0 with d := 8, a := 1, b := 2, c := 3, sub := 0x14 }) 8 = some 0x04500130 := by decide +kernel

/-- R118, R124, R125, R128: the examples of FFMA, IDOT4, CVT and RNG. -/
theorem test_float_helpers :
    vAfter (withV [(1, 0x40000000), (2, 0x40400000), (3, 0x40C00000)]) (.ffma { N0 with d := 8, a := 1, b := 2, c := 3, rnd := 1, sub := 1 }) 8 = some 0 ∧
    vAfter (withV [(2, 0xFF020304), (3, 0x01010101), (4, 10)]) (.idot4 { N0 with d := 8, a := 2, b := 3, c := 4, sub := 1 }) 8 = some 18 ∧
    vAfter (withV [(2, 0xFF020304), (3, 0x01010101), (4, 10)]) (.idot4 { N0 with d := 8, a := 2, b := 3, c := 4, fmt := 1 }) 8 = some 274 ∧
    after (withV [(7, 0x43EB0000), (6, 0x11223344)]) (.cvt { N0 with d := 6, a := 7, fmt := 12, rnd := 1, sat := true, sub := 0x88 })
      (fun g => g.vReg 6 0 == 0x117E3344 && g.mode.extractLsb' 6 5 == 0b00101) = true ∧
    after base (.rng { N0 with d := 20, a := 24, b := 16 })
      (fun g => g.vReg 20 0 == 0x6627E8D5 && g.vReg 21 0 == 0xE169C58D && g.vReg 22 0 == 0xBC57AC4C && g.vReg 23 0 == 0x9B00DBD8) = true := by decide +kernel

/-- R129, R130: the steps of the example of XACC. -/
theorem test_exact_window :
    vAfter (withV [(4, 0x3FC00000), (5, 0x3F400000)]) (.xacc { N0 with d := 16, a := 4, b := 5, fmt := 8, sub := 1, imm := 0xFFFC }) 16 = some 18 ∧
    vAfter (withV [(8, 0x3D000000), (9, 0x40400000), (16, 15)]) (.xacc { N0 with d := 16, a := 8, b := 9, fmt := 8, sub := 1, imm := 0xFFFC }) 16 = some 17 ∧
    vAfter (withV [(16, 17)]) (.xcvtFrom { N0 with d := 20, a := 16, fmt := 8, rnd := 1, sub := 1, imm := 0xFFFC }) 20 = some 0x3F880000 := by decide +kernel

/-- Lanes 0 to 3 under p4, with 2^24, 1, 1 and 1 in v6. -/
def fourLanes : State := withGang fun g =>
  [(1, 0x3F800000), (2, 0x3F800000), (3, 0x3F800000)].foldl (fun g p => g.setV 6 p.1 p.2) ((g.setV 6 0 0x4B800000).setP 4 0xF)

/-- R137, R138: the example of REDX and SCAN: the tree rounds otherwise than the prefix. -/
theorem test_redx_scan :
    after fourLanes (.redx { N0 with pg := 4, d := 7, a := 6, fmt := 8 }) (fun g => g.vReg 7 0 == 0x4B800001 && g.vReg 7 3 == 0x4B800001 && g.vReg 7 4 == 0) = true ∧
    after fourLanes (.scan { N0 with pg := 4, d := 8, a := 6, fmt := 8 }) (fun g => g.vReg 8 0 == 0x4B800000 && g.vReg 8 3 == 0x4B800000) = true := by decide +kernel

/-- R134: `.rot` by one gives each lane the value of the lane below it in its group of 8, and lane 0 that of lane 7. -/
theorem test_shfl_rot :
    after memState (.shfl { N0 with d := 8, a := 4, b := 0xBF, sub := 2, imm := 3, lit := some 1 })
      (fun g => g.vReg 8 0 == 7 && g.vReg 8 1 == 0 && g.vReg 8 8 == 15) = true := by decide +kernel

/-- R142: a guarded BRA splits the fragment: the lanes that fall through keep the older entry. -/
theorem test_bra_splits :
    after (withGang fun g => g.setP 2 0x3F) (.bra { N0 with pg := 2, pn := true, b := 5, imm := 5 })
      (fun g => g.frags.length == 2 && (g.frag? 0).any fun f => f.mask == 0x3F && f.jv) = true := by decide +kernel

/-- R236 to R240, R249: where the function delegates 0x0C, TRAP takes level 1 at GTVEC with its cause, its value and its own address. -/
theorem test_trap :
    after (base.modFunc 0 fun f => { f with deleg := 0x1000, gtvec := 0x20000 }) (.trap { N0 with imm := 0x42 })
      (fun g => g.level == 1 && g.t1.cause == 0x0C && g.t1.tval == 0x42 && g.t1.epc == 0x10000 && (g.frag? 0).any fun f => decide (pcAddr f.pc = 0x20000)) = true := by
  decide +kernel

/-- R170, R171: a scratchpad store, and a load of a signed byte. -/
theorem test_scratchpad :
    (match exec (.sts { N0 with a := 4, b := 4, imm := 3, fmt := 6 }) (withGroup (fun g => { g with kern := { g.kern with scratch := 256 } }) memState) with
      | .next t => (t.group? 0).any fun g => Memory.read g.scratch 3 4 == 0x03020100
      | _ => false) = true ∧
    vAfter (withGroup (fun g => { g with kern := { g.kern with scratch := 256 }, scratch := Memory.write [] 3 1 0x80 }) base)
      (.lds { N0 with d := 8, a := 4, imm := 3, fmt := 6 }) 8 = some 0xFFFFFF80 := by decide +kernel

/-- R423 (FIPS 180-4, its example): the digest of the three bytes "abc". -/
theorem test_sha256 : sha256 [0x61, 0x62, 0x63] =
    [0xBA, 0x78, 0x16, 0xBF, 0x8F, 0x01, 0xCF, 0xEA, 0x41, 0x41, 0x40, 0xDE, 0x5D, 0xAE, 0x22, 0x23,
     0xB0, 0x03, 0x61, 0xA3, 0x96, 0x17, 0x7A, 0x9C, 0xB4, 0x10, 0xFF, 0x61, 0xF2, 0x00, 0x15, 0xAD] := by decide +kernel

/-- R380 (FIPS 197, its example of a 256-bit key): the substitution of 0x53, and one block. -/
theorem test_aes256 : subByte 0x53 = 0xED ∧
    aes256 ((List.range 32).map (BitVec.ofNat 8 ·)) ((List.range 16).map fun i => BitVec.ofNat 8 (0x11 * i)) =
    [0x8E, 0xA2, 0xB7, 0xCA, 0x51, 0x67, 0x45, 0xBF, 0xEA, 0xFC, 0x49, 0x90, 0x4B, 0x49, 0x60, 0x89] := by decide +kernel

end Sys2Proof.Tests
end

section
/-! PROOFS of the scope statements (spec/00_scope.md, spec/22): links, errors, power, temperature and the host's register
writes. -/
namespace Sys2Proof.Machine

/-! ## Finite maps whose keys stay -/

theorem Cells.mem_of_find? {α : Type} {m : Cells α} {k : Nat} {v : α} (h : Cells.find? m k = some v) : (k, v) ∈ m := by
  induction m with
  | nil => cases h
  | cons e t ih =>
    obtain ⟨a, w⟩ := e
    rw [Cells.find?_cons] at h
    split at h
    · cases h; subst_vars; exact List.mem_cons_self
    · exact List.mem_cons_of_mem _ (ih h)

theorem Cells.find?_map {α β : Type} (m : Cells α) (f : Nat × α → Nat × β) (hf : ∀ p, (f p).1 = p.1) (k : Nat) :
    Cells.find? (m.map f) k = (Cells.find? m k).map fun v => (f (k, v)).2 := by
  induction m with
  | nil => rfl
  | cons e t ih =>
    obtain ⟨a, w⟩ := e
    have hfe : f (a, w) = (a, (f (a, w)).2) := Prod.ext (hf _) rfl
    rw [List.map_cons, hfe, Cells.find?_cons, Cells.find?_cons, ih]
    split
    · subst_vars; rfl
    · rfl

theorem Cells.getD_map {α β : Type} (m : Cells α) (h : α → β) (k : Nat) (d : α) :
    Cells.getD (m.map fun p => (p.1, h p.2)) k (h d) = h (Cells.getD m k d) := by
  simp only [Cells.getD, Cells.find?_map m (fun p => (p.1, h p.2)) fun _ => rfl]
  cases Cells.find? m k <;> rfl

/-! ## Work that makes no gang -/

/-- `t` comes from `s` by work on what is there: no gang is new, and memory, partitions and links are as they were. -/
structure NoGangMade (s t : State) : Prop where
  mem : t.mem = s.mem
  parts : t.parts = s.parts
  links : t.links = s.links
  gang? : ∀ k sl, s.gang? k sl = none → t.gang? k sl = none

theorem State.gang?_congr {s t : State} (h : t.cores = s.cores) (k sl : Nat) : t.gang? k sl = s.gang? k sl := by
  simp only [State.gang?, State.core, h]

theorem State.part_congr {s t : State} (h : t.parts = s.parts) (p : Nat) : t.part p = s.part p := by
  simp only [State.part, h]

theorem State.gang?_modCore (s : State) (k : Nat) (f : Core → Core) (k' sl : Nat) :
    (s.modCore k f).gang? k' sl = if k = k' then Cells.find? (f (s.core k)).gangs sl else s.gang? k' sl := by
  simp only [State.gang?, State.core_modCore]
  split <;> rfl

/-- The gangs of a state whose cores have all been changed by one function. -/
theorem State.gang?_map_cores {s t : State} (h : Core → Core) (hr : h Core.reset = Core.reset) (ht : t.cores = s.cores.map fun c => (c.1, h c.2))
    (k sl : Nat) : t.gang? k sl = Cells.find? (h (s.core k)).gangs sl := by
  have hc := Cells.getD_map s.cores h k Core.reset
  rw [hr] at hc
  simp only [State.gang?, State.core, ht, hc]

namespace NoGangMade
variable {s t : State}

theorem refl (s : State) : NoGangMade s s := ⟨rfl, rfl, rfl, fun _ _ h => h⟩

theorem trans {u : State} (h : NoGangMade s t) (h' : NoGangMade t u) : NoGangMade s u :=
  ⟨h'.mem.trans h.mem, h'.parts.trans h.parts, h'.links.trans h.links, fun k sl hn => h'.gang? k sl (h.gang? k sl hn)⟩

theorem congr {u : State} (h : NoGangMade s t) (hm : u.mem = t.mem) (hp : u.parts = t.parts) (hl : u.links = t.links) (hc : u.cores = t.cores) :
    NoGangMade s u :=
  ⟨hm.trans h.mem, hp.trans h.parts, hl.trans h.links, fun k sl hn => (State.gang?_congr hc k sl).trans (h.gang? k sl hn)⟩

theorem modGroup (h : NoGangMade s t) (k : Nat) (f : Group → Group) : NoGangMade s (t.modGroup k f) := h.congr rfl rfl rfl rfl
theorem modFunc (h : NoGangMade s t) (n : Nat) (f : Func → Func) : NoGangMade s (t.modFunc n f) := h.congr rfl rfl rfl rfl
theorem modSession (h : NoGangMade s t) (n : Nat) (f : Session → Session) : NoGangMade s (t.modSession n f) := h.congr rfl rfl rfl rfl
theorem send (h : NoGangMade s t) (m : OutMsg) : NoGangMade s (t.send m) := h.congr rfl rfl rfl rfl
theorem later (h : NoGangMade s t) (i : Instr) : NoGangMade s (t.later i) := h.congr rfl rfl rfl rfl
theorem after (h : NoGangMade s t) (n : Nat) (i : Instr) : NoGangMade s (t.after n i) := h.congr rfl rfl rfl rfl

theorem modCore (h : NoGangMade s t) (k : Nat) (f : Core → Core)
    (hf : ∀ sl, Cells.find? (t.core k).gangs sl = none → Cells.find? (f (t.core k)).gangs sl = none) : NoGangMade s (t.modCore k f) := by
  refine ⟨h.mem, h.parts, h.links, fun k' sl hn => ?_⟩
  rw [State.gang?_modCore]
  split
  · subst_vars; exact hf sl (h.gang? _ sl hn)
  · exact h.gang? k' sl hn

/-- Changing the gangs of a core in their places makes none. -/
theorem modCore_map (h : NoGangMade s t) (k : Nat) (f : Core → Core) (g : Nat × Gang → Nat × Gang)
    (hf : (f (t.core k)).gangs = (t.core k).gangs.map g) (hg : ∀ p, (g p).1 = p.1) : NoGangMade s (t.modCore k f) :=
  h.modCore k f fun sl hn => by rw [hf, Cells.find?_map _ _ hg, hn]; rfl

theorem modGang (h : NoGangMade s t) (k sl : Nat) (f : Gang → Gang) : NoGangMade s (t.modGang k sl f) := by
  refine ⟨by simp [h.mem], by simp [h.parts], by simp [h.links], fun k' sl' hn => ?_⟩
  rw [State.gang?_modGang]
  split
  · next hk => obtain ⟨rfl, rfl⟩ := hk; rw [h.gang? _ _ hn]; rfl
  · exact h.gang? _ _ hn

theorem foldl {α : Type} {f : State → α → State} (h : NoGangMade s t) (l : List α)
    (hf : ∀ u x, NoGangMade s u → NoGangMade s (f u x)) : NoGangMade s (l.foldl f t) := by
  induction l generalizing t with
  | nil => exact h
  | cons x l ih => exact ih (hf t x h)

theorem report (h : NoGangMade s t) (k sl gen : Nat) (cause : BitVec 6) (value : Nat) : NoGangMade s (t.report k sl gen cause value) := by
  unfold State.report
  split
  · exact h.modGang ..
  · exact h

theorem reportOvf (h : NoGangMade s t) (k sl gen gal ovf : Nat) (govt : Bool) : NoGangMade s (t.reportOvf k sl gen gal ovf govt) := by
  unfold State.reportOvf
  split
  · exact h.report ..
  · exact h

theorem reportBank (h : NoGangMade s t) (k sl gen : Nat) (g : Group) (gal : Nat) (word : Option Nat) :
    NoGangMade s (t.reportBank k sl gen g gal word) := by
  cases word with
  | none => exact h
  | some j => exact h.report ..

theorem foldWrite (h : NoGangMade s t) (k : Nat) : NoGangMade s (t.foldWrite k) := by
  unfold State.foldWrite
  extract_lets co ops s0 s1
  have h1 : NoGangMade s s1 :=
    .foldl (h.modCore k (fun c => { c with fold := none, mxOps := c.mxOps.map fun m => { m with folded := false } }) fun _ hn => hn) ops
      fun _ _ hu => hu.after ..
  split
  · exact h
  · split
    · exact h1
    · extract_lets bank u s2
      clear_value s1 ops
      split
      · exact ((h1.modGroup ..).reportOvf ..).reportBank ..
      · exact h1.modGroup ..

theorem releaseEngine (h : NoGangMade s t) (k sl : Nat) : NoGangMade s (t.releaseEngine k sl) := by
  unfold State.releaseEngine
  refine .modCore ?_ _ _ fun _ hn => hn
  split
  · split
    · exact h.foldWrite k
    · exact h
  · exact h

theorem phaseDone (h : NoGangMade s t) (gk : Nat) : NoGangMade s (t.phaseDone gk) := by
  unfold State.phaseDone
  split
  · exact h
  · extract_lets clear s1
    have cleared {u : State} (hu : NoGangMade s u) (k : Nat) : NoGangMade s (u.modCore k clear) :=
      hu.modCore_map k clear _ rfl fun p => by dsimp only; split <;> rfl
    split
    · exact cleared (h.modGroup ..) _
    · exact cleared (cleared (h.modGroup ..) _) _

theorem completeBar (h : NoGangMade s t) (gk id : Nat) : NoGangMade s (t.completeBar gk id) := by
  unfold State.completeBar
  split
  · exact h
  · exact .modGroup ((h.phaseDone gk).modCore_map _ _ _ rfl fun p => by dsimp only; split <;> rfl) ..

theorem tryBar (h : NoGangMade s t) (gk id : Nat) : NoGangMade s (t.tryBar gk id) := by
  unfold State.tryBar
  split
  · exact h
  · extract_lets b
    split
    · exact h
    · exact iteInduction (fun _ => h.completeBar ..) fun _ => h

/-- A slot that is free before such work is free after it. -/
theorem frees {u : State} {k sl : Nat} (h : NoGangMade s t) (hn : t.gang? k sl = none) (hrest : NoGangMade t u) :
    NoGangMade s u ∧ u.gang? k sl = none :=
  ⟨h.trans hrest, hrest.gang? k sl hn⟩

/-- R153: the end of a gang frees its slot. -/
theorem gangEnd_frees (h : NoGangMade s t) (k sl : Nat) : NoGangMade s (t.gangEnd k sl) ∧ (t.gangEnd k sl).gang? k sl = none := by
  unfold State.gangEnd
  split
  · exact ⟨h, ‹_›⟩
  · extract_lets freed ended
    have hfreed : NoGangMade s freed := (h.releaseEngine k sl).modCore _ _ fun sl' hn => by simp only [Cells.find?_del, hn, ite_self]
    have hnone : freed.gang? k sl = none := by simp only [freed, State.gang?_modCore, Cells.find?_del, if_true]
    refine hfreed.frees hnone (.foldl (.modGroup (.refl freed) ..) _ fun u id hu => ?_)
    split
    · exact hu.tryBar ..
    · exact hu

/-- R377 step 2: a gang that ends without a save frees its slot. -/
theorem killGang_frees (h : NoGangMade s t) (k sl : Nat) : NoGangMade s (t.killGang k sl) ∧ (t.killGang k sl).gang? k sl = none := by
  unfold State.killGang
  extract_lets gen mine dropped
  have hdropped : NoGangMade s dropped := h.congr rfl rfl rfl rfl
  obtain ⟨hmade, hnone⟩ := hdropped.gangEnd_frees k sl
  exact hmade.frees hnone (.modCore (.refl _) _ _ fun _ hn => hn)

theorem killGangs (h : NoGangMade s t) (l : List (Nat × Nat)) : NoGangMade s (l.foldl (fun s x => s.killGang x.1 x.2) t) :=
  h.foldl l fun _ x hu => (hu.killGang_frees x.1 x.2).1

end NoGangMade

theorem State.gang?_foldl_killGang {l : List (Nat × Nat)} {k sl : Nat} (h : (k, sl) ∈ l) (s : State) :
    (l.foldl (fun s x => s.killGang x.1 x.2) s).gang? k sl = none := by
  induction l generalizing s with
  | nil => cases h
  | cons x l ih =>
    rcases List.mem_cons.1 h with rfl | h
    · exact (NoGangMade.killGangs (.refl _) l).gang? k sl ((NoGangMade.refl s).killGang_frees k sl).2
    · exact ih h _

theorem State.mem_gangsWhere {s : State} {h : Nat → Gang → Bool} {k sl : Nat} {g : Gang} (hg : s.gang? k sl = some g) (hh : h k g = true) :
    (k, sl) ∈ s.gangsWhere h := by
  cases hc : Cells.find? s.cores k with
  | none => simp [State.gang?, State.core, Cells.getD, hc, Core.reset] at hg
  | some c =>
    have hgc : Cells.find? c.gangs sl = some g := by simpa [State.gang?, State.core, Cells.getD, hc] using hg
    simp only [State.gangsWhere, List.mem_flatMap, List.mem_map, List.mem_filter]
    exact ⟨(k, c), Cells.mem_of_find? hc, (sl, g), ⟨Cells.mem_of_find? hgc, hh⟩, rfl⟩

/-- R377, R435: no gang that the test selects is left, and none is made. -/
theorem State.killGangs_kills (s : State) (h : Nat → Gang → Bool) :
    NoGangMade s (s.killGangs h) ∧ ∀ k sl, (∀ g, h k g = true) → (s.killGangs h).gang? k sl = none := by
  have hmade : NoGangMade s (s.killGangs h) := (NoGangMade.refl s).killGangs _
  refine ⟨hmade, fun k sl hh => ?_⟩
  cases hg : s.gang? k sl with
  | none => exact hmade.gang? k sl hg
  | some g => exact State.gang?_foldl_killGang (State.mem_gangsWhere hg (hh g)) s

/-! ## Failing sessions -/

theorem NoGangMade.noticeRoots {s t : State} (h : NoGangMade s t) (fn : Nat) : NoGangMade s (t.noticeRoots fn false) := by
  unfold State.noticeRoots
  refine h.foldl _ fun u c hu => ?_
  split
  · exact hu.later _
  · exact hu.send _

theorem State.noticeRoots_sessions (s : State) (fn : Nat) : (s.noticeRoots fn false).sessions = s.sessions := by
  unfold State.noticeRoots
  generalize s.cslots.filter (fun c => decide (c.2.fn = fn)) = l
  induction l generalizing s with
  | nil => rfl
  | cons c l ih => rw [List.foldl_cons, ih]; split <;> rfl

/-- R411: what resumes on this device was there before. -/
theorem NoGangMade.resumeHere {s t : State} (h : NoGangMade s t) (fn : Nat) : NoGangMade s (t.resumeHere fn) := by
  unfold State.resumeHere
  extract_lets back undo cores taken s1
  have h1 : NoGangMade s s1 := by
    refine ⟨h.mem, h.parts, h.links, fun k sl hn => ?_⟩
    have hmap := State.gang?_map_cores (s := t) (t := s1) (fun c => { c with gangs := c.gangs.map fun g => (g.1, undo g.2) }) rfl rfl k sl
    rw [hmap, Cells.find?_map _ (fun g => (g.1, undo g.2)) fun _ => rfl]
    exact congrArg (Option.map _) (h.gang? k sl hn)
  exact (h1.noticeRoots fn).congr rfl rfl rfl rfl

theorem State.resumeHere_sessions (s : State) (fn : Nat) : (s.resumeHere fn).sessions = s.sessions := State.noticeRoots_sessions ..

theorem NoGangMade.failSession {s t : State} (h : NoGangMade s t) (n code : Nat) : NoGangMade s (t.failSession n code) := by
  unfold State.failSession
  extract_lets x
  split
  · exact iteInduction (fun _ => h.modSession ..) fun _ => h
  · split
    · exact h.modSession ..
    · split
      · exact (h.modSession ..).resumeHere ..
      · exact h

theorem NoGangMade.failSessions {s t : State} (h : NoGangMade s t) (p : Session → Bool) (code : Nat) : NoGangMade s (t.failSessions p code) :=
  h.foldl _ fun _ _ hu => hu.failSession ..

theorem State.session_congr {s t : State} (h : t.sessions = s.sessions) (n : Nat) : t.session n = s.session n := by
  simp only [State.session, h]

theorem State.session_modSession (s : State) (n : Nat) (f : Session → Session) (m : Nat) :
    (s.modSession n f).session m = if n = m then f (s.session n) else s.session m := by
  simp only [State.session, State.modSession_sessions, Cells.getD_put]

/-- R411: a source session in the stop phase fails. -/
theorem State.session_failSession_source (s : State) (n code : Nat) (hdir : (s.session n).dir = false) (hlo : 2 ≤ (s.session n).state)
    (hhi : (s.session n).state ≤ 4) : (s.failSession n code).session n = { s.session n with state := 7, ecode := code } := by
  have hfail : s.failSession n code = (s.modSession n fun x => { x with state := 7, ecode := code }).resumeHere (s.session n).fn := by
    simp only [State.failSession, hdir, Bool.false_eq_true, if_false, if_neg (show ¬(s.session n).state = 1 by omega), if_pos (And.intro hlo hhi)]
  rw [hfail, State.session_congr (State.resumeHere_sessions ..), State.session_modSession, if_pos rfl]

/-! ## Links (R431, R433) -/

/-- R411: the session's transfer uses the link. -/
def Session.transfersOver (l : Nat) (x : Session) : Bool := !x.dir && decide (2 ≤ x.state) && decide (x.state ≤ 4) && x.links.getLsbD l

theorem execLinkDown_of_lt {l : Nat} (hl : l < 18) (n : Nat) (s : State) : execLinkDown l n s =
    .next ((s.modLink l fun x => { x with up := false, retry := satAdd x.retry n }).failSessions (Session.transfersOver l) 1) :=
  if_neg (by omega)

theorem State.failSessions_single {s : State} {m : Nat} {p : Session → Bool} (hs : s.sessions = [(m, s.session m)]) (hp : p (s.session m) = true)
    (code : Nat) : s.failSessions p code = s.failSession m code := by
  simp only [State.failSessions, hs, List.filter_cons, hp, if_true, List.filter_nil, List.foldl_cons, List.foldl_nil]

/-- R431, R439: a link that has been trained knows its far end, and pod time does not step back. -/
theorem linkTrained_sets_far_end (s : State) (l far farL podTime : Nat) (hl : l < 18) :
    ∃ t, exec (.linkTrained l far farL podTime) s = .next t ∧ (s.modNo ≠ 0 → t.pod = max s.pod (11 * podTime)) ∧ (s.modNo = 0 → t.pod = s.pod) ∧
      Cells.find? t.links l = some { Cells.getD s.links l Link.reset with up := true, farMod := far % 16, farLink := farL % 32 } := by
  have hexec : exec (.linkTrained l far farL podTime) s = execLinkTrained l far farL podTime s := rfl
  rw [hexec, execLinkTrained, if_neg (by omega)]
  by_cases hm : s.modNo = 0
  · exact ⟨_, rfl, fun h => absurd hm h, fun _ => by rw [if_pos hm]; rfl, by rw [if_pos hm, State.modLink_links, Cells.find?_put, if_pos rfl]; rfl⟩
  · exact ⟨_, rfl, fun _ => by rw [if_neg hm], fun h => absurd h hm, by
      rw [if_neg hm]; exact (Cells.find?_put ..).trans (if_pos rfl)⟩

/-- R433, R411: a link that goes down counts what it replays, and the session that uses it fails. -/
theorem linkDown_counts_and_fails (s : State) (l n : Nat) (hl : l < 18) :
    ∃ t x, exec (.linkDown l n) s = .next t ∧ Cells.find? t.links l = some x ∧ x.up = false ∧ t.mem = s.mem ∧
      x.retry = min ((Cells.getD s.links l Link.reset).retry + n) (2 ^ 64 - 1) ∧
      ∀ m, s.sessions = [(m, s.session m)] → (s.session m).dir = false → 2 ≤ (s.session m).state → (s.session m).state ≤ 4 →
        (s.session m).links.getLsbD l = true → (t.session m).state = 7 ∧ (t.session m).ecode = 1 := by
  have hexec : exec (.linkDown l n) s = execLinkDown l n s := rfl
  rw [hexec, execLinkDown_of_lt hl]
  set down := s.modLink l fun x => { x with up := false, retry := satAdd x.retry n } with hdown
  have frame := (NoGangMade.refl down).failSessions (Session.transfersOver l) 1
  have hlink : Cells.find? down.links l = some { s.link l with up := false, retry := satAdd (s.link l).retry n } := by
    rw [hdown, State.modLink_links, Cells.find?_put, if_pos rfl]
  refine ⟨_, _, rfl, frame.links ▸ hlink, rfl, frame.mem, rfl, fun m hs hdir hlo hhi hlink => ?_⟩
  have huses : Session.transfersOver l (down.session m) = true := by
    have hsame : down.session m = s.session m := rfl
    simp [Session.transfersOver, hsame, hdir, hlo, hhi, hlink]
  rw [State.failSessions_single (s := down) hs huses, State.session_failSession_source down m 1 hdir hlo hhi]
  exact ⟨rfl, rfl⟩

/-- R433: a replayed flit is counted, and nothing else changes. -/
theorem flitRetry_counts (s : State) (l : Nat) (hl : l < 18) :
    ∃ t, exec (.flitRetry l) s = .next t ∧ t = { s with links := t.links } ∧
      Cells.find? t.links l = some { Cells.getD s.links l Link.reset with retry := satUp (Cells.getD s.links l Link.reset).retry } := by
  have hexec : exec (.flitRetry l) s = execFlitRetry l s := rfl
  rw [hexec, execFlitRetry, if_neg (by omega)]
  exact ⟨_, rfl, rfl, (Cells.find?_put ..).trans (if_pos rfl)⟩

/-! ## Errors (R434, R435) -/

theorem NoGangMade.sendMsix {s t : State} (h : NoGangMade s t) (fn v : Nat) : NoGangMade s (t.sendMsix fn v) := by
  unfold State.sendMsix
  split
  · exact h.modFunc ..
  · exact h.send _

theorem NoGangMade.raiseEvt {s t : State} (h : NoGangMade s t) (fn bit : Nat) : NoGangMade s (t.raiseEvt fn bit) := by
  unfold State.raiseEvt
  extract_lets f s1
  split
  · exact h
  · split
    · exact (h.modFunc ..).sendMsix ..
    · exact h.modFunc ..

/-- R435: a partition that stops: STOP is set, memory stays, and no gang of its requester ports is left. -/
theorem State.stopPartition_spec (s : State) (p : Nat) :
    (s.stopPartition p).mem = s.mem ∧ (s.stopPartition p).part p = { s.part p with stop := true } ∧
      ∀ k < 1024, (s.part p).req.getLsbD (k / 16) = true → ∀ sl, (s.stopPartition p).gang? k sl = none := by
  unfold State.stopPartition
  extract_lets on any noSlot funcs s1 s2
  set marked := ({ s with funcs := funcs } : State).modPart p fun p => { p with stop := true } with hmarked
  obtain ⟨hmade, hkilled⟩ := State.killGangs_kills marked fun k _ => on k
  have hend : NoGangMade s1 (if any then s2.raiseEvt 0 3 else s2) := by
    have h2 : NoGangMade s1 s2 := (NoGangMade.refl s1).failSessions ..
    split
    · exact h2.raiseEvt 0 3
    · exact h2
  refine ⟨(hmade.trans hend).mem, ?_, fun k hk hreq sl => hend.gang? k sl (hkilled k sl fun _ => ?_)⟩
  · rw [State.part_congr (hmade.trans hend).parts, hmarked, State.part_modPart, if_pos rfl]
    rfl
  · simp only [on, hk, hreq, decide_true, Bool.and_self]

/-- R434: a frame of a function's key has an owner's partition. -/
theorem State.ownerPart_isSome {s : State} {pa : Nat} (h : (s.frame pa).keyid ≠ 0) : ∃ u, s.ownerPart pa = some u := by
  unfold State.ownerPart
  exact ⟨_, if_neg h⟩

theorem State.ownerPart_key_zero {s : State} {pa : Nat} (h : (s.frame pa).keyid = 0) : s.ownerPart pa = none := by
  unfold State.ownerPart
  exact if_pos h

theorem mem_append_of_absent (l : List Nat) (a : Nat) : a ∈ (if l.contains a then l else l ++ [a]) := by
  split
  · exact List.contains_iff_mem.1 ‹_›
  · exact List.mem_append_right _ (List.mem_singleton.2 rfl)

/-- R434, R435: a dirty line of a function that L2 cannot write back. -/
theorem writebackUncorrectable_stops_owner (s : State) (line : Nat) (d : Memory) (hd : Cells.find? s.dirty (line / 128 * 128) = some d)
    (hkey : (s.frame (line / 128 * 128)).keyid ≠ 0) :
    ∃ t u, exec (.writebackUncorrectable line) s = .next t ∧ s.ownerPart (line / 128 * 128) = some u ∧ t.mem = s.mem ∧ (t.part u).stop = true ∧
      (t.part u).uerr = satUp (s.part u).uerr ∧ line / 128 * 128 ∈ t.poison ∧ OutMsg.aer 1 ∈ t.out ∧
      ∀ k < 1024, (s.part u).req.getLsbD (k / 16) = true → ∀ sl, t.gang? k sl = none := by
  obtain ⟨u, hu⟩ := State.ownerPart_isSome hkey
  have hcount : (s.countUncorrectable u).part u = { s.part u with uerr := satUp (s.part u).uerr } := by
    rw [State.countUncorrectable, State.part_modPart, if_pos rfl]
  obtain ⟨hmem, hpart, hgangs⟩ := State.stopPartition_spec (s.countUncorrectable u) u
  rw [hcount] at hpart hgangs
  have hexec : exec (.writebackUncorrectable line) s = execWritebackUncorrectable line s := rfl
  simp only [hexec, execWritebackUncorrectable, hd, hu, Option.isNone_some, Bool.false_eq_true, if_false]
  refine ⟨_, u, rfl, rfl, hmem, ?_, ?_, mem_append_of_absent _ _, List.mem_append_right _ (List.mem_singleton.2 rfl), hgangs⟩
  · exact congrArg Partition.stop hpart
  · exact congrArg Partition.uerr hpart

/-- R434: a line of KEYID 0 that L2 cannot write back stops the device. -/
theorem writebackUncorrectable_key_zero (s : State) (line : Nat) (d : Memory) (hd : Cells.find? s.dirty (line / 128 * 128) = some d)
    (hkey : (s.frame (line / 128 * 128)).keyid = 0) :
    exec (.writebackUncorrectable line) s = .next { s with fatal := true, out := s.out ++ [.aer 2] } := by
  have hexec : exec (.writebackUncorrectable line) s = execWritebackUncorrectable line s := rfl
  simp only [hexec, execWritebackUncorrectable, hd, State.ownerPart_key_zero hkey, Option.isNone_some, Bool.false_eq_true, if_false]
  rfl

/-- R434, R436: a corrected error is counted for its partition, and reported at most once per second. -/
theorem correctableError_counts_and_reports (s : State) (p : Nat) (hp : p < 16) :
    ∃ t, exec (.correctableError p) s = .next t ∧ (t.part p).cerr = satUp (s.part p).cerr ∧ t.mem = s.mem ∧
      ((s.aerAt = none ∨ ∃ a, s.aerAt = some a ∧ a + 11000000000 ≤ s.pod) → t.out = s.out ++ [.aer 0] ∧ t.aerAt = some s.pod) ∧
      (∀ a, s.aerAt = some a → s.pod < a + 11000000000 → t.out = s.out ∧ t.aerAt = s.aerAt) := by
  have hexec : exec (.correctableError p) s = execCorrectableError p s := rfl
  have hcerr : ((s.countCorrected p).part p).cerr = satUp (s.part p).cerr := by
    rw [State.countCorrected, State.part_modPart, if_pos rfl]
  rw [hexec]
  unfold execCorrectableError
  rw [Nat.mod_eq_of_lt hp]
  extract_lets s1 due
  cases hdue : due with
  | true =>
    refine ⟨_, rfl, hcerr, rfl, fun _ => ⟨rfl, rfl⟩, fun a ha hlt => ?_⟩
    simp only [due, ha, decide_eq_true_eq] at hdue
    omega
  | false =>
    refine ⟨_, rfl, hcerr, rfl, fun h => ?_, fun _ _ _ => ⟨rfl, rfl⟩⟩
    rcases h with hn | ⟨a, ha, hle⟩
    · simp [due, hn] at hdue
    · simp [due, ha, hle] at hdue

/-- R434: an error in a clean line: L2 finds it and counts it, or a request is to consume it (log 10). -/
theorem l2CleanUncorrectable_counts_or_poisons (s : State) (line : Nat) (hd : Cells.find? s.dirty (line / 128 * 128) = none) :
    (s.choice % 2 = 0 → ∃ t, exec (.l2CleanUncorrectable line) s = .next t ∧ t = { s with parts := t.parts } ∧
      (t.part ((s.ownerPart (line / 128 * 128)).getD 0)).uerr = satUp (s.part ((s.ownerPart (line / 128 * 128)).getD 0)).uerr) ∧
    (s.choice % 2 = 1 → ∃ t, exec (.l2CleanUncorrectable line) s = .next t ∧ t = { s with poison := t.poison } ∧ line / 128 * 128 ∈ t.poison) := by
  have hexec : exec (.l2CleanUncorrectable line) s = execL2CleanUncorrectable line s := rfl
  simp only [hexec, execL2CleanUncorrectable, hd, Option.isSome_none, Bool.false_eq_true, if_false]
  constructor
  · intro hc
    rw [if_neg (by omega)]
    exact ⟨_, rfl, rfl, by rw [State.countUncorrectable, State.part_modPart, if_pos rfl]⟩
  · intro hc
    rw [if_pos hc]
    exact ⟨_, rfl, rfl, mem_append_of_absent _ _⟩

/-! ## Power and temperature (R437, R438) -/

/-- R438: the state falls by one where the temperature is 3 degrees below the state's own threshold. -/
theorem thermalNext_falls {n tj : Nat} (h1 : 1 ≤ n) (h3 : n ≤ 3) (hn : tj + 3 ≤ 90 + 5 * n) : thermalNext n tj = n - 1 := by
  unfold thermalNext
  dsimp only
  split_ifs <;> omega

/-- R438: the state rises at once to that of the temperature. -/
theorem thermalNext_rises {cur tj : Nat} :
    (105 ≤ tj → cur ≤ 3 → thermalNext cur tj = 3) ∧ (100 ≤ tj → tj < 105 → cur ≤ 2 → thermalNext cur tj = 2) ∧
      (95 ≤ tj → tj < 100 → cur ≤ 1 → thermalNext cur tj = 1) := by
  unfold thermalNext
  refine ⟨fun h hc => ?_, fun h h' hc => ?_, fun h h' hc => ?_⟩ <;> dsimp only <;> split_ifs <;> omega

/-- R437, R438: a reading of TJ moves the thermal state, and the token limit with it. -/
theorem thermalStateChange_moves (s : State) (tj : BitVec 8) :
    ∃ t, exec (.thermalStateChange tj) s = .next t ∧ t.tj = tj ∧ t.thermal = thermalNext s.thermal tj.toNat ∧
      (t.thermal ≠ s.thermal → t.ptoken = tokenLimit s.plim t.thermal) ∧ (t.thermal = s.thermal → t = { s with tj := tj, tin := t.tin, free := s.free + 1 }) := by
  have hexec : exec (.thermalStateChange tj) s = execThermalStateChange tj s := rfl
  rw [hexec]
  unfold execThermalStateChange
  extract_lets n s1
  by_cases hn : n = s.thermal
  · rw [if_pos hn]
    exact ⟨_, rfl, rfl, hn.symm, fun h => absurd rfl h, fun _ => rfl⟩
  · rw [if_neg hn]
    exact ⟨_, rfl, rfl, rfl, fun _ => rfl, fun h => absurd h hn⟩

/-- R438: at 115 degrees the device stops and its cores lose their power. -/
theorem thermalTrip_stops (s : State) (tj : BitVec 8) (h : 115 ≤ tj.toNat) :
    ∃ t, exec (.thermalTrip tj) s = .next t ∧ t.fatal = true ∧ t.tj = tj ∧ OutMsg.aer 2 ∈ t.out ∧ t.mem = s.mem ∧ ∀ k sl, t.gang? k sl = none := by
  have hexec : exec (.thermalTrip tj) s = execThermalTrip tj s := rfl
  rw [hexec, execThermalTrip, if_neg (by omega)]
  exact ⟨_, rfl, rfl, rfl, List.mem_append_right _ (List.mem_singleton.2 rfl), rfl,
    fun k sl => State.gang?_map_cores (s := s) Core.powerCycle rfl rfl k sl⟩

/-! ## Host writes to registers (R7, R346, R347, R371, R402) -/

/-- A host write of 4 bytes to BAR 0. -/
theorem registerWrite_bar0_word {s : State} {fn off : Nat} (hfn : fn < 64) (hen : (s.func fn).enabled = true) (hoff : off % 4 = 0) (v : Quad) :
    exec (.registerWrite fn 0 off 4 v) s = .next (s.writeBar0 fn off (v.toNat % 2 ^ 32)) := by
  have hexec : exec (.registerWrite fn 0 off 4 v) s = execRegisterWrite fn 0 off 4 v s := rfl
  simp [hexec, execRegisterWrite, hen, hoff, State.writeBar, show ¬64 ≤ fn by omega]

theorem registerWrite_bar0_ofNat {s : State} {fn off v : Nat} (hfn : fn < 64) (hen : (s.func fn).enabled = true) (hoff : off % 4 = 0) (hv : v < 2 ^ 32) :
    exec (.registerWrite fn 0 off 4 (BitVec.ofNat 64 v)) s = .next (s.writeBar0 fn off v) := by
  rw [registerWrite_bar0_word hfn hen hoff, BitVec.toNat_ofNat, Nat.mod_eq_of_lt (show v < 2 ^ 64 by omega), Nat.mod_eq_of_lt hv]

/-- A host write of 8 bytes to BAR 0 writes the low half, then the high one; of the physical function, not where DBGIN stands. -/
theorem registerWrite_bar0_quad {s : State} {fn off : Nat} (hfn : fn < 64) (hen : (s.func fn).enabled = true) (hoff : off % 4 = 0) (hdbg : off ≠ 0x9000)
    (v : Quad) : exec (.registerWrite fn 0 off 8 v) s =
      .next ((s.writeBar0 fn off (v.toNat % 2 ^ 32)).writeBar0 fn (off + 4) (v.toNat / 2 ^ 32)) := by
  have hexec : exec (.registerWrite fn 0 off 8 v) s = execRegisterWrite fn 0 off 8 v s := rfl
  simp [hexec, execRegisterWrite, hen, hoff, hdbg, State.writeBar, show ¬64 ≤ fn by omega]

theorem State.writeBar0_fn (s : State) (fn v : Nat) {off : Nat} (h : off < 0x1000) : s.writeBar0 fn off v = s.writeFn fn off v := if_pos h

theorem State.writeBar0_device (s : State) (v : Nat) {off : Nat} (h : 0x3000 ≤ off) (h' : off < 0x10000) :
    s.writeBar0 0 off v = s.writeDevice off v := by
  rw [State.writeBar0, if_neg (by omega), if_neg (by omega), if_pos ⟨rfl, h'⟩]

theorem halfQ_getLsbD (old : Quad) (hi : Bool) {v : Nat} (hv : v < 2 ^ 32) {i : Nat} (h : i < 64) :
    (halfQ old hi v).getLsbD i =
      if hi then (if i < 32 then old.getLsbD i else v.testBit (i - 32)) else (if i < 32 then v.testBit i else old.getLsbD i) := by
  simp only [halfQ, half, BitVec.getLsbD_ofNat, h, decide_true, Bool.true_and]
  cases hi with
  | true =>
    simp only [if_true, Nat.mul_comm v, Nat.testBit_two_pow_mul_add v (Nat.mod_lt old.toNat (Nat.two_pow_pos 32)), Nat.testBit_mod_two_pow]
    split <;> simp_all [BitVec.getLsbD]
  | false =>
    simp only [Bool.false_eq_true, if_false, Nat.mul_comm _ (2 ^ 32), Nat.testBit_two_pow_mul_add _ hv]
    split
    · rfl
    · rw [Nat.testBit_div_two_pow, Nat.sub_add_cancel (by omega)]; rfl

/-- A masked 64-bit register written by halves holds the whole value, masked. -/
theorem halfQ_low_then_high (old v m : Quad) :
    halfQ (halfQ old false (v.toNat % 2 ^ 32) &&& m) true (v.toNat / 2 ^ 32) &&& m = v &&& m := by
  have hlow : v.toNat % 2 ^ 32 < 2 ^ 32 := Nat.mod_lt _ (Nat.two_pow_pos 32)
  have hhigh : v.toNat / 2 ^ 32 < 2 ^ 32 := by have := v.isLt; omega
  refine BitVec.eq_of_getLsbD_eq fun i hi => ?_
  rw [BitVec.getLsbD_and, BitVec.getLsbD_and, halfQ_getLsbD _ _ hhigh hi, if_pos rfl]
  split
  · next hlt =>
    rw [BitVec.getLsbD_and, halfQ_getLsbD _ _ hlow hi, if_neg Bool.false_ne_true, if_pos hlt, Nat.testBit_mod_two_pow, decide_eq_true hlt, Bool.true_and,
      Bool.and_assoc, Bool.and_self]
    rfl
  · rw [Nat.testBit_div_two_pow, Nat.sub_add_cancel (by omega)]
    rfl

/-- R347: EVEC, EVT (cleared by ones) and EVTEN. -/
theorem registerWrite_events (s : State) (fn v : Nat) (hfn : fn < 64) (hen : (s.func fn).enabled = true) (hv : v < 2 ^ 32) :
    (∃ t, exec (.registerWrite fn 0 0x004 4 (BitVec.ofNat 64 v)) s = .next t ∧ (t.func fn).evec = bits v 21 16) ∧
    (∃ t, exec (.registerWrite fn 0 0x008 4 (BitVec.ofNat 64 v)) s = .next t ∧ ∀ b < 6, (t.func fn).evt.getLsbD b = ((s.func fn).evt.getLsbD b && !v.testBit b)) ∧
    (∃ t, exec (.registerWrite fn 0 0x00C 4 (BitVec.ofNat 64 v)) s = .next t ∧ (t.func fn).evten = BitVec.ofNat 6 v) := by
  refine ⟨⟨_, registerWrite_bar0_ofNat hfn hen rfl hv, ?_⟩, ⟨_, registerWrite_bar0_ofNat hfn hen rfl hv, fun b hb => ?_⟩,
    ⟨_, registerWrite_bar0_ofNat hfn hen rfl hv, ?_⟩⟩ <;>
    rw [State.writeBar0_fn _ _ _ (by omega), State.writeFn, State.func_modFunc, if_pos rfl]
  simp only [BitVec.getLsbD_and, BitVec.getLsbD_not, BitVec.getLsbD_ofNat, hb, decide_true, Bool.true_and]

/-- R371: S1ROOT. -/
theorem registerWrite_s1root (s : State) (fn : Nat) (v : Quad) (hfn : fn < 64) (hen : (s.func fn).enabled = true) :
    ∃ t, exec (.registerWrite fn 0 0x100 8 v) s = .next t ∧ (t.func fn).s1root = v &&& 0x000FFFFFFFFFF001#64 ∧ t = { s with funcs := t.funcs } := by
  refine ⟨_, registerWrite_bar0_quad hfn hen rfl (by omega) v, ?_, ?_⟩ <;>
    rw [State.writeBar0_fn _ _ _ (by omega), State.writeBar0_fn _ _ _ (by omega)] <;> simp only [State.writeFn]
  · rw [State.func_modFunc, if_pos rfl, State.func_modFunc, if_pos rfl]
    exact halfQ_low_then_high ..
  · rfl

/-- R352: a write to a notify register is a NOTIFY_WRITE. -/
theorem registerWrite_notify (s : State) (fn q : Nat) (v : Quad) (hfn : fn < 64) (hen : (s.func fn).enabled = true) :
    exec (.registerWrite fn 2 (4096 * q) 4 v) s = exec (.notifyWrite fn q (v.setWidth 32)) s := by
  have hexec : exec (.registerWrite fn 2 (4096 * q) 4 v) s = execRegisterWrite fn 2 (4096 * q) 4 v s := rfl
  have hnotify : exec (.notifyWrite fn q (v.setWidth 32)) s = execNotifyWrite fn q (v.setWidth 32) s := rfl
  obtain ⟨t, ht⟩ : ∃ t, execNotifyWrite fn q (v.setWidth 32) s = .next t := by
    unfold execNotifyWrite
    split
    · exact ⟨_, rfl⟩
    · split
      · exact ⟨_, rfl⟩
      · split <;> exact ⟨_, rfl⟩
  simp [hexec, hnotify, execRegisterWrite, hen, show ¬64 ≤ fn by omega, ht, outState]

/-- R375: the resources of a partition that is valid do not change. -/
theorem registerWrite_part_valid (s : State) (t x v : Nat) (hen : (s.func 0).enabled = true) (ht : t < 16) (hv : v < 2 ^ 32)
    (hvalid : (s.part t).valid = true) (hx : x < 4) : exec (.registerWrite 0 0 (0x3A00 + 64 * t + 4 * x) 4 (BitVec.ofNat 64 v)) s = .next s := by
  rw [registerWrite_bar0_ofNat (by omega) hen (by omega) hv, State.writeBar0_device _ _ (by omega) (by omega), State.writeDevice,
    if_neg (by omega), if_neg (by omega), if_pos (by omega), show (0x3A00 + 64 * t + 4 * x - 0x3A00) / 64 = t by omega,
    show (0x3A00 + 64 * t + 4 * x) % 64 / 4 = x by omega]
  congr 1
  interval_cases x <;> simp [State.writePart, hvalid]

/-- R402: RDDATA writes the entry that RDIDX names. -/
theorem registerWrite_rddata (s : State) (v : Nat) (hen : (s.func 0).enabled = true) (hv : v < 2 ^ 32) :
    exec (.registerWrite 0 0 0x5110 4 (BitVec.ofNat 64 v)) s =
      .next { s with redirect := Cells.put s.redirect s.rdidx (BitVec.ofNat 32 v &&& 0x800F003F#32) } := by
  rw [registerWrite_bar0_ofNat (by omega) hen rfl hv, State.writeBar0_device _ _ (by omega) (by omega)]
  rfl

/-! ## The statement -/

/-- Settles O60: each event of the fleet and each register write has the effect that its own lemma above gives; that a stopped partition's
gangs are gone turns on `State.killGangs_kills`. -/
theorem fleetEventsAndRegisterWrites : Obligations.FleetEventsAndRegisterWrites := by
  unfold Obligations.FleetEventsAndRegisterWrites
  refine ⟨linkTrained_sets_far_end, linkDown_counts_and_fails, flitRetry_counts, correctableError_counts_and_reports,
    writebackUncorrectable_stops_owner, writebackUncorrectable_key_zero, l2CleanUncorrectable_counts_or_poisons, fun _ => rfl, fun _ _ => rfl,
    fun s tj => ?_, fun s tj => ⟨thermalTrip_stops s tj, fun h => if_pos h⟩, registerWrite_events, registerWrite_s1root,
    fun s fn q v hfn hen _ => registerWrite_notify s fn q v hfn hen, registerWrite_part_valid, fun s vdn v hen hv hvdn => ?_⟩
  · obtain ⟨t, hexec, htj, hthermal, hmoved, hsame⟩ := thermalStateChange_moves s tj
    obtain ⟨hthree, htwo, hone⟩ := thermalNext_rises (cur := s.thermal) (tj := tj.toNat)
    refine ⟨t, hexec, htj, ?_, ?_, ?_, fun n h1 h3 hn hle => ?_, hmoved, hsame⟩
    · rwa [hthermal]
    · rwa [hthermal]
    · rwa [hthermal]
    · rw [hthermal, hn, thermalNext_falls h1 h3 hle]
  · exact ⟨_, registerWrite_rddata s v hen hv, (Cells.find?_put ..).trans (if_pos hvdn), rfl⟩

end Sys2Proof.Machine
end

section
/-! PROOFS of the statements on architectural state (spec/01_architectural_state.md): memory at reset, global accesses that are sent, and
launches that run as groups. -/
namespace Sys2Proof.Machine

/-! ## Memory at reset (R17) -/

/-- Settles O19: nothing is listed in memory at reset, and the empty map is canonical. -/
theorem resetInv : Obligations.ResetInv := Cells.wf_nil 0#8

/-! ## What a cause leaves (R240, R245) -/

@[simp] theorem State.sendMsix_nextId (s : State) (fn v : Nat) : (s.sendMsix fn v).nextId = s.nextId := by
  unfold State.sendMsix; split <;> rfl

@[simp] theorem State.raiseEvt_nextId (s : State) (fn bit : Nat) : (s.raiseEvt fn bit).nextId = s.nextId := by
  unfold State.raiseEvt
  extract_lets f s'
  have hs' : s'.nextId = s.nextId := rfl
  split
  · rfl
  · split <;> simp [hs']

/-- A cause takes no identity. -/
@[simp] theorem State.trap_nextId (s : State) (k sl fid : Nat) (cause : BitVec 6) (value epc xofs kind : Nat) (lost : Bool) :
    (s.trap k sl fid cause value epc xofs kind lost).nextId = s.nextId := by
  rcases s.trap_cases k sl fid cause value epc xofs kind lost with ⟨-, h⟩ | ⟨g, -, ⟨-, h⟩ | ⟨-, lvl, entry, -, -, h⟩⟩
  · rw [h]
  · simp [h, State.stopGang, State.logStop]
  · simp [h]

theorem State.ctx_st {s : State} {l : Long} {c : Ctx} (h : s.ctx l = some c) : c.st = s := by
  unfold State.ctx at h
  split at h
  · cases h
  · split at h
    · cases h
    · cases h; rfl

/-- An instruction whose own effect raises a cause takes no identity either, so it sends no request. -/
theorem run_of_raise {i : Instr} {eff : Ctx → Eff} {s : State} {c : Ctx} {cause : BitVec 6} {v : Nat} (h : Issues i s c)
    (he : eff c.claim = .raise cause v) : ∃ t, run i eff s = .next t ∧ t.nextId = s.nextId := by
  have ⟨_, hctx, _⟩ := h
  refine ⟨_, run_of_issues h, ?_⟩
  simp [he, State.noteIssue, State.trapSync, State.ctx_st hctx]

/-! ## Chases (R159, R179) -/

theorem mem_lanesOf {m : Mask} {lane : Nat} : lane ∈ lanesOf m ↔ lane < 32 ∧ m.getLsbD lane = true := by
  simp [lanesOf]

/-- R159, R179: once the checks before it have passed, a chase whose FOFF is no multiple of 8 raises 0x12, wherever it starts. -/
theorem globalAccs_of_foff {c : Ctx} {f : Long} {lane : Nat} (hp : Passes c .nmx f) (hl : accesses c .nmx f lane)
    (hfoff : accExtra .nmx f % 8 ≠ 0) : ∃ m, globalAccs c .nmx f = .error (0x12, m) := by
  obtain ⟨hrange, hswz, hright, -, hbounds, -⟩ := hp
  obtain ⟨hlt, htakes, hin⟩ := hl
  have hmem : lane ∈ lanesOf c.active := mem_lanesOf.mpr ⟨hlt, by simpa [takesPart] using htakes⟩
  unfold globalAccs
  extract_lets b size x lanes e inb va out acc mis m w
  have hinb (i : Nat) : inb i = inBounds c .nmx f i := by rw [inBounds, Bool.decide_and]; rfl
  have hacc : lane ∈ acc := List.mem_filter.mpr ⟨hmem, (hinb lane).trans hin⟩
  have hmis : mis ≠ [] := List.ne_nil_of_mem (List.mem_filter.mpr ⟨hacc, by simpa using .inr hfoff⟩)
  have hout : (!out.isEmpty && !modeOobz c.g.mode) = false := by
    rcases hbounds with hdrop | hall
    · simp [hdrop]
    · have hnone : out = [] := List.filter_eq_nil_iff.mpr fun i hi => by
        obtain ⟨hi, hact⟩ := mem_lanesOf.mp hi
        simp [hinb, hall i hi (by simpa [takesPart] using hact)]
      simp [hnone]
  have hlanes : lanes.isEmpty = false := List.isEmpty_eq_false_iff.mpr (List.ne_nil_of_mem hmem)
  have hrec : ¬(2 ^ 57 < b.base + b.extent ∨ 3 < b.swz) := not_or.mpr ⟨Nat.not_lt.mpr hrange, Nat.not_lt.mpr hswz⟩
  have hronly : (b.ronly && accWrite .nmx f) = false := by
    cases h : b.ronly
    · rfl
    · exact hright h
  refine ⟨m mis, ?_⟩
  rw [hlanes, if_neg Bool.false_ne_true, if_neg hrec, hronly, if_neg Bool.false_ne_true, hout, if_neg Bool.false_ne_true, if_pos (by simp [hmis])]

theorem globalEff_of_error {c : Ctx} {i : Instr} {k : MemKind} {cause : BitVec 6} {v : Nat}
    (h : globalAccs c k (Instr.long i) = .error (cause, v)) : globalEff i k c = .raise cause v := by
  simp only [globalEff, h]

/-- Such a chase sends no request. -/
theorem exec_nmx_of_foff {s : State} {c : Ctx} {f : Long} {lane : Nat} (h : Issues (.nmx f) s c) (hp : Passes c.claim .nmx f)
    (hl : accesses c.claim .nmx f lane) (hfoff : accExtra .nmx f % 8 ≠ 0) : ∃ t, exec (.nmx f) s = .next t ∧ t.nextId = s.nextId := by
  obtain ⟨m, hacc⟩ := globalAccs_of_foff hp hl hfoff
  exact run_of_raise h (globalEff_of_error hacc)

/-! ## A chase that is not sent -/

/-- A chase with FOFF 4. -/
def oddChase : Long := ⟨0, false, false, 8, 0xBC, 0, 0, 0, 0, false, 2, 0x22000004, none⟩

/-- The gang of `withFetchWord` is to issue it, through a record of 64 bytes from 0x10004: the quad at 0x10008 is aligned. -/
def chasing : State :=
  ({ State.reset.withFetchWord 32 0 with cur := ⟨0, 0, 0, 0, 0⟩ } : State).modGang 0 0 fun g => g.setB 2 (mkBuf 0x10004 64 0 0 false)

/-- The context it issues from. -/
def chaseCtx : Ctx := (chasing.ctx oddChase).get (by decide +kernel)

theorem chase_issues : Issues (.nmx oddChase) chasing chaseCtx :=
  ⟨by decide, (Option.some_get _).symm, by decide +kernel, by decide +kernel, by decide +kernel, by decide +kernel⟩

theorem chase_passes : Passes chaseCtx .nmx oddChase := by unfold Passes; decide +kernel

theorem claimed_chase_passes : Passes chaseCtx.claim .nmx oddChase := by unfold Passes; decide +kernel

theorem chase_accesses : accesses chaseCtx .nmx oddChase 0 := by unfold accesses; decide +kernel

theorem claimed_chase_accesses : accesses chaseCtx.claim .nmx oddChase 0 := by unfold accesses; decide +kernel

theorem chase_translates : ∀ lane < 32, chasing.translate (.core chaseCtx.k) chaseCtx.g.fn (lineOf chaseCtx .nmx oddChase lane)
    (accRights .nmx oddChase) = .ok (.dev 0x10000, none) := by decide +kernel

/-- Refutes O34: FOFF of a chase is checked too, to be a multiple of 8 (R179), and `Passes` does not ask for that. `oddChase` meets every
hypothesis and takes 0x12, where the statement has it sent. -/
theorem not_globalAccessesAreSent : ¬ Obligations.GlobalAccessesAreSent := by
  unfold Obligations.GlobalAccessesAreSent
  intro h
  obtain ⟨t, g, hexec, -, -, -, -, hsent, -⟩ := h (.nmx oddChase) .nmx chasing chaseCtx rfl (by decide) chase_issues chase_passes
    fun lane ⟨hlt, _⟩ => ⟨_, chase_translates lane hlt⟩
  obtain ⟨id, _, _, _, hlo, hhi, -⟩ := hsent 0 chase_accesses
  obtain ⟨u, hnone, hids⟩ := exec_nmx_of_foff chase_issues claimed_chase_passes claimed_chase_accesses (by decide)
  obtain rfl : t = u := by injection hexec.symm.trans hnone
  omega

/-! ## The end of a group (R268) -/

/-- The group of `withFetchWord` has no gang left, and a second launch, of another graph, is listed behind its own at the same key. -/
def listedTwice : State :=
  let s := State.reset.withFetchWord 32 0
  { s with groups := [(0, { hostGroup with live := [] })], launches := [(0, hostLaunch), (0, { hostLaunch with graph := 1 })] }

/-- The launch found at key 0 afterwards is the second one, of which no group has ended. -/
theorem listedTwice_groupEnd : ∃ t, exec (.groupEnd 0) listedTwice = .next t ∧ t.launch? 0 = some { hostLaunch with graph := 1 } :=
  ⟨_, rfl, by decide +kernel⟩

/-- Refutes O52: the last group of the launch found at key 0 ends, so its graph ends, and the launches of that graph leave the map; the launch
listed behind it at the same key, of another graph, is then found there, and no group of it has ended. The statement asks of no state that a
map lists a key once. -/
theorem not_launchesRunAsGroups : ¬ Obligations.LaunchesRunAsGroups := by
  unfold Obligations.LaunchesRunAsGroups
  rintro ⟨-, -, hends, -⟩
  obtain ⟨t, hexec, -, -, hcount⟩ := hends listedTwice 0 _ hostLaunch rfl rfl rfl rfl (by decide +kernel) rfl
  obtain ⟨u, hexec', hl⟩ := listedTwice_groupEnd
  obtain rfl : t = u := by injection hexec.symm.trans hexec'
  exact absurd (hcount _ hl) (by decide)

end Sys2Proof.Machine
end

section
/-! PROOFS of the statements on numbers (spec/02_numbers_and_arithmetic.md): sums in galley words (R57 to R60), and rounding
to a floating-point format (R41, R44). -/
namespace Sys2Proof.Machine

/-! ## Galley words (R57) -/

theorem wrap_lt (t : Int) (n : Nat) : wrap t n < 2 ^ n := by
  have h := Int.emod_lt_of_pos t (show (0 : Int) < ((2 ^ n : Nat) : Int) by positivity)
  have h0 := Int.emod_nonneg t (show ((2 ^ n : Nat) : Int) ≠ 0 by positivity)
  unfold wrap
  omega

theorem Galley.ofM_toNat (t : Int) : (Galley.ofM t).toNat = wrap t 126 := by
  have h := wrap_lt t 126
  rw [Galley.ofM, BitVec.toNat_ofNat]
  omega

theorem Galley.cls_eq (w : Galley) : Galley.cls w = w.toNat / 2 ^ 126 := by
  have h := w.isLt
  rw [Galley.cls, bits, Nat.shiftRight_eq_div_pow]
  omega

theorem Galley.cls_lt (w : Galley) : Galley.cls w < 4 := by
  have h := w.isLt
  rw [Galley.cls_eq]
  omega

theorem Galley.toNat_lt {w : Galley} (h : Galley.cls w = 0) : w.toNat < 2 ^ 126 := by
  rw [Galley.cls_eq] at h
  omega

@[simp] theorem Galley.cls_ofM (t : Int) : Galley.cls (Galley.ofM t) = 0 := by
  have h := wrap_lt t 126
  rw [Galley.cls_eq, Galley.ofM_toNat]
  omega

theorem Galley.cls_ofCls {k : Nat} (h : k < 4) : Galley.cls (Galley.ofCls k) = k := by
  rw [Galley.cls_eq, Galley.ofCls, BitVec.toNat_ofNat]
  omega

/-- M of a finite word is the word read as a signed number of 126 bits. -/
theorem Galley.m_eq {w : Galley} (h : Galley.cls w = 0) :
    Galley.m w = if w.toNat < 2 ^ 125 then (w.toNat : Int) else w.toNat - 2 ^ 126 := by
  have hlt := Galley.toNat_lt h
  rw [Galley.m, if_pos h, sext]
  simp only [Nat.mod_eq_of_lt hlt]
  norm_num

theorem Galley.m_of_cls_ne {w : Galley} (h : Galley.cls w ≠ 0) : Galley.m w = 0 := if_neg h

theorem Galley.m_range (w : Galley) : -(2 ^ 125) ≤ Galley.m w ∧ Galley.m w ≤ 2 ^ 125 - 1 := by
  by_cases h : Galley.cls w = 0
  · have hlt := Galley.toNat_lt h
    rw [Galley.m_eq h]
    split <;> omega
  · rw [Galley.m_of_cls_ne h]
    norm_num

theorem Galley.m_ofM {t : Int} (hlo : -(2 ^ 125) ≤ t) (hhi : t ≤ 2 ^ 125 - 1) : Galley.m (Galley.ofM t) = t := by
  rw [Galley.m_eq (Galley.cls_ofM t), Galley.ofM_toNat, wrap]
  push_cast
  split <;> omega

theorem Galley.ofM_m {w : Galley} (h : Galley.cls w = 0) : Galley.ofM (Galley.m w) = w := by
  have hlt := Galley.toNat_lt h
  apply BitVec.eq_of_toNat_eq
  rw [Galley.ofM_toNat, Galley.m_eq h, wrap]
  push_cast
  split <;> omega

/-! ## Additions into a galley word (R59, R60) -/

theorem Contrib.parts_cls_lt (anchor : Int) (x : Contrib) : (x.parts anchor).1 < 4 := by
  rcases x with (_ | n | _ | _) | w
  · exact Nat.lt_succ_self 3
  · cases n
    · exact Nat.one_lt_ofNat
    · exact Nat.lt_add_of_pos_right Nat.two_pos
  · exact Nat.zero_lt_succ _
  · exact Nat.zero_lt_succ _
  · exact Galley.cls_lt w

/-- The word of class c, which holds t where c is 0 (finite). -/
def Galley.canon (c : Nat) (t : Int) : Galley := if c = 0 then Galley.ofM t else Galley.ofCls c

/-- R59: the class of a sum of two terms of classes c and d. -/
def joinCls (c d : Nat) : Nat :=
  if c = 3 ∨ d = 3 ∨ (c ≠ 0 ∧ d ≠ 0 ∧ c ≠ d) then 3 else if c ≠ 0 then c else d

/-- R60: the class of a sum, from whether a term is NaN, +Inf and −Inf. -/
def clsOf (nan pos neg : Bool) : Nat := if nan || (pos && neg) then 3 else if pos then 1 else if neg then 2 else 0

theorem clsOf_lt (nan pos neg : Bool) : clsOf nan pos neg < 4 := by
  revert nan pos neg
  decide

theorem joinCls_clsOf (nan pos neg : Bool) {d : Nat} (hd : d < 4) :
    joinCls (clsOf nan pos neg) d = clsOf (nan || decide (d = 3)) (pos || decide (d = 1)) (neg || decide (d = 2)) := by
  interval_cases d <;> revert nan pos neg <;> decide

/-- R59: adding to a canonical word leaves a canonical word, unless a finite sum leaves the range. -/
theorem waddParts_canon {c d : Nat} {t q : Int} (hc : c < 4) (hlo : -(2 ^ 125) ≤ t) (hhi : t ≤ 2 ^ 125 - 1)
    (hlo' : -(2 ^ 125) ≤ t + q) (hhi' : t + q ≤ 2 ^ 125 - 1) :
    (waddParts (Galley.canon c t) d q).1 = Galley.canon (joinCls c d) (t + q) := by
  by_cases h0 : c = 0
  · subst h0
    have hno : ¬((2 ^ 125 : Nat) : Int) - 1 < t + q := by omega
    have hnu : ¬t + q < -((2 ^ 125 : Nat) : Int) := by omega
    by_cases hd : d = 0
    · subst hd
      simp only [waddParts, Galley.canon, joinCls, if_true, Galley.cls_ofM, Galley.m_ofM hlo hhi, if_neg hno, if_neg hnu]
      rfl
    · by_cases hd3 : d = 3 <;> simp [waddParts, Galley.canon, joinCls, hd, hd3]
  · simp only [waddParts, Galley.canon, if_neg h0, Galley.cls_ofCls hc, joinCls]
    by_cases h3 : c = 3 ∨ d = 3
    · simp [h3, ← or_assoc]
    · by_cases hne : d ≠ 0 ∧ c ≠ d
      · simp [h3, h0, hne]
      · simp [h3, h0, hne]

theorem wadd_fst (anchor : Int) (w : Galley) (x : Contrib) : (wadd anchor w x).1 = (waddParts w (x.parts anchor).1 (x.parts anchor).2).1 := rfl

theorem sum_filter_pos_nonneg (l : List Int) : 0 ≤ (l.filter (0 < ·)).sum :=
  List.sum_nonneg fun _ h => (of_decide_eq_true (List.mem_filter.mp h).2).le

theorem sum_filter_neg_nonpos (l : List Int) : (l.filter (· < 0)).sum ≤ 0 := by
  have h := List.sum_le_card_nsmul (l.filter (· < 0)) 0 fun _ h => (of_decide_eq_true (List.mem_filter.mp h).2).le
  rwa [nsmul_zero] at h

theorem sum_filter_pos_add_neg (l : List Int) : (l.filter (0 < ·)).sum + (l.filter (· < 0)).sum = l.sum := by
  induction l with
  | nil => rfl
  | cons x l ih =>
    rw [List.sum_cons, ← ih]
    rcases lt_trichotomy x 0 with h | h | h
    · simp [h, h.not_gt]; ring
    · simp [h]
    · simp [h, h.not_gt]; ring

/-- The classes and the quotients of contributions. -/
def hasCls (anchor : Int) (l : List Contrib) (k : Nat) : Bool := l.any fun x => decide ((x.parts anchor).1 = k)
def quotients (anchor : Int) (l : List Contrib) : List Int := l.map fun x => (x.parts anchor).2

/-- R60: the class of their sum. -/
def sumCls (anchor : Int) (l : List Contrib) : Nat := clsOf (hasCls anchor l 3) (hasCls anchor l 1) (hasCls anchor l 2)

theorem sumCls_lt (anchor : Int) (l : List Contrib) : sumCls anchor l < 4 := clsOf_lt _ _ _

theorem quotients_append (anchor : Int) (l l' : List Contrib) : quotients anchor (l ++ l') = quotients anchor l ++ quotients anchor l' :=
  List.map_append

theorem hasCls_append_singleton (anchor : Int) (l : List Contrib) (x : Contrib) (k : Nat) :
    hasCls anchor (l ++ [x]) k = (hasCls anchor l k || decide ((x.parts anchor).1 = k)) := by
  simp [hasCls]

theorem sumCls_append_singleton (anchor : Int) (l : List Contrib) (x : Contrib) :
    sumCls anchor (l ++ [x]) = joinCls (sumCls anchor l) (x.parts anchor).1 := by
  simp only [sumCls, hasCls_append_singleton, joinCls_clsOf _ _ _ (x.parts_cls_lt anchor)]

/-- R60, by induction on the contributions: the word stays canonical, since every partial sum lies between the sum of its
negative and the sum of its positive quotients. -/
theorem foldl_wadd (anchor : Int) {w : Galley} (hw : Galley.cls w = 0) (l : List Contrib)
    (hhi : Galley.m w + ((quotients anchor l).filter (0 < ·)).sum ≤ 2 ^ 125 - 1)
    (hlo : -(2 ^ 125) ≤ Galley.m w + ((quotients anchor l).filter (· < 0)).sum) :
    l.foldl (fun w x => (wadd anchor w x).1) w = Galley.canon (sumCls anchor l) (Galley.m w + (quotients anchor l).sum) := by
  induction l using List.reverseRecOn with
  | nil => simp [sumCls, hasCls, quotients, clsOf, Galley.canon, Galley.ofM_m hw]
  | append_singleton l x ih =>
    have hpos := sum_filter_pos_nonneg (quotients anchor [x])
    have hneg := sum_filter_neg_nonpos (quotients anchor [x])
    have hpos' := sum_filter_pos_nonneg (quotients anchor l)
    have hneg' := sum_filter_neg_nonpos (quotients anchor l)
    have hx := sum_filter_pos_add_neg (quotients anchor [x])
    have hl := sum_filter_pos_add_neg (quotients anchor l)
    have hq : (quotients anchor [x]).sum = (x.parts anchor).2 := by simp [quotients]
    have hm := Galley.m_range w
    simp only [quotients_append, List.filter_append, List.sum_append] at hhi hlo ⊢
    rw [List.foldl_append, List.foldl_cons, List.foldl_nil, wadd_fst, ih (by omega) (by omega), sumCls_append_singleton,
      hq, ← add_assoc]
    exact waddParts_canon (sumCls_lt anchor l) (by omega) (by omega) (by omega) (by omega)

theorem Galley.canon_clsOf (nan pos neg : Bool) (t : Int) : Galley.canon (clsOf nan pos neg) t =
    if nan || (pos && neg) then Galley.ofCls 3 else if pos then Galley.ofCls 1 else if neg then Galley.ofCls 2 else Galley.ofM t := by
  cases nan <;> cases pos <;> cases neg <;> simp [Galley.canon, clsOf]

/-- Settles O7: by induction on the contributions, in their order. -/
theorem galleySumsDoNotDependOnOrder : Obligations.GalleySumsDoNotDependOnOrder := by
  unfold Obligations.GalleySumsDoNotDependOnOrder
  intro anchor w l hw q has hhi hlo
  exact (foldl_wadd anchor hw l hhi hlo).trans (Galley.canon_clsOf (has 3) (has 1) (has 2) _)

/-! ## Dyadic numbers (R44) -/

/-- The rational m × 2^e. -/
def ratOf (m e : Int) : ℚ := m * 2 ^ e

theorem two_zpow_of_le {q e : Int} (h : q ≤ e) : (2 : ℚ) ^ e = 2 ^ (e - q).toNat * 2 ^ q := by
  rw [← zpow_natCast, Int.toNat_of_nonneg (by omega), ← zpow_add₀ two_ne_zero, Int.sub_add_cancel]

theorem ratOf_neg (m e : Int) : ratOf (-m) e = -ratOf m e := by simp [ratOf]

theorem ratOf_le_ratOf {m n e : Int} : ratOf m e ≤ ratOf n e ↔ m ≤ n := by
  simp [ratOf, mul_le_mul_iff_left₀ (show (0 : ℚ) < 2 ^ e by positivity)]

theorem ratOf_lt_ratOf {m n e : Int} : ratOf m e < ratOf n e ↔ m < n := by
  simp [ratOf, mul_lt_mul_iff_left₀ (show (0 : ℚ) < 2 ^ e by positivity)]

@[simp] theorem ratOf_zero (e : Int) : ratOf 0 e = 0 := by simp [ratOf]

theorem ratOf_nonneg {m e : Int} : 0 ≤ ratOf m e ↔ 0 ≤ m := by rw [← ratOf_zero e, ratOf_le_ratOf]

theorem ratOf_nonpos {m e : Int} : ratOf m e ≤ 0 ↔ m ≤ 0 := by rw [← ratOf_zero e, ratOf_le_ratOf]

theorem ratOf_mul_two_pow (m : Int) (k : Nat) (e : Int) : ratOf (m * 2 ^ k) e = ratOf m (e + k) := by
  simp only [ratOf, zpow_add₀ (two_ne_zero' ℚ), zpow_natCast]
  push_cast
  ring

/-- A number brought to a smaller quantum. -/
theorem ratOf_of_le {q e : Int} (h : q ≤ e) (m : Int) : ratOf m e = ratOf (m * 2 ^ (e - q).toNat) q := by
  rw [ratOf_mul_two_pow, Int.toNat_of_nonneg (by omega), add_sub_cancel]

theorem dyAdd_ratOf (m e m' e' : Int) : ratOf (dyAdd m e m' e').1 (dyAdd m e m' e').2 = ratOf m e + ratOf m' e' := by
  unfold dyAdd
  split
  case isTrue h => rw [ratOf_of_le h m']; simp [ratOf]; ring
  case isFalse h => rw [ratOf_of_le (le_of_not_ge h) m]; simp [ratOf]; ring

theorem ratOf_one_mono {d e : Int} (h : d ≤ e) : ratOf 1 d ≤ ratOf 1 e := by
  simpa [ratOf] using zpow_le_zpow_right₀ (one_le_two (α := ℚ)) h

/-- A magnitude lies between the power of two of its highest bit and the next one. -/
theorem ratOf_log2_le {a : Nat} (ha : a ≠ 0) (e : Int) : ratOf 1 (Nat.log2 a + e) ≤ ratOf a e := by
  rw [Int.add_comm, ← ratOf_mul_two_pow, one_mul, ratOf_le_ratOf]
  exact_mod_cast Nat.log2_self_le ha

theorem ratOf_le_log2_succ (a : Nat) (e : Int) : ratOf a e ≤ ratOf 1 (Nat.log2 a + e + 1) := by
  have hlt : a < 2 ^ (Nat.log2 a + 1) := Nat.lt_log2_self
  rw [show (Nat.log2 a : Int) + e + 1 = e + (Nat.log2 a + 1 : Nat) by push_cast; ring, ← ratOf_mul_two_pow, one_mul, ratOf_le_ratOf]
  exact_mod_cast hlt.le

/-- The rational that a finite value stands for. -/
def Val.toRat : Val → ℚ
  | .fin m e => ratOf m e
  | _ => 0

/-- Neither a NaN nor an infinity. -/
def Val.isFinite : Val → Bool
  | .zero _ | .fin _ _ => true
  | _ => false

/-- The comparison of two finite values is their difference, scaled. -/
theorem Val.cmp_ratOf {v : Val} (hv : v.isFinite) {m : Int} (hm : m ≠ 0) (e : Int) :
    ∃ s, ratOf (Val.cmp v (.fin m e)) s = v.toRat - ratOf m e := by
  cases v with
  | nan | inf => cases hv
  | zero n => exact ⟨e, by simp [Val.cmp, dySum, Val.toRat, ratOf_neg]⟩
  | fin m' e' =>
    refine ⟨(dyAdd m' e' (-m) e).2, ?_⟩
    have h : Val.cmp (.fin m' e') (.fin m e) = (dyAdd m' e' (-m) e).1 := by simp [Val.cmp, dySum, hm]
    rw [h, dyAdd_ratOf, ratOf_neg, ← sub_eq_add_neg]
    rfl

theorem Val.cmp_nonneg {v : Val} (hv : v.isFinite) {m e : Int} (hm : m ≠ 0) : 0 ≤ Val.cmp v (.fin m e) ↔ ratOf m e ≤ v.toRat := by
  obtain ⟨s, hs⟩ := Val.cmp_ratOf hv hm e
  rw [← ratOf_nonneg (e := s), hs, sub_nonneg]

theorem Val.cmp_nonpos {v : Val} (hv : v.isFinite) {m e : Int} (hm : m ≠ 0) : Val.cmp v (.fin m e) ≤ 0 ↔ v.toRat ≤ ratOf m e := by
  obtain ⟨s, hs⟩ := Val.cmp_ratOf hv hm e
  rw [← ratOf_nonpos (e := s), hs, sub_nonpos]

theorem Val.cmp_eq_zero {v : Val} (hv : v.isFinite) {m e : Int} (hm : m ≠ 0) : Val.cmp v (.fin m e) = 0 ↔ v.toRat = ratOf m e := by
  rw [le_antisymm_iff, Val.cmp_nonneg hv hm, Val.cmp_nonpos hv hm, ← le_antisymm_iff]

/-! ## Bringing a magnitude to a quantum (R44, R46) -/

/-- A magnitude that is no multiple of the quantum 2^q lies strictly between two neighbours, n and n + 1, of which one is chosen. -/
theorem quantise_cases (rnd rbits : Nat) (neg : Bool) (a : Nat) (e q : Int) :
    ((quantise rnd rbits neg a e q).2 = false ∧ ratOf (quantise rnd rbits neg a e q).1 q = ratOf a e) ∨
      ∃ n r sh, quantise rnd rbits neg a e q = (if roundUp rnd rbits neg n r sh then n + 1 else n, true) ∧
        ratOf n q < ratOf a e ∧ ratOf a e < ratOf (n + 1) q := by
  unfold quantise
  split
  case isTrue h => exact .inl ⟨rfl, by rw [ratOf_of_le h]; push_cast; rfl⟩
  case isFalse h =>
    have hq (n : Int) : ratOf n q = ratOf (n * 2 ^ (q - e).toNat) e := ratOf_of_le (by omega) n
    extract_lets sh n r
    have ha : 2 ^ sh * n + r = a := Nat.div_add_mod a (2 ^ sh)
    have hr : r < 2 ^ sh := Nat.mod_lt _ (by positivity)
    split
    case isTrue h0 => exact .inl ⟨rfl, by rw [hq, ← ha, h0, Nat.add_zero, Nat.mul_comm]; push_cast; rfl⟩
    case isFalse h0 =>
      refine .inr ⟨n, r, sh, rfl, ?_, ?_⟩
      · rw [hq, ratOf_lt_ratOf]
        exact_mod_cast (show n * 2 ^ sh < a by rw [← ha, Nat.mul_comm]; omega)
      · rw [hq, ratOf_lt_ratOf]
        exact_mod_cast (show a < (n + 1) * 2 ^ sh by rw [← ha, Nat.add_one_mul, Nat.mul_comm]; omega)

section
variable {rnd rbits : Nat} {neg : Bool} {a : Nat} {e q : Int}

theorem quantise_eq_iff : ratOf (quantise rnd rbits neg a e q).1 q = ratOf a e ↔ (quantise rnd rbits neg a e q).2 = false := by
  obtain ⟨hex, hval⟩ | ⟨n, r, sh, h, hlo, hhi⟩ := quantise_cases rnd rbits neg a e q
  · simp [hex, hval]
  · rw [h]
    split
    · simpa using hhi.ne'
    · simpa using hlo.ne

/-- Rounding does not pass a multiple of the quantum. -/
theorem le_quantise {n : Int} (h : ratOf n q ≤ ratOf a e) : n ≤ (quantise rnd rbits neg a e q).1 := by
  obtain ⟨-, hval⟩ | ⟨n', r, sh, hr, -, hhi⟩ := quantise_cases rnd rbits neg a e q
  · rwa [← hval, ratOf_le_ratOf] at h
  · have hn := ratOf_lt_ratOf.mp (h.trans_lt hhi)
    rw [hr]
    dsimp only
    split <;> omega

theorem quantise_le {n : Int} (h : ratOf a e ≤ ratOf n q) : (quantise rnd rbits neg a e q).1 ≤ n := by
  obtain ⟨-, hval⟩ | ⟨n', r, sh, hr, hlo, -⟩ := quantise_cases rnd rbits neg a e q
  · rwa [← hval, ratOf_le_ratOf] at h
  · have hn := ratOf_lt_ratOf.mp (hlo.trans_le h)
    rw [hr]
    dsimp only
    split <;> omega

theorem quantise_le_of_down (h : ∀ n r sh, roundUp rnd rbits neg n r sh = false) : ratOf (quantise rnd rbits neg a e q).1 q ≤ ratOf a e := by
  obtain ⟨-, hval⟩ | ⟨n, r, sh, hr, hlo, -⟩ := quantise_cases rnd rbits neg a e q
  · exact hval.le
  · rw [hr, h]
    exact hlo.le

theorem le_quantise_of_up (h : ∀ n r sh, roundUp rnd rbits neg n r sh = true) : ratOf a e ≤ ratOf (quantise rnd rbits neg a e q).1 q := by
  obtain ⟨-, hval⟩ | ⟨n, r, sh, hr, -, hhi⟩ := quantise_cases rnd rbits neg a e q
  · exact hval.ge
  · rw [hr, h]
    exact hhi.le

end

theorem quantise_self (rnd rbits : Nat) (neg : Bool) (a : Nat) (e : Int) : quantise rnd rbits neg a e e = (a, false) := by
  simp [quantise]

/-! ## Encodings (R41) -/

namespace FpFmt
variable {f : FpFmt}

/-- The significand and the exponent of the magnitude that an encoding x without its sign bit stands for. -/
def mant (f : FpFmt) (x : Nat) : Nat := if x / 2 ^ f.fb = 0 then x % 2 ^ f.fb else 2 ^ f.fb + x % 2 ^ f.fb
def expo (f : FpFmt) (x : Nat) : Int := if x / 2 ^ f.fb = 0 then 1 - (f.bias : Int) - f.fb else ((x / 2 ^ f.fb : Nat) : Int) - f.bias - f.fb

/-- The widths of the fields of a format that has a sign, an exponent and a fraction (R41). -/
def HasFields (f : FpFmt) : Prop := f.w = f.eb + f.fb + 1 ∧ 1 ≤ f.eb ∧ 1 ≤ f.fb

theorem hasFields_of_mem (h : f ∈ allFormats) : f.HasFields := by
  unfold HasFields
  revert f
  decide

theorem div_of_fields {ex fr : Nat} (h : fr < 2 ^ f.fb) : (ex * 2 ^ f.fb + fr) / 2 ^ f.fb = ex := by
  rw [Nat.add_comm, Nat.add_mul_div_right _ _ (by positivity), Nat.div_eq_of_lt h, Nat.zero_add]

theorem mod_of_fields {ex fr : Nat} (h : fr < 2 ^ f.fb) : (ex * 2 ^ f.fb + fr) % 2 ^ f.fb = fr :=
  Nat.mul_add_mod_of_lt h

theorem mant_lt (x : Nat) : f.mant x < 2 ^ (f.fb + 1) := by
  have h := Nat.mod_lt x (show 0 < 2 ^ f.fb by positivity)
  unfold mant
  split <;> omega

theorem mant_eq_zero {x : Nat} : f.mant x = 0 ↔ x = 0 := by
  have h := Nat.div_add_mod x (2 ^ f.fb)
  have h2 : 0 < 2 ^ f.fb := by positivity
  unfold mant
  split
  case isTrue h0 => rw [h0] at h; omega
  case isFalse h0 => exact ⟨by omega, fun hx => absurd (by rw [hx, Nat.zero_div]) h0⟩

/-! ## The value of an encoding (R41) -/

theorem signBit_eq (hf : f.HasFields) : f.signBit = 2 ^ f.eb * 2 ^ f.fb := by
  obtain ⟨hw, -⟩ := hf
  rw [signBit, hw, Nat.add_sub_cancel, pow_add]

/-- The exponent and fraction fields do not depend on the sign bit. -/
theorem field_signed (hf : f.HasFields) (neg : Bool) {y : Nat} (hy : y < f.signBit) :
    f.signed neg y % 2 ^ f.w = f.signed neg y ∧ decide (f.signBit ≤ f.signed neg y) = neg ∧
      bits (f.signed neg y) (f.w - 2) f.fb = y / 2 ^ f.fb ∧ f.signed neg y % 2 ^ f.fb = y % 2 ^ f.fb := by
  have hs := signBit_eq hf
  obtain ⟨hw, heb, hfb⟩ := hf
  have h2w : 2 ^ f.w = 2 * f.signBit := by rw [hw, pow_succ, pow_add, ← hs, Nat.mul_comm]
  have hdiv : y / 2 ^ f.fb < 2 ^ f.eb := Nat.div_lt_of_lt_mul (by rwa [Nat.mul_comm, ← hs])
  have hbits : f.w - 2 + 1 - f.fb = f.eb := by omega
  rw [bits, Nat.shiftRight_eq_div_pow, hbits, h2w]
  cases neg
  · simp only [signed, Bool.false_eq_true, if_false]
    exact ⟨Nat.mod_eq_of_lt (by omega), decide_eq_false (by omega), Nat.mod_eq_of_lt hdiv, trivial⟩
  · simp only [signed, if_true]
    refine ⟨Nat.mod_eq_of_lt (by omega), decide_eq_true (by omega), ?_, by rw [hs, Nat.mul_add_mod_self_right]⟩
    rw [hs, Nat.add_comm, Nat.add_mul_div_right _ _ (by positivity), Nat.add_mod_right, Nat.mod_eq_of_lt hdiv]

/-- An encoding up to the largest finite one is none of an infinity or a NaN. -/
theorem le_maxBits_iff (hf : f.HasFields) {y : Nat} (hy : y < f.signBit) :
    y ≤ f.maxBits ↔ ¬(y / 2 ^ f.fb = 2 ^ f.eb - 1 ∧ (f.hasInf = true ∨ y % 2 ^ f.fb = 2 ^ f.fb - 1)) := by
  have hs := signBit_eq hf
  have hsw : 2 ^ (f.w - 1) = f.signBit := rfl
  obtain ⟨-, heb, hfb⟩ := hf
  have hE : 2 ≤ 2 ^ f.eb := Nat.le_self_pow (by omega) 2
  have hF : 2 ≤ 2 ^ f.fb := Nat.le_self_pow (by omega) 2
  have hdiv : y / 2 ^ f.fb < 2 ^ f.eb := Nat.div_lt_of_lt_mul (by rwa [Nat.mul_comm, ← hs])
  have hmod := Nat.mod_lt y (show 0 < 2 ^ f.fb by positivity)
  have hval := Nat.div_add_mod' y (2 ^ f.fb)
  rw [maxBits, hsw, hs]
  rw [hs] at hy
  generalize 2 ^ f.eb = E, 2 ^ f.fb = F, y / 2 ^ f.fb = ex, y % 2 ^ f.fb = fr at *
  obtain ⟨T, rfl⟩ : ∃ T, E = T + 1 := ⟨E - 1, by omega⟩
  have hT : F ≤ T * F := Nat.le_mul_of_pos_left F (by omega)
  have htop : ex = T ∧ ex * F = T * F ∨ ex ≠ T ∧ ex * F + F ≤ T * F := by
    rcases Nat.lt_or_ge ex T with h | h
    · exact .inr ⟨h.ne, by rw [← Nat.succ_mul]; exact Nat.mul_le_mul_right F h⟩
    · obtain rfl : ex = T := by omega
      exact .inl ⟨rfl, rfl⟩
  rw [Nat.add_sub_cancel, Nat.succ_mul]
  cases f.hasInf
  · simp only [Bool.false_eq_true, if_false, false_or]
    omega
  · simp only [if_true, true_or, and_true]
    omega

theorem maxBits_lt (hf : f.HasFields) : f.maxBits < f.signBit := by
  have hs := signBit_eq hf
  have hsw : 2 ^ (f.w - 1) = f.signBit := rfl
  have hp : 0 < f.signBit := Nat.two_pow_pos _
  have hle : (2 ^ f.eb - 1) * 2 ^ f.fb ≤ f.signBit := by rw [hs]; exact Nat.mul_le_mul_right _ (Nat.sub_le _ _)
  rw [maxBits, hsw]
  split <;> omega

@[simp] theorem mant_zero : f.mant 0 = 0 := mant_eq_zero.mpr rfl

theorem decode_signed_of_le (hf : f.HasFields) (neg : Bool) {y : Nat} (hy : y ≤ f.maxBits) :
    f.decode (f.signed neg y) = if y = 0 then .zero neg else .fin ((if neg then -1 else 1) * f.mant y) (f.expo y) := by
  have hlt := hy.trans_lt (maxBits_lt hf)
  obtain ⟨hmod, hneg, hex, hfr⟩ := field_signed hf neg hlt
  have hfin := (le_maxBits_iff hf hlt).mp hy
  have hz := mant_eq_zero (f := f) (x := y)
  unfold decode
  simp only [hmod, hneg, hex, hfr]
  unfold mant expo at *
  split
  case isTrue h0 =>
    rw [if_pos h0] at hz
    simp only [hz]
  case isFalse h0 =>
    have hy0 : y ≠ 0 := fun h => h0 (by rw [h, Nat.zero_div])
    rw [if_neg (by simpa using fun h hi => hfin ⟨h, .inl hi⟩), if_neg (by simpa using fun h hi => hfin ⟨h, .inr hi⟩), if_neg hy0]

theorem decode_signed_of_gt (hf : f.HasFields) (neg : Bool) {y : Nat} (hy : f.maxBits < y) (hlt : y < f.signBit) :
    (f.decode (f.signed neg y)).isFinite = false := by
  obtain ⟨hmod, hneg, hex, hfr⟩ := field_signed hf neg hlt
  obtain ⟨htop, hinf⟩ := not_not.mp (mt (le_maxBits_iff hf hlt).mpr (not_le.mpr hy))
  obtain ⟨-, heb, -⟩ := hf
  have hE : 2 ≤ 2 ^ f.eb := Nat.le_self_pow (by omega) 2
  have h0 : ¬2 ^ f.eb - 1 = 0 := by omega
  unfold decode
  simp only [hmod, hneg, hex, hfr, htop, if_neg h0]
  cases hi : f.hasInf
  · have hfrac : y % 2 ^ f.fb = 2 ^ f.fb - 1 := hinf.resolve_left (by simp [hi])
    simp [hfrac, Val.isFinite]
  · simp only [decide_true, Bool.and_true, if_true]
    split <;> rfl
/-! ## Rounding to a format (R44) -/

/-- The exponent of the quantum that R44 rounds a × 2^e to. -/
def quantum (f : FpFmt) (a : Nat) (e : Int) : Int :=
  (if (Nat.log2 a : Int) + e < 1 - (f.bias : Int) then 1 - (f.bias : Int) else (Nat.log2 a : Int) + e) - f.fb

/-- The encoding, without a sign, of n × 2^q; n is 2^(fb + 1) when rounding has carried. -/
def pack (f : FpFmt) (n : Nat) (q : Int) : Nat :=
  let n' := if n = 2 ^ (f.fb + 1) then 2 ^ f.fb else n
  let q' : Int := if n = 2 ^ (f.fb + 1) then q + 1 else q
  (if n' < 2 ^ f.fb then 0 else (q' + f.fb + f.bias).toNat) * 2 ^ f.fb + (if n' < 2 ^ f.fb then n' else n' - 2 ^ f.fb)

/-- The chosen multiple of the quantum, and whether it is inexact. -/
def chosen (f : FpFmt) (c : RCfg) (m e : Int) : Nat × Bool :=
  quantise c.rnd c.rbits (decide (m < 0)) m.natAbs e (f.quantum m.natAbs e)

/-- Its encoding, without a sign. -/
def chosenBits (f : FpFmt) (c : RCfg) (m e : Int) : Nat := f.pack (f.chosen c m e).1 (f.quantum m.natAbs e)

theorem round_eq {c : RCfg} (hc : c.ftz = false) (m e : Int) :
    f.round c m e = if f.maxBits < f.chosenBits c m e then (f.overflow c (decide (m < 0)), Flags.ovf ||| Flags.nx)
      else (f.signed (decide (m < 0)) (f.chosenBits c m e), if (f.chosen c m e).2 then
        (if decide ((Nat.log2 m.natAbs : Int) + e < 1 - (f.bias : Int)) then Flags.unf ||| Flags.nx else Flags.nx) else 0) := by
  simp only [round, hc, Bool.and_false, Bool.false_eq_true, if_false]
  rfl

/-- n × 2^q has at most one bit more than the format's precision, and all of them unless q is the least quantum. -/
def Aligned (f : FpFmt) (n : Nat) (q : Int) : Prop := n ≤ 2 ^ (f.fb + 1) ∧ (q = 1 - (f.bias : Int) - f.fb ∨ 1 - (f.bias : Int) - f.fb < q ∧ 2 ^ f.fb ≤ n)

theorem pack_value {n : Nat} {q : Int} (h : f.Aligned n q) : ratOf (f.mant (f.pack n q)) (f.expo (f.pack n q)) = ratOf n q := by
  obtain ⟨hn, hq⟩ := h
  have hF : 0 < 2 ^ f.fb := by positivity
  have h2F : 2 ^ (f.fb + 1) = 2 * 2 ^ f.fb := by rw [pow_succ, Nat.mul_comm]
  have hval : (f.mant (f.pack n q) = 2 ^ f.fb ∧ f.expo (f.pack n q) = q + 1 ∧ n = 2 ^ f.fb * 2) ∨ (f.mant (f.pack n q) = n ∧ f.expo (f.pack n q) = q) := by
    by_cases hc : n = 2 ^ (f.fb + 1)
    · left
      simp only [pack, if_pos hc, lt_irrefl, if_false, Nat.sub_self, mant, expo, div_of_fields hF, mod_of_fields hF]
      rw [if_neg (by omega), if_neg (by omega)]
      omega
    · right
      by_cases hs : n < 2 ^ f.fb
      · simp only [pack, if_neg hc, if_pos hs, mant, expo, div_of_fields hs, mod_of_fields hs]
        rw [if_pos trivial, if_pos trivial]
        omega
      · have hfr : n - 2 ^ f.fb < 2 ^ f.fb := by omega
        simp only [pack, if_neg hc, if_neg hs, mant, expo, div_of_fields hfr, mod_of_fields hfr]
        rw [if_neg (by omega), if_neg (by omega)]
        omega
  obtain ⟨hm, he, h2⟩ | ⟨hm, he⟩ := hval
  · have hcarry := ratOf_mul_two_pow (2 ^ f.fb) 1 q
    rw [hm, he, h2]
    push_cast
    simpa using hcarry.symm
  · rw [hm, he]

theorem pack_mant_expo (y : Nat) : f.pack (f.mant y) (f.expo y) = y := by
  have hval := Nat.div_add_mod' y (2 ^ f.fb)
  have hmod := Nat.mod_lt y (show 0 < 2 ^ f.fb by positivity)
  have hc : f.mant y ≠ 2 ^ (f.fb + 1) := (mant_lt y).ne
  simp only [pack, if_neg hc]
  unfold mant expo
  split
  case isTrue h0 => simpa [h0, hmod] using hval
  case isFalse h0 =>
    have hex : (((y / 2 ^ f.fb : Nat) : Int) - f.bias - f.fb + f.fb + f.bias).toNat = y / 2 ^ f.fb := by
      rw [Int.sub_add_cancel, Int.sub_add_cancel, Int.toNat_natCast]
    rw [if_neg (by omega), if_neg (by omega), hex, Nat.add_sub_cancel_left, hval]

/-- The magnitude that an encoding stands for has that encoding's exponent as its quantum. -/
theorem quantum_mant_expo {y : Nat} (hy : y ≠ 0) : f.quantum (f.mant y) (f.expo y) = f.expo y := by
  have hmod := Nat.mod_lt y (show 0 < 2 ^ f.fb by positivity)
  have h0 : f.mant y ≠ 0 := mt mant_eq_zero.mp hy
  have hlog : Nat.log2 (f.mant y) < f.fb + 1 := (Nat.log2_lt h0).mpr (mant_lt y)
  unfold quantum
  by_cases hex : y / 2 ^ f.fb = 0
  · have hsub : Nat.log2 (f.mant y) < f.fb := (Nat.log2_lt h0).mpr (by rwa [mant, if_pos hex])
    have hexpo : f.expo y = 1 - (f.bias : Int) - f.fb := if_pos hex
    rw [if_pos (by omega), hexpo]
  · have hnorm : f.fb ≤ Nat.log2 (f.mant y) := (Nat.le_log2 h0).mpr (by rw [mant, if_neg hex]; omega)
    have hexpo : f.expo y = ((y / 2 ^ f.fb : Nat) : Int) - f.bias - f.fb := if_neg hex
    rw [hexpo]
    generalize y / 2 ^ f.fb = ex at *
    rw [if_neg (by omega)]
    omega

theorem chosen_aligned (f : FpFmt) (c : RCfg) {m : Int} (hm : m ≠ 0) (e : Int) : f.Aligned (f.chosen c m e).1 (f.quantum m.natAbs e) := by
  have ha : m.natAbs ≠ 0 := Int.natAbs_ne_zero.mpr hm
  have hlo := ratOf_log2_le ha e
  have hhi := ratOf_le_log2_succ m.natAbs e
  have hq : f.quantum m.natAbs e = (if (Nat.log2 m.natAbs : Int) + e < 1 - (f.bias : Int) then 1 - (f.bias : Int) else Nat.log2 m.natAbs + e) - f.fb := rfl
  have hle : (Nat.log2 m.natAbs : Int) + e + 1 ≤ f.quantum m.natAbs e + (f.fb + 1 : Nat) := by split at hq <;> omega
  have hupper : ((f.chosen c m e).1 : Int) ≤ (2 : Int) ^ (f.fb + 1) :=
    quantise_le (by rw [← one_mul ((2 : Int) ^ _), ratOf_mul_two_pow]; exact hhi.trans (ratOf_one_mono hle))
  have hlower (h : f.quantum m.natAbs e + f.fb = Nat.log2 m.natAbs + e) : (2 : Int) ^ f.fb ≤ (f.chosen c m e).1 :=
    le_quantise (by rwa [← one_mul ((2 : Int) ^ _), ratOf_mul_two_pow, h])
  refine ⟨by exact_mod_cast hupper, ?_⟩
  split at hq
  · exact .inl hq
  · by_cases hmin : (Nat.log2 m.natAbs : Int) + e = 1 - (f.bias : Int)
    · exact .inl (by rw [hq, hmin])
    · exact .inr ⟨by omega, by exact_mod_cast hlower (by omega)⟩

/-- R41: rounding a value that the format holds chooses it, exactly. -/
theorem round_held {c : RCfg} (hc : c.ftz = false) (neg : Bool) {y : Nat} (hy0 : y ≠ 0) (hy : y ≤ f.maxBits) :
    f.round c ((if neg then -1 else 1) * f.mant y) (f.expo y) = (f.signed neg y, 0) := by
  have h0 : f.mant y ≠ 0 := mt mant_eq_zero.mp hy0
  have habs : ((if neg then -1 else 1) * (f.mant y : Int)).natAbs = f.mant y := by cases neg <;> simp
  have hneg : decide ((if neg then -1 else 1) * (f.mant y : Int) < 0) = neg := by
    cases neg
    · simp
    · simp [Nat.pos_of_ne_zero h0]
  have hchosen : f.chosen c ((if neg then -1 else 1) * f.mant y) (f.expo y) = (f.mant y, false) := by
    rw [chosen, habs, quantum_mant_expo hy0, quantise_self]
  have hbits : f.chosenBits c ((if neg then -1 else 1) * f.mant y) (f.expo y) = y := by
    rw [chosenBits, hchosen, habs, quantum_mant_expo hy0, pack_mant_expo]
  rw [round_eq hc, hbits, if_neg (not_lt.mpr hy), hneg, hchosen]
  rfl

/-- A rounding that does not overflow answers the encoding of the multiple it chose, with NX when it is inexact. -/
theorem round_of_not_ovf {c : RCfg} (hc : c.ftz = false) {m e : Int} (h : (f.round c m e).2 &&& Flags.ovf = 0) :
    f.chosenBits c m e ≤ f.maxBits ∧ (f.round c m e).1 = f.signed (decide (m < 0)) (f.chosenBits c m e) ∧
      ((f.round c m e).2 &&& Flags.nx = 0 ↔ (f.chosen c m e).2 = false) := by
  rw [round_eq hc] at h ⊢
  split at h
  case isTrue => exact absurd h (by change ¬(Flags.ovf ||| Flags.nx) &&& Flags.ovf = 0; decide)
  case isFalse hle =>
    rw [if_neg hle]
    refine ⟨not_lt.mp hle, rfl, ?_⟩
    cases (f.chosen c m e).2
    · exact ⟨fun _ => rfl, fun _ => BitVec.zero_and⟩
    · simp only [if_true]
      split <;> decide

theorem exists_signed (hf : f.HasFields) {x : Nat} (hx : x < 2 ^ f.w) : ∃ neg y, y < f.signBit ∧ x = f.signed neg y := by
  obtain ⟨hw, -⟩ := hf
  have h2w : 2 ^ f.w = 2 * f.signBit := by rw [signBit, hw, Nat.add_sub_cancel, pow_succ, Nat.mul_comm]
  by_cases h : x < f.signBit
  · exact ⟨false, x, h, rfl⟩
  · exact ⟨true, x - f.signBit, by omega, by simp [signed]; omega⟩

/-- The magnitude and sign of an encoding that decodes to a finite nonzero value. -/
theorem eq_signed_of_decode (hf : f.HasFields) {x : Nat} (hx : x < 2 ^ f.w) {m e : Int} (h : f.decode x = .fin m e) :
    ∃ neg y, y ≠ 0 ∧ y ≤ f.maxBits ∧ x = f.signed neg y ∧ m = (if neg then -1 else 1) * f.mant y ∧ e = f.expo y := by
  obtain ⟨neg, y, hlt, rfl⟩ := exists_signed hf hx
  have hy : y ≤ f.maxBits := by
    by_contra hgt
    have hnot := decode_signed_of_gt hf neg (not_le.mp hgt) hlt
    rw [h] at hnot
    cases hnot
  rw [decode_signed_of_le hf neg hy] at h
  split at h
  · cases h
  case isFalse h0 => cases h; exact ⟨neg, y, h0, hy, rfl, rfl, rfl⟩

theorem decode_signed_isFinite (hf : f.HasFields) (neg : Bool) {y : Nat} (hy : y ≤ f.maxBits) : (f.decode (f.signed neg y)).isFinite = true := by
  rw [decode_signed_of_le hf neg hy]
  split <;> rfl

theorem decode_signed_toRat (hf : f.HasFields) (neg : Bool) {y : Nat} (hy : y ≤ f.maxBits) :
    (f.decode (f.signed neg y)).toRat = (if neg then -1 else 1) * ratOf (f.mant y) (f.expo y) := by
  rw [decode_signed_of_le hf neg hy]
  split
  case isTrue h0 => simp [h0, Val.toRat]
  case isFalse => cases neg <;> simp [Val.toRat, ratOf]

end FpFmt

theorem ratOf_sign (m e : Int) : ratOf m e = (if m < 0 then -1 else 1) * ratOf m.natAbs e := by
  split
  case isTrue h => rw [show m = -(m.natAbs : Int) by omega]; simp [ratOf]
  case isFalse h => rw [show (m.natAbs : Int) = m by omega, one_mul]

/-- R44: without an overflow the result stands for the chosen multiple of the quantum, with the sign of the exact value. -/
theorem FpFmt.round_toRat {f : FpFmt} (hf : f.HasFields) {c : RCfg} (hc : c.ftz = false) {m e : Int} (hm : m ≠ 0)
    (h : (f.round c m e).2 &&& Flags.ovf = 0) :
    (f.decode (f.round c m e).1).isFinite = true ∧
      (f.decode (f.round c m e).1).toRat = (if m < 0 then -1 else 1) * ratOf (f.chosen c m e).1 (f.quantum m.natAbs e) := by
  obtain ⟨hle, hbits, -⟩ := round_of_not_ovf hc h
  rw [hbits]
  refine ⟨decode_signed_isFinite hf _ hle, ?_⟩
  rw [decode_signed_toRat hf _ hle, chosenBits, pack_value (chosen_aligned f c hm e)]
  simp only [decide_eq_true_eq]

/-- R44: the directed modes round up always or never, by the sign alone. -/
theorem roundUp_rtz (rbits : Nat) (neg : Bool) (n r sh : Nat) : roundUp 2 rbits neg n r sh = false := rfl
theorem roundUp_rup (rbits : Nat) (neg : Bool) (n r sh : Nat) : roundUp 3 rbits neg n r sh = !neg := rfl
theorem roundUp_rdn (rbits : Nat) (neg : Bool) (n r sh : Nat) : roundUp 4 rbits neg n r sh = neg := rfl

/-- Settles O6: a value that the format holds is a multiple of its own quantum; otherwise rounding answers one of the two
multiples beside the exact value, and R44 says which one in the directed modes. -/
theorem roundingChoosesItsValue : Obligations.RoundingChoosesItsValue := by
  unfold Obligations.RoundingChoosesItsValue
  refine ⟨fun fm hfm x hx m e hdec cfg hftz => ?_, fun fm hfm cfg m e hm hftz _ _ hovf => ?_⟩
  · obtain ⟨neg, y, hy0, hy, rfl, rfl, rfl⟩ := FpFmt.eq_signed_of_decode (FpFmt.hasFields_of_mem hfm) hx hdec
    exact FpFmt.round_held hftz neg hy0 hy
  · obtain ⟨hfin, hval⟩ := FpFmt.round_toRat (FpFmt.hasFields_of_mem hfm) hftz hm hovf
    obtain ⟨-, -, hnx⟩ := FpFmt.round_of_not_ovf hftz hovf
    have hexact := ratOf_sign m e
    dsimp only
    rw [hnx, Val.cmp_nonneg hfin hm, Val.cmp_nonpos hfin hm, Val.cmp_eq_zero hfin hm, hval, hexact, FpFmt.chosen, ← quantise_eq_iff]
    by_cases hs : m < 0
    · simp only [hs, if_true, neg_mul, one_mul, neg_le_neg_iff, neg_inj, decide_true, and_true]
      exact ⟨fun h => quantise_le_of_down fun n r sh => by rw [h, roundUp_rtz],
        fun h => quantise_le_of_down fun n r sh => by rw [h, roundUp_rup, Bool.not_true],
        fun h => le_quantise_of_up fun n r sh => by rw [h, roundUp_rdn]⟩
    · simp only [hs, if_false, one_mul, decide_false, and_true]
      exact ⟨fun h => quantise_le_of_down fun n r sh => by rw [h, roundUp_rtz],
        fun h => le_quantise_of_up fun n r sh => by rw [h, roundUp_rup, Bool.not_false],
        fun h => quantise_le_of_down fun n r sh => by rw [h, roundUp_rdn]⟩

end Sys2Proof.Machine
end

section
/-! PROOFS of the statements on encodings (spec/04_encoding_and_opcode_map.md): the decoder and the encoder, what a step fetches and issues,
and the causes of orders 1 to 10 of R94. -/
namespace Sys2Proof.Machine

/-! ## Fields of words (R78, R82, R84) -/

theorem getLsbD_append_of_le {v w i : Nat} {x : BitVec v} {y : BitVec w} (h : w ≤ i) : (x ++ y).getLsbD i = x.getLsbD (i - w) := by
  rw [BitVec.getLsbD_append, if_neg (by omega)]

theorem getLsbD_append_ofBool {v : Nat} {x : BitVec v} {b : Bool} : (x ++ BitVec.ofBool b).getLsbD 0 = b := by
  rw [BitVec.getLsbD_append, if_pos Nat.one_pos, BitVec.getLsbD_ofBool]; simp

theorem extract_append_pair {v : Nat} {x : BitVec v} {b c : BitVec 1} : ((x ++ b) ++ c).extractLsb' 0 2 = b ++ c := by
  refine BitVec.eq_of_getLsbD_eq fun i hi => ?_
  rw [BitVec.getLsbD_extractLsb', BitVec.getLsbD_append, BitVec.getLsbD_append, BitVec.getLsbD_append]
  have : i = 0 ∨ i = 1 := by omega
  rcases this with rfl | rfl <;> simp

theorem longFields_longWords (opc : Nat) (f : Long) (lit : Option (BitVec 64)) :
    longFields (longWord0 opc f) (longWord1 f) f.imm lit = { f with lit := lit } := by
  simp only [longFields, longWord0, longWord1, Long.mk.injEq, and_true]
  refine ⟨?pg, ?pn, ?nwb, ?d, ?a, ?b, ?c, ?fmt, ?rnd, ?sat, ?sub⟩
  case pn | nwb | sat =>
    repeat rw [getLsbD_append_of_le (by omega)]
    exact getLsbD_append_ofBool
  case sub =>
    repeat rw [BitVec.extractLsb'_append_eq_of_le (by omega)]
    exact BitVec.extractLsb'_eq_self
  all_goals
    repeat rw [BitVec.extractLsb'_append_eq_of_le (by omega)]
    exact BitVec.extractLsb'_append_eq_right

theorem opcOf_longWord0 {opc : Nat} (h : opc < 128) (f : Long) : opcOf (longWord0 opc f) = opc := by
  rw [opcOf, longWord0]
  repeat rw [BitVec.extractLsb'_append_eq_of_le (by omega)]
  rw [BitVec.extractLsb'_append_eq_right, BitVec.toNat_ofNat, Nat.mod_eq_of_lt h]

@[simp] theorem isLongForm_longWord0 (opc : Nat) (f : Long) : isLongForm (longWord0 opc f) = true := by
  rw [isLongForm, longWord0, BitVec.getLsbD_append, if_pos Nat.one_pos]; rfl

@[simp] theorem highBits_longWord0 (opc : Nat) (f : Long) : highBits (longWord0 opc f) = false := by
  have hzero : (longWord0 opc f).extractLsb' 30 2 = 0#2 := by
    rw [longWord0]
    repeat rw [BitVec.extractLsb'_append_eq_of_le (by omega)]
    exact BitVec.extractLsb'_eq_self
  simp [highBits, hzero]

theorem lenWords_longWord0 (opc : Nat) (f : Long) : lenWords (longWord0 opc f) = if f.lit.isSome then 5 else 3 := by
  rw [lenWords, longWord0, extract_append_pair]
  cases f.lit.isSome <;> rfl

theorem opcOf_shortWord0 {opc : Nat} (h : opc < 128) (f : Short) : opcOf (shortWord0 opc f) = opc := by
  rw [opcOf, shortWord0]
  repeat rw [BitVec.extractLsb'_append_eq_of_le (by omega)]
  rw [BitVec.extractLsb'_append_eq_right, BitVec.toNat_ofNat, Nat.mod_eq_of_lt h]

@[simp] theorem isLongForm_shortWord0 (opc : Nat) (f : Short) : isLongForm (shortWord0 opc f) = false := by
  rw [isLongForm, shortWord0, BitVec.getLsbD_append, if_pos Nat.one_pos]; rfl

@[simp] theorem highBits_shortWord0 (opc : Nat) (f : Short) : highBits (shortWord0 opc f) = false := by simp [highBits]

theorem lenWords_shortWord0 (opc : Nat) (f : Short) : lenWords (shortWord0 opc f) = if f.lit.isSome then 3 else 1 := by
  rw [lenWords, shortWord0, extract_append_pair]
  cases f.lit.isSome <;> rfl

/-- R82: no operand that has a short code loses it. -/
theorem shortCode_toShortCode : ∀ c, hasShortCode c = true → shortCode (toShortCode c) = c := by decide

theorem shortFields_shortWord0 (opc : Nat) {f : Short} (hd : hasShortCode f.d = true) (ha : hasShortCode f.a = true) (hb : hasShortCode f.b = true)
    (lit : Option (BitVec 64)) : shortFields (shortWord0 opc f) lit = { f with lit := lit } := by
  have hcodes : (shortWord0 opc f).extractLsb' 11 7 = toShortCode f.d ∧ (shortWord0 opc f).extractLsb' 18 7 = toShortCode f.a ∧
      (shortWord0 opc f).extractLsb' 25 7 = toShortCode f.b := by
    rw [shortWord0]
    refine ⟨?d, ?a, ?b⟩
    case b =>
      repeat rw [BitVec.extractLsb'_append_eq_of_le (by omega)]
      exact BitVec.extractLsb'_eq_self
    all_goals
      repeat rw [BitVec.extractLsb'_append_eq_of_le (by omega)]
      exact BitVec.extractLsb'_append_eq_right
  have hbits : (shortWord0 opc f).getLsbD 10 = f.g ∧ (shortWord0 opc f).getLsbD 9 = f.nwb := by
    rw [shortWord0]
    constructor <;>
    · repeat rw [getLsbD_append_of_le (by omega)]
      exact getLsbD_append_ofBool
  obtain ⟨hd', ha', hb'⟩ := hcodes
  obtain ⟨hg, hnwb⟩ := hbits
  simp only [shortFields, hg, hnwb, hd', ha', hb', shortCode_toShortCode _ hd, shortCode_toShortCode _ ha, shortCode_toShortCode _ hb]

theorem literal_extract (l : BitVec 64) : literal (l.extractLsb' 0 32) (l.extractLsb' 32 32) = l := BitVec.extractLsb'_append_extractLsb'

/-! ## The opcode map (R88 to R90) -/

theorem longShort_shortLong (f : Short) : longShort (shortLong f) = f := by
  obtain ⟨g, nwb, d, a, b, lit⟩ := f
  cases g <;> rfl

theorem ofShort_longShort {i : Instr} {opc : Nat} (h : Instr.opc i = some (opc, true)) : ofShort opc (longShort (Instr.long i)) = some i := by
  cases i <;> cases h
  all_goals
    simp only [Instr.long, longShort_shortLong]
    rfl

section
variable {f : Long} {b : Bool}

theorem shMov_sub (h : (shMov f).ill = false) : subN f = 0 := not_not.mp (of_decide_eq_false (Bool.or_eq_false_iff.mp h).1)
theorem shMovTo_sub (h : (shMovTo f).ill = false) : subN f / 8 = 2 := not_not.mp (of_decide_eq_false (Bool.or_eq_false_iff.mp h).2)
theorem shMovFrom_sub (h : (shMovFrom f).ill = false) : subN f / 8 = 3 := not_not.mp (of_decide_eq_false (Bool.or_eq_false_iff.mp h).2)
theorem shXcvtTo_sub (h : (shXcvtTo f).ill = false) : f.sub.getLsbD 0 = false := by
  simp only [shXcvtTo, regSh, Bool.or_eq_false_iff] at h
  obtain ⟨⟨⟨hsub, -⟩, -⟩, -⟩ := h
  exact hsub
theorem shXcvtFrom_sub (h : (shXcvtFrom f).ill = false) : f.sub.getLsbD 0 = true := by
  simp only [shXcvtFrom, regSh, Bool.or_eq_false_iff, Bool.not_eq_eq_eq_not, Bool.not_false] at h
  obtain ⟨⟨⟨⟨⟨hsub, -⟩, -⟩, -⟩, -⟩, -⟩ := h
  exact hsub
theorem shPmovSave_sub (h : (shPmovSave f).ill = false) : subN f = 0 := not_not.mp (of_decide_eq_false h)
theorem shPmovLoad_sub (h : (shPmovLoad f).ill = false) : subN f = 1 := not_not.mp (of_decide_eq_false h)
theorem shLdbr_sub (h : (shLdbr f).ill = false) : f.sub.getLsbD 4 = false := h
theorem shLdbrM_sub (h : (shLdbrM f).ill = false) : f.sub.getLsbD 4 = true := Bool.not_eq_eq_eq_not.mp (Bool.or_eq_false_iff.mp h).1
theorem shCpy_sub (h : (shCpy b f).ill = false) : f.sub.getLsbD 0 = b := bne_eq_false_iff_eq.mp h
theorem shCpyt_sub (h : (shCpyt b f).ill = false) : f.sub.getLsbD 0 = b := bne_eq_false_iff_eq.mp h
theorem shCntr_sub (h : (shCntr b f).ill = false) : f.sub.getLsbD 0 = b := bne_eq_false_iff_eq.mp h
theorem shBar_sub (h : (shBar b f).ill = false) : f.sub.getLsbD 0 = b := by
  simp only [shBar, endSh, Bool.or_eq_false_iff, bne_eq_false_iff_eq] at h
  obtain ⟨⟨⟨hsub, -⟩, -⟩, -⟩ := h
  exact hsub
theorem shLoop_sub (h : (shLoop f).ill = false) : f.sub.getLsbD 5 = false := (Bool.or_eq_false_iff.mp h).1
theorem shLoopR_sub (h : (shLoopR f).ill = false) : f.sub.getLsbD 5 = true := Bool.not_eq_eq_eq_not.mp h
end

/-- R89: the form that SUB tells apart is the one that its own fields ask for: another value of those bits is undefined (R87). -/
theorem ofLong_long {i : Instr} {opc : Nat} (h : Instr.opc i = some (opc, false)) (hill : (Instr.shape i).ill = false) :
    ofLong opc (Instr.long i) = some i := by
  cases i <;> cases h
  case mov f =>
    have hsub := shMov_sub hill
    exact congrArg some ((if_neg (show ¬subN f / 8 = 2 by omega)).trans (if_neg (show ¬subN f / 8 = 3 by omega)))
  case movToIndex f => exact congrArg some (if_pos (shMovTo_sub hill))
  case movFromIndex f =>
    have hsub := shMovFrom_sub hill
    exact congrArg some ((if_neg (show ¬subN f / 8 = 2 by omega)).trans (if_pos hsub))
  case xcvtTo f => exact congrArg some (if_neg (ne_true_of_eq_false (shXcvtTo_sub hill)))
  case xcvtFrom f => exact congrArg some (if_pos (shXcvtFrom_sub hill))
  case pmovSave f =>
    have hsub := shPmovSave_sub hill
    exact congrArg some (if_neg (show ¬subN f = 1 by omega))
  case pmovLoad f => exact congrArg some (if_pos (shPmovLoad_sub hill))
  case ldbr f => exact congrArg some (if_neg (ne_true_of_eq_false (shLdbr_sub hill)))
  case ldbrM f => exact congrArg some (if_pos (shLdbrM_sub hill))
  case cpyIn f => exact congrArg some (if_neg (ne_true_of_eq_false (shCpy_sub hill)))
  case cpyOut f => exact congrArg some (if_pos (shCpy_sub hill))
  case cpyt f => exact congrArg some (if_neg (ne_true_of_eq_false (shCpyt_sub hill)))
  case cpytS f => exact congrArg some (if_pos (shCpyt_sub hill))
  case barWait f => exact congrArg some (if_neg (ne_true_of_eq_false (shBar_sub hill)))
  case barNote f => exact congrArg some (if_pos (shBar_sub hill))
  case cntrRd f => exact congrArg some (if_neg (ne_true_of_eq_false (shCntr_sub hill)))
  case cntrCancel f => exact congrArg some (if_pos (shCntr_sub hill))
  case loop f => exact congrArg some (if_neg (ne_true_of_eq_false (shLoop_sub hill)))
  case loopR f => exact congrArg some (if_pos (shLoopR_sub hill))
  all_goals rfl

theorem ofLong_isSome {n : Nat} (h : n < 128) (f : Long) : (ofLong n f).isSome = decide (n ∈ longOpcs) := by
  interval_cases n <;> rfl

theorem ofShort_isSome {n : Nat} (h : n < 128) (f : Short) : (ofShort n f).isSome = decide (n ∈ shortOpcs) := by
  interval_cases n <;> rfl

theorem opc_lt {i : Instr} {opc : Nat} {short : Bool} (h : Instr.opc i = some (opc, short)) : opc < 128 := by
  cases i <;> cases h <;> decide

/-! ## Decoding what was encoded -/

/-- R94 orders 4 and 5 leave nothing to refuse in words that decode. -/
theorem ill_of_decodeCause {hi : Bool} {i : Instr} (h : decodeCause hi i = none) : (Instr.shape i).ill = false := by
  unfold decodeCause at h
  extract_lets sh at h
  split at h
  · cases h
  · split at h
    · cases h
    · next hill => exact eq_false_of_ne_true hill

theorem decode_of_parse {w0 : Word} {rest : List Word} {i : Instr} (ha : opcAssigned w0 = true) (hp : parse w0 rest = some i)
    (hc : decodeCause (highBits w0) i = none) : decode (w0 :: rest) = .ok i := by
  simp [decode, ha, hp, hc]

theorem opcAssigned_iff (w0 : Word) :
    opcAssigned w0 = if isLongForm w0 then decide (opcOf w0 ∈ longOpcs) else decide (opcOf w0 ∈ shortOpcs) := by
  have hlt : opcOf w0 < 128 := (w0.extractLsb' 2 7).isLt
  rw [opcAssigned, ofLong_isSome hlt, ofShort_isSome hlt]

/-- R78, R84: the words of a long form spell its fields, whatever follows them. -/
theorem parse_longWords {opc : Nat} (h : opc < 128) (f : Long) (rest : List Word) :
    parse (longWord0 opc f) (longWord1 f :: f.imm :: (litWords f.lit ++ rest)) = ofLong opc f := by
  unfold parse
  rw [lenWords_longWord0, opcOf_longWord0 h, isLongForm_longWord0]
  cases hlit : f.lit with
  | none =>
    have hf : { f with lit := none } = f := by rw [← hlit]
    simp [litWords, longFields_longWords, hf]
  | some l =>
    have hf : { f with lit := some l } = f := by rw [← hlit]
    simp [litWords, longFields_longWords, literal_extract, hf]

/-- R78, R82: the words of a short form spell its fields, whatever follows them. -/
theorem parse_shortWords {opc : Nat} (h : opc < 128) {f : Short} (hd : hasShortCode f.d = true) (ha : hasShortCode f.a = true)
    (hb : hasShortCode f.b = true) (rest : List Word) : parse (shortWord0 opc f) (litWords f.lit ++ rest) = ofShort opc f := by
  unfold parse
  rw [lenWords_shortWord0, opcOf_shortWord0 h, isLongForm_shortWord0]
  cases hlit : f.lit with
  | none =>
    have hf : { f with lit := none } = f := by rw [← hlit]
    simp [litWords, shortFields_shortWord0 opc hd ha hb, hf]
  | some l =>
    have hf : { f with lit := some l } = f := by rw [← hlit]
    simp [litWords, shortFields_shortWord0 opc hd ha hb, literal_extract, hf]

theorem opcAssigned_longWord0 {opc : Nat} (h : opc < 128) (f : Long) : opcAssigned (longWord0 opc f) = (ofLong opc f).isSome := by
  rw [opcAssigned_iff, isLongForm_longWord0, if_pos rfl, opcOf_longWord0 h, ofLong_isSome h]

theorem opcAssigned_shortWord0 {opc : Nat} (h : opc < 128) (f : Short) : opcAssigned (shortWord0 opc f) = (ofShort opc f).isSome := by
  rw [opcAssigned_iff, isLongForm_shortWord0, if_neg Bool.false_ne_true, opcOf_shortWord0 h, ofShort_isSome h]

theorem decode_long {i : Instr} {opc : Nat} (h : Instr.opc i = some (opc, false)) (hc : decodeCause false i = none) (rest : List Word) :
    decode (encode i ++ rest) = .ok i := by
  have hill := ill_of_decodeCause hc
  have hassigned : opcAssigned (longWord0 opc (Instr.long i)) = true := by
    rw [opcAssigned_longWord0 (opc_lt h), ofLong_long h hill, Option.isSome_some]
  simp only [encode, h, List.cons_append]
  exact decode_of_parse hassigned ((parse_longWords (opc_lt h) _ rest).trans (ofLong_long h hill)) (by rwa [highBits_longWord0])

theorem decode_short {i : Instr} {opc : Nat} (h : Instr.opc i = some (opc, true)) (hc : decodeCause false i = none)
    (hd : hasShortCode (Instr.long i).d = true) (ha : hasShortCode (Instr.long i).a = true) (hb : hasShortCode (Instr.long i).b = true)
    (rest : List Word) : decode (encode i ++ rest) = .ok i := by
  have hassigned : opcAssigned (shortWord0 opc (longShort (Instr.long i))) = true := by
    rw [opcAssigned_shortWord0 (opc_lt h), ofShort_longShort h, Option.isSome_some]
  simp only [encode, h, List.cons_append]
  exact decode_of_parse hassigned ((parse_shortWords (f := longShort (Instr.long i)) (opc_lt h) hd ha hb rest).trans (ofShort_longShort h))
    (by rwa [highBits_shortWord0])

/-- Settles O15: each word gives back the fields it was made of, and the opcode with SUB gives back the form. -/
theorem decodeOfEncode : Obligations.DecodeOfEncode := by
  unfold Obligations.DecodeOfEncode
  intro i rest hopc hwf
  obtain ⟨⟨opc, short⟩, hi⟩ := Option.ne_none_iff_exists'.mp hopc
  simp only [Instr.wellFormed, hi, Bool.and_eq_true, Option.isNone_iff_eq_none] at hwf
  obtain ⟨hc, hshort⟩ := hwf
  cases short with
  | false => exact decode_long hi hc rest
  | true =>
    simp only [Bool.not_true, Bool.false_or, Bool.and_eq_true] at hshort
    obtain ⟨⟨hd, ha⟩, hb⟩ := hshort
    exact decode_short hi hc hd ha hb rest

theorem Reject.ofCause_ne_illegalOpc (c : BitVec 6) : Reject.ofCause c ≠ .illegalOpc := by
  unfold Reject.ofCause; split_ifs <;> exact Reject.noConfusion

/-- R90: no other rejection is the one of an opcode that is not assigned. -/
theorem decode_eq_illegalOpc_iff (w0 : Word) (rest : List Word) : decode (w0 :: rest) = .error .illegalOpc ↔ opcAssigned w0 = false := by
  unfold decode
  cases ha : opcAssigned w0 with
  | false => simp only [ha, Bool.not_false, if_true]
  | true =>
    simp only [ha, Bool.not_true, Bool.false_eq_true, if_false, iff_false, reduceCtorEq]
    split
    · exact fun h => Reject.noConfusion (Except.error.inj h)
    · split
      · exact fun h => Reject.ofCause_ne_illegalOpc _ (Except.error.inj h)
      · exact fun h => nomatch h

/-- Settles O16: the opcodes that either form has are those of its list. -/
theorem unassignedOpcodes : Obligations.UnassignedOpcodes := by
  unfold Obligations.UnassignedOpcodes
  intro w0 rest
  rw [decode_eq_illegalOpc_iff, opcAssigned_iff]
  split <;> simp

/-- Settles O14: the decoder reads each of the words. -/
theorem decodesWordsOfTheSpec : Obligations.DecodesWordsOfTheSpec := by
  unfold Obligations.DecodesWordsOfTheSpec
  exact ⟨rfl, rfl, rfl, rfl, rfl, rfl, rfl, rfl, rfl, rfl, rfl, rfl, rfl, rfl, rfl⟩

/-- Words that decode exist, spell the instruction and raise no cause. -/
theorem parts_of_decode {ws : List Word} {i : Instr} (h : decode ws = .ok i) :
    opcAssigned (ws.headD 0) = true ∧ parse (ws.headD 0) ws.tail = some i ∧ decodeCause (highBits (ws.headD 0)) i = none := by
  cases ws with
  | nil => cases h
  | cons w0 rest =>
    cases ha : opcAssigned w0 with
    | false => simp [decode, ha] at h
    | true =>
      simp only [decode, ha, Bool.not_true, Bool.false_eq_true, if_false] at h
      split at h
      · cases h
      · next j hp =>
        split at h
        · cases h
        · next hc =>
          cases h
          exact ⟨ha, hp, hc⟩

/-! ## What a fetch looks at (R80, R81, R366) -/

/-- A state differs from another in what the memory controllers count (R381, R385) and in the selector's record alone: a fetch finds the same
in both. -/
structure FetchAlike (s t : State) : Prop where
  same : ∃ parts rows picked, t = { s with parts := parts, rows := rows, picked := picked }
  ports : ∀ q, t.portMask q = s.portMask q

theorem State.portMask_congr {s t : State} (hvalid : ∀ n, (t.part n).valid = (s.part n).valid) (hreq : ∀ n, (t.part n).req = (s.part n).req)
    (hmem : ∀ n, (t.part n).mem = (s.part n).mem) (hfuncs : t.funcs = s.funcs) (q : Requester) : t.portMask q = s.portMask q := by
  cases q with
  | core k => simp only [State.portMask, hvalid, hreq, hmem]
  | agent fn =>
    have hpart : t.partOf fn = s.partOf fn := by simp only [State.partOf, State.func, hfuncs]
    rw [State.portMask, State.portMask, hpart, hvalid, hmem]

namespace FetchAlike
variable {s t u : State}

theorem refl (s : State) : FetchAlike s s := ⟨⟨_, _, _, rfl⟩, fun _ => rfl⟩

theorem trans (h : FetchAlike s t) (h' : FetchAlike t u) : FetchAlike s u := by
  obtain ⟨⟨_, _, _, rfl⟩, hports⟩ := h
  obtain ⟨⟨_, _, _, rfl⟩, hports'⟩ := h'
  exact ⟨⟨_, _, _, rfl⟩, fun q => (hports' q).trans (hports q)⟩

theorem picked (s : State) (l : List Cand) : FetchAlike s { s with picked := l } := ⟨⟨_, _, _, rfl⟩, fun _ => rfl⟩

theorem countRow (s : State) (pa : Nat) : FetchAlike s (s.countRow pa) := ⟨⟨_, _, _, rfl⟩, fun _ => rfl⟩

theorem countRefusal (s : State) (p : Nat) : FetchAlike s (s.countRefusal p) := by
  refine ⟨⟨_, _, _, rfl⟩, State.portMask_congr ?_ ?_ ?_ rfl⟩ <;>
  · intro n
    rw [State.countRefusal, State.part_modPart]
    split
    · next h => rw [h]
    · rfl

theorem noteFetch (s : State) (k fn va : Nat) : FetchAlike s (s.noteFetch k fn va) := by
  unfold State.noteFetch
  split
  · refine trans ?_ (countRow ..)
    unfold State.fnReadNote
    split
    · exact refl s
    · exact countRefusal ..
  · exact refl s

theorem noteLines (s : State) (k fn a n : Nat) : FetchAlike s (noteLines k fn a n s) := by
  induction n generalizing a s with
  | zero => exact refl s
  | succ n ih =>
    refine trans ?_ (ih ..)
    split
    · exact noteFetch ..
    · exact refl s

theorem noteInstr (s : State) (k fn a n : Nat) : FetchAlike s (noteInstr k fn a n s) := by
  refine trans ?_ (noteLines ..)
  split
  · exact refl s
  · exact noteFetch ..

section
variable (h : FetchAlike s t)
include h

theorem cores : t.cores = s.cores := by obtain ⟨_, _, _, rfl⟩ := h.same; rfl
theorem groups : t.groups = s.groups := by obtain ⟨_, _, _, rfl⟩ := h.same; rfl
theorem funcs : t.funcs = s.funcs := by obtain ⟨_, _, _, rfl⟩ := h.same; rfl
theorem mem : t.mem = s.mem := by obtain ⟨_, _, _, rfl⟩ := h.same; rfl
theorem dtvec : t.dtvec = s.dtvec := by obtain ⟨_, _, _, rfl⟩ := h.same; rfl
theorem free : t.free = s.free := by obtain ⟨_, _, _, rfl⟩ := h.same; rfl
theorem choice : t.choice = s.choice := by obtain ⟨_, _, _, rfl⟩ := h.same; rfl
theorem past : t.past = s.past := by obtain ⟨_, _, _, rfl⟩ := h.same; rfl
theorem func (n : Nat) : t.func n = s.func n := by simp only [State.func, h.funcs]
theorem keyOf (fn : Nat) : t.keyOf fn = s.keyOf fn := by simp only [State.keyOf, h.func]
theorem keyOk (key : BitVec 12) (pa : Nat) : t.keyOk key pa = s.keyOk key pa := by obtain ⟨_, _, _, rfl⟩ := h.same; rfl
theorem blockValid (pa : Nat) : t.blockValid pa = s.blockValid pa := by obtain ⟨_, _, _, rfl⟩ := h.same; rfl
theorem spoilt (fn pa : Nat) : t.spoilt fn pa = s.spoilt fn pa := by obtain ⟨_, _, _, rfl⟩ := h.same; rfl
theorem homeByte (key : BitVec 12) (pa : Nat) : t.homeByte key pa = s.homeByte key pa := by obtain ⟨_, _, _, rfl⟩ := h.same; rfl
theorem entry2 (fn e lvl : Nat) : t.entry2 fn e lvl = s.entry2 fn e lvl := by obtain ⟨_, _, _, rfl⟩ := h.same; rfl
theorem cachedIa (fn ia : Nat) (acc : Rights) : t.cachedIa fn ia acc = s.cachedIa fn ia acc := by obtain ⟨_, _, _, rfl⟩ := h.same; rfl
theorem cached (fn va : Nat) (acc : Rights) : t.cached fn va acc = s.cached fn va acc := by obtain ⟨_, _, _, rfl⟩ := h.same; rfl
theorem launchOf (g : Gang) : t.launchOf g = s.launchOf g := by obtain ⟨_, _, _, rfl⟩ := h.same; rfl
theorem gang? (k sl : Nat) : t.gang? k sl = s.gang? k sl := State.gang?_congr h.cores k sl

theorem homeRead (key : BitVec 12) (pa n : Nat) : t.homeRead key pa n = s.homeRead key pa n := by
  induction n generalizing pa with
  | zero => rfl
  | succ n ih => simp only [State.homeRead, h.homeByte, ih]

theorem walk2 (fn ia n lvl base : Nat) : t.walk2 fn ia n lvl base = s.walk2 fn ia n lvl base := by
  induction n generalizing lvl base with
  | zero => rfl
  | succ n ih => simp only [State.walk2, h.homeRead, h.entry2, ih]

theorem lookup2 (fn ia : Nat) : t.lookup2 fn ia = s.lookup2 fn ia := by simp only [State.lookup2, h.func, h.walk2]

theorem stripeTarget (fn ssi ia : Nat) : t.stripeTarget fn ssi ia = s.stripeTarget fn ssi ia := by
  simp only [State.stripeTarget, h.func, h.homeRead]

theorem targetOf (fn : Nat) (l : Leaf2) (ia : Nat) : t.targetOf fn l ia = s.targetOf fn l ia := by
  simp only [State.targetOf, h.stripeTarget]

theorem translateIa (q : Requester) (fn ia : Nat) (acc : Rights) : t.translateIa q fn ia acc = s.translateIa q fn ia acc := by
  simp only [State.translateIa, h.cachedIa, h.lookup2, h.targetOf, h.ports]

theorem readEntry1 (fn : Nat) (x : Target) : t.readEntry1 fn x = s.readEntry1 fn x := by
  cases x <;> simp only [State.readEntry1, h.homeRead, h.keyOf, h.free]

theorem noGateway (q : Requester) (x : Target) : t.noGateway q x = s.noGateway q x := by
  cases x <;> simp only [State.noGateway, h.ports]

theorem walk1 (q : Requester) (fn va n lvl base : Nat) : t.walk1 q fn va n lvl base = s.walk1 q fn va n lvl base := by
  induction n generalizing lvl base with
  | zero => rfl
  | succ n ih => simp only [State.walk1, h.translateIa, h.noGateway, h.readEntry1, ih]

theorem walk (q : Requester) (fn va : Nat) (acc : Rights) : t.walk q fn va acc = s.walk q fn va acc := by
  simp only [State.walk, h.func, h.walk1, h.translateIa, h.lookup2]

theorem translate (q : Requester) (fn va : Nat) (acc : Rights) : t.translate q fn va acc = s.translate q fn va acc := by
  simp only [State.translate, h.choice, h.cached, h.targetOf, h.ports, h.walk]

theorem fetched (fn pa lk : Nat) : t.fetched fn pa lk = s.fetched fn pa lk := by
  simp only [State.fetched, h.choice, h.keyOk, h.keyOf, h.blockValid, h.past, h.homeRead]

theorem fetchWord (k fn lk va : Nat) : t.fetchWord k fn lk va = s.fetchWord k fn lk va := by
  simp only [State.fetchWord, h.translate, h.spoilt, h.fetched]

end
end FetchAlike

/-! ## Fetching an instruction (R80, R94 orders 1 to 6, R150) -/

theorem Fetches.head {s : State} {k a : Nat} {g : Gang} {w : Word} {ws : List Word} (h : Fetches s k g a (w :: ws)) :
    s.fetchWord k g.fetchFn (s.launchOf g) a = .ok (w, none) := h 0 w rfl

theorem Fetches.tail {s : State} {k a : Nat} {g : Gang} {w : Word} {ws : List Word} (h : Fetches s k g a (w :: ws)) : Fetches s k g (a + 4) ws :=
  fun j x hx => by
    have hj := h (j + 1) x hx
    rwa [show a + 4 * (j + 1) = a + 4 + 4 * j by omega] at hj

/-- Words that stand in translated lines are fetched, and their lines noted. -/
theorem fetchWords_of_fetches {s t : State} (h : FetchAlike s t) {k a : Nat} {g : Gang} {ws : List Word} (hf : Fetches s k g a ws) :
    t.fetchWords k g.fetchFn (s.launchOf g) a ws.length = .ok (noteLines k g.fetchFn a ws.length t, ws) := by
  induction ws generalizing a t with
  | nil => rfl
  | cons w ws ih =>
    have hword : t.fetchWord k g.fetchFn (s.launchOf g) a = .ok (w, none) := (h.fetchWord ..).trans hf.head
    have hrest := ih (h.trans (FetchAlike.noteLines t k g.fetchFn a 1)) hf.tail
    simp only [noteLines] at hrest
    simp only [List.length_cons, State.fetchWords, hword, State.keepTlb, hrest, noteLines]

section
variable {s t : State} {k : Nat} {g : Gang} {f : Frag}

theorem lenWords_pos (w0 : Word) : 0 < lenWords w0 := by
  unfold lenWords
  split <;> omega

/-- R80: the first word of the instruction at a fragment's address. -/
theorem fetchWords_first (h : FetchAlike s t) {w0 : Word} (hf : Fetches s k g (pcAddr f.pc) [w0]) :
    (if pcAddr f.pc % 128 = 0 then t else t.noteFetch k g.fetchFn (pcAddr f.pc)).fetchWords k g.fetchFn (t.launchOf g) (pcAddr f.pc) 1 =
      .ok (noteInstr k g.fetchFn (pcAddr f.pc) 1 t, [w0]) := by
  rw [h.launchOf]
  exact fetchWords_of_fetches (ws := [w0]) (h.trans (FetchAlike.noteInstr t k g.fetchFn (pcAddr f.pc) 0)) hf

theorem Fetches.first {s : State} {k a : Nat} {g : Gang} {w : Word} {ws : List Word} (h : Fetches s k g a (w :: ws)) : Fetches s k g a [w] :=
  fun j x hx => h j x (by cases j with
    | zero => exact hx
    | succ j => cases hx)

theorem fetchInstr_illegal (h : FetchAlike s t) {w0 : Word} (hf : Fetches s k g (pcAddr f.pc) [w0]) (ha : opcAssigned w0 = false) :
    t.fetchInstr k g f = (noteInstr k g.fetchFn (pcAddr f.pc) 1 t, .illegal w0) := by
  simp only [State.fetchInstr, fetchWords_first h hf, List.headD_cons, ha, Bool.not_false, if_true]

theorem fetchInstr_fault (h : FetchAlike s t) {cause : BitVec 6} (hf : s.fetchWord k g.fetchFn (s.launchOf g) (pcAddr f.pc) = .error cause) :
    t.fetchInstr k g f = (t.noteWalk (.core k) g.fetchFn (pcAddr f.pc), .fault cause (pcAddr f.pc)) := by
  have hnote : FetchAlike s (if pcAddr f.pc % 128 = 0 then t else t.noteFetch k g.fetchFn (pcAddr f.pc)) :=
    h.trans (FetchAlike.noteInstr t k g.fetchFn (pcAddr f.pc) 0)
  simp only [State.fetchInstr, State.fetchWords, h.launchOf, hnote.fetchWord, hf]

variable {ws : List Word} {i : Instr}

/-- R94: word 1 as orders 4 to 6 report it: zero for a short form. -/
def secondWord (ws : List Word) : Word := if isLongForm (ws.headD 0) then ws.getD 1 0 else 0

/-- The words of an instruction that exists are fetched and spell it; what is left is the step of a LOOP and the causes of orders 4 to 6. -/
theorem fetchInstr_parsed (h : FetchAlike s t) (hf : Fetches s k g (pcAddr f.pc) ws) (hlen : ws.length = lenWords (ws.headD 0))
    (ha : opcAssigned (ws.headD 0) = true) (hp : parse (ws.headD 0) ws.tail = some i) :
    (∀ cause, f.stepWord g.level = none → decodeCause (highBits (ws.headD 0)) i = some cause →
      t.fetchInstr k g f = (noteInstr k g.fetchFn (pcAddr f.pc) ws.length t, .bad cause i (ws.headD 0) (secondWord ws))) ∧
    (f.stepWord g.level = none → decodeCause (highBits (ws.headD 0)) i = none →
      t.fetchInstr k g f = (noteInstr k g.fetchFn (pcAddr f.pc) ws.length t, .good i (ws.headD 0) (secondWord ws))) ∧
    ∀ a n st j, f.stepWord g.level = some (a, n) → Fetches s k g a [st] → stepInstr (highBits (ws.headD 0)) i st n = .ok j →
      t.fetchInstr k g f = (noteLines k g.fetchFn a 1 (noteInstr k g.fetchFn (pcAddr f.pc) ws.length t), .good j (ws.headD 0) (secondWord ws)) := by
  cases ws with
  | nil => exact absurd hlen (lenWords_pos _).ne
  | cons w0 rest =>
    have hone : FetchAlike s (noteInstr k g.fetchFn (pcAddr f.pc) 1 t) := h.trans (FetchAlike.noteInstr ..)
    have hrest : (noteInstr k g.fetchFn (pcAddr f.pc) 1 t).fetchWords k g.fetchFn (t.launchOf g) (pcAddr f.pc + 4) (lenWords w0 - 1) =
        .ok (noteInstr k g.fetchFn (pcAddr f.pc) (w0 :: rest).length t, rest) := by
      rw [h.launchOf, show lenWords w0 - 1 = rest.length by rw [List.length_cons, List.headD_cons] at hlen; omega]
      exact fetchWords_of_fetches hone hf.tail
    have hsecond : secondWord (w0 :: rest) = if isLongForm w0 then rest.headD 0 else 0 := by cases rest <;> rfl
    simp only [List.headD_cons, List.tail_cons] at ha hp ⊢
    simp only [State.fetchInstr, fetchWords_first h hf.first, List.headD_cons, ha, Bool.not_true, Bool.false_eq_true, if_false, hrest, hp, hsecond]
    refine ⟨fun cause hs hc => ?_, fun hs hc => ?_, fun a n st j hs hst hj => ?_⟩
    · simp only [hs, hc]; rfl
    · simp only [hs, hc]; rfl
    · have hstep := fetchWords_of_fetches (h.trans (FetchAlike.noteInstr t k g.fetchFn (pcAddr f.pc) (w0 :: rest).length)) hst
      rw [← h.launchOf] at hstep
      simp only [List.length_singleton] at hstep
      simp only [hs, hstep, List.headD_cons, hj]; rfl

end

/-! ## The step of a selected fragment (R80, R288) -/

section
variable {s s1 : State} {x : Cand} {rest : List Cand} {g : Gang} {f : Frag}

/-- The next thing that happens is the issue of the selected fragment. -/
theorem step_of_selected (h : Selected s x rest g f) : step s = onNext State.popChoice (({ s with picked := rest } : State).issue x) := by
  obtain ⟨hfatal, hdue, hcands, hpicked, -⟩ := h
  simp [step, State.advanceOnce, hfatal, hdue, State.nextCand, hcands, hpicked]

/-- R94: the state in which the words that a fetch has brought issue, or raise their cause, for a fragment of a function. -/
def State.issueAt (s : State) (x : Cand) (fn : Nat) (w0 w1 : Word) : State :=
  ({ s with cur := ⟨x.core, x.slot, x.fid, w0, w1⟩ } : State).endBlackout fn

/-- What the issue of the selected fragment comes to, by what stands at its address. -/
theorem step_of_fetched (h : Selected s x rest g f) :
    (∀ i w0 w1, ({ s with picked := rest } : State).fetchInstr x.core g f = (s1, .good i w0 w1) →
      step s = onNext State.popChoice (exec i (s1.issueAt x g.fn w0 w1))) ∧
    (∀ w0, ({ s with picked := rest } : State).fetchInstr x.core g f = (s1, .illegal w0) →
      step s = onNext State.popChoice (exec (.illegalOpc w0) (s1.issueAt x g.fn w0 0))) ∧
    (∀ cause va, ({ s with picked := rest } : State).fetchInstr x.core g f = (s1, .fault cause va) →
      step s = onNext State.popChoice (exec (.fetchFault cause (BitVec.ofNat 64 va)) (s1.issueAt x g.fn 0 0))) ∧
    ∀ cause i w0 w1, ({ s with picked := rest } : State).fetchInstr x.core g f = (s1, .bad cause i w0 w1) →
      let u := s1.issueAt x g.fn w0 w1
      step s = .next ((u.trapSync x.core x.slot f (readsLatch i) cause (u.reportWords i)).noteIssue x.core x.slot).popChoice := by
  have hissue := step_of_selected h
  obtain ⟨-, -, -, -, hg, hf, hact, hhalt, hrun⟩ := h
  have hgang : ({ s with picked := rest } : State).gang? x.core x.slot = some g := hg
  have hmay : (!g.mayAct f || (g.isHalted && decide (g.level < 2)) || f.wait != .run) = false := by
    rcases hhalt with hh | hh <;> simp [hact, hrun, hh]
  simp only [hissue, State.issue, hgang, hf, hmay, Bool.false_eq_true, if_false]
  refine ⟨fun _ _ _ hfe => ?_, fun _ hfe => ?_, fun _ _ hfe => ?_, fun _ _ _ _ hfe => ?_⟩ <;> rw [hfe]
  all_goals rfl

end

/-- Settles O17: what the fetch answers is the decoded instruction, in a LOOP body under its step word, and the step executes it. -/
theorem stepRunsDecoded : Obligations.StepRunsDecoded := by
  unfold Obligations.StepRunsDecoded
  intro s x rest g f ws hsel hf hlen
  have hparsed {i : Instr} := fetchInstr_parsed (i := i) (FetchAlike.picked s rest) hf hlen
  refine ⟨fun i hstep hdec => ?_, fun a k st i j hstep hst ha hp hj => ?_⟩
  · obtain ⟨ha, hp, hc⟩ := parts_of_decode hdec
    obtain ⟨-, hgood, -⟩ := hparsed ha hp
    obtain ⟨hissue, -⟩ := step_of_fetched hsel
    exact hissue _ _ _ (hgood hstep hc)
  · obtain ⟨-, -, hloop⟩ := hparsed ha hp
    obtain ⟨hissue, -⟩ := step_of_fetched hsel
    exact hissue _ _ _ (hloop a k st j hstep hst hj)

/-! ## What a cause leaves (R236 to R240) -/

theorem Gang.frag?_of_map {g g' : Gang} {m : Frag → Frag} (hm : g'.frags = g.frags.map m) (hfid : ∀ f, (m f).fid = f.fid) (fid : Nat) :
    g'.frag? fid = (g.frag? fid).map m := by
  simp only [Gang.frag?, hm, List.find?_map, Function.comp_def, hfid]

/-- R239: a fragment at a vector stands at the routine's entry. -/
theorem pcAddr_toPc_vecEntry (v : Quad) : pcAddr (toPc (vecEntry v)) = vecEntry v := by
  have hlt : bits v.toNat 56 2 < 2 ^ 55 := Nat.mod_lt _ (by decide)
  simp only [pcAddr, toPc, vecEntry, BitVec.toNat_ofNat]
  omega

/-- R238: XOFS, KIND and PLVL of a status word at trap entry. -/
theorem statusWord_fields (xofs kind plvl : Nat) (canc lost pend : Bool) (hkind : kind < 8) (hplvl : plvl < 4) :
    let w := (statusWord xofs kind plvl canc lost pend).toNat
    bits w 31 16 = (if kind = 0 then min xofs 65535 else 0) ∧ bits w 10 8 = kind ∧ bits w 5 4 = plvl := by
  have hxofs : (if kind = 0 then min xofs 65535 else 0) < 65536 := by split <;> omega
  have hflag (b : Bool) (n : Nat) : (if b then n else 0) = 0 ∨ (if b then n else 0) = n := by cases b <;> simp
  have hcanc := hflag canc (2 ^ 14)
  have hlost := hflag lost (2 ^ 12)
  have hpend := hflag pend (2 ^ 11)
  simp only [statusWord, BitVec.toNat_ofNat]
  generalize (if kind = 0 then min xofs 65535 else 0) = x at hxofs ⊢
  generalize (if canc then 2 ^ 14 else 0) = a at hcanc ⊢
  generalize (if lost then 2 ^ 12 else 0) = b at hlost ⊢
  generalize (if pend then 2 ^ 11 else 0) = d at hpend ⊢
  rw [Nat.mod_eq_of_lt (by omega)]
  norm_num only [bits, Nat.shiftRight_eq_div_pow]
  omega

theorem route_eq_one_or_two (deleg : Quad) (cause : BitVec 6) : route deleg cause = 1 ∨ route deleg cause = 2 := by
  unfold route; split_ifs <;> simp

theorem Took.congr {c : Ctx} {cause : BitVec 6} {value head : Nat} {t u : State} (h : Took c cause value head t) (hcores : u.cores = t.cores)
    (hmem : u.mem = t.mem) (hgroups : u.groups = t.groups) : Took c cause value head u := by
  unfold Took Ctx.gangIn at h ⊢
  rwa [State.gang?_congr hcores, hmem, hgroups]

/-- R236: the level at which a cause is taken, and the vector there. -/
def State.trapLevel (s : State) (g : Gang) (cause : BitVec 6) : Nat := if g.level = 0 then route (s.func g.fn).deleg cause else 2
def State.trapEntry (s : State) (g : Gang) (lvl : Nat) : PcWord := toPc (vecEntry (if lvl = 1 then (s.func g.fn).gtvec else s.dtvec))

/-- R239, R241: a fragment at the vector of the level that it has entered. -/
def Frag.atVector (entry : PcWord) (f : Frag) : Frag := { f with pc := entry, chead := entry, wait := .run, chainRd := [], chainX := false, lost := false }

/-- R240: a gang whose fragment `fid` has taken a cause. -/
def Gang.taking (g : Gang) (fid lvl : Nat) (entry : PcWord) (cause : BitVec 6) (epc value xofs kind : Nat) (lost : Bool) : Gang :=
  { ((g.clearWait.loseChains fid).modFrag fid (Frag.atVector entry)) with
    level := lvl, sysFid := if g.level = 0 then fid else g.sysFid, entry1 := decide (lvl = 1),
    t1 := if lvl = 1 then g.t1.enter cause epc value xofs kind 0 lost g.pending else g.t1,
    t2 := if lvl = 2 then g.t2.enter cause epc value xofs kind g.level lost g.pending else g.t2 }

/-- R240: below level 2 a cause is taken. -/
theorem State.trap_of_level_lt {s : State} {k sl : Nat} {g : Gang} (hg : s.gang? k sl = some g) (hlevel : g.level < 2) (fid : Nat) (cause : BitVec 6)
    (value epc xofs kind : Nat) (lost : Bool) :
    s.trap k sl fid cause value epc xofs kind lost =
      (s.setGang k sl (g.taking fid (s.trapLevel g cause) (s.trapEntry g (s.trapLevel g cause)) cause epc value xofs kind lost)).modCore k
        fun c => c.loseRings sl := by
  rcases s.trap_cases k sl fid cause value epc xofs kind lost with ⟨hnone, -⟩ | ⟨g', hg', ⟨htwo, -⟩ | ⟨-, lvl, entry, rfl, rfl, htrap⟩⟩
  · simp [hg] at hnone
  · obtain rfl : g = g' := Option.some.inj (hg.symm.trans hg')
    omega
  · obtain rfl : g = g' := Option.some.inj (hg.symm.trans hg')
    exact htrap

theorem State.gang?_setGang_loseRings (s : State) (k sl : Nat) (g : Gang) : ((s.setGang k sl g).modCore k fun c => c.loseRings sl).gang? k sl = some g := by
  rw [State.gang?_modCore, if_pos rfl, State.setGang, State.core_modCore, if_pos rfl]
  exact (Cells.find?_put ..).trans (if_pos rfl)

theorem Gang.frag?_taking {g : Gang} {f : Frag} (hf : g.frag? f.fid = some f) (lvl : Nat) (entry : PcWord) (cause : BitVec 6)
    (epc value xofs kind : Nat) (lost : Bool) :
    (g.taking f.fid lvl entry cause epc value xofs kind lost).frag? f.fid = some (Frag.atVector entry { f with defer := 0, urg := none }) := by
  have hclear : g.clearWait.frag? f.fid = some { f with defer := 0, urg := none } := by
    rw [Gang.frag?_of_map (g := g) (m := fun x => { x with defer := 0, urg := none }) rfl fun _ => rfl, hf]; rfl
  have hlose : (g.clearWait.loseChains f.fid).frag? f.fid = some { f with defer := 0, urg := none } := by
    rw [Gang.frag?_of_map (g := g.clearWait) (m := fun x => if x.fid = f.fid then x else { x with lost := true }) rfl fun _ => by split <;> rfl, hclear]
    exact congrArg some (if_pos rfl)
  have htaking : (g.taking f.fid lvl entry cause epc value xofs kind lost).frags = (g.clearWait.loseChains f.fid).frags.map
      fun x => if x.fid = f.fid then Frag.atVector entry x else x := rfl
  rw [Gang.frag?_of_map htaking fun _ => by split <;> rfl, hlose]
  exact congrArg some (if_pos rfl)

theorem State.trapLevel_cases (s : State) (g : Gang) (cause : BitVec 6) :
    (s.trapLevel g cause = 1 ∧ g.level = 0) ∨ s.trapLevel g cause = 2 := by
  unfold State.trapLevel
  split
  · next h => exact (route_eq_one_or_two _ cause).imp_left fun hr => ⟨hr, h⟩
  · exact .inr rfl

/-- R240: what the trap registers of the entered level hold. -/
theorem TrapRegs.enter_fields (r : TrapRegs) (cause : BitVec 6) (epc value xofs plvl : Nat) (lost pend : Bool) (hplvl : plvl < 4) :
    let e := r.enter cause epc value xofs 0 plvl lost pend
    e.cause = cause.setWidth 32 ∧ e.epc = BitVec.ofNat 64 epc ∧ e.tval = BitVec.ofNat 64 value ∧ bits e.status.toNat 31 16 = min xofs 65535 ∧
      bits e.status.toNat 10 8 = 0 ∧ bits e.status.toNat 5 4 = plvl := by
  exact ⟨rfl, rfl, rfl, statusWord_fields xofs 0 plvl _ _ _ (by decide) hplvl⟩

/-- A state has the gang and the fragment of a context, and what a trap of it looks at and keeps. -/
structure CtxIn (c : Ctx) (s : State) : Prop where
  gang : s.gang? c.k c.sl = some c.g
  frag : c.g.frag? c.f.fid = some c.f
  func : s.func c.g.fn = c.st.func c.g.fn
  dtvec : s.dtvec = c.st.dtvec
  mem : s.mem = c.st.mem
  groups : s.groups = c.st.groups

/-- R240: a cause of a fragment at level 0 or 1 is taken, in a state that has its context. -/
theorem CtxIn.trap_took {c : Ctx} {s : State} (h : CtxIn c s) (hlevel : c.g.level < 2) (cause : BitVec 6) (value head : Nat) :
    Took c cause value head (s.trap c.k c.sl c.f.fid cause value head ((pcAddr c.f.pc - head) / 4) 0) := by
  rw [State.trap_of_level_lt h.gang hlevel]
  refine ⟨_, _, State.gang?_setGang_loseRings .., Gang.frag?_taking h.frag .., ?_, ?_, ?_, ⟨rfl, rfl, rfl, rfl, rfl, rfl⟩, rfl, h.mem, h.groups⟩
  · show s.trapLevel c.g cause = _
    rw [State.trapLevel, h.func]
  · rcases s.trapLevel_cases c.g cause with ⟨hone, hzero⟩ | htwo
    · simp only [Gang.taking, hone, hzero, if_true]
      exact TrapRegs.enter_fields _ _ _ _ _ 0 _ _ (by decide)
    · simp only [Gang.taking, htwo, if_true, show ¬(2 = 1) by decide, if_false]
      exact TrapRegs.enter_fields _ _ _ _ _ _ _ _ (by omega)
  · refine (pcAddr_toPc_vecEntry _).trans ?_
    rw [h.func, h.dtvec]; rfl

/-! ## The context of the fragment that issues -/

theorem Gang.frag?_fid {g : Gang} {fid : Nat} {f : Frag} (h : g.frag? fid = some f) : f.fid = fid := by
  simpa using List.find?_some h

theorem State.ctx_eq_some {s : State} {l : Long} {c : Ctx} (h : s.ctx l = some c) :
    ∃ g f, s.gang? s.cur.core s.cur.slot = some g ∧ g.frag? s.cur.fid = some f ∧
      c = { st := s, k := s.cur.core, sl := s.cur.slot, g := g, f := f, active := guardMask g f l } := by
  unfold State.ctx at h
  split at h
  · cases h
  · next g hg =>
    split at h
    · cases h
    · next f hf => exact ⟨g, f, hg, hf, (Option.some.inj h).symm⟩

theorem CtxIn.of_ctx {s : State} {l : Long} {c : Ctx} (h : s.ctx l = some c) : CtxIn c s := by
  obtain ⟨g, f, hg, hf, rfl⟩ := State.ctx_eq_some h
  exact ⟨hg, by simpa only [Gang.frag?_fid hf] using hf, rfl, rfl, rfl, rfl⟩

/-- R81, R93, R240: a synchronous cause at level 0 or 1 is taken with CHEAD as its return address, or with the instruction's own where it reads no
latch. -/
theorem CtxIn.trapSync_took {c : Ctx} {s : State} (h : CtxIn c s) (hlevel : c.g.level < 2) (latch : Bool) (cause : BitVec 6) (value : Nat) :
    Took c cause value (if latch then pcAddr c.f.chead else pcAddr c.f.pc) ((s.trapSync c.k c.sl c.f latch cause value).noteIssue c.k c.sl) :=
  (h.trap_took hlevel cause value _).congr rfl rfl rfl

/-! ## Words that are not fetched or that spell no instruction (R80, R90) -/

theorem illegalOpc_took {s : State} {l : Long} {c : Ctx} (hctx : s.ctx l = some c) (hlevel : c.g.level < 2) (w0 : Word) :
    ∃ t, exec (.illegalOpc w0) s = .next t ∧ Took c 0x01 w0.toNat (pcAddr c.f.chead) t := by
  have hin := CtxIn.of_ctx hctx
  obtain ⟨g, f, hg, hf, rfl⟩ := State.ctx_eq_some hctx
  have hexec : exec (.illegalOpc w0) s = execIllegalOpc w0 s := rfl
  refine ⟨_, ?_, hin.trapSync_took hlevel true 0x01 w0.toNat⟩
  simp only [hexec, execIllegalOpc, hg, hf]

/-- R80, R94 order 1, R240: the fetch of a level-1 routine's first instruction has a cause of its own. -/
theorem fetchFault_took {s : State} {l : Long} {c : Ctx} (hctx : s.ctx l = some c) (hlevel : c.g.level < 2) (cause : BitVec 6) (va : Quad) :
    ∃ t, exec (.fetchFault cause va) s = .next t ∧
      (if c.g.level = 1 ∧ c.g.entry1 = true then Took c 0x3F 2 (pcAddr c.f.chead) t else Took c cause va.toNat (pcAddr c.f.chead) t) := by
  have hin := CtxIn.of_ctx hctx
  obtain ⟨g, f, hg, hf, rfl⟩ := State.ctx_eq_some hctx
  have hexec : exec (.fetchFault cause va) s = .next ((s.trapFetch s.cur.core s.cur.slot g f cause va.toNat).noteIssue s.cur.core s.cur.slot) := by
    show execFetchFault cause va s = _
    simp only [execFetchFault, hg, hf]
  have htook := hin.trap_took hlevel
  refine ⟨_, hexec, ?_⟩
  split
  · next h =>
    rw [State.trapFetch, if_pos (by simpa using h)]
    exact (htook 0x3F 2 _).congr rfl rfl rfl
  · next h =>
    rw [State.trapFetch, if_neg (by simpa using h)]
    exact (htook cause va.toNat _).congr rfl rfl rfl

theorem opc_of_ofLong {n : Nat} (hn : n < 128) {f : Long} {i : Instr} (h : ofLong n f = some i) : Instr.opc i = some (n, false) := by
  interval_cases n <;> cases h
  all_goals repeat' split
  all_goals rfl

theorem lenWords_ne_one {w0 : Word} (h : isLongForm w0 = true) : lenWords w0 ≠ 1 := by
  have hodd : (w0.extractLsb' 0 2).toNat % 2 = 1 := by
    simp only [isLongForm, BitVec.getLsbD, Nat.testBit_zero, decide_eq_true_eq] at h
    simp only [BitVec.extractLsb'_toNat, Nat.shiftRight_zero]
    omega
  unfold lenWords
  split <;> omega

/-- R78: a long form's first word spells no short instruction. -/
theorem isShort_of_parse {w0 : Word} {ws : List Word} {i : Instr} (hlong : isLongForm w0 = true) (h : parse w0 ws = some i) :
    Instr.isShort i = false := by
  have hof {f : Long} (hi : ofLong (opcOf w0) f = some i) : Instr.isShort i = false := by
    rw [Instr.isShort, opc_of_ofLong (w0.extractLsb' 2 7).isLt hi]
  unfold parse at h
  split at h
  · next hlen => exact absurd hlen (lenWords_ne_one hlong)
  · rw [if_pos hlong] at h
    exact hof h
  · exact hof h
  · cases h

/-- R404: the end of a blackout changes a session alone. -/
theorem State.endBlackout_eq (s : State) (fn : Nat) : ∃ x, s.endBlackout fn = { s with sessions := x } := by
  unfold State.endBlackout
  split
  · exact ⟨_, rfl⟩
  · exact ⟨_, rfl⟩

/-- R94: the value of orders 4 to 6: words 0 and 1. -/
theorem reportWords_of_parse {s : State} {w0 w1 : Word} {ws : List Word} {i : Instr} (h0 : s.cur.w0 = w0)
    (h1 : s.cur.w1 = if isLongForm w0 then w1 else 0) (hp : parse w0 ws = some i) :
    s.reportWords i = w0.toNat + if isLongForm w0 then w1.toNat * 2 ^ 32 else 0 := by
  rw [State.reportWords, h0, h1]
  cases hlong : isLongForm w0 with
  | true => simp [isShort_of_parse hlong hp]
  | false => simp

/-- The selected fragment as it stands once its words have been fetched. -/
theorem CtxIn.of_selected {s t : State} {x : Cand} {rest : List Cand} {g : Gang} {f : Frag} (h : Selected s x rest g f) (ht : FetchAlike s t)
    (cur : Cur) : CtxIn { st := s, k := x.core, sl := x.slot, g := g, f := f, active := 0 } (({ t with cur := cur } : State).endBlackout g.fn) := by
  obtain ⟨-, -, -, -, hg, hf, -⟩ := h
  obtain ⟨y, hy⟩ := State.endBlackout_eq { t with cur := cur } g.fn
  rw [hy]
  exact ⟨(ht.gang? ..).trans hg, by simpa only [Gang.frag?_fid hf] using hf, ht.func _, ht.dtvec, ht.mem, ht.groups⟩

@[simp] theorem State.endBlackout_cur (s : State) (fn : Nat) : (s.endBlackout fn).cur = s.cur := by
  obtain ⟨y, hy⟩ := s.endBlackout_eq fn
  rw [hy]

/-- Settles O18: the step of a selected fragment issues what its fetch answers, and each cause is taken from there. -/
theorem undecodableWordsTrap : Obligations.UndecodableWordsTrap := by
  unfold Obligations.UndecodableWordsTrap
  refine ⟨fun s l c w0 hctx hlevel => illegalOpc_took hctx hlevel w0, fun s l c cause va hctx hlevel => fetchFault_took hctx hlevel cause va,
    fun s x rest g f w0 hsel hf ha => ?_, fun s x rest g f cause hsel hf => ?_, fun s x rest g f ws i cause hsel hf hlen ha hp hstep hc hlevel => ?_⟩
  · obtain ⟨-, hillegal, -⟩ := step_of_fetched hsel
    exact hillegal w0 (fetchInstr_illegal (FetchAlike.picked s rest) hf ha)
  · obtain ⟨-, -, hfault, -⟩ := step_of_fetched hsel
    exact hfault cause _ (fetchInstr_fault (FetchAlike.picked s rest) hf)
  · obtain ⟨hbad, -, -⟩ := fetchInstr_parsed (FetchAlike.picked s rest) hf hlen ha hp
    obtain ⟨-, -, -, hissue⟩ := step_of_fetched hsel
    have hnoted := (FetchAlike.picked s rest).trans (FetchAlike.noteInstr { s with picked := rest } x.core g.fetchFn (pcAddr f.pc) ws.length)
    have htook := (CtxIn.of_selected hsel hnoted ⟨x.core, x.slot, x.fid, ws.headD 0, secondWord ws⟩).trapSync_took
      hlevel (readsLatch i) cause
    refine ⟨_, hissue _ _ _ _ (hbad cause hstep hc), ?_⟩
    rw [reportWords_of_parse (w0 := ws.headD 0) (w1 := ws.getD 1 0) (by simp [State.issueAt]) (by simp [State.issueAt, secondWord]) hp]
    exact (htook _).congr rfl rfl rfl

/-! ## Running a fetched instruction (R94 orders 7 to 10, R151) -/

/-- The meaning of every fetched instruction is a run of an effect of its own. -/
theorem exec_eq_run {i : Instr} (h : Instr.opc i ≠ none) : ∃ eff, ∀ s, exec i s = run i eff s := by
  cases i <;> try exact absurd rfl h
  all_goals exact ⟨_, fun _ => rfl⟩

theorem Ctx.blockBad_iff (c : Ctx) (i : Instr) :
    c.blockBad i = true ↔ ∃ f, (i = .ctxs f ∨ i = .ctxr f) ∧ subF f 2 0 = 0 ∧ c.g.nblk ≤ immF f 3 0 := by
  unfold Ctx.blockBad
  split
  · simp
  · simp
  · next hs hr =>
    refine iff_of_false Bool.false_ne_true fun ⟨f, hf, _⟩ => ?_
    exact hf.elim (hs f) (hr f)

/-- R94 order 7: the level does not allow the instruction, or one of its operands. -/
def Ctx.privBad (c : Ctx) (i : Instr) : Prop :=
  (c.g.level = 0 ∧ ∃ u ∈ (Instr.shape i).uses, privOperand u = true) ∨ c.g.level < (Instr.shape i).level
/-- R94 order 8: the latch chain does not allow it. -/
def Ctx.chainBad (c : Ctx) (i : Instr) : Prop :=
  readsLatch i = true ∧ (c.f.chead = c.f.pc ∨ c.f.chainX = true ∨ ∃ r ∈ c.allWrites i, r ∈ c.f.chainRd)
/-- R94 order 9: the gang does not have an operand. -/
def Ctx.allocFails (c : Ctx) (i : Instr) : Prop :=
  (∃ u ∈ (Instr.shape i).uses, allocBad (16 * c.g.nblk) u = true) ∨
    (∃ f, (i = .ctxs f ∨ i = .ctxr f) ∧ subF f 2 0 = 0 ∧ c.g.nblk ≤ immF f 3 0)
/-- R94 order 10: an index register fails in an ACTIVE lane. -/
def Ctx.indexFails (c : Ctx) (u : Use) : Prop := isIx u.code = true ∧ ∃ lane ∈ c.lanes, indexBad c.g (16 * c.g.nblk) u lane = true

section
variable {c : Ctx} {i : Instr}

theorem Ctx.privBad_iff :
    ((decide (c.g.level = 0) && (Instr.shape i).uses.any privOperand) || decide (c.g.level < (Instr.shape i).level)) = true ↔ c.privBad i := by
  simp [Ctx.privBad]

theorem Ctx.chainBad_iff :
    (readsLatch i && (c.f.chead == c.f.pc || c.f.chainX || (c.allWrites i).any fun r => c.f.chainRd.contains r)) = true ↔ c.chainBad i := by
  simp [Ctx.chainBad, or_assoc]

theorem Ctx.allocFails_iff : ((Instr.shape i).uses.any (allocBad (16 * c.g.nblk)) || c.blockBad i) = true ↔ c.allocFails i := by
  rw [Bool.or_eq_true, Ctx.blockBad_iff, List.any_eq_true]; rfl

theorem Ctx.indexFails_iff {u : Use} : (isIx u.code && c.lanes.any (indexBad c.g (16 * c.g.nblk) u)) = true ↔ c.indexFails u := by
  simp [Ctx.indexFails]

theorem Ctx.operandCause_of_privBad (h : c.privBad i) : c.operandCause i = some (0x0B, c.st.reportWords i) :=
  if_pos (Ctx.privBad_iff.mpr h)

theorem Ctx.operandCause_of_chainBad (hp : ¬c.privBad i) (h : c.chainBad i) : c.operandCause i = some (0x07, c.st.reportWords i) :=
  (if_neg (Ctx.privBad_iff.not.mpr hp)).trans (if_pos (Ctx.chainBad_iff.mpr h))

theorem Ctx.operandCause_of_allocFails (hp : ¬c.privBad i) (hc : ¬c.chainBad i) (h : c.allocFails i) :
    c.operandCause i = some (0x05, c.st.reportWords i) :=
  (if_neg (Ctx.privBad_iff.not.mpr hp)).trans ((if_neg (Ctx.chainBad_iff.not.mpr hc)).trans (if_pos (Ctx.allocFails_iff.mpr h)))

/-- Order 10 reports the first operand whose index register fails. -/
theorem Ctx.operandCause_of_indexFails (hp : ¬c.privBad i) (hc : ¬c.chainBad i) (ha : ¬c.allocFails i) {pre post : List Use} {u : Use}
    (huses : (Instr.shape i).uses = pre ++ u :: post) (hpre : ∀ v ∈ pre, ¬c.indexFails v) (h : c.indexFails u) :
    c.operandCause i = some (0x06, (maskOf fun lane => c.active.getLsbD lane && indexBad c.g (16 * c.g.nblk) u lane).toNat +
      (u.code.toNat - 0xB4) * 2 ^ 32) := by
  have hfirst : (Instr.shape i).uses.filter (fun v => isIx v.code && c.lanes.any (indexBad c.g (16 * c.g.nblk) v)) =
      u :: post.filter fun v => isIx v.code && c.lanes.any (indexBad c.g (16 * c.g.nblk) v) := by
    rw [huses, List.filter_append, List.filter_eq_nil_iff.mpr fun v hv => Ctx.indexFails_iff.not.mpr (hpre v hv), List.nil_append,
      List.filter_cons, if_pos (Ctx.indexFails_iff.mpr h)]
  refine (if_neg (Ctx.privBad_iff.not.mpr hp)).trans ((if_neg (Ctx.chainBad_iff.not.mpr hc)).trans ((if_neg (Ctx.allocFails_iff.not.mpr ha)).trans ?_))
  simp only [hfirst]

theorem Ctx.operandCause_eq_none (hp : ¬c.privBad i) (hc : ¬c.chainBad i) (ha : ¬c.allocFails i) (hx : ∀ u ∈ (Instr.shape i).uses, ¬c.indexFails u) :
    c.operandCause i = none := by
  have hnil : (Instr.shape i).uses.filter (fun v => isIx v.code && c.lanes.any (indexBad c.g (16 * c.g.nblk) v)) = [] :=
    List.filter_eq_nil_iff.mpr fun v hv => Ctx.indexFails_iff.not.mpr (hx v hv)
  refine (if_neg (Ctx.privBad_iff.not.mpr hp)).trans ((if_neg (Ctx.chainBad_iff.not.mpr hc)).trans ((if_neg (Ctx.allocFails_iff.not.mpr ha)).trans ?_))
  simp only [hnil]

/-- R94, R240: a cause of orders 7 to 10 is taken in place of the instruction. -/
theorem operandCause_took {s : State} {cause : BitVec 6} {v : Nat} (hopc : Instr.opc i ≠ none) (hctx : s.ctx (Instr.long i) = some c)
    (hlevel : c.g.level < 2) (h : c.operandCause i = some (cause, v)) : ∃ t, exec i s = .next t ∧ Took c cause v (c.head i) t := by
  obtain ⟨eff, heff⟩ := exec_eq_run hopc
  refine ⟨_, ?_, (CtxIn.of_ctx hctx).trapSync_took hlevel (readsLatch i) cause v⟩
  simp only [heff, run, hctx, h]

/-- R151: a control instruction that a LOOP body rules out. -/
theorem loopNest_took {s : State} (hopc : Instr.opc i ≠ none) (hctx : s.ctx (Instr.long i) = some c) (hlevel : c.g.level < 2)
    (ho : c.operandCause i = none) (hl : c.loopNest i = true) (hv : c.voided i = false) :
    ∃ t, exec i s = .next t ∧ Took c 0x0A (s.reportWords i) (c.head i) t := by
  obtain ⟨eff, heff⟩ := exec_eq_run hopc
  refine ⟨_, ?_, (CtxIn.of_ctx hctx).trapSync_took hlevel (readsLatch i) 0x0A (s.reportWords i)⟩
  simp [heff, run, hctx, ho, Ctx.perform, hl, hv, State.ctx_st hctx]

end

/-! ## Levels of the special registers (R36, R235) -/

theorem srInfo_levels (n : Nat) : ((srInfo n).map (·.rd)).getD 0 = (if 0x100 ≤ n ∧ n ≤ 0x105 then 1 else if 0x200 ≤ n ∧ n ≤ 0x20C then 2 else 0) ∧
    ((srInfo n).map (·.wr.getD 0)).getD 0 = (if 0x100 ≤ n ∧ n ≤ 0x105 then 1 else if 0x200 ≤ n ∧ n ≤ 0x20C then 2 else 0) ∧
    ((srInfo n).isSome ↔ (1 ≤ n ∧ n ≤ 0x13) ∨ (0x100 ≤ n ∧ n ≤ 0x105) ∨ (0x200 ≤ n ∧ n ≤ 0x20C)) := by
  unfold srInfo
  split_ifs <;> simp <;> omega

theorem shSrd_level (f : Long) : (shSrd f).level = ((srInfo (immF f 11 0)).map (·.rd)).getD 0 := by
  unfold shSrd; cases srInfo (immF f 11 0) <;> rfl

theorem shSwr_level (f : Long) : (shSwr f).level = ((srInfo (immF f 11 0)).map (·.wr.getD 0)).getD 0 := by
  unfold shSwr; cases srInfo (immF f 11 0) <;> rfl

theorem shSrd_ill (f : Long) : (shSrd f).ill = !(srInfo (immF f 11 0)).isSome := by
  unfold shSrd; cases srInfo (immF f 11 0) <;> rfl

/-! ## Causes at level 2 (R245, R358) -/

theorem State.sendMsix_eq (s : State) (fn v : Nat) :
    ∃ fs o, s.sendMsix fn v = { s with funcs := fs, out := o } ∧ ∀ n, ((s.sendMsix fn v).func n).evt = (s.func n).evt := by
  unfold State.sendMsix
  split
  · refine ⟨_, _, rfl, fun n => ?_⟩
    rw [State.func_modFunc]
    split
    · next h => rw [h]
    · rfl
  · exact ⟨_, _, rfl, fun _ => rfl⟩

/-- R347: an event changes functions and what is sent alone, and its bit stands. -/
theorem State.raiseEvt_eq (s : State) (fn : Nat) {bit : Nat} (hbit : bit < 6) :
    (∃ fs o, s.raiseEvt fn bit = { s with funcs := fs, out := o }) ∧ ((s.raiseEvt fn bit).func fn).evt.getLsbD bit = true := by
  have hset (e : BitVec 6) : (e ||| BitVec.ofNat 6 (2 ^ bit)).getLsbD bit = true := by
    rw [BitVec.getLsbD_or, BitVec.getLsbD_ofNat, Nat.testBit_two_pow_self, Bool.and_true, decide_eq_true hbit, Bool.or_true]
  unfold State.raiseEvt
  extract_lets f s'
  split
  · next h => exact ⟨⟨_, _, rfl⟩, h⟩
  · have hs' : (s'.func fn).evt.getLsbD bit = true := by
      rw [State.func_modFunc, if_pos rfl]; exact hset _
    split
    · obtain ⟨fs, o, heq, hevt⟩ := s'.sendMsix_eq fn f.evec
      exact ⟨⟨fs, o, heq.trans rfl⟩, by rw [hevt, hs']⟩
    · exact ⟨⟨_, _, rfl⟩, hs'⟩

/-- R245, R358: a stop marks the gang, counts and logs itself, and raises bit 3 of the physical function's events. -/
theorem State.stopGang_spec (s : State) (k sl : Nat) (g : Gang) (cause : BitVec 6) (v : Nat) :
    (s.stopGang k sl g cause v).gang? k sl = some { g with stopped := true } ∧ (s.stopGang k sl g cause v).stopCount = (s.stopCount + 1) % 2 ^ 32 ∧
      ((s.stopGang k sl g cause v).func 0).evt.getLsbD 3 = true ∧ (s.stopGang k sl g cause v).mem = s.mem ∧
      (∀ k' sl', (k', sl') ≠ (k, sl) → (s.stopGang k sl g cause v).gang? k' sl' = s.gang? k' sl') ∧
      (s.stopGang k sl g cause v).stopLog = ((s.setGang k sl { g with stopped := true }).logStop g.fn k sl cause.toNat v).stopLog := by
  obtain ⟨⟨fs, o, heq⟩, hevt⟩ := ((s.setGang k sl { g with stopped := true }).logStop g.fn k sl cause.toNat v).raiseEvt_eq 0 (bit := 3) (by decide)
  have hgang (k' sl' : Nat) : (s.stopGang k sl g cause v).gang? k' sl' = (s.setGang k sl { g with stopped := true }).gang? k' sl' := by
    rw [State.stopGang, heq]; rfl
  refine ⟨?_, ?_, hevt, ?_, fun k' sl' hne => ?_, ?_⟩
  · rw [hgang, State.gang?_setGang, if_pos ⟨rfl, rfl⟩]
  · rw [State.stopGang, heq]; rfl
  · rw [State.stopGang, heq]; rfl
  · rw [hgang, State.gang?_setGang, if_neg fun ⟨hk, hsl⟩ => hne (by rw [hk, hsl])]
  · rw [State.stopGang, heq]

/-- R358: the fields of an entry of the stop log do not overlap. -/
theorem stopEntry_fields {fn pod core slot cause v : Nat} (hfn : fn < 64) (hpod : pod < 16) (hcore : core < 64) (hslot : slot < 32)
    (hcause : cause < 64) (hv : v < 2 ^ 64) :
    let e := (BitVec.ofNat 128 (fn + pod * 2 ^ 8 + core * 2 ^ 16 + slot * 2 ^ 24 + cause * 2 ^ 32 + v * 2 ^ 64)).toNat
    bits e 5 0 = fn ∧ bits e 11 8 = pod ∧ bits e 21 16 = core ∧ bits e 28 24 = slot ∧ bits e 37 32 = cause ∧ bits e 127 64 = v := by
  simp only [BitVec.toNat_ofNat]
  rw [Nat.mod_eq_of_lt (by omega)]
  norm_num only [bits, Nat.shiftRight_eq_div_pow]
  omega

theorem State.logStop_entry (s : State) (fn k sl : Nat) (cause : BitVec 6) (v : Nat) :
    let e := (Cells.getD (s.logStop fn k sl cause.toNat v).stopLog (s.stopCount % 64) 0).toNat
    bits e 5 0 = fn % 64 ∧ bits e 11 8 = k / 64 % 16 ∧ bits e 21 16 = k % 64 ∧ bits e 28 24 = sl % 32 ∧ bits e 37 32 = cause.toNat ∧
      bits e 127 64 = v % 2 ^ 64 := by
  simp only [State.logStop, Cells.getD_set, if_true]
  exact stopEntry_fields (Nat.mod_lt _ (by decide)) (Nat.mod_lt _ (by decide)) (Nat.mod_lt _ (by decide)) (Nat.mod_lt _ (by decide)) cause.isLt
    (Nat.mod_lt _ (by decide))

/-- R245: a cause of an instruction at level 2 stops its gang. -/
theorem operandCause_stops {i : Instr} {s : State} {c : Ctx} {cause : BitVec 6} {v : Nat} (hopc : Instr.opc i ≠ none)
    (hctx : s.ctx (Instr.long i) = some c) (hlevel : c.g.level = 2) (h : c.operandCause i = some (cause, v)) :
    exec i s = .next ((s.stopGang c.k c.sl c.g cause v).noteIssue c.k c.sl) := by
  obtain ⟨eff, heff⟩ := exec_eq_run hopc
  have hgang := (CtxIn.of_ctx hctx).gang
  simp only [heff, run, hctx, h, State.trapSync, State.trap, hgang, hlevel, if_true]

/-! ## Delegation (R236, R237) -/

theorem route_eq (deleg : Quad) (cause : BitVec 6) : route deleg cause =
    if cause ≠ 0x35 ∧ cause ≠ 0x36 ∧ cause ≠ 0x37 ∧ cause ≠ 0x3F ∧ deleg.getLsbD cause.toNat = true then 1 else 2 := by
  unfold route
  split
  · next h => rw [if_neg (by tauto)]
  · next h =>
    refine if_congr ?_ rfl rfl
    tauto

theorem delegMask_getLsbD : ∀ n < 64, delegMask.getLsbD n = (decide (1 ≤ n ∧ n ≤ 30) || decide (32 ≤ n ∧ n ≤ 38) || decide (40 ≤ n ∧ n ≤ 52)) := by
  decide

theorem State.swr_deleg {s : State} {k sl : Nat} {g : Gang} (hg : s.gang? k sl = some g) (v : Quad) :
    ((s.swr k sl 0x206 v).func g.fn).deleg = v &&& delegMask := by
  simp only [State.swr, hg]
  rw [State.func_modFunc, if_pos rfl]

/-- Settles O23: the causes of orders 7 to 10 are those of `Ctx.operandCause`, the first that applies; a trap at level 0 or 1 is
`operandCause_took`, a stop at level 2 `operandCause_stops`. -/
theorem causesAndLevels : Obligations.CausesAndLevels := by
  unfold Obligations.CausesAndLevels
  refine ⟨fun i s c hopc hctx hlevel => ?_, ⟨fun _ => rfl, fun _ => rfl, fun _ => rfl, fun _ => rfl, fun _ => rfl, fun f => ?_, fun f => ?_, fun f => ?_⟩,
    fun i s c cause v hopc hctx hlevel hcause => ?_, route_eq, fun s k sl g v n hg hn => ?_⟩
  · have hwords : c.st.reportWords i = s.reportWords i := by rw [State.ctx_st hctx]
    refine ⟨fun hp => ?_, fun hp hc => ?_, fun hp hc ha => ?_, fun hp hc ha pre u post huses hpre hu => ?_, fun hp hc ha hx hl hv => ?_⟩
    · exact operandCause_took hopc hctx hlevel (hwords ▸ Ctx.operandCause_of_privBad hp)
    · exact operandCause_took hopc hctx hlevel (hwords ▸ Ctx.operandCause_of_chainBad hp hc)
    · exact operandCause_took hopc hctx hlevel (hwords ▸ Ctx.operandCause_of_allocFails hp hc ha)
    · exact operandCause_took hopc hctx hlevel (Ctx.operandCause_of_indexFails hp hc ha huses hpre hu)
    · exact loopNest_took hopc hctx hlevel (Ctx.operandCause_eq_none hp hc ha hx) hl hv
  · obtain ⟨hrd, -, -⟩ := srInfo_levels (immF f 11 0)
    exact (shSrd_level f).trans hrd
  · obtain ⟨-, hwr, -⟩ := srInfo_levels (immF f 11 0)
    exact (shSwr_level f).trans hwr
  · obtain ⟨-, -, hsome⟩ := srInfo_levels (immF f 11 0)
    rw [← hsome]
    show _ ↔ (shSrd f).ill = false
    simp [shSrd_ill]
  · obtain ⟨hgang, hcount, hevt, hmem, hothers, hlog⟩ := s.stopGang_spec c.k c.sl c.g cause v
    refine ⟨_, _, operandCause_stops hopc hctx hlevel hcause, hgang, rfl, hcount, hevt, ?_, hmem, hothers⟩
    have hentry := (s.setGang c.k c.sl { c.g with stopped := true }).logStop_entry c.g.fn c.k c.sl cause v
    rw [← hlog] at hentry
    exact hentry
  · rw [State.swr_deleg hg, BitVec.getLsbD_and, delegMask_getLsbD n hn]

end Sys2Proof.Machine
end

section
/-! PROOFS about register instructions, for every statement that says what one writes: registers read after a write (R17 to R28), the latch rings
(R30, R31), and the state that such an instruction leaves. -/
namespace Sys2Proof.Machine

/-! ## Numbers summed bit by bit -/

theorem testBit_add_two_pow {x n : Nat} (h : x.testBit n = false) (k : Nat) : (x + 2 ^ n).testBit k = (decide (k = n) || x.testBit k) := by
  have heven : x / 2 ^ n % 2 = 0 := by simpa [Nat.testBit_eq_decide_div_mod_eq] using h
  have hsplit (q : Nat) : (2 ^ n * q + x % 2 ^ n).testBit k = if k < n then (x % 2 ^ n).testBit k else q.testBit (k - n) :=
    Nat.testBit_two_pow_mul_add q (Nat.mod_lt x (Nat.two_pow_pos n)) k
  have hx := hsplit (x / 2 ^ n)
  have hadd := hsplit (x / 2 ^ n + 1)
  rw [Nat.div_add_mod] at hx
  rw [Nat.mul_add_one, Nat.add_right_comm, Nat.div_add_mod] at hadd
  rw [hx, hadd]
  rcases lt_trichotomy k n with hk | rfl | hk
  · simp [hk, hk.ne]
  · simp [Nat.testBit_zero]; omega
  · obtain ⟨d, rfl⟩ : ∃ d, k = n + d + 1 := ⟨k - n - 1, by omega⟩
    simp only [show ¬n + d + 1 < n by omega, if_false, show n + d + 1 - n = d + 1 by omega, Nat.testBit_succ,
      show (x / 2 ^ n + 1) / 2 = x / 2 ^ n / 2 by omega, show ¬n + d + 1 = n by omega, decide_false, Bool.false_or]

/-- The sum of 2^(e i) over the i below n that a test selects has those bits. -/
theorem testBit_foldl_two_pow {e : Nat → Nat} {n : Nat} (he : ∀ i < n, ∀ j < n, e i = e j → i = j) (p : Nat → Bool) (k : Nat) :
    ((List.range n).foldl (fun a i => if p i then a + 2 ^ e i else a) 0).testBit k = true ↔ ∃ i < n, e i = k ∧ p i = true := by
  induction n generalizing k with
  | zero => simp
  | succ n ih =>
    have ih := ih fun i hi j hj => he i (by omega) j (by omega)
    rw [List.range_succ, List.foldl_append, List.foldl_cons, List.foldl_nil]
    split
    case isTrue hp =>
      rw [testBit_add_two_pow, Bool.or_eq_true, ih, decide_eq_true_eq, Nat.exists_lt_succ_right]
      · constructor
        · rintro (rfl | h)
          · exact .inr ⟨rfl, hp⟩
          · exact .inl h
        · rintro (h | ⟨rfl, -⟩)
          · exact .inr h
          · exact .inl rfl
      · rw [Bool.eq_false_iff, Ne, ih]
        rintro ⟨i, hi, hik, -⟩
        exact absurd (he i (by omega) n (by omega) hik) (by omega)
    case isFalse hp => rw [ih, Nat.exists_lt_succ_right]; simp [hp]

theorem testBit_foldl_range (n : Nat) (p : Nat → Bool) (k : Nat) :
    ((List.range n).foldl (fun a i => if p i then a + 2 ^ i else a) 0).testBit k = (decide (k < n) && p k) := by
  rw [Bool.eq_iff_iff, testBit_foldl_two_pow fun _ _ _ _ h => h]
  simp

theorem maskOf_getLsbD (p : Nat → Bool) {lane : Nat} (h : lane < 32) : (maskOf p).getLsbD lane = p lane := by
  rw [maskOf, BitVec.getLsbD_ofNat, testBit_foldl_range, decide_eq_true h, Bool.true_and, Bool.true_and]

/-! ## Registers after a write (R20 to R27) -/

theorem regKey_inj {r lane r' lane' : Nat} (h : lane < 32) (h' : lane' < 32) : regKey r lane = regKey r' lane' ↔ r = r' ∧ lane = lane' := by
  simp only [regKey]
  omega

section
variable (g : Gang) (r : Nat) {i j : Nat} (x : Word) (r' : Nat) (hi : i < 32) (hj : j < 32)
include hi hj

theorem Gang.vReg_setV : (g.setV r i x).vReg r' j = if r = r' ∧ i = j then x else g.vReg r' j := by
  simp only [Gang.vReg, Gang.setV, Cells.getD_set, regKey_inj hi hj]

theorem Gang.kReg_setK : (g.setK r i x).kReg r' j = if r = r' ∧ i = j then x else g.kReg r' j := by
  simp only [Gang.kReg, Gang.setK, Cells.getD_set, regKey_inj hi hj]

theorem Gang.sReg_setS : (g.setS r i x).sReg r' j = if r = r' ∧ i = j then x else g.sReg r' j := by
  simp only [Gang.sReg, Gang.setS, Cells.getD_set, regKey_inj hi hj]

/-- R26: a write of an index register keeps its low 24 bits. -/
theorem Gang.xReg_setX : (g.setX r i x).xReg r' j = if r = r' ∧ i = j then x &&& 0x00FFFFFF#32 else g.xReg r' j := by
  simp only [Gang.xReg, Gang.setX, Cells.getD_set, regKey_inj hi hj]

end

theorem Gang.pReg_setP (g : Gang) (n : Nat) (m : Mask) (n' : Nat) :
    (g.setP n m).pReg n' = if n' = 0 then BitVec.allOnes 32 else if n = n' then m else g.pReg n' := by
  unfold Gang.pReg Gang.setP
  split
  · rfl
  · next h =>
    split
    · next h0 => rw [if_neg (show ¬n = n' by omega)]
    · exact Cells.getD_set ..

/-- R4, R21: the words of a value written from register r on, read back; where the write is to another lane or slice, nothing changes. -/
theorem joinWords_putWords {wr : Gang → Nat → Word → Gang} {rd : Gang → Nat → Word} {same : Prop} [Decidable same]
    (h : ∀ g r x r', rd (wr g r x) r' = if r = r' ∧ same then x else rd g r') (g : Gang) (r n v : Nat) :
    (same → joinWords (rd (putWords wr g r n v)) r n = v % 2 ^ (32 * n)) ∧
      (¬same → rd (putWords wr g r n v) = rd g) := by
  have below (g : Gang) (r n v : Nat) : ∀ r' < r, rd (putWords wr g r n v) r' = rd g r' := by
    induction n generalizing g r v with
    | zero => exact fun _ _ => rfl
    | succ n ih =>
      intro r' hr
      rw [putWords, ih _ _ _ r' (by omega), h, if_neg (by omega)]
  constructor
  · intro hs
    induction n generalizing g r v with
    | zero => rw [joinWords, Nat.mul_zero, Nat.pow_zero, Nat.mod_one]
    | succ n ih =>
      rw [joinWords, putWords, ih, below _ _ _ _ r (by omega), h, if_pos ⟨rfl, hs⟩, BitVec.toNat_ofNat, Nat.mul_add_one, Nat.add_comm (32 * n),
        Nat.pow_add, Nat.mod_mul]
  · intro hs
    induction n generalizing g r v with
    | zero => rfl
    | succ n ih => exact (ih ..).trans (funext fun r' => (h ..).trans (if_neg fun hr => hs hr.2))

theorem Gang.effective_congr {g g' : Gang} (h : g'.x = g.x) (code : BitVec 8) (lane : Nat) : g'.effective code lane = g.effective code lane := by
  simp only [Gang.effective, Gang.index, Gang.xReg, h]

/-! ## What a destination of v, k and s codes leaves -/

/-- `g'` is `g` with other v, k and s registers. -/
def Gang.SameButData (g g' : Gang) : Prop := ∃ v k s, g' = { g with v := v, k := k, s := s }

namespace Gang.SameButData
variable {g g' : Gang}

theorem refl (g : Gang) : g.SameButData g := ⟨g.v, g.k, g.s, rfl⟩

theorem trans {g'' : Gang} (h : g.SameButData g') (h' : g'.SameButData g'') : g.SameButData g'' := by
  obtain ⟨_, _, _, rfl⟩ := h
  obtain ⟨v, k, s, rfl⟩ := h'
  exact ⟨v, k, s, rfl⟩

theorem x (h : g.SameButData g') : g'.x = g.x := by obtain ⟨_, _, _, rfl⟩ := h; rfl
theorem p (h : g.SameButData g') : g'.p = g.p := by obtain ⟨_, _, _, rfl⟩ := h; rfl
theorem mode (h : g.SameButData g') : g'.mode = g.mode := by obtain ⟨_, _, _, rfl⟩ := h; rfl

theorem putWords {wr : Gang → Nat → Word → Gang} (h : ∀ (g : Gang) r x, g.SameButData (wr g r x)) (g : Gang) (r n v : Nat) :
    g.SameButData (Machine.putWords wr g r n v) := by
  induction n generalizing g r v with
  | zero => exact refl g
  | succ n ih => exact (h g r (BitVec.ofNat 32 v)).trans (ih ..)

theorem putLane (g : Gang) (code : BitVec 8) (w i v : Nat) : g.SameButData (g.putLane code w i v) := by
  unfold Gang.putLane
  extract_lets n
  split_ifs
  · exact putWords (fun (g : Gang) _ _ => ⟨_, g.k, g.s, rfl⟩) ..
  · exact putWords (fun (g : Gang) _ _ => ⟨g.v, _, g.s, rfl⟩) ..
  · exact putWords (fun (g : Gang) _ _ => ⟨_, g.k, g.s, rfl⟩) ..
  · exact putWords (fun (g : Gang) _ _ => ⟨g.v, g.k, _, rfl⟩) ..
  · exact refl g

theorem putLanes (g : Gang) (code : BitVec 8) (w : Nat) (l : List Nat) (v : Nat → Nat) :
    g.SameButData (l.foldl (fun g i => g.putLane code w i (v i)) g) := by
  induction l generalizing g with
  | nil => exact refl g
  | cons i l ih => exact (putLane g code w i (v i)).trans (ih _)

end Gang.SameButData

/-! ## A destination read back (R22, R25) -/

/-- R17, R18: a v, k, v[xn] or s code: a register that is not a predicate. -/
def isData (c : BitVec 8) : Bool := isV c || isK c || isIx c || isS c

/-- R22: lanes i and j share a register of the code: lanes of a slice share the s registers. -/
def SharesReg (code : BitVec 8) (i j : Nat) : Prop := if isS code then i / 4 = j / 4 else i = j

/-- The classes of codes exclude each other. -/
theorem isData_cases {c : BitVec 8} (h : isData c = true) :
    (isV c = true ∧ isS c = false) ∨ (isV c = false ∧ isK c = true ∧ isS c = false) ∨
      (isV c = false ∧ isK c = false ∧ isIx c = true ∧ isS c = false) ∨ (isV c = false ∧ isK c = false ∧ isIx c = false ∧ isS c = true) := by
  revert c
  decide

/-- R22, R25: a lane's value, read back in the lanes that share the register, and no change in the others. -/
theorem Ctx.src_putLane (c : Ctx) (g : Gang) {code : BitVec 8} (hd : isData code = true) {w : Nat} (hw : 32 ∣ w) {i j : Nat} (hi : i < 32)
    (hj : j < 32) (v : Nat) (lit : Option (BitVec 64)) :
    (SharesReg code i j → (c.inGang (g.putLane code w i v)).src lit code w j = v % 2 ^ w) ∧
      (¬SharesReg code i j → (c.inGang (g.putLane code w i v)).src lit code w j = (c.inGang g).src lit code w j) := by
  obtain ⟨n, rfl⟩ := hw
  have hn : 32 * n / 32 = n := by omega
  have hv (r : Nat) := joinWords_putWords (wr := fun g r x => g.setV r i x) (rd := fun g r => g.vReg r j) (same := i = j)
    (fun g r x r' => g.vReg_setV r x r' hi hj) g r n v
  rcases isData_cases hd with ⟨hV, hS⟩ | ⟨hV, hK, hS⟩ | ⟨hV, hK, hI, hS⟩ | ⟨hV, hK, hI, hS⟩
  · simp only [SharesReg, Gang.putLane, Ctx.src, Ctx.inGang, hV, hS, hn, if_true, if_false, Bool.false_eq_true]
    exact (hv code.toNat).imp_right fun h hs => by rw [h hs]
  · have hk := joinWords_putWords (wr := fun g r x => g.setK r i x) (rd := fun g r => g.kReg r j) (same := i = j)
      (fun g r x r' => g.kReg_setK r x r' hi hj) g (code.toNat - 0xB0) n v
    simp only [SharesReg, Gang.putLane, Ctx.src, Ctx.inGang, hV, hK, hS, hn, if_true, if_false, Bool.false_eq_true]
    exact hk.imp_right fun h hs => by rw [h hs]
  · have hx := Gang.effective_congr (Gang.SameButData.putLane g code (32 * n) i v).x code j
    simp only [Gang.putLane, hV, hK, hI, hn, if_true, if_false, Bool.false_eq_true] at hx
    simp only [SharesReg, Gang.putLane, Ctx.src, Ctx.inGang, hV, hK, hI, hS, hn, hx, if_true, if_false, Bool.false_eq_true]
    exact ⟨fun hij => by subst hij; exact (hv _).1 rfl, fun hs => by rw [(hv _).2 hs]⟩
  · have hs := joinWords_putWords (wr := fun g r x => g.setS r (i / 4) x) (rd := fun g r => g.sReg r (j / 4)) (same := i / 4 = j / 4)
      (fun g r x r' => g.sReg_setS r x r' (by omega) (by omega)) g (code.toNat - 0xC0) n v
    simp only [SharesReg, Gang.putLane, Ctx.src, Ctx.inGang, hV, hK, hI, hS, hn, if_true, if_false, Bool.false_eq_true]
    exact hs.imp_right fun h hs => by rw [h hs]

/-- A list of lanes, of which exactly one shares the lane's register, leaves that one's value. -/
theorem Ctx.src_putLanes (c : Ctx) (g : Gang) {code : BitVec 8} (hd : isData code = true) {w : Nat} (hw : 32 ∣ w) {l : List Nat}
    (hl : ∀ i ∈ l, i < 32) {j leader : Nat} (hj : j < 32) (hmem : leader ∈ l) (hshare : ∀ i ∈ l, SharesReg code i j ↔ i = leader)
    (v : Nat → Nat) (lit : Option (BitVec 64)) :
    (c.inGang (l.foldl (fun g i => g.putLane code w i (v i)) g)).src lit code w j = v leader % 2 ^ w := by
  induction l using List.reverseRecOn with
  | nil => cases hmem
  | append_singleton l i ih =>
    rw [List.foldl_append, List.foldl_cons, List.foldl_nil]
    have hi := hl i (by simp)
    by_cases h : i = leader
    · subst h
      exact (c.src_putLane _ hd hw hi hj (v i) lit).1 ((hshare i (by simp)).mpr rfl)
    · rw [(c.src_putLane _ hd hw hi hj (v i) lit).2 ((hshare i (by simp)).not.mpr h)]
      have hmem : leader ∈ l := (List.mem_append.mp hmem).resolve_right fun h' => h (List.mem_singleton.mp h').symm
      exact ih (fun i hi => hl i (by simp [hi])) hmem fun i hi => hshare i (by simp [hi])

/-! ## The lane that a destination takes (R22) -/

theorem Ctx.mem_lanes {c : Ctx} {lane : Nat} : lane ∈ c.lanes ↔ lane < 32 ∧ c.active.getLsbD lane = true := mem_lanesOf

/-- R22: the leader of an ACTIVE lane is ACTIVE and shares its register, and it is the lane itself unless the code names an s register. -/
theorem Ctx.leader_spec (c : Ctx) (code : BitVec 8) {lane : Nat} (h : lane ∈ c.lanes) :
    c.leader code lane ∈ c.lanes ∧ SharesReg code (c.leader code lane) lane := by
  unfold Ctx.leader SharesReg
  split
  · cases hf : (lanesOf c.active).find? fun j => decide (j / 4 = lane / 4) with
    | none => exact absurd (decide_eq_true rfl) (List.find?_eq_none.mp hf lane h)
    | some l => exact ⟨List.mem_of_find?_eq_some hf, of_decide_eq_true (List.find?_some (p := fun j => decide (j / 4 = lane / 4)) hf)⟩
  · exact ⟨h, rfl⟩

/-- The lanes whose values a destination takes. -/
def writers (code : BitVec 8) (active : Mask) : List Nat := if isS code then sliceLeaders active else lanesOf active

theorem mem_lanesOf_of_mem_writers {code : BitVec 8} {active : Mask} {lane : Nat} (h : lane ∈ writers code active) : lane ∈ lanesOf active := by
  unfold writers at h
  split at h
  · exact (List.mem_filter.mp h).1
  · exact h

theorem Ctx.mem_writers_iff (c : Ctx) {code : BitVec 8} {lane i : Nat} (h : lane ∈ c.lanes) (hshare : SharesReg code i lane) :
    i ∈ writers code c.active ↔ i = c.leader code lane := by
  unfold writers Ctx.leader
  unfold SharesReg at hshare
  split
  · next hS =>
    rw [if_pos hS] at hshare
    have hlead := c.leader_spec code h
    simp only [Ctx.leader, SharesReg, hS, if_true] at hlead
    obtain ⟨l, hf⟩ : ∃ l, (lanesOf c.active).find? (fun j => decide (j / 4 = lane / 4)) = some l :=
      Option.isSome_iff_exists.mp (List.find?_isSome.mpr ⟨lane, h, decide_eq_true rfl⟩)
    rw [hf, Option.getD_some] at hlead ⊢
    rw [sliceLeaders, List.mem_filter, hshare, hf, beq_iff_eq, Option.some.injEq]
    exact ⟨fun ⟨_, hi⟩ => hi.symm, fun hi => ⟨hi ▸ hlead.1, hi.symm⟩⟩
  · next hS =>
    rw [if_neg hS] at hshare
    exact iff_of_true (hshare ▸ h) hshare

/-! ## The destination of a register instruction (R22, R24, R25) -/

theorem Gang.putAll_of_isP {code : BitVec 8} (h : isP code = true) (g : Gang) (w : Nat) (active : Mask) (v : Nat → Nat) :
    g.putAll code w active v = g.setP (code.toNat - 0xE4)
      ((g.pReg (code.toNat - 0xE4) &&& ~~~active) ||| (active &&& maskOf fun i => (v i).testBit 0)) := if_pos h

theorem Gang.putAll_of_not_isP {code : BitVec 8} (h : isP code = false) (g : Gang) (w : Nat) (active : Mask) (v : Nat → Nat) :
    g.putAll code w active v = (writers code active).foldl (fun g i => g.putLane code w i (v i)) g := if_neg (ne_true_of_eq_false h)

theorem Gang.SameButData.putAll {code : BitVec 8} (h : isP code = false) (g : Gang) (w : Nat) (active : Mask) (v : Nat → Nat) :
    g.SameButData (g.putAll code w active v) := by
  rw [Gang.putAll_of_not_isP h]
  exact Gang.SameButData.putLanes ..

@[simp] theorem Gang.setP_mode (g : Gang) (n : Nat) (m : Mask) : (g.setP n m).mode = g.mode := by unfold Gang.setP; split <;> rfl

@[simp] theorem Gang.putAll_mode (g : Gang) (code : BitVec 8) (w : Nat) (active : Mask) (v : Nat → Nat) : (g.putAll code w active v).mode = g.mode := by
  cases h : isP code with
  | true => rw [Gang.putAll_of_isP h, Gang.setP_mode]
  | false => exact (Gang.SameButData.putAll h ..).mode

theorem isData_of_vkOk {w : Nat} {code : BitVec 8} (h : vkOk w code = true) : isData code = true := by
  simp only [vkOk, Bool.or_eq_true, Bool.and_eq_true] at h
  rcases h with ⟨⟨h, -⟩, -⟩ | ⟨h, -⟩ <;> simp [isData, h]

/-- R18: what a position for a result accepts. -/
theorem isData_of_accepts_dst {w : Nat} {code : BitVec 8} (h : (Kind.dst w).accepts code = true) : isData code = true := by
  simp only [Kind.accepts, Bool.or_eq_true, Bool.and_eq_true] at h
  rcases h with (h | h) | ⟨⟨h, -⟩, -⟩
  · exact isData_of_vkOk h
  · simp [isData, h]
  · simp [isData, h]

theorem isData_or_isP_of_accepts {w : Nat} {code : BitVec 8} (h : (Kind.dstP w).accepts code = true) : isData code = true ∨ isP code = true :=
  (Bool.or_eq_true ..).mp h |>.imp_left isData_of_accepts_dst

theorem isP_eq_false_of_isData {code : BitVec 8} : isData code = true → isP code = false := by
  revert code
  decide

/-- R24: a lane's bit of a predicate after a write in the ACTIVE lanes. -/
theorem getLsbD_blend (old active : Mask) (p : Nat → Bool) {lane : Nat} (h : lane < 32) :
    ((old &&& ~~~active) ||| (active &&& maskOf p)).getLsbD lane = if active.getLsbD lane then p lane else old.getLsbD lane := by
  simp only [BitVec.getLsbD_or, BitVec.getLsbD_and, BitVec.getLsbD_not, maskOf_getLsbD p h, decide_eq_true h, Bool.true_and]
  cases active.getLsbD lane <;> simp

/-- R22, R24, R25: every destination that a register instruction may name holds, in the ACTIVE lanes, what is written to it. -/
theorem destHolds_putAll {c : Ctx} {f : Long} {w : Nat} (hd : isData f.d = true ∨ isP f.d = true) (hw : 32 ∣ w) (v : Nat → Nat) {g : Gang}
    (hg : isP f.d = true ∨ f.nwb = true → g = c.g) : DestHolds c f w v (if f.nwb then g else g.putAll f.d w c.active v) := by
  unfold DestHolds
  cases hn : f.nwb with
  | true =>
    rw [if_pos rfl, if_pos rfl, hg (.inr hn)]
    exact ⟨rfl, rfl, rfl, rfl, rfl, rfl⟩
  | false =>
    rw [if_neg Bool.false_ne_true, if_neg Bool.false_ne_true]
    cases hP : isP f.d with
    | true =>
      intro lane hlane
      have h0 : f.d.toNat - 0xE4 = 0 ↔ f.d = 0xE4 := by
        simp only [isP, Bool.and_eq_true, decide_eq_true_eq] at hP
        rw [← BitVec.toNat_inj, show (0xE4 : BitVec 8).toNat = 0xE4 from rfl]
        omega
      rw [Gang.putAll_of_isP hP, Gang.pReg_setP, hg (.inl hP)]
      by_cases hd0 : f.d = 0xE4
      · rw [if_pos (h0.mpr hd0), if_pos hd0, BitVec.getLsbD_allOnes, decide_eq_true hlane]
      · rw [if_neg (h0.not.mpr hd0), if_neg hd0, if_pos rfl, getLsbD_blend _ _ _ hlane]
    | false =>
      intro lane hlane
      have hd : isData f.d = true := hd.resolve_right (by simp [hP])
      obtain ⟨hmem, hshare⟩ := c.leader_spec f.d hlane
      rw [Gang.putAll_of_not_isP hP]
      refine c.src_putLanes g hd hw (fun i hi => (mem_lanesOf.mp (mem_lanesOf_of_mem_writers hi)).1) (Ctx.mem_lanes.mp hlane).1
        ((c.mem_writers_iff hlane hshare).mpr rfl) (fun i hi => ⟨fun h => (c.mem_writers_iff hlane h).mp hi, fun h => h ▸ hshare⟩) v none

/-! ## The latch rings (R30, R31) -/

/-- Work over the keys below n that changes, at each, the entry of that key. -/
theorem Cells.find?_foldl_range {α : Type} {step : Cells α → Nat → Cells α} {upd : Nat → Option α → Option α}
    (h : ∀ m j k, Cells.find? (step m j) k = if j = k then upd j (Cells.find? m j) else Cells.find? m k) (m : Cells α) (n k : Nat) :
    Cells.find? ((List.range n).foldl step m) k = if k < n then upd k (Cells.find? m k) else Cells.find? m k := by
  induction n with
  | zero => rfl
  | succ n ih =>
    rw [List.range_succ, List.foldl_append, List.foldl_cons, List.foldl_nil, h]
    by_cases hk : n = k
    · subst hk
      rw [if_pos rfl, if_pos (Nat.lt_succ_self n), ih, if_neg (lt_irrefl n)]
    · rw [if_neg hk, ih]
      exact if_congr (by omega) rfl rfl

/-- R31: the pipe that a fragment has of slice j once it has claimed it. -/
def claimedPipe (sl fid : Nat) (o : Option Pipe) : Pipe := (o.filter fun p => decide (p.slot = sl) && decide (p.fid = fid)).getD ⟨sl, fid, 0, []⟩

theorem claimedPipe_none (sl fid : Nat) : claimedPipe sl fid none = ⟨sl, fid, 0, []⟩ := rfl

theorem claimedPipe_some (sl fid : Nat) (p : Pipe) : claimedPipe sl fid (some p) = if p.slot = sl ∧ p.fid = fid then p else ⟨sl, fid, 0, []⟩ := by
  by_cases h : p.slot = sl ∧ p.fid = fid <;> simp [claimedPipe, Option.filter_some, h]

theorem Core.find?_claim (co : Core) (sl fid : Nat) (ss : BitVec 8) (j : Nat) :
    Cells.find? (co.claim sl fid ss).pipes j =
      if ss.getLsbD j then some (claimedPipe sl fid (Cells.find? co.pipes j)) else Cells.find? co.pipes j := by
  unfold Core.claim
  dsimp only
  rw [Cells.find?_foldl_range (upd := fun j o => if ss.getLsbD j then some (claimedPipe sl fid o) else o)]
  case h =>
    intro ps j k
    cases hss : ss.getLsbD j with
    | false =>
      rw [if_neg Bool.false_ne_true, if_neg Bool.false_ne_true]
      split
      · next hk => rw [hk]
      · rfl
    | true =>
      cases hp : Cells.find? ps j with
      | none => simp [claimedPipe_none, Cells.find?_put]
      | some p =>
        by_cases hown : p.slot = sl ∧ p.fid = fid
        · have hmine : (decide (p.slot = sl) && decide (p.fid = fid)) = true := by simpa using hown
          rw [claimedPipe_some, if_pos hown, if_pos rfl, if_pos rfl]
          simp only [hmine, if_true]
          split
          · next hk => rw [← hk, hp]
          · rfl
        · simp [claimedPipe_some, hown, Cells.find?_put]
  · by_cases hj : j < 8
    · rw [if_pos hj]
    · rw [if_neg hj, BitVec.getLsbD_of_ge ss j (by omega)]; rfl

/-- R30: what a slice's part of a result adds to its ring. -/
def ringEntry (active : Mask) (v : Nat → Nat) (j : Nat) : List Quad :=
  (List.range 4).map fun i => if active.getLsbD (4 * j + i) then BitVec.ofNat 64 (v (4 * j + i)) else 0#64

theorem ringEntry_getD (active : Mask) (v : Nat → Nat) (lane : Nat) :
    (ringEntry active v (lane / 4)).getD (lane % 4) 0 = if active.getLsbD lane then BitVec.ofNat 64 (v lane) else 0#64 := by
  have h : 4 * (lane / 4) + lane % 4 = lane := by omega
  have hlt : lane % 4 < 4 := Nat.mod_lt _ (by decide)
  simp [ringEntry, hlt, h]

/-- R30: the pipe of slice j after a push. -/
def pushedPipe (sl fid : Nat) (e : List Quad) : Option Pipe → Pipe
  | some p => ⟨sl, fid, min 4 (p.depth + 1), (e :: p.ents).take 4⟩
  | none => ⟨sl, fid, 1, [e]⟩

theorem pushedPipe_head (sl fid : Nat) (e : List Quad) (o : Option Pipe) :
    (pushedPipe sl fid e o).slot = sl ∧ (pushedPipe sl fid e o).fid = fid ∧ 0 < (pushedPipe sl fid e o).depth ∧
      (pushedPipe sl fid e o).ents.headD [] = e := by
  cases o <;> simp [pushedPipe]

theorem Core.find?_push (co : Core) (sl fid : Nat) (ss : BitVec 8) (active : Mask) (v : Nat → Nat) (j : Nat) :
    Cells.find? (co.push sl fid ss active v).pipes j =
      if ss.getLsbD j then some (pushedPipe sl fid (ringEntry active v j) (Cells.find? co.pipes j)) else Cells.find? co.pipes j := by
  unfold Core.push
  dsimp only
  rw [Cells.find?_foldl_range (upd := fun j o => if ss.getLsbD j then some (pushedPipe sl fid (ringEntry active v j) o) else o)]
  case h =>
    intro ps j k
    cases hss : ss.getLsbD j with
    | false =>
      rw [if_neg Bool.false_ne_true, if_neg Bool.false_ne_true]
      split
      · next hk => rw [hk]
      · rfl
    | true => cases hp : Cells.find? ps j <;> exact Cells.find?_put ..
  · by_cases hj : j < 8
    · rw [if_pos hj]
    · rw [if_neg hj, BitVec.getLsbD_of_ge ss j (by omega)]; rfl

/-! ## Reading operands once the pipes are the fragment's (R31) -/

/-- The pipe is the fragment's and has an entry n. -/
def Pipe.feeds (p : Pipe) (sl fid n : Nat) : Bool := decide (p.slot = sl) && decide (p.fid = fid) && decide (n < p.depth)

theorem Ctx.latch_eq (c : Ctx) (n lane : Nat) :
    c.latch n lane = ((Cells.find? (c.st.core c.k).pipes (lane / 4)).filter fun p => p.feeds c.sl c.f.fid n).elim
      (Config.freeLatch (128 * c.st.free + 4 * lane + n)).toNat fun p => ((p.ents.getD n []).getD (lane % 4) 0).toNat := by
  unfold Ctx.latch
  cases Cells.find? (c.st.core c.k).pipes (lane / 4) with
  | none => rfl
  | some p => simp only [Option.filter_some, Pipe.feeds]; split <;> rfl

/-- R30, R31: a claim loses no entry that the fragment could read. -/
theorem Ctx.latch_claim (c : Ctx) (n lane : Nat) : c.claim.latch n lane = c.latch n lane := by
  have hpipes : (c.claim.st.core c.claim.k).pipes = ((c.st.core c.k).claim c.sl c.f.fid (slicesOf c.f.mask)).pipes := by
    rw [show c.claim.k = c.k from rfl, Ctx.claim, State.core_modCore, if_pos rfl]
  rw [Ctx.latch_eq, Ctx.latch_eq, hpipes, Core.find?_claim]
  split
  · congr 1
    cases hp : Cells.find? (c.st.core c.k).pipes (lane / 4) with
    | none => simp [claimedPipe_none, Ctx.claim, Option.filter_some, Pipe.feeds]
    | some p =>
      by_cases hown : p.slot = c.sl ∧ p.fid = c.f.fid
      · rw [claimedPipe_some, if_pos hown]; rfl
      · simp [claimedPipe_some, Ctx.claim, hown, Option.filter_some, Pipe.feeds]
  · rfl

@[simp] theorem Ctx.src_claim (c : Ctx) (lit : Option (BitVec 64)) (code : BitVec 8) (w lane : Nat) :
    c.claim.src lit code w lane = c.src lit code w lane := by
  simp only [Ctx.src, Ctx.latch_claim]
  rfl

@[simp] theorem Ctx.mask_claim (c : Ctx) (code : BitVec 8) : c.claim.mask code = c.mask code := rfl

/-! ## The end of an issue (R91, R260, R288) -/

theorem Gang.sameRegs_refl (g : Gang) : g.sameRegs g := ⟨rfl, rfl, rfl, rfl, rfl, rfl⟩

theorem Gang.sameRegs_trans {g h i : Gang} (hgh : g.sameRegs h) (hhi : h.sameRegs i) : g.sameRegs i := by
  obtain ⟨hv, hk, hs, hp, hx, hb⟩ := hgh
  obtain ⟨hv', hk', hs', hp', hx', hb'⟩ := hhi
  exact ⟨hv.trans hv', hk.trans hk', hs.trans hs', hp.trans hp', hx.trans hx', hb.trans hb'⟩

theorem Gang.sameRegs_p {g h : Gang} (hgh : g.sameRegs h) : g.p = h.p := by
  obtain ⟨-, -, -, hp, -, -⟩ := hgh
  exact hp

/-- R261: the times that an instruction leaves behind are no registers. -/
theorem Ctx.timed_sameRegs (c : Ctx) (i : Instr) (g : Gang) : (c.timed i g).sameRegs g ∧ (c.timed i g).mode = g.mode := by
  unfold Ctx.timed
  split
  · exact ⟨g.sameRegs_refl, rfl⟩
  · exact ⟨⟨rfl, rfl, rfl, rfl, rfl, rfl⟩, rfl⟩

@[simp] theorem State.modGang_pipes (s : State) (k sl : Nat) (h : Gang → Gang) (k' : Nat) : ((s.modGang k sl h).core k').pipes = (s.core k').pipes := by
  unfold State.modGang State.setGang
  split
  · rw [State.core_modCore]
    split
    · next hk => rw [hk]
    · rfl
  · rfl

@[simp] theorem State.core_noteIssue (s : State) (k sl k' : Nat) : (s.noteIssue k sl).core k' = s.core k' := rfl
@[simp] theorem State.gang?_noteIssue (s : State) (k sl k' sl' : Nat) : (s.noteIssue k sl).gang? k' sl' = s.gang? k' sl' := rfl

theorem Ctx.conclude_pipes (c : Ctx) (i : Instr) (s : State) (k : Nat) : ((c.conclude i (c.goOn i s)).core k).pipes = (s.core k).pipes := by
  have hgo : ((c.goOn i s).core k).pipes = (s.core k).pipes := State.modGang_pipes ..
  rw [← hgo]
  unfold Ctx.conclude
  rw [State.core_noteIssue, State.core_modCore]
  split
  · next hk => rw [← hk]; exact State.modGang_pipes ..
  · exact State.modGang_pipes ..

/-- An instruction that goes on in sequence ends with the registers and the MODE that its effect gives its gang. -/
theorem Ctx.conclude_gang (c : Ctx) (i : Instr) {s : State} {g : Gang} (h : s.gang? c.k c.sl = some g) :
    ∃ g', (c.conclude i (c.goOn i s)).gang? c.k c.sl = some g' ∧ g'.sameRegs g ∧ g'.mode = g.mode := by
  have hgo : (c.goOn i s).gang? c.k c.sl = some (g.modFrag c.f.fid fun f => f.advance i c.g.level c.g.stepping (c.allReads i)) := by
    rw [Ctx.goOn, State.gang?_modGang, if_pos ⟨rfl, rfl⟩, h]; rfl
  obtain ⟨hregs, hmode⟩ := c.timed_sameRegs i { (g.modFrag c.f.fid fun f => f.advance i c.g.level c.g.stepping (c.allReads i)) with
    seq := g.seq + 1, entry1 := false }
  refine ⟨_, ?_, hregs, hmode⟩
  unfold Ctx.conclude
  rw [State.gang?_noteIssue, State.gang?_modCore, if_pos rfl]
  show State.gang? _ _ _ = _
  rw [State.gang?_modGang, if_pos ⟨rfl, rfl⟩, hgo]
  rfl

/-! ## Register results (R22, R25, R30) -/

/-- A register instruction leaves the gang that it has written, and the fragment's rings pushed. -/
theorem Ctx.writeReg_gang (c : Ctx) (i : Instr) (w : Nat) (v : Nat → Nat) (g : Gang) :
    (c.writeReg i w v g).gang? c.k c.sl = some (if (Instr.long i).nwb then g else g.putAll (Instr.long i).d w c.active v) := by
  unfold Ctx.writeReg
  rw [State.gang?_modCore, if_pos rfl]
  show State.gang? _ _ _ = _
  rw [State.gang?_setGang, if_pos ⟨rfl, rfl⟩]

/-- R30: a slice of the fragment holds the entry pushed last. -/
theorem ringHolds_of_push {c : Ctx} {f : Long} {v ring : Nat → Nat} {t : State} {co : Core}
    (ht : (t.core c.k).pipes = (co.push c.sl c.f.fid (slicesOf c.f.mask) c.active ring).pipes)
    (hring : ∀ lane ∈ c.lanes, BitVec.ofNat 64 (ring lane) = BitVec.ofNat 64 (v (c.leader f.d lane))) : RingHolds c f v t := by
  intro lane hlane hslice
  obtain ⟨hslot, hfid, hdepth, hhead⟩ := pushedPipe_head c.sl c.f.fid (ringEntry c.active ring (lane / 4)) (Cells.find? co.pipes (lane / 4))
  refine ⟨_, by rw [ht, Core.find?_push, if_pos hslice], hslot, hfid, hdepth, ?_⟩
  rw [hhead, ringEntry_getD]
  split
  · next h => exact hring lane (Ctx.mem_lanes.mpr ⟨hlane, h⟩)
  · rfl

theorem ofNat_mod_two_pow_64 (x : Nat) : BitVec.ofNat 64 (x % 2 ^ 64) = BitVec.ofNat 64 x := by
  apply BitVec.eq_of_toNat_eq
  simp

theorem Ctx.writeReg_ring (c : Ctx) (i : Instr) (w : Nat) (v : Nat → Nat) (g : Gang) {t : State}
    (ht : (t.core c.k).pipes = ((c.writeReg i w v g).core c.k).pipes) : RingHolds c (Instr.long i) v t := by
  unfold Ctx.writeReg at ht
  rw [State.core_modCore, if_pos rfl] at ht
  refine ringHolds_of_push ht fun lane _ => ?_
  unfold Ctx.leader
  split <;> exact ofNat_mod_two_pow_64 _

/-- What a context reads of a gang is in its registers. -/
theorem Ctx.src_inGang_congr (c : Ctx) {g g' : Gang} (h : g'.sameRegs g) (lit : Option (BitVec 64)) (code : BitVec 8) (w lane : Nat) :
    (c.inGang g').src lit code w lane = (c.inGang g).src lit code w lane := by
  obtain ⟨hv, hk, hs, -, hx, -⟩ := h
  have hv (r l : Nat) : g'.vReg r l = g.vReg r l := by rw [Gang.vReg, hv]; rfl
  have hk (r l : Nat) : g'.kReg r l = g.kReg r l := by rw [Gang.kReg, hk]; rfl
  have hs (r l : Nat) : g'.sReg r l = g.sReg r l := by rw [Gang.sReg, hs]; rfl
  simp only [Ctx.src, Ctx.inGang, hv, hk, hs, Gang.effective_congr hx]
  rfl

theorem DestHolds.congr {c : Ctx} {f : Long} {w : Nat} {v : Nat → Nat} {g g' : Gang} (hd : DestHolds c f w v g) (h : g'.sameRegs g) :
    DestHolds c f w v g' := by
  have hp := Gang.sameRegs_p h
  unfold DestHolds at hd ⊢
  split
  · next hn => rw [if_pos hn] at hd; exact Gang.sameRegs_trans h hd
  · next hn =>
    rw [if_neg hn] at hd
    split
    · next hP => rw [if_pos hP] at hd; simpa only [Gang.pReg, hp] using hd
    · next hP =>
      rw [if_neg hP] at hd
      exact fun lane hlane => (c.src_inGang_congr h _ _ _ _).trans (hd lane hlane)

/-- R22, R24, R25, R30: a register instruction that issues and makes its effect leaves its result. `g` is the gang before D is written: the
context's own, or one that differs from it where D is not. -/
theorem run_writes {i : Instr} {eff : Ctx → Eff} {s : State} {c : Ctx} (h : Issues i s c) {w : Nat} {v : Nat → Nat} {g : Gang}
    (heff : eff c.claim = .next (c.claim.writeReg i w v g)) (hd : isData (Instr.long i).d = true ∨ isP (Instr.long i).d = true) (hw : 32 ∣ w)
    (hg : isP (Instr.long i).d = true ∨ (Instr.long i).nwb = true → g = c.g) :
    ∃ t g', run i eff s = .next t ∧ c.gangIn t = some g' ∧ RegResult c (Instr.long i) w v t ∧ g'.mode = g.mode ∧
      (isP (Instr.long i).d = false → g'.p = g.p) := by
  obtain ⟨g', hg', hregs, hmode⟩ := c.conclude_gang i (c.claim.writeReg_gang i w v g)
  refine ⟨_, g', by rw [run_of_issues h, heff], hg', ⟨g', hg', (destHolds_putAll hd hw v hg).congr hregs, ?_⟩, ?_, fun hP => ?_⟩
  · exact c.claim.writeReg_ring i w v g (c.conclude_pipes i _ c.k)
  · rw [hmode]
    split
    · rfl
    · exact Gang.putAll_mode ..
  · rw [Gang.sameRegs_p hregs]
    split
    · rfl
    · exact (Gang.SameButData.putAll hP ..).p

/-- The same where D is written to the gang as it stood, so that MODE is as it was. -/
theorem run_writes_kept {i : Instr} {eff : Ctx → Eff} {s : State} {c : Ctx} (h : Issues i s c) {w : Nat} {v : Nat → Nat}
    (heff : eff c.claim = .next (c.claim.writeReg i w v c.g)) (hd : isData (Instr.long i).d = true ∨ isP (Instr.long i).d = true) (hw : 32 ∣ w) :
    ∃ t, run i eff s = .next t ∧ RegResult c (Instr.long i) w v t ∧ ModeKept c t := by
  obtain ⟨t, g', hrun, hg', hres, hmode, -⟩ := run_writes h heff hd hw fun _ => rfl
  exact ⟨t, hrun, hres, g', hg', hmode⟩

end Sys2Proof.Machine
end

section
/-! PROOFS about integers: two's complement (R10, R96), reduction to a format (R38 to R40, R97), packed elements (R39), and what decoding says of an
instruction's formats and destination (R85, R94). -/
namespace Sys2Proof.Machine

/-! ## Two's complement (R10, R96) -/

theorem wrap_modEq (t : Int) (n : Nat) : (wrap t n : Int) ≡ t [ZMOD ((2 ^ n : Nat) : Int)] := by
  have h0 := Int.emod_nonneg t (show ((2 ^ n : Nat) : Int) ≠ 0 by positivity)
  rw [wrap, Int.toNat_of_nonneg h0]
  exact Int.mod_modEq ..

theorem wrap_congr {a b : Int} {n : Nat} (h : a ≡ b [ZMOD ((2 ^ n : Nat) : Int)]) : wrap a n = wrap b n := congrArg Int.toNat h

theorem wrap_natCast (x n : Nat) : wrap x n = x % 2 ^ n := by
  rw [wrap, ← Int.natCast_emod, Int.toNat_natCast]

theorem wrap_mod (t : Int) (n : Nat) : wrap t n % 2 ^ n = wrap t n := Nat.mod_eq_of_lt (wrap_lt t n)

theorem sext_modEq (x n : Nat) : sext x n ≡ x [ZMOD ((2 ^ n : Nat) : Int)] := by
  have hmod : ((x % 2 ^ n : Nat) : Int) ≡ x [ZMOD ((2 ^ n : Nat) : Int)] := by
    rw [Int.natCast_mod]
    exact Int.mod_modEq ..
  unfold sext
  extract_lets y
  split
  · exact hmod
  · exact (Int.sub_modulus_modEq_iff.mpr rfl).trans hmod

theorem two_pow_pred {n : Nat} (h : 0 < n) : 2 ^ n = 2 * 2 ^ (n - 1) := by
  rw [← Nat.pow_succ', Nat.succ_eq_add_one, Nat.sub_add_cancel h]

theorem sext_range {n : Nat} (h : 0 < n) (x : Nat) : -((2 ^ (n - 1) : Nat) : Int) ≤ sext x n ∧ sext x n < ((2 ^ (n - 1) : Nat) : Int) := by
  have hlt : x % 2 ^ n < 2 ^ n := Nat.mod_lt _ (by positivity)
  have hpow := two_pow_pred h
  unfold sext
  extract_lets y
  change y < 2 ^ n at hlt
  split <;> omega

/-! ## Integer formats (R38, R40, R97) -/

namespace IntFmt
variable (f : IntFmt)

theorem val_modEq (x : Nat) : f.val x ≡ x [ZMOD ((2 ^ f.w : Nat) : Int)] := by
  unfold val
  split
  · exact sext_modEq x f.w
  · rw [Int.natCast_mod]
    exact Int.mod_modEq ..

@[simp] theorem val_mod (x : Nat) : f.val (x % 2 ^ f.w) = f.val x := by simp [val, sext]

theorem val_range (h : 0 < f.w) (x : Nat) : f.lo ≤ f.val x ∧ f.val x ≤ f.hi := by
  unfold val lo hi
  split
  · obtain ⟨hlo, hhi⟩ := sext_range h x
    exact ⟨hlo, by omega⟩
  · have hlt : x % 2 ^ f.w < 2 ^ f.w := Nat.mod_lt _ (by positivity)
    omega

/-- R96: a number in range is what its encoding stands for. -/
theorem val_wrap (h : 0 < f.w) {t : Int} (hlo : f.lo ≤ t) (hhi : t ≤ f.hi) : f.val (wrap t f.w) = t := by
  have hpow := two_pow_pred h
  have hval := val_range f h (wrap t f.w)
  have hmod : ((2 ^ f.w : Nat) : Int) ∣ t - f.val (wrap t f.w) := ((f.val_modEq _).trans (wrap_modEq t f.w)).dvd
  have hsmall : |t - f.val (wrap t f.w)| < ((2 ^ f.w : Nat) : Int) := by
    rw [abs_lt]
    unfold lo at hlo hval
    unfold hi at hhi hval
    cases hs : f.signed with
    | true =>
      simp only [hs, if_true] at hlo hhi hval
      omega
    | false =>
      simp only [hs, Bool.false_eq_true, if_false] at hlo hhi hval
      omega
  have := Int.eq_zero_of_abs_lt_dvd hmod hsmall
  omega

theorem outside_eq_false {t : Int} : f.outside t = false ↔ f.lo ≤ t ∧ t ≤ f.hi := by
  simp [outside]

/-- R97: two results that a format cannot tell apart: both out of range at the same end, or equal, and equal in the bits that it keeps. -/
structure Alike (t u : Int) : Prop where
  modEq : t ≡ u [ZMOD ((2 ^ f.w : Nat) : Int)]
  sides : t = u ∨ (t < f.lo ∧ u < f.lo) ∨ (f.hi < t ∧ f.hi < u)

variable {f}

theorem Alike.outside {t u : Int} (h : f.Alike t u) : f.outside t = f.outside u := by
  rcases h.sides with rfl | ⟨ht, hu⟩ | ⟨ht, hu⟩
  · rfl
  · simp [IntFmt.outside, ht, hu]
  · simp [IntFmt.outside, ht, hu]

theorem Alike.reduce {t u : Int} (h : f.Alike t u) (hlohi : f.lo ≤ f.hi) (sat : Bool) : f.reduce sat t = f.reduce sat u := by
  have hmod : wrap t f.w = wrap u f.w := wrap_congr h.modEq
  have hsat : f.sat t = f.sat u := by
    rcases h.sides with rfl | ⟨ht, hu⟩ | ⟨ht, hu⟩
    · rfl
    · simp [IntFmt.sat, ht, hu]
    · simp [IntFmt.sat, ht, hu, show ¬t < f.lo by omega, show ¬u < f.lo by omega]
  cases sat <;> simp [IntFmt.reduce, hmod, hsat]

theorem Alike.refl (t : Int) : f.Alike t t := ⟨rfl, .inl rfl⟩

theorem lo_le_hi (f : IntFmt) : f.lo ≤ f.hi := by
  have h1 : 0 < 2 ^ (f.w - 1) := by positivity
  have h2 : 0 < 2 ^ f.w := by positivity
  unfold lo hi
  split <;> omega

end IntFmt

/-! ## Packed elements (R39) -/

theorem elem_eq (x n j : Nat) : elem x n j = x / 2 ^ (n * j) % 2 ^ n := by rw [elem, Nat.shiftRight_eq_div_pow]

@[simp] theorem elem_zero (x n : Nat) : elem x n 0 = x % 2 ^ n := rfl

theorem packElems_lt (n : Nat) (l : List Nat) : packElems n l < 2 ^ (n * l.length) := by
  induction l with
  | nil => simp [packElems]
  | cons x l ih =>
    have hx : x % 2 ^ n < 2 ^ n := Nat.mod_lt _ (by positivity)
    rw [packElems, List.length_cons, Nat.mul_add_one, Nat.add_comm (n * _), Nat.pow_add]
    calc x % 2 ^ n + 2 ^ n * packElems n l < 2 ^ n * (packElems n l + 1) := by rw [Nat.mul_add_one]; omega
      _ ≤ 2 ^ n * 2 ^ (n * l.length) := Nat.mul_le_mul_left _ ih

theorem elem_packElems (n : Nat) {l : List Nat} {j : Nat} (h : j < l.length) : elem (packElems n l) n j = l[j] % 2 ^ n := by
  induction l generalizing j with
  | nil => cases h
  | cons x l ih =>
    have hx : x % 2 ^ n < 2 ^ n := Nat.mod_lt _ (by positivity)
    cases j with
    | zero => simp [packElems]
    | succ j =>
      have hdiv : packElems n (x :: l) / 2 ^ n = packElems n l := by
        rw [packElems, Nat.add_mul_div_left _ _ (by positivity), Nat.div_eq_of_lt hx, Nat.zero_add]
      rw [elem_eq, Nat.mul_add_one, Nat.add_comm (n * j), Nat.pow_add, ← Nat.div_div_eq_div_mul, hdiv, ← elem_eq,
        ih (Nat.lt_of_succ_lt_succ h)]
      rfl

theorem packReduced_lt (m : IntFmt) (sat : Bool) (l : List Int) : packReduced m sat l < 2 ^ (m.w * l.length) := by
  have h := packElems_lt m.w (l.map (m.reduce sat))
  rwa [List.length_map] at h

theorem elem_packReduced (m : IntFmt) (sat : Bool) {l : List Int} {j : Nat} (h : j < l.length) :
    elem (packReduced m sat l) m.w j = m.reduce sat l[j] := by
  rw [packReduced, elem_packElems m.w (by rwa [List.length_map]), List.getElem_map]
  exact wrap_mod ..

theorem packReduced_singleton (m : IntFmt) (sat : Bool) (t : Int) : packReduced m sat [t] = m.reduce sat t := by
  show m.reduce sat t % 2 ^ m.w + 2 ^ m.w * 0 = _
  rw [Nat.mul_zero, Nat.add_zero]
  exact wrap_mod ..

/-! ## The width of an operand (R4, R17, R86) -/

theorem joinWords_lt (rd : Nat → Word) (r n : Nat) : joinWords rd r n < 2 ^ (32 * n) := by
  induction n generalizing r with
  | zero => exact Nat.one_pos
  | succ n ih =>
    have hw := (rd r).isLt
    rw [joinWords, Nat.mul_add_one, Nat.add_comm (32 * n), Nat.pow_add]
    calc (rd r).toNat + 2 ^ 32 * joinWords rd (r + 1) n < 2 ^ 32 * (joinWords rd (r + 1) n + 1) := by rw [Nat.mul_add_one]; omega
      _ ≤ 2 ^ 32 * 2 ^ (32 * n) := Nat.mul_le_mul_left _ (ih (r + 1))

/-- A source of n words in a lane is a number of that width. -/
theorem Ctx.src_lt (c : Ctx) (lit : Option (BitVec 64)) (code : BitVec 8) {w lane : Nat} (hw : 32 ∣ w) (hpos : 0 < w) (hlane : lane < 32) :
    c.src lit code w lane < 2 ^ w := by
  obtain ⟨n, rfl⟩ := hw
  have hn : 32 * n / 32 = n := by omega
  have h32 : (2 : Nat) ^ 32 ≤ 2 ^ (32 * n) := Nat.pow_le_pow_right (by decide) (by omega)
  have hmod (x : Nat) : x % 2 ^ (32 * n) < 2 ^ (32 * n) := Nat.mod_lt _ (by positivity)
  unfold Ctx.src
  simp only [hn]
  split_ifs
  · exact joinWords_lt ..
  · exact joinWords_lt ..
  · exact joinWords_lt ..
  · exact joinWords_lt ..
  · exact hmod _
  · omega
  · omega
  · exact hmod _
  · positivity

/-! ## What decoding says of formats and operands (R85, R94) -/

theorem accepts_of_decodeCause {hi : Bool} {i : Instr} (h : decodeCause hi i = none) : ∀ u ∈ (Instr.shape i).uses, u.kind.accepts u.code = true := by
  unfold decodeCause at h
  extract_lets sh at h
  split at h
  · cases h
  · split at h
    · cases h
    · split at h
      · next hall => exact List.all_eq_true.mp ((Bool.and_eq_true ..).mp hall).1
      · cases h

theorem Issues.ill {i : Instr} {s : State} {c : Ctx} (h : Issues i s c) : (Instr.shape i).ill = false := ill_of_decodeCause h.1

/-- R18: the D of an instruction that issues, as the first of its positions, names a register that is not a predicate. -/
theorem Issues.isData_d {i : Instr} {s : State} {c : Ctx} (h : Issues i s c) {w : Nat} {l : List Use}
    (huses : (Instr.shape i).uses = ⟨(Instr.long i).d, .dst w⟩ :: l) : isData (Instr.long i).d = true :=
  isData_of_accepts_dst (accepts_of_decodeCause h.1 ⟨(Instr.long i).d, .dst w⟩ (by rw [huses]; exact List.mem_cons_self))

theorem fmtWidth_dvd : ∀ code : BitVec 4, 32 ∣ fmtWidth code := by decide

/-- R85, R96: a format of 32 or 64 bits. -/
theorem fmt_of_le_three {f : Long} (h : fmtN f ≤ 3) :
    (intFmtOf f).w = fmtWidth f.fmt ∧ fmtElems f.fmt = 1 ∧ (fmtWidth f.fmt = 32 ∨ fmtWidth f.fmt = 64) := by
  unfold fmtN at h
  unfold intFmtOf
  generalize f.fmt = code at h ⊢
  revert code
  decide

/-- R85, R96: an integer format, whose elements fill the lane. -/
theorem fmt_of_le_seven {f : Long} (h : fmtN f ≤ 7) : 0 < (intFmtOf f).w ∧ (intFmtOf f).w * fmtElems f.fmt = fmtWidth f.fmt := by
  unfold fmtN at h
  unfold intFmtOf
  generalize f.fmt = code at h ⊢
  revert code
  decide

theorem fmt_of_le_one {f : Long} (h : fmtN f ≤ 1) : (intFmtOf f).w = 32 ∧ fmtWidth f.fmt = 32 := by
  unfold fmtN at h
  unfold intFmtOf
  generalize f.fmt = code at h ⊢
  revert code
  decide

end Sys2Proof.Machine
end

section
/-! PROOFS of the statements on integer arithmetic (spec/05_integer_instructions.md, R97 to R104). -/
namespace Sys2Proof.Machine

/-! ## Instructions that write one value per lane -/

/-- A register instruction whose lanes compute one value each writes it. -/
theorem valueEff_writes {i : Instr} {w : Nat} {v : Ctx → Nat → Nat} {s : State} {c : Ctx} (h : Issues i s c)
    (hexec : exec i s = run i (valueEff i w v) s) (hd : isData (Instr.long i).d = true ∨ isP (Instr.long i).d = true) (hw : 32 ∣ w) :
    ∃ t, exec i s = .next t ∧ RegResult c (Instr.long i) w (v c.claim) t ∧ ModeKept c t := by
  rw [hexec]
  exact run_writes_kept h rfl hd hw

theorem writesValue_of_valueEff {i : Instr} {w : Nat} {v v' : Ctx → Nat → Nat} (hexec : ∀ s, exec i s = run i (valueEff i w v) s)
    {w' : Nat} {l : List Use} (huses : (Instr.shape i).uses = ⟨(Instr.long i).d, .dst w'⟩ :: l) (hw : 32 ∣ w)
    (hv : ∀ s c, Issues i s c → ∀ lane, v c.claim lane = v' c lane) : WritesValue i w v' := by
  intro s c h
  rw [← funext (hv s c h)]
  exact valueEff_writes h (hexec s) (.inl (h.isData_d huses)) hw

/-- R94, R240: a cause that an instruction's own effect raises at level 0 or 1 is taken in its place. -/
theorem run_took {i : Instr} {eff : Ctx → Eff} {s : State} {c : Ctx} {cause : BitVec 6} {v : Nat} (h : Issues i s c)
    (heff : eff c.claim = .raise cause v) (hlevel : c.g.level < 2) : ∃ t, run i eff s = .next t ∧ Took c cause v (c.head i) t := by
  have ⟨_, hctx, _⟩ := h
  refine ⟨_, ?_, (CtxIn.of_ctx hctx).trapSync_took hlevel (readsLatch i) cause v⟩
  rw [run_of_issues h, heff, State.ctx_st hctx]

/-! ## Arithmetic with OVF (R97) -/

/-- R97: results that a format cannot tell apart lie outside it alike. -/
theorem any_outside_of_alike {m : IntFmt} {l l' : List Int} (h : List.Forall₂ m.Alike l l') : l.any m.outside = l'.any m.outside := by
  induction h with
  | nil => rfl
  | cons h _ ih => rw [List.any_cons, List.any_cons, h.outside, ih]

/-- R97: results that a format cannot tell apart are packed alike. -/
theorem packReduced_of_alike {m : IntFmt} {l l' : List Int} (h : List.Forall₂ m.Alike l l') (sat : Bool) :
    packReduced m sat l = packReduced m sat l' := by
  have hmap : l.map (m.reduce sat) = l'.map (m.reduce sat) := by
    induction h with
    | nil => rfl
    | cons h _ ih => rw [List.map_cons, List.map_cons, h.reduce m.lo_le_hi, ih]
  rw [packReduced, hmap]; rfl

theorem alike_of_eq {m : IntFmt} {l l' : List Int} (h : l = l') : List.Forall₂ m.Alike l l' := by
  subst h
  exact List.forall₂_same.mpr fun t _ => .refl t

/-- R97: an instruction that issues computes e exact results x in each lane, which D of w bits is to hold, reduced to the format m. -/
def Arith (i : Instr) (m : IntFmt) (e w : Nat) (x : Ctx → Nat → Nat → Int) : Prop :=
  ∀ s c, Issues i s c → isData (Instr.long i).d = true ∧ m.w * e = w ∧ 32 ∣ w ∧
    ∃ exact, exec i s = run i (arithEff i w m (ovfBit (Instr.long i)) exact) s ∧
      ∀ lane, List.Forall₂ m.Alike (exact c.claim lane) ((List.range e).map (x c lane))

section
variable {i : Instr} {m : IntFmt} {e w : Nat} {x : Ctx → Nat → Nat → Int}

theorem any_range_outside_eq_false {y : Nat → Int} : ((List.range e).map y).any m.outside = false ↔ ∀ j < e, m.lo ≤ y j ∧ y j ≤ m.hi := by
  simp only [List.any_eq_false, List.mem_map, List.mem_range, forall_exists_index, and_imp, forall_apply_eq_imp_iff₂, Bool.not_eq_true,
    IntFmt.outside_eq_false]

/-- R97: what an Arith instruction computes may be said in any other words. -/
theorem Arith.congr {y : Ctx → Nat → Nat → Int} (h : Arith i m e w x) (hxy : ∀ c lane, ∀ j < e, x c lane j = y c lane j) : Arith i m e w y := by
  intro s c hi
  have hmap (lane : Nat) : (List.range e).map (x c lane) = (List.range e).map (y c lane) :=
    List.map_congr_left fun j hj => hxy c lane j (List.mem_range.mp hj)
  obtain ⟨hd, hw, h32, exact, hexec, hx⟩ := h s c hi
  exact ⟨hd, hw, h32, exact, hexec, fun lane => hmap lane ▸ hx lane⟩

/-- R97: unless OVF is set and a result is out of range, D holds the reduced results. -/
theorem Arith.reducesTo (h : Arith i m e w x) : ReducesTo i m e w (fun c => satOf c.g i) x := by
  intro s c hi hrange
  obtain ⟨hd, hw, h32, exact, hexec, hx⟩ := h s c hi
  have hbad : (ovfBit (Instr.long i) && !(c.lanes.filter fun lane => (exact c.claim lane).any m.outside).isEmpty) = false := by
    cases ho : ovfBit (Instr.long i) with
    | false => rfl
    | true =>
      have hnil : c.lanes.filter (fun lane => (exact c.claim lane).any m.outside) = [] := List.filter_eq_nil_iff.mpr fun lane hl => by
        rw [any_outside_of_alike (hx lane), Bool.not_eq_true, any_range_outside_eq_false]
        exact hrange ho lane hl
      rw [hnil]; rfl
  have heff : arithEff i w m (ovfBit (Instr.long i)) exact c.claim =
      .next (c.claim.writeReg i w (fun lane => packReduced m (satOf c.g i) ((List.range e).map (x c lane))) c.g) := by
    rw [← funext fun lane => packReduced_of_alike (hx lane) (satOf c.g i)]
    exact if_neg (ne_true_of_eq_false hbad)
  obtain ⟨t, hrun, hres, hmode⟩ := run_writes_kept hi heff (.inl hd) h32
  refine ⟨t, _, hexec.trans hrun, hres, hmode, fun lane _ => ⟨?_, fun j hj => ?_⟩⟩
  · have hlt := packReduced_lt m (satOf c.g i) ((List.range e).map (x c lane))
    rwa [List.length_map, List.length_range, hw] at hlt
  · rw [elem_packReduced m _ (by simpa using hj), List.getElem_map, List.getElem_range]

/-- R97: with OVF, results out of range in the lanes `bad` trap. -/
theorem Arith.traps (h : Arith i m e w x) {s : State} {c : Ctx} {bad : List Nat} (hi : Issues i s c) (ho : ovfBit (Instr.long i) = true)
    (hlevel : c.g.level < 2) (hbad : c.lanes.filter (fun lane => (List.range e).any fun j => m.outside (x c lane j)) = bad) (hne : bad ≠ []) :
    ∃ t, exec i s = .next t ∧ Took c 0x25 (maskOf fun lane => bad.contains lane).toNat (c.head i) t := by
  obtain ⟨-, -, -, exact, hexec, hx⟩ := h s c hi
  have hfilter : c.lanes.filter (fun lane => (exact c.claim lane).any m.outside) = bad := by
    rw [← hbad]
    congr 1
    funext lane
    rw [any_outside_of_alike (hx lane), List.any_map]; rfl
  have heff : arithEff i w m (ovfBit (Instr.long i)) exact c.claim = .raise 0x25 (maskOf fun lane => bad.contains lane).toNat := by
    rw [← hfilter]
    refine if_pos ?_
    show (_ && !(c.lanes.filter fun lane => (exact c.claim lane).any m.outside).isEmpty) = true
    rw [ho, hfilter, Bool.true_and, List.isEmpty_eq_false_iff.mpr hne]; rfl
  rw [hexec]
  exact run_took hi heff hlevel

end

/-! ## Additions and subtractions (R99) -/

theorem shIadd_legal {f : Long} (h : (shIadd f).ill = false) : fmtN f ≤ 7 ∧ (ccBit f = true → fmtN f ≤ 3 ∧ ovfBit f = false) := by
  simp only [shIadd, regSh, Bool.or_eq_false_iff, Bool.and_eq_false_iff, decide_eq_false_iff_not, not_lt] at h
  obtain ⟨⟨hfmt, hcc⟩, -⟩ := h
  refine ⟨hfmt, fun h => ?_⟩
  obtain ⟨hle, -, hovf⟩ : fmtN f ≤ 3 ∧ f.sat = false ∧ ovfBit f = false := by simpa [h, and_assoc] using hcc
  exact ⟨hle, hovf⟩

/-- R99 without CC; `sub` says which of the two it is. -/
theorem arith_add {i : Instr} {sub : Bool} (hexec : ∀ s, exec i s = run i (addEff sub i) s) (hshape : Instr.shape i = shIadd (Instr.long i))
    (hcc : ccBit (Instr.long i) = false) :
    Arith i (intFmtOf (Instr.long i)) (fmtElems (Instr.long i).fmt) (fmtWidth (Instr.long i).fmt) fun c lane j =>
      if sub then elemA (intFmtOf (Instr.long i)) c i lane j - elemB (intFmtOf (Instr.long i)) c i lane j
        else elemA (intFmtOf (Instr.long i)) c i lane j + elemB (intFmtOf (Instr.long i)) c i lane j := by
  intro s c h
  obtain ⟨hfmt, -⟩ := shIadd_legal (hshape ▸ h.ill)
  refine ⟨h.isData_d (by rw [hshape]; rfl), (fmt_of_le_seven hfmt).2, fmtWidth_dvd _,
    fun c lane => elemResults (intFmtOf (Instr.long i)) (fmtElems (Instr.long i).fmt) (fun a b => if sub then a - b else a + b)
      (c.opA (Instr.long i) lane) (c.opB (Instr.long i) lane), ?_, fun lane => alike_of_eq ?_⟩
  · rw [hexec]
    congr 1
    funext c
    simp [addEff, hcc, intW]
  · simp only [elemResults, Ctx.opA, Ctx.opB, Ctx.src_claim]
    rfl

theorem elemResults_one (m : IntFmt) (op : Int → Int → Int) (a b : Nat) : elemResults m 1 op a b = [op (m.val a) (m.val b)] := by
  simp [elemResults]

/-- R99: with CC, the carry into a lane. -/
def carryIn (c : Ctx) (f : Long) (lane : Nat) : Nat := if (c.mask f.c).getLsbD lane then 1 else 0

/-- R99: the wrapped sum with the carry taken in. -/
theorem reduce_add_carry (m : IntFmt) (a b cin : Nat) :
    m.reduce false (m.val a + m.val b + cin) = (a % 2 ^ m.w + b % 2 ^ m.w + cin) % 2 ^ m.w := by
  have hmod : m.val a + m.val b + cin ≡ ((a % 2 ^ m.w + b % 2 ^ m.w + cin : Nat) : Int) [ZMOD ((2 ^ m.w : Nat) : Int)] := by
    push_cast
    have ha := m.val_modEq (a % 2 ^ m.w)
    have hb := m.val_modEq (b % 2 ^ m.w)
    rw [IntFmt.val_mod] at ha hb
    simpa using (ha.add hb).add_right (cin : Int)
  rw [← wrap_natCast]
  exact wrap_congr hmod

/-- R99: the wrapped difference with the borrow taken in; the statement's 2 × 2^n keeps the natural number from falling below zero. -/
theorem reduce_sub_carry (m : IntFmt) (a b : Nat) {cin : Nat} (hcin : cin ≤ 1) :
    m.reduce false (m.val a - m.val b - cin) = (a % 2 ^ m.w + 2 * 2 ^ m.w - b % 2 ^ m.w - cin) % 2 ^ m.w := by
  have hb : b % 2 ^ m.w < 2 ^ m.w := Nat.mod_lt _ (by positivity)
  have hcast : ((a % 2 ^ m.w + 2 * 2 ^ m.w - b % 2 ^ m.w - cin : Nat) : Int) =
      ((a % 2 ^ m.w : Nat) : Int) - ((b % 2 ^ m.w : Nat) : Int) - cin + ((2 ^ m.w : Nat) : Int) * 2 := by omega
  have hmod : m.val a - m.val b - cin ≡ ((a % 2 ^ m.w + 2 * 2 ^ m.w - b % 2 ^ m.w - cin : Nat) : Int) [ZMOD ((2 ^ m.w : Nat) : Int)] := by
    have ha := m.val_modEq (a % 2 ^ m.w)
    have hb := m.val_modEq (b % 2 ^ m.w)
    rw [IntFmt.val_mod] at ha hb
    rw [hcast]
    exact ((ha.sub hb).sub_right _).trans (Int.modEq_add_fac_self.symm)
  rw [← wrap_natCast]
  exact wrap_congr hmod

/-- R99: the word that an addition or a subtraction with CC leaves, and its carry or borrow, of the n-bit words a and b. -/
def carrySum (sub : Bool) (n a b cin : Nat) : Nat := if sub then (a + 2 * 2 ^ n - b - cin) % 2 ^ n else (a + b + cin) % 2 ^ n
def carryOut (sub : Bool) (n a b cin : Nat) : Bool := if sub then decide (a < b + cin) else decide (2 ^ n ≤ a + b + cin)

theorem packReduced_carry (sub : Bool) (m : IntFmt) (a b : Nat) {cin : Nat} (hcin : cin ≤ 1) :
    packReduced m false (elemResults m 1 (fun a b => if sub then a - b - cin else a + b + cin) a b) =
      carrySum sub m.w (a % 2 ^ m.w) (b % 2 ^ m.w) cin := by
  rw [elemResults_one, packReduced_singleton]
  cases sub with
  | false => exact reduce_add_carry ..
  | true => exact reduce_sub_carry _ _ _ hcin

/-- R99: a carry or borrow is a sum or difference that leaves the unsigned range. -/
theorem carryOut_eq (sub : Bool) {n a b cin : Nat} (ha : a < 2 ^ n) :
    let u : Int := if sub then (a : Int) - b - cin else (a : Int) + b + cin
    (decide (((2 ^ n : Nat) : Int) ≤ u) || decide (u < 0)) = carryOut sub n a b cin := by
  intro u
  rw [← Bool.decide_or]
  cases sub with
  | false =>
    have hu : u = (a : Int) + b + cin := rfl
    exact decide_eq_decide.mpr (by omega)
  | true =>
    have hu : u = (a : Int) - b - cin := rfl
    exact decide_eq_decide.mpr (by omega)

/-- R99: an addition or subtraction with CC writes the sum and the carry. -/
theorem addEff_of_cc (sub : Bool) {i : Instr} (hcc : ccBit (Instr.long i) = true) (c : Ctx) :
    let f := Instr.long i
    let n := (intFmtOf f).w
    let a := fun lane => c.opA f lane % 2 ^ n
    let b := fun lane => c.opB f lane % 2 ^ n
    let p := immF f 2 0
    addEff sub i c = .next (c.writeReg i (intW f) (fun lane => carrySum sub n (a lane) (b lane) (carryIn c f lane))
      (if f.nwb then c.g else c.g.setP p ((c.g.pReg p &&& ~~~c.active) |||
        (c.active &&& maskOf fun lane => carryOut sub n (a lane) (b lane) (carryIn c f lane))))) := by
  intro f n a b p
  have hcin (lane : Nat) : carryIn c f lane ≤ 1 := by unfold carryIn; split <;> decide
  have hsum (lane : Nat) := packReduced_carry sub (intFmtOf f) (c.opA f lane) (c.opB f lane) (hcin lane)
  have hcarry (lane : Nat) := carryOut_eq sub (b := b lane) (cin := carryIn c f lane) (show a lane < 2 ^ n from Nat.mod_lt _ (by positivity))
  simp only [a, b, n, ← hsum, ← hcarry, addEff, hcc, if_true]
  rfl

theorem isP_or_iff_of_isData {f : Long} (h : isData f.d = true) {p : Prop} : isP f.d = true ∨ p ↔ p := by simp [isP_eq_false_of_isData h]

theorem addsWithCarry {i : Instr} {sub : Bool} (hexec : ∀ s, exec i s = run i (addEff sub i) s) (hshape : Instr.shape i = shIadd (Instr.long i)) :
    AddsWithCarry i sub := by
  intro s c h hcc f w cin a b
  obtain ⟨-, hlegal⟩ := shIadd_legal (hshape ▸ h.ill)
  obtain ⟨hw, -, -⟩ := fmt_of_le_three (hlegal hcc).1
  have hd : isData f.d = true := h.isData_d (by rw [hshape]; rfl)
  have heff : addEff sub i c.claim = .next (c.claim.writeReg i w (fun lane => carrySum sub w (a lane) (b lane) (cin lane))
      (if f.nwb then c.g else c.g.setP (immF f 2 0) ((c.g.pReg (immF f 2 0) &&& ~~~c.active) |||
        (c.active &&& maskOf fun lane => carryOut sub w (a lane) (b lane) (cin lane))))) := by
    have heff := addEff_of_cc sub hcc c.claim
    simp only [Ctx.opA, Ctx.opB, Ctx.src_claim, hw] at heff
    exact heff
  obtain ⟨t, g, hrun, hg, hres, -, hp⟩ := run_writes h heff (.inl hd) (fmtWidth_dvd _) fun hn => if_pos ((isP_or_iff_of_isData hd).mp hn)
  refine ⟨t, g, (hexec s).trans hrun, hg, hres, fun hnwb hp0 lane hlane => ?_⟩
  have hpreg : g.pReg (immF f 2 0) = (c.g.pReg (immF f 2 0) &&& ~~~c.active) |||
      (c.active &&& maskOf fun lane => carryOut sub w (a lane) (b lane) (cin lane)) := by
    have h' := c.g.pReg_setP (immF f 2 0) ((c.g.pReg (immF f 2 0) &&& ~~~c.active) |||
      (c.active &&& maskOf fun lane => carryOut sub w (a lane) (b lane) (cin lane))) (immF f 2 0)
    rw [if_neg hp0, if_pos rfl] at h'
    rw [← h', Gang.pReg, hp (isP_eq_false_of_isData hd), if_neg (ne_true_of_eq_false hnwb)]
    rfl
  rw [hpreg, getLsbD_blend _ _ _ hlane]
  rfl

/-! ## Multiplications (R100, R101) -/

theorem shImul_legal {f : Long} (h : (shImul f).ill = false) : fmtN f ≤ 3 := by
  simp only [shImul, regSh, Bool.or_eq_false_iff, decide_eq_false_iff_not, not_lt] at h
  exact h.1

theorem arith_mul {i : Instr} (hexec : ∀ s, exec i s = run i (mulEff i) s) (hshape : Instr.shape i = shImul (Instr.long i)) :
    Arith i (intFmtOf (Instr.long i)) 1 (fmtWidth (Instr.long i).fmt) fun c lane _ =>
      (intFmtOf (Instr.long i)).val (srcA c i (fmtWidth (Instr.long i).fmt) lane) *
        (intFmtOf (Instr.long i)).val (srcB c i (fmtWidth (Instr.long i).fmt) lane) := by
  intro s c h
  obtain ⟨hw, -, -⟩ := fmt_of_le_three (shImul_legal (hshape ▸ h.ill))
  refine ⟨h.isData_d (by rw [hshape]; rfl), by rw [Nat.mul_one, hw], fmtWidth_dvd _, _, hexec s, fun lane => alike_of_eq ?_⟩
  rw [elemResults_one, Ctx.opA, Ctx.opB, Ctx.src_claim, Ctx.src_claim]
  rfl

theorem shPlain_legal {hi : Nat} {f : Long} (h : (shPlain hi f).ill = false) : fmtN f ≤ hi := by
  simpa [shPlain, regSh] using h

theorem shImad_legal {f : Long} (h : (shImad f).ill = false) : fmtN f ≤ 3 ∧ (ccBit f = true → fmtN f ≤ 1) := by
  simp only [shImad, regSh, Bool.or_eq_false_iff, Bool.and_eq_false_iff, decide_eq_false_iff_not, not_lt] at h
  obtain ⟨⟨hfmt, hwide⟩, -⟩ := h
  exact ⟨hfmt, fun h => by simpa [h] using hwide⟩

/-- R101 without WIDE. -/
theorem arith_mad {f : Long} (hcc : ccBit f = false) :
    Arith (.imad f) (intFmtOf f) 1 (fmtWidth f.fmt) fun c lane _ =>
      (intFmtOf f).val (srcA c (.imad f) (fmtWidth f.fmt) lane) * (intFmtOf f).val (srcB c (.imad f) (fmtWidth f.fmt) lane) +
        (intFmtOf f).val (srcC c (.imad f) (fmtWidth f.fmt) lane) := by
  intro s c h
  obtain ⟨hle, -⟩ := shImad_legal h.ill
  obtain ⟨hw, -, -⟩ := fmt_of_le_three hle
  refine ⟨h.isData_d (w := if ccBit f then 64 else fmtWidth f.fmt) rfl, by rw [Nat.mul_one, hw], fmtWidth_dvd _, fun c lane =>
    [(intFmtOf f).val (c.opA f lane) * (intFmtOf f).val (c.opB f lane) + (intFmtOf f).val (c.src f.lit f.c (fmtWidth f.fmt) lane)],
    ?_, fun lane => alike_of_eq ?_⟩
  · rw [show exec (.imad f) s = run (.imad f) (imadEff (.imad f)) s from rfl]
    simp only [imadEff, Instr.long, hcc, hw, Bool.false_eq_true, if_false]
  · simp only [Ctx.opA, Ctx.opB, Ctx.src_claim]
    rfl

/-- R101 with WIDE: 32-bit factors, and a sum of 64 bits. -/
theorem arith_mad_wide {f : Long} (hcc : ccBit f = true) :
    Arith (.imad f) ⟨64, (intFmtOf f).signed⟩ 1 64 fun c lane _ =>
      (intFmtOf f).val (srcA c (.imad f) 32 lane) * (intFmtOf f).val (srcB c (.imad f) 32 lane) +
        (⟨64, (intFmtOf f).signed⟩ : IntFmt).val (srcC c (.imad f) 64 lane) := by
  intro s c h
  obtain ⟨-, hle⟩ := shImad_legal h.ill
  obtain ⟨-, hw⟩ := fmt_of_le_one (hle hcc)
  refine ⟨h.isData_d (w := if ccBit f then 64 else fmtWidth f.fmt) rfl, rfl, by decide, fun c lane =>
    [(intFmtOf f).val (c.opA f lane) * (intFmtOf f).val (c.opB f lane) + (⟨64, (intFmtOf f).signed⟩ : IntFmt).val (c.src f.lit f.c 64 lane)],
    ?_, fun lane => alike_of_eq ?_⟩
  · rw [show exec (.imad f) s = run (.imad f) (imadEff (.imad f)) s from rfl]
    simp only [imadEff, Instr.long, hcc, if_true]
  · simp only [Ctx.opA, Ctx.opB, Ctx.src_claim, intW, hw]
    rfl

theorem mulh_writesValue {i : Instr} (hexec : ∀ s, exec i s = run i (mulhEff i) s) (hshape : Instr.shape i = shPlain 3 (Instr.long i)) :
    WritesValue i (fmtWidth (Instr.long i).fmt) fun c lane =>
      let m := intFmtOf (Instr.long i)
      ((m.val (srcA c i m.w lane) * m.val (srcB c i m.w lane) / ((2 ^ m.w : Nat) : Int)) % ((2 ^ m.w : Nat) : Int)).toNat := by
  refine writesValue_of_valueEff hexec (by rw [hshape]; rfl) (fmtWidth_dvd _) fun s c h lane => ?_
  obtain ⟨hw, -, -⟩ := fmt_of_le_three (shPlain_legal (hshape ▸ h.ill))
  simp only [Ctx.opA, Ctx.opB, Ctx.src_claim, intW, ← hw]
  rfl

/-! ## Shifts (R104) -/

theorem shShl_legal {f : Long} (h : (shShl f).ill = false) : fmtN f ≤ 3 := by
  simp only [shShl, regSh, Bool.or_eq_false_iff, decide_eq_false_iff_not, not_lt] at h
  exact h.1

theorem shShr_legal {f : Long} (h : (shShr f).ill = false) : fmtN f ≤ 3 := by simpa [shShr, regSh] using h

theorem IntFmt.range_of_w_le {m : IntFmt} (h : m.w ≤ 64) : -(2 ^ 64) ≤ m.lo ∧ m.lo ≤ 0 ∧ -1 ≤ m.hi ∧ m.hi < 2 ^ 64 := by
  have h1 : 2 ^ (m.w - 1) ≤ 2 ^ 64 := Nat.pow_le_pow_right (by decide) (by omega)
  have h2 : 2 ^ m.w ≤ 2 ^ 64 := Nat.pow_le_pow_right (by decide) h
  have h3 : 0 < 2 ^ (m.w - 1) := by positivity
  have h4 : 0 < 2 ^ m.w := by positivity
  unfold IntFmt.lo IntFmt.hi
  split <;> omega

/-- R104: a count of 128 or more shifts every bit out of the format, and an overflow stays one. -/
theorem alike_shift {m : IntFmt} (h : m.w ≤ 64) (a : Int) (n : Nat) : m.Alike (a * ((2 ^ min n 128 : Nat) : Int)) (a * ((2 ^ n : Nat) : Int)) := by
  rcases le_total n 128 with hn | hn
  · rw [min_eq_left hn]
    exact .refl _
  · have hpow : (2 : Nat) ^ 128 ≤ 2 ^ n := Nat.pow_le_pow_right (by decide) hn
    have hdvd {k : Nat} (hk : 128 ≤ k) : a * ((2 ^ k : Nat) : Int) ≡ 0 [ZMOD ((2 ^ m.w : Nat) : Int)] :=
      Int.modEq_zero_iff_dvd.mpr (Dvd.dvd.mul_left (Int.natCast_dvd_natCast.mpr (Nat.pow_dvd_pow 2 (by omega))) a)
    obtain ⟨hlo, hlo0, hhi0, hhi⟩ := m.range_of_w_le h
    have hbig : (2 : Int) ^ 128 ≤ ((2 ^ n : Nat) : Int) := by exact_mod_cast hpow
    rw [min_eq_right hn]
    refine ⟨(hdvd le_rfl).trans (hdvd hn).symm, ?_⟩
    rcases lt_trichotomy a 0 with ha | rfl | ha
    · refine .inr (.inl ⟨?_, ?_⟩) <;> push_cast at hbig ⊢ <;> nlinarith
    · exact .inl (by rw [zero_mul, zero_mul])
    · refine .inr (.inr ⟨?_, ?_⟩) <;> push_cast at hbig ⊢ <;> nlinarith

theorem arith_shl {i : Instr} (hexec : ∀ s, exec i s = run i (shlEff i) s) (hshape : Instr.shape i = shShl (Instr.long i)) :
    Arith i (intFmtOf (Instr.long i)) 1 (fmtWidth (Instr.long i).fmt) fun c lane _ =>
      (intFmtOf (Instr.long i)).val (srcA c i (fmtWidth (Instr.long i).fmt) lane) * ((2 ^ srcB c i 32 lane : Nat) : Int) := by
  intro s c h
  obtain ⟨hw, -, hwidth⟩ := fmt_of_le_three (shShl_legal (hshape ▸ h.ill))
  refine ⟨h.isData_d (by rw [hshape]; rfl), by rw [Nat.mul_one, hw], fmtWidth_dvd _, _, hexec s, fun lane => ?_⟩
  simp only [Ctx.opA, Ctx.opB32, Ctx.src_claim]
  exact .cons (alike_shift (by omega) _ _) .nil

/-- R104: a count of 64 or more leaves what one of 64 does. -/
theorem div_two_pow_min {x : Nat} (h : x < 2 ^ 64) (n : Nat) : x / 2 ^ min n 64 = x / 2 ^ n := by
  rcases le_total n 64 with hn | hn
  · rw [min_eq_left hn]
  · rw [min_eq_right hn, Nat.div_eq_of_lt h, Nat.div_eq_of_lt (h.trans_le (Nat.pow_le_pow_right (by decide) hn))]

theorem ediv_two_pow_min {x : Int} (hlo : -(2 ^ 64) ≤ x) (hhi : x < 2 ^ 64) (n : Nat) :
    x / ((2 ^ min n 64 : Nat) : Int) = x / ((2 ^ n : Nat) : Int) := by
  rcases le_total n 64 with hn | hn
  · rw [min_eq_left hn]
  · have hbig : (2 : Int) ^ 64 ≤ ((2 ^ n : Nat) : Int) := by exact_mod_cast Nat.pow_le_pow_right (n := 2) (by decide) hn
    rw [min_eq_right hn]
    rcases lt_or_ge x 0 with hx | hx
    · rw [Int.ediv_eq_neg_one_of_neg_of_le hx (by push_cast; omega), Int.ediv_eq_neg_one_of_neg_of_le hx (by omega)]
    · rw [Int.ediv_eq_zero_of_lt hx (by push_cast; omega), Int.ediv_eq_zero_of_lt hx (by omega)]

theorem shr_writesValue {i : Instr} (hexec : ∀ s, exec i s = run i (shrEff false i) s) (hshape : Instr.shape i = shShr (Instr.long i)) :
    WritesValue i (fmtWidth (Instr.long i).fmt) fun c lane =>
      srcA c i (fmtWidth (Instr.long i).fmt) lane % 2 ^ fmtWidth (Instr.long i).fmt / 2 ^ srcB c i 32 lane := by
  refine writesValue_of_valueEff hexec (by rw [hshape]; rfl) (fmtWidth_dvd _) fun s c h lane => ?_
  obtain ⟨hw, -, hwidth⟩ := fmt_of_le_three (shShr_legal (hshape ▸ h.ill))
  have hlt : srcA c i (fmtWidth (Instr.long i).fmt) lane % 2 ^ fmtWidth (Instr.long i).fmt < 2 ^ 64 :=
    (Nat.mod_lt _ (by positivity)).trans_le (Nat.pow_le_pow_right (by decide) (by omega))
  simp only [Bool.false_eq_true, if_false, Ctx.opA, Ctx.opB32, Ctx.src_claim, hw]
  exact div_two_pow_min hlt _

theorem sar_writesValue {i : Instr} (hexec : ∀ s, exec i s = run i (shrEff true i) s) (hshape : Instr.shape i = shShr (Instr.long i)) :
    WritesValue i (fmtWidth (Instr.long i).fmt) fun c lane =>
      let w := fmtWidth (Instr.long i).fmt
      wrap (sext (srcA c i w lane) w / ((2 ^ srcB c i 32 lane : Nat) : Int)) w := by
  refine writesValue_of_valueEff hexec (by rw [hshape]; rfl) (fmtWidth_dvd _) fun s c h lane => ?_
  obtain ⟨hw, -, hwidth⟩ := fmt_of_le_three (shShr_legal (hshape ▸ h.ill))
  obtain ⟨hlo, hhi⟩ := sext_range (n := fmtWidth (Instr.long i).fmt) (by omega) (srcA c i (fmtWidth (Instr.long i).fmt) lane)
  have hpow : 2 ^ (fmtWidth (Instr.long i).fmt - 1) ≤ 2 ^ 64 := Nat.pow_le_pow_right (by decide) (by omega)
  have hdiv := ediv_two_pow_min (x := sext (srcA c i (fmtWidth (Instr.long i).fmt) lane) (fmtWidth (Instr.long i).fmt)) (by omega) (by omega)
    (srcB c i 32 lane)
  simp only [if_true, Ctx.opA, Ctx.opB32, Ctx.src_claim, hw]
  exact congrArg (wrap · _) hdiv

/-! ## Minimum, maximum and logic (R102, R103) -/

/-- R102: of two numbers in range the element that is kept stands for one of them. -/
theorem elem_minMax {m : IntFmt} {e a b j : Nat} (hw : 0 < m.w) (hj : j < e) (max : Bool) :
    m.val (elem (packReduced m false (elemResults m e (fun a b => if decide (b < a) == max then a else b) a b)) m.w j) =
      if max then Max.max (m.val (elem a m.w j)) (m.val (elem b m.w j)) else Min.min (m.val (elem a m.w j)) (m.val (elem b m.w j)) := by
  have ha := m.val_range hw (elem a m.w j)
  have hb := m.val_range hw (elem b m.w j)
  rw [elem_packReduced m false (by simpa [elemResults] using hj)]
  simp only [elemResults, List.getElem_map, List.getElem_range, IntFmt.reduce, Bool.false_eq_true, if_false]
  generalize m.val (elem a m.w j) = x at ha ⊢
  generalize m.val (elem b m.w j) = y at hb ⊢
  have hxy : m.lo ≤ (if decide (y < x) == max then x else y) ∧ (if decide (y < x) == max then x else y) ≤ m.hi := by split <;> assumption
  rw [m.val_wrap hw hxy.1 hxy.2]
  cases max
  · by_cases h : y < x
    · simp [h, h.le]
    · simp [h, not_lt.mp h]
  · by_cases h : y < x
    · simp [h, h.le]
    · simp [h, not_lt.mp h]

theorem minMax_writes {i : Instr} {max : Bool} (hexec : ∀ s, exec i s = run i (minMaxEff max i) s) {s : State} {c : Ctx} (h : Issues i s c)
    (hshape : Instr.shape i = shPlain 7 (Instr.long i)) :
    ∃ t v, exec i s = .next t ∧ RegResult c (Instr.long i) (fmtWidth (Instr.long i).fmt) v t ∧
      ∀ lane ∈ c.lanes, ∀ j < fmtElems (Instr.long i).fmt, (intFmtOf (Instr.long i)).val (elem (v lane) (intFmtOf (Instr.long i)).w j) =
        if max then Max.max (elemA (intFmtOf (Instr.long i)) c i lane j) (elemB (intFmtOf (Instr.long i)) c i lane j)
          else Min.min (elemA (intFmtOf (Instr.long i)) c i lane j) (elemB (intFmtOf (Instr.long i)) c i lane j) := by
  obtain ⟨hpos, -⟩ := fmt_of_le_seven (shPlain_legal (hshape ▸ h.ill))
  obtain ⟨t, hrun, hres, -⟩ := valueEff_writes h (hexec s) (.inl (h.isData_d (by rw [hshape]; rfl))) (fmtWidth_dvd _)
  refine ⟨t, _, hrun, hres, fun lane _ j hj => ?_⟩
  simp only [Ctx.opA, Ctx.opB, Ctx.src_claim]
  exact elem_minMax hpos hj max

theorem logic_writes {i : Instr} {opN : Nat → Nat → Nat} {op : Bool → Bool → Bool} (hexec : ∀ s, exec i s = run i (logicEff opN i) s)
    (hop : ∀ a b k, (opN a b).testBit k = op (a.testBit k) (b.testBit k)) {s : State} {c : Ctx} (h : Issues i s c)
    (hshape : Instr.shape i = shPlain 3 (Instr.long i)) :
    let w := fmtWidth (Instr.long i).fmt
    ∃ t v, exec i s = .next t ∧ RegResult c (Instr.long i) w v t ∧
      ∀ lane ∈ c.lanes, ∀ k < w, (v lane).testBit k = op ((srcA c i w lane).testBit k) ((srcB c i w lane).testBit k) := by
  obtain ⟨t, hrun, hres, -⟩ := valueEff_writes h (hexec s) (.inl (h.isData_d (by rw [hshape]; rfl))) (fmtWidth_dvd _)
  refine ⟨t, _, hrun, hres, fun lane _ k _ => ?_⟩
  simp only [Ctx.opA, Ctx.opB, Ctx.src_claim]
  exact hop ..

/-- R103: entry a + 2b + 4c of the table. -/
theorem tableBit_eq (t : Nat) (a b c : Bool) : tableBit t a b c = t.testBit (a.toNat + 2 * b.toNat + 4 * c.toNat) := by
  cases a <;> cases b <;> cases c <;> rfl

theorem tern_writes {f : Long} {s : State} {c : Ctx} (h : Issues (.tern f) s c) :
    let w := fmtWidth f.fmt
    ∃ t v, exec (.tern f) s = .next t ∧ RegResult c f w v t ∧
      ∀ lane ∈ c.lanes, ∀ k < w, (v lane).testBit k =
        f.sub.getLsbD (((srcA c (.tern f) w lane).testBit k).toNat + 2 * ((srcB c (.tern f) w lane).testBit k).toNat +
          4 * ((srcC c (.tern f) w lane).testBit k).toNat) := by
  intro w
  obtain ⟨t, hrun, hres, -⟩ := valueEff_writes (v := _) h rfl (.inl (h.isData_d (w := w) rfl)) (fmtWidth_dvd _)
  refine ⟨t, _, hrun, hres, fun lane _ k hk => ?_⟩
  dsimp only
  rw [testBit_foldl_range, decide_eq_true (show k < intW (Instr.long (.tern f)) from hk), Bool.true_and, tableBit_eq]
  simp only [Ctx.opA, Ctx.opB, Ctx.opC, Ctx.src_claim]
  rfl

/-! ## The statements -/

/-- Settles O1: each instruction is one of the arithmetic effects above in its short or its long form; the carries are `addsWithCarry`. -/
theorem integerArithmetic : Obligations.IntegerArithmetic := by
  unfold Obligations.IntegerArithmetic
  refine ⟨⟨fun f hcc => ?_, fun f hcc => ?_, fun f hcc => ?_, fun f hcc => ?_⟩, ⟨fun f => ?_, fun f => ?_⟩, fun i hi => ?_, fun i hi => ?_,
    fun f hcc => (arith_mad hcc).reducesTo, fun f hcc => (arith_mad_wide hcc).reducesTo⟩
  · exact (arith_add (i := .iaddShort f) (fun _ => rfl) rfl hcc).reducesTo
  · exact (arith_add (i := .iadd f) (fun _ => rfl) rfl hcc).reducesTo
  · exact (arith_add (i := .isubShort f) (fun _ => rfl) rfl hcc).reducesTo
  · exact (arith_add (i := .isub f) (fun _ => rfl) rfl hcc).reducesTo
  · exact addsWithCarry (fun _ => rfl) rfl
  · exact addsWithCarry (fun _ => rfl) rfl
  · rcases hi with ⟨f, rfl⟩ | ⟨f, rfl⟩
    · exact (arith_mul (fun _ => rfl) rfl).reducesTo
    · exact (arith_mul (fun _ => rfl) rfl).reducesTo
  · rcases hi with ⟨f, rfl⟩ | ⟨f, rfl⟩
    · exact mulh_writesValue (fun _ => rfl) rfl
    · exact mulh_writesValue (fun _ => rfl) rfl

/-- R39, R96: the only element of an instruction on whole numbers. -/
theorem elemA_zero (c : Ctx) (i : Instr) (lane : Nat) :
    elemA (intFmtOf (Instr.long i)) c i lane 0 = (intFmtOf (Instr.long i)).val (srcA c i (fmtWidth (Instr.long i).fmt) lane) := IntFmt.val_mod ..

theorem elemB_zero (c : Ctx) (i : Instr) (lane : Nat) :
    elemB (intFmtOf (Instr.long i)) c i lane 0 = (intFmtOf (Instr.long i)).val (srcB c i (fmtWidth (Instr.long i).fmt) lane) := IntFmt.val_mod ..

/-- OVF and CC exclude each other. -/
theorem ccBit_eq_false_of_ovf {f : Long} (h : (shIadd f).ill = false) (ho : ovfBit f = true) : ccBit f = false := by
  obtain ⟨-, hlegal⟩ := shIadd_legal h
  cases hcc : ccBit f with
  | false => rfl
  | true => exact absurd ho (ne_true_of_eq_false (hlegal hcc).2)

/-- Settles O2: each of the instructions is arithmetic in the sense of `Arith`. -/
theorem overflowTraps : Obligations.OverflowTraps := by
  unfold Obligations.OverflowTraps
  intro f i m e x hcases s c bad hi ho hlevel hbad hne
  have harith : Instr.long i = f ∧ ∃ w, Arith i m e w x := by
    rcases hcases with ⟨rfl, rfl, rfl, rfl⟩ | ⟨rfl, rfl, rfl, rfl⟩ | ⟨rfl, rfl, rfl, rfl⟩ | ⟨rfl, hcc, rfl, rfl, rfl⟩ |
      ⟨rfl, hcc, rfl, rfl, rfl⟩ | ⟨rfl, rfl, rfl, rfl⟩
    · exact ⟨rfl, _, arith_add (sub := false) (fun _ => rfl) rfl (ccBit_eq_false_of_ovf hi.ill ho)⟩
    · exact ⟨rfl, _, arith_add (sub := true) (fun _ => rfl) rfl (ccBit_eq_false_of_ovf hi.ill ho)⟩
    · refine ⟨rfl, _, (arith_mul (fun _ => rfl) rfl).congr fun c lane j hj => ?_⟩
      rw [Nat.lt_one_iff.mp hj]
      exact congrArg₂ (· * ·) (elemA_zero c (.imul f) lane).symm (elemB_zero c (.imul f) lane).symm
    · refine ⟨rfl, _, (arith_mad hcc).congr fun c lane j hj => ?_⟩
      rw [Nat.lt_one_iff.mp hj]
      exact congrArg₂ (fun a b => a * b + _) (elemA_zero c (.imad f) lane).symm (elemB_zero c (.imad f) lane).symm
    · exact ⟨rfl, _, arith_mad_wide hcc⟩
    · refine ⟨rfl, _, (arith_shl (fun _ => rfl) rfl).congr fun c lane j hj => ?_⟩
      rw [Nat.lt_one_iff.mp hj]
      exact congrArg (· * _) (elemA_zero c (.shl f) lane).symm
  obtain ⟨hlong, w, harith⟩ := harith
  exact harith.traps hi (hlong ▸ ho) hlevel hbad hne

/-- Settles O3: the counts that the model caps do no more than the whole ones (`alike_shift`, `div_two_pow_min`, `ediv_two_pow_min`). -/
theorem logicAndShifts : Obligations.LogicAndShifts := by
  unfold Obligations.LogicAndShifts
  refine ⟨fun i max hi s c h => ?_, ⟨fun i op hi s c h => ?_, fun f s c h => tern_writes h⟩, fun i hi => ?_, fun i hi => ?_, fun i hi => ?_⟩
  · rcases hi with ⟨f, rfl, rfl⟩ | ⟨f, rfl, rfl⟩ | ⟨f, rfl, rfl⟩ | ⟨f, rfl, rfl⟩ <;> exact minMax_writes (fun _ => rfl) h rfl
  · rcases hi with ⟨f, rfl, rfl⟩ | ⟨f, rfl, rfl⟩ | ⟨f, rfl, rfl⟩ | ⟨f, rfl, rfl⟩ | ⟨f, rfl, rfl⟩ | ⟨f, rfl, rfl⟩
    · exact logic_writes (fun _ => rfl) Nat.testBit_and h rfl
    · exact logic_writes (fun _ => rfl) Nat.testBit_and h rfl
    · exact logic_writes (fun _ => rfl) Nat.testBit_or h rfl
    · exact logic_writes (fun _ => rfl) Nat.testBit_or h rfl
    · exact logic_writes (fun _ => rfl) Nat.testBit_xor h rfl
    · exact logic_writes (fun _ => rfl) Nat.testBit_xor h rfl
  · rcases hi with ⟨f, rfl⟩ | ⟨f, rfl⟩ <;> exact (arith_shl (fun _ => rfl) rfl).reducesTo
  · rcases hi with ⟨f, rfl⟩ | ⟨f, rfl⟩ <;> exact shr_writesValue (fun _ => rfl) rfl
  · rcases hi with ⟨f, rfl⟩ | ⟨f, rfl⟩ <;> exact sar_writesValue (fun _ => rfl) rfl

end Sys2Proof.Machine
end

section
/-! PROOFS of the statement on bit fields (spec/05_integer_instructions.md, R105 and R106): counting, reordering, extracting and inserting bits. -/
namespace Sys2Proof.Machine

/-! ## Counting and reordering bits (R105) -/

/-- R105: the zero bits above the highest one. -/
theorem clz_spec {n x : Nat} (hx : x < 2 ^ n) :
    clz n x ≤ n ∧ (∀ k < n, n - clz n x ≤ k → x.testBit k = false) ∧ (clz n x < n → x.testBit (n - 1 - clz n x) = true) := by
  unfold clz
  split
  case isTrue h0 => exact ⟨le_rfl, fun k _ _ => by rw [h0, Nat.zero_testBit], fun h => absurd h (lt_irrefl n)⟩
  case isFalse h0 =>
    have hlog : Nat.log2 x < n := (Nat.log2_lt h0).mpr hx
    refine ⟨by omega, fun k hk hle => Nat.testBit_lt_two_pow ?_, fun _ => ?_⟩
    · exact Nat.lt_log2_self.trans_le (Nat.pow_le_pow_right (by decide) (by omega))
    · rw [show n - 1 - (n - 1 - Nat.log2 x) = Nat.log2 x by omega]
      exact Nat.testBit_log2 h0

/-- R105: the zero bits below the lowest one. -/
theorem ctz_spec (n x : Nat) : ctz n x ≤ n ∧ (∀ k < ctz n x, x.testBit k = false) ∧ (ctz n x < n → x.testBit (ctz n x) = true) := by
  unfold ctz
  cases h : (List.range n).find? fun k => x.testBit k with
  | none =>
    have hzero := List.find?_eq_none.mp h
    exact ⟨le_rfl, fun k hk => Bool.eq_false_iff.mpr (hzero k (List.mem_range.mpr hk)), fun h => absurd h (lt_irrefl n)⟩
  | some k =>
    obtain ⟨hbit, hmem, hbelow⟩ := List.find?_range_eq_some.mp h
    exact ⟨(List.mem_range.mp hmem).le, fun j hj => by simpa using hbelow j hj, fun _ => hbit⟩

theorem brev_testBit {n k : Nat} (x : Nat) (hk : k < n) : (brev n x).testBit (n - 1 - k) = x.testBit k := by
  rw [Bool.eq_iff_iff, brev, testBit_foldl_two_pow (e := fun k => n - 1 - k) (fun i hi j hj h => by omega)]
  constructor
  · rintro ⟨i, hi, hik, hbit⟩
    rwa [show k = i by omega]
  · exact fun hbit => ⟨k, hk, rfl, hbit⟩

/-- Elements summed with the first highest are packed in the reverse order. -/
theorem foldl_elems_eq_packElems {n : Nat} {d : Nat → Nat} (hd : ∀ k, d k < 2 ^ n) (m : Nat) :
    (List.range m).foldl (fun r k => r + d k * 2 ^ (n * (m - 1 - k))) 0 = packElems n ((List.range m).reverse.map d) := by
  have hfold (l : List Nat) (e : Nat → Nat) (r : Nat) : l.foldl (fun r k => r + e k) r = r + (l.map e).sum := by
    induction l generalizing r with
    | nil => rfl
    | cons k l ih => rw [List.foldl_cons, ih, List.map_cons, List.sum_cons, Nat.add_assoc]
  induction m with
  | zero => rfl
  | succ m ih =>
    rw [hfold, Nat.zero_add] at ih ⊢
    have hshift : (List.range m).map (fun k => d k * 2 ^ (n * (m + 1 - 1 - k))) = (List.range m).map fun k => 2 ^ n * (d k * 2 ^ (n * (m - 1 - k))) := by
      refine List.map_congr_left fun k hk => ?_
      have hk := List.mem_range.mp hk
      rw [show m + 1 - 1 - k = m - 1 - k + 1 by omega, Nat.mul_add_one, Nat.pow_add]
      ring
    rw [List.range_succ, List.map_append, List.sum_append, hshift, List.sum_map_mul_left, ih, List.reverse_append, List.map_append]
    simp only [List.map_singleton, List.sum_singleton, List.reverse_singleton, List.singleton_append, packElems, Nat.mod_eq_of_lt (hd m)]
    rw [show m + 1 - 1 - m = 0 by omega, Nat.mul_zero, Nat.pow_zero, Nat.mul_one, Nat.add_comm]

theorem byterev_elem {n k : Nat} (x : Nat) (hk : k < n / 8) : elem (byterev n x) 8 (n / 8 - 1 - k) = elem x 8 k := by
  have hlt (j : Nat) : elem x 8 j < 2 ^ 8 := Nat.mod_lt _ (by decide)
  rw [byterev, foldl_elems_eq_packElems hlt, elem_packElems 8 (by simp; omega), List.getElem_map, List.getElem_reverse, List.getElem_range,
    List.length_range, show n / 8 - 1 - (n / 8 - 1 - k) = k by omega, Nat.mod_eq_of_lt (hlt k)]

/-! ## Bit fields (R106) -/

theorem fieldOf_eq (n d : Nat) : fieldOf n d = (fieldPos d, fieldLen n d) := by
  have hpos : bits d 7 0 = d % 256 := rfl
  have hlen : bits d 15 8 = d / 256 % 256 := by rw [bits, Nat.shiftRight_eq_div_pow]; rfl
  simp only [fieldOf, hpos, hlen, fieldPos, fieldLen]

theorem fieldLen_le (n d : Nat) : fieldPos d + fieldLen n d ≤ n ∨ fieldLen n d = 0 := by
  unfold fieldPos fieldLen
  split <;> omega

/-- The highest bit of an n-bit number. -/
theorem testBit_pred_iff {n y : Nat} (hn : 0 < n) (hy : y < 2 ^ n) : y.testBit (n - 1) = true ↔ 2 ^ (n - 1) ≤ y := by
  have hpow := two_pow_pred hn
  refine ⟨Nat.ge_two_pow_of_testBit, fun h => ?_⟩
  rw [Nat.testBit_eq_decide_div_mod_eq, decide_eq_true_eq, Nat.div_eq_of_lt_le (k := 1) (by omega) (by omega)]

/-- R10: sign extension repeats the highest bit. -/
theorem testBit_wrap_sext {x len w k : Nat} (hlen : 0 < len) (hle : len ≤ w) (hk : k < w) :
    (wrap (sext x len) w).testBit k = if k < len then x.testBit k else x.testBit (len - 1) := by
  have hy : x % 2 ^ len < 2 ^ len := Nat.mod_lt _ (by positivity)
  have hpow : 2 ^ len ≤ 2 ^ w := Nat.pow_le_pow_right (by decide) hle
  have hbit {j : Nat} (hj : j < len) : (x % 2 ^ len).testBit j = x.testBit j := by rw [Nat.testBit_mod_two_pow, decide_eq_true hj, Bool.true_and]
  have htop := testBit_pred_iff hlen hy
  rw [hbit (by omega)] at htop
  by_cases hlt : x % 2 ^ len < 2 ^ (len - 1)
  · rw [show sext x len = ((x % 2 ^ len : Nat) : Int) from if_pos hlt, wrap_natCast, Nat.mod_eq_of_lt (hy.trans_le hpow)]
    have htop : x.testBit (len - 1) = false := Bool.eq_false_iff.mpr (htop.not.mpr (not_le.mpr hlt))
    split
    · next h => exact hbit h
    · next h => rw [htop, Nat.testBit_lt_two_pow (hy.trans_le (Nat.pow_le_pow_right (by decide) (not_lt.mp h)))]
  · have hsplit : 2 ^ w = 2 ^ len * 2 ^ (w - len) := by rw [← Nat.pow_add, Nat.add_sub_cancel' hle]
    have hones : 2 ^ len * (2 ^ (w - len) - 1) = 2 ^ w - 2 ^ len := by rw [Nat.mul_sub_one, ← hsplit]
    have hval : wrap (((x % 2 ^ len : Nat) : Int) - (2 ^ len : Nat)) w = 2 ^ len * (2 ^ (w - len) - 1) + x % 2 ^ len := by
      have hcast : ((2 ^ len * (2 ^ (w - len) - 1) + x % 2 ^ len : Nat) : Int) =
          ((x % 2 ^ len : Nat) : Int) - (2 ^ len : Nat) + ((2 ^ w : Nat) : Int) * 1 := by rw [hones]; omega
      rw [wrap_congr (Int.modEq_add_fac_self (t := 1)).symm, ← hcast, wrap_natCast, Nat.mod_eq_of_lt (by rw [hones]; omega)]
    rw [show sext x len = ((x % 2 ^ len : Nat) : Int) - (2 ^ len : Nat) from if_neg hlt, hval, Nat.testBit_two_pow_mul_add _ hy]
    split
    · next h => exact hbit h
    · rw [Nat.testBit_two_pow_sub_one, htop.mpr (not_lt.mp hlt), decide_eq_true_eq]
      omega

/-- R106: a field put in the place of the bits [pos + len - 1 : pos]. -/
theorem testBit_insert (a b pos len k : Nat) :
    (a % 2 ^ pos + (b % 2 ^ len) * 2 ^ pos + a / 2 ^ (pos + len) * 2 ^ (pos + len)).testBit k =
      if pos ≤ k ∧ k < pos + len then b.testBit (k - pos) else a.testBit k := by
  have ha : a % 2 ^ pos < 2 ^ pos := Nat.mod_lt _ (by positivity)
  have hb : b % 2 ^ len < 2 ^ len := Nat.mod_lt _ (by positivity)
  have hlow : 2 ^ pos * (b % 2 ^ len) + a % 2 ^ pos < 2 ^ (pos + len) := by
    rw [Nat.pow_add]
    calc 2 ^ pos * (b % 2 ^ len) + a % 2 ^ pos < 2 ^ pos * (b % 2 ^ len + 1) := by rw [Nat.mul_add_one]; omega
      _ ≤ 2 ^ pos * 2 ^ len := Nat.mul_le_mul_left _ hb
  have hform : a % 2 ^ pos + (b % 2 ^ len) * 2 ^ pos + a / 2 ^ (pos + len) * 2 ^ (pos + len) =
      2 ^ (pos + len) * (a / 2 ^ (pos + len)) + (2 ^ pos * (b % 2 ^ len) + a % 2 ^ pos) := by ring
  rw [hform, Nat.testBit_two_pow_mul_add _ hlow, Nat.testBit_two_pow_mul_add _ ha]
  simp only [Nat.testBit_mod_two_pow, Nat.testBit_div_two_pow]
  split_ifs with h1 h2 h3 h3 h3
  · omega
  · simp [h2]
  · simp [show k - pos < len by omega]
  · omega
  · omega
  · rw [Nat.sub_add_cancel (by omega)]

/-- R106: what BFE leaves of x. -/
def extractField (m : IntFmt) (pos len x : Nat) : Nat :=
  if len = 0 then 0 else if m.signed then wrap (sext (x >>> pos % 2 ^ len) len) m.w else x >>> pos % 2 ^ len

theorem bfeEff_eq (i : Instr) : bfeEff i = valueEff i (intW (Instr.long i)) fun c lane =>
    let d := if ovfBit (Instr.long i) then immN (Instr.long i) else c.opB32 (Instr.long i) lane
    extractField (intFmtOf (Instr.long i)) (fieldPos d) (fieldLen (intFmtOf (Instr.long i)).w d) (c.opA (Instr.long i) lane) := by
  simp only [bfeEff, fieldOf_eq]
  rfl

/-- R106: what BFI leaves of a and b. -/
def insertField (pos len a b : Nat) : Nat :=
  if len = 0 then a else a % 2 ^ pos + (b % 2 ^ len) * 2 ^ pos + a / 2 ^ (pos + len) * 2 ^ (pos + len)

theorem bfiEff_eq (i : Instr) : bfiEff i = valueEff i (intW (Instr.long i)) fun c lane =>
    let d := if ovfBit (Instr.long i) then immN (Instr.long i) else c.src (Instr.long i).lit (Instr.long i).c 32 lane
    insertField (fieldPos d) (fieldLen (intFmtOf (Instr.long i)).w d) (c.opA (Instr.long i) lane) (c.opB (Instr.long i) lane) := by
  simp only [bfiEff, fieldOf_eq]
  rfl

theorem testBit_field (x pos : Nat) {len k : Nat} (h : k < len) : (x >>> pos % 2 ^ len).testBit k = x.testBit (pos + k) := by
  rw [Nat.testBit_mod_two_pow, decide_eq_true h, Bool.true_and, Nat.testBit_shiftRight]

theorem testBit_extractField (m : IntFmt) {pos len k : Nat} (x : Nat) (hlen : 0 < len) (hle : len ≤ m.w) (hk : k < m.w) :
    (extractField m pos len x).testBit k = if k < len then x.testBit (pos + k) else m.signed && x.testBit (pos + len - 1) := by
  unfold extractField
  rw [if_neg (by omega)]
  cases m.signed with
  | true =>
    rw [if_pos rfl, testBit_wrap_sext hlen hle hk, testBit_field x pos (show len - 1 < len by omega), Bool.true_and,
      show pos + (len - 1) = pos + len - 1 by omega]
    split
    · next h => exact testBit_field x pos h
    · rfl
  | false =>
    rw [if_neg Bool.false_ne_true, Bool.false_and]
    split
    · next h => exact testBit_field x pos h
    · next h => rw [Nat.testBit_mod_two_pow, decide_eq_false h, Bool.false_and]

theorem testBit_insertField (pos len a b k : Nat) :
    (insertField pos len a b).testBit k = if pos ≤ k ∧ k < pos + len then b.testBit (k - pos) else a.testBit k := by
  unfold insertField
  split
  · rw [if_neg (by omega)]
  · exact testBit_insert ..

/-! ## The statement -/

theorem shBitop_legal {f : Long} (h : (shBitop f).ill = false) : fmtN f ≤ 3 := by
  simp only [shBitop, regSh, Bool.or_eq_false_iff, decide_eq_false_iff_not, not_lt] at h
  exact h.1

theorem shBfe_legal {f : Long} (h : (shBfe f).ill = false) : fmtN f ≤ 3 := by simpa [shBfe, regSh] using h
theorem shBfi_legal {f : Long} (h : (shBfi f).ill = false) : fmtN f ≤ 3 := by simpa [shBfi, regSh] using h

/-- R105. -/
theorem bitop_writes {f : Long} {s : State} {c : Ctx} (h : Issues (.bitop f) s c) :
    let n := fmtWidth f.fmt
    ∃ t v, exec (.bitop f) s = .next t ∧ RegResult c f (if subN f ≤ 2 then 32 else n) v t ∧
      ∀ lane ∈ c.lanes,
        let x := srcA c (.bitop f) n lane
        (subN f = 0 → v lane = ((List.range n).filter fun k => x.testBit k).length) ∧
        (subN f = 1 → v lane ≤ n ∧ (∀ k < n, n - v lane ≤ k → x.testBit k = false) ∧ (v lane < n → x.testBit (n - 1 - v lane) = true)) ∧
        (subN f = 2 → v lane ≤ n ∧ (∀ k < v lane, x.testBit k = false) ∧ (v lane < n → x.testBit (v lane) = true)) ∧
        (subN f = 3 → ∀ k < n, (v lane).testBit (n - 1 - k) = x.testBit k) ∧
        (subN f = 4 → ∀ k < n / 8, elem (v lane) 8 (n / 8 - 1 - k) = elem x 8 k) := by
  intro n
  obtain ⟨hw, -, hwidth⟩ := fmt_of_le_three (shBitop_legal h.ill)
  have h32 : 32 ∣ if subN f ≤ 2 then 32 else n := by split <;> [exact dvd_rfl; exact fmtWidth_dvd _]
  obtain ⟨t, hrun, hres, -⟩ := valueEff_writes (v := _) h rfl (.inl (h.isData_d (w := if subN f ≤ 2 then 32 else n) rfl)) h32
  refine ⟨t, _, hrun, hres, fun lane hlane => ?_⟩
  have hx : srcA c (.bitop f) n lane < 2 ^ n := c.src_lt _ _ (fmtWidth_dvd _) (by omega) (Ctx.mem_lanes.mp hlane).1
  simp only [Ctx.opA, Ctx.src_claim, Instr.long, hw]
  refine ⟨fun hs => ?_, fun hs => ?_, fun hs => ?_, fun hs k hk => ?_, fun hs k hk => ?_⟩ <;> simp only [hs]
  · rfl
  · exact clz_spec hx
  · exact ctz_spec n _
  · exact brev_testBit _ hk
  · exact byterev_elem _ hk

/-- R106: BFE. -/
theorem bfe_writes {f : Long} {s : State} {c : Ctx} (h : Issues (.bfe f) s c) :
    let m := intFmtOf f
    ∃ t v, exec (.bfe f) s = .next t ∧ RegResult c f m.w v t ∧
      ∀ lane ∈ c.lanes,
        let d := if ovfBit f then immN f else srcB c (.bfe f) 32 lane
        let x := srcA c (.bfe f) m.w lane
        (fieldLen m.w d = 0 → v lane = 0) ∧
        (∀ k < fieldLen m.w d, (v lane).testBit k = x.testBit (fieldPos d + k)) ∧
        (0 < fieldLen m.w d → ∀ k < m.w, fieldLen m.w d ≤ k →
          (v lane).testBit k = (m.signed && x.testBit (fieldPos d + fieldLen m.w d - 1))) := by
  intro m
  obtain ⟨hw, -, hwidth⟩ := fmt_of_le_three (shBfe_legal h.ill)
  obtain ⟨t, hrun, hres, -⟩ := valueEff_writes h (congrArg (run (.bfe f) · s) (bfeEff_eq (.bfe f))) (.inl (h.isData_d (w := fmtWidth f.fmt) rfl))
    (fmtWidth_dvd _)
  rw [show intW (Instr.long (.bfe f)) = m.w from hw.symm] at hres
  refine ⟨t, _, hrun, hres, fun lane _ => ?_⟩
  intro d x
  simp only [Ctx.opA, Ctx.opB32, Ctx.src_claim, intW, Instr.long, ← hw]
  have hle := fieldLen_le m.w d
  refine ⟨fun h0 => if_pos h0, fun k hk => ?_, fun hpos k hk hge => ?_⟩
  · exact (testBit_extractField m (pos := fieldPos d) (len := fieldLen m.w d) x (by omega) (by omega) (by omega)).trans (if_pos hk)
  · exact (testBit_extractField m (pos := fieldPos d) (len := fieldLen m.w d) x hpos (by omega) hk).trans (if_neg (not_lt.mpr hge))

/-- R106: BFI. -/
theorem bfi_writes {f : Long} {s : State} {c : Ctx} (h : Issues (.bfi f) s c) :
    let n := (intFmtOf f).w
    ∃ t v, exec (.bfi f) s = .next t ∧ RegResult c f n v t ∧
      ∀ lane ∈ c.lanes, ∀ k < n,
        let d := if ovfBit f then immN f else srcC c (.bfi f) 32 lane
        (InField n d k → (v lane).testBit k = (srcB c (.bfi f) n lane).testBit (k - fieldPos d)) ∧
        (¬ InField n d k → (v lane).testBit k = (srcA c (.bfi f) n lane).testBit k) := by
  intro n
  obtain ⟨hw, -, -⟩ := fmt_of_le_three (shBfi_legal h.ill)
  obtain ⟨t, hrun, hres, -⟩ := valueEff_writes h (congrArg (run (.bfi f) · s) (bfiEff_eq (.bfi f))) (.inl (h.isData_d (w := fmtWidth f.fmt) rfl))
    (fmtWidth_dvd _)
  rw [show intW (Instr.long (.bfi f)) = n from hw.symm] at hres
  refine ⟨t, _, hrun, hres, fun lane _ k _ => ?_⟩
  simp only [Ctx.opA, Ctx.opB, Ctx.src_claim, intW, Instr.long, ← hw]
  exact ⟨fun hin => (testBit_insertField ..).trans (if_pos hin), fun hout => (testBit_insertField ..).trans (if_neg hout)⟩

/-- Settles O4: the fields turn on `testBit_extractField` and `testBit_insertField`. -/
theorem bitFields : Obligations.BitFields := by
  unfold Obligations.BitFields
  exact ⟨fun _ _ _ h => bitop_writes h, fun _ _ _ h => bfe_writes h, fun _ _ _ h => bfi_writes h⟩

end Sys2Proof.Machine
end

section
/-! PROOFS of the statement on comparisons, selections, moves, NOP and addresses (spec/05_integer_instructions.md, R107 to R111). -/
namespace Sys2Proof.Machine

/-! ## Comparisons (R107) -/

theorem shIcmp_legal {f : Long} (h : (shIcmp f).ill = false) : fmtN f ≤ 3 ∧ subF f 2 0 ≤ 5 ∧ subF f 4 3 ≠ 3 := by
  simpa [shIcmp, shCmp, regSh, and_assoc] using h

theorem condInt_eq_getD {cond : Nat} (h : cond ≤ 5) (a b : Int) : condInt cond a b =
    [decide (a = b), decide (a ≠ b), decide (a < b), decide (a ≤ b), decide (a > b), decide (a ≥ b)].getD cond false := by
  interval_cases cond <;> rfl

theorem combine_eq_getD {comb : Nat} (h : comb ≤ 2) (r p : Bool) : combine comb r p = [r, r && p, r || p].getD comb false := by
  interval_cases comb <;> rfl

theorem icmp_writes {f : Long} {s : State} {c : Ctx} (h : Issues (.icmp f) s c) :
    let m := intFmtOf f
    let holds := fun (lane : Nat) =>
      let a := m.val (srcA c (.icmp f) m.w lane)
      let b := m.val (srcB c (.icmp f) m.w lane)
      [decide (a = b), decide (a ≠ b), decide (a < b), decide (a ≤ b), decide (a > b), decide (a ≥ b)].getD (subF f 2 0) false
    let p := fun (lane : Nat) => (c.mask f.c).getLsbD lane
    ∃ t, exec (.icmp f) s = .next t ∧
      RegResult c f 32 (fun lane => ([holds lane, holds lane && p lane, holds lane || p lane].getD (subF f 4 3) false).toNat) t := by
  intro m holds p
  obtain ⟨hfmt, hcond, hcomb⟩ := shIcmp_legal h.ill
  obtain ⟨hw, -, -⟩ := fmt_of_le_three hfmt
  have hlt : subF f 4 3 < 4 := Nat.mod_lt _ (by decide)
  have hd : isData f.d = true ∨ isP f.d = true := isData_or_isP_of_accepts (accepts_of_decodeCause h.1 ⟨f.d, .dstP 32⟩ (List.mem_cons_self ..))
  have hval (lane : Nat) :
      (if combine (subF f 4 3) (condInt (subF f 2 0) (m.val (c.claim.opA f lane)) (m.val (c.claim.opB f lane))) (p lane) then 1 else 0) =
      ([holds lane, holds lane && p lane, holds lane || p lane].getD (subF f 4 3) false).toNat := by
    rw [combine_eq_getD (by omega), condInt_eq_getD hcond, Ctx.opA, Ctx.opB, Ctx.src_claim, Ctx.src_claim, show intW f = m.w from hw.symm, Bool.toNat,
      Bool.cond_eq_ite]
    rfl
  obtain ⟨t, hrun, hres, -⟩ := valueEff_writes (v := _) h rfl hd (by decide)
  exact ⟨t, hrun, funext hval ▸ hres⟩

/-! ## Selections and moves (R108, R109) -/

theorem sel_writesValue (f : Long) : WritesValue (.sel f) (fmtWidth f.fmt) fun c lane =>
    if (c.mask f.c).getLsbD lane then srcA c (.sel f) (fmtWidth f.fmt) lane else srcB c (.sel f) (fmtWidth f.fmt) lane :=
  writesValue_of_valueEff (i := .sel f) (fun _ => rfl) (w' := fmtWidth f.fmt) rfl (fmtWidth_dvd _) fun s c _ lane => by
    simp only [Ctx.opA, Ctx.opB, Ctx.src_claim, Ctx.mask_claim]
    rfl

theorem mov_writesValue {i : Instr} (hexec : ∀ s, exec i s = run i (movEff i) s) (hshape : Instr.shape i = shMov (Instr.long i)) :
    WritesValue i (fmtWidth (Instr.long i).fmt) (srcA · i (fmtWidth (Instr.long i).fmt)) :=
  writesValue_of_valueEff hexec (by rw [hshape]; rfl) (fmtWidth_dvd _) fun s c _ lane => by
    simp only [Ctx.opA, Ctx.src_claim]
    rfl

theorem movFromIndex_writesValue (f : Long) : WritesValue (.movFromIndex f) 32 fun c lane => (c.g.xReg (subN f - 0x18) lane).toNat :=
  writesValue_of_valueEff (i := .movFromIndex f) (fun _ => rfl) (w' := 32) rfl dvd_rfl fun s c h lane => by
    have hsub : subN f / 8 = 3 := shMovFrom_sub h.ill
    rw [show subN f - 0x18 = subN f % 8 by omega]
    rfl

/-- R26: the index registers after one of them has been written in some lanes; the other registers are as they were. -/
theorem foldl_setX (g : Gang) (r : Nat) (v : Nat → Word) {l : List Nat} (hl : ∀ lane ∈ l, lane < 32) :
    let g' := l.foldl (fun g lane => g.setX r lane (v lane)) g
    g'.v = g.v ∧ g'.k = g.k ∧ g'.s = g.s ∧ g'.p = g.p ∧
      ∀ n lane, lane < 32 → g'.xReg n lane = if n = r ∧ lane ∈ l then v lane &&& 0x00FFFFFF#32 else g.xReg n lane := by
  induction l generalizing g with
  | nil => simp
  | cons i l ih =>
    obtain ⟨hv, hk, hs, hp, hx⟩ := ih (g.setX r i (v i)) fun lane h => hl lane (List.mem_cons_of_mem _ h)
    refine ⟨hv, hk, hs, hp, fun n lane hlane => (hx n lane hlane).trans ?_⟩
    rw [g.xReg_setX r (v i) n (hl i List.mem_cons_self) hlane]
    by_cases hn : n = r
    · subst hn
      by_cases hi : i = lane <;> simp [hi, List.mem_cons, eq_comm]
    · simp [hn, Ne.symm hn]

theorem toNat_low24 (x : Nat) : (BitVec.ofNat 32 (x % 2 ^ 24) &&& 0x00FFFFFF#32).toNat = x % 2 ^ 24 := by
  rw [BitVec.toNat_and, BitVec.toNat_ofNat, show (0x00FFFFFF#32).toNat = 2 ^ 24 - 1 from rfl, Nat.and_two_pow_sub_one_eq_mod]
  omega

/-- R109: the gang once a MOV into an index register has written it. -/
def Ctx.writtenIndex (c : Ctx) (f : Long) : Gang :=
  if f.nwb then c.g else c.lanes.foldl (fun g lane => g.setX (subN f % 8) lane (BitVec.ofNat 32 (srcA c (.movToIndex f) 32 lane % 2 ^ 24))) c.g

theorem Ctx.writtenIndex_spec (c : Ctx) (f : Long) :
    (c.writtenIndex f).v = c.g.v ∧ (c.writtenIndex f).k = c.g.k ∧ (c.writtenIndex f).s = c.g.s ∧ (c.writtenIndex f).p = c.g.p ∧
      ∀ n lane, lane < 32 → ((c.writtenIndex f).xReg n lane).toNat =
        if n = subN f % 8 ∧ c.active.getLsbD lane ∧ f.nwb = false then srcA c (.movToIndex f) 32 lane % 2 ^ 24 else (c.g.xReg n lane).toNat := by
  unfold Ctx.writtenIndex
  cases f.nwb with
  | true => simp
  | false =>
    obtain ⟨hv, hk, hs, hp, hx⟩ := foldl_setX c.g (subN f % 8) (fun lane => BitVec.ofNat 32 (srcA c (.movToIndex f) 32 lane % 2 ^ 24)) (l := c.lanes)
      fun lane h => (Ctx.mem_lanes.mp h).1
    refine ⟨hv, hk, hs, hp, fun n lane hlane => ?_⟩
    rw [if_neg Bool.false_ne_true, hx n lane hlane, apply_ite BitVec.toNat, toNat_low24]
    simp only [Ctx.mem_lanes, hlane, true_and, and_true]

theorem movToIndex_writes {f : Long} {s : State} {c : Ctx} (h : Issues (.movToIndex f) s c) :
    ∃ t g, exec (.movToIndex f) s = .next t ∧ c.gangIn t = some g ∧ g.v = c.g.v ∧ g.s = c.g.s ∧ g.k = c.g.k ∧ g.p = c.g.p ∧
      ∀ n lane, lane < 32 → (g.xReg n lane).toNat =
        if n = subN f - 0x10 ∧ c.active.getLsbD lane ∧ f.nwb = false then srcA c (.movToIndex f) 32 lane % 2 ^ 24 else (c.g.xReg n lane).toNat := by
  have hsub : subN f / 8 = 2 := shMovTo_sub h.ill
  have hclaim : movToEff (.movToIndex f) c.claim = .next ((c.claim.st.setGang c.k c.sl (c.writtenIndex f)).modCore c.k fun co =>
      co.push c.sl c.f.fid (slicesOf c.f.mask) c.active fun lane => srcA c (.movToIndex f) 32 lane % 2 ^ 24) := by
    simp only [movToEff, Ctx.src_claim]
    rfl
  have hgang : ((c.claim.st.setGang c.k c.sl (c.writtenIndex f)).modCore c.k fun co =>
      co.push c.sl c.f.fid (slicesOf c.f.mask) c.active fun lane => srcA c (.movToIndex f) 32 lane % 2 ^ 24).gang? c.k c.sl = some (c.writtenIndex f) := by
    rw [State.gang?_modCore, if_pos rfl]
    exact (State.gang?_setGang ..).trans (if_pos ⟨rfl, rfl⟩)
  obtain ⟨g, hg, ⟨hv, hk, hs, hp, hx, -⟩, -⟩ := c.conclude_gang (.movToIndex f) hgang
  obtain ⟨hv', hk', hs', hp', hx'⟩ := c.writtenIndex_spec f
  refine ⟨_, g, ?_, hg, hv.trans hv', hs.trans hs', hk.trans hk', hp.trans hp', fun n lane hlane => ?_⟩
  · rw [show exec (.movToIndex f) s = run (.movToIndex f) (movToEff (.movToIndex f)) s from rfl, run_of_issues h, hclaim]
  · rw [Gang.xReg, hx, show subN f - 0x10 = subN f % 8 by omega]
    exact hx' n lane hlane

/-! ## NOP (R110) -/

theorem SameOutside.refl (s : State) : SameOutside s s := rfl

theorem SameOutside.trans {s t u : State} (h : SameOutside s t) (h' : SameOutside t u) : SameOutside s u := by
  unfold SameOutside at h h' ⊢
  rw [h', h]

theorem SameOutside.modCore (s : State) (k : Nat) (h : Core → Core) : SameOutside s (s.modCore k h) := rfl

theorem SameOutside.modGang (s : State) (k sl : Nat) (h : Gang → Gang) : SameOutside s (s.modGang k sl h) := by
  unfold State.modGang
  split <;> rfl

theorem SameOutside.noteIssue (s : State) (k sl : Nat) : SameOutside s (s.noteIssue k sl) := rfl

theorem Ctx.conclude_sameOutside (c : Ctx) (i : Instr) (s : State) : SameOutside s (c.conclude i (c.goOn i s)) :=
  (SameOutside.modGang ..).trans ((SameOutside.modGang ..).trans ((SameOutside.modCore ..).trans (SameOutside.noteIssue ..)))

/-- R31: a pipe that the fragment can read after a claim is the one that it had. -/
theorem Core.find?_claim_own {co : Core} {sl fid j : Nat} {ss : BitVec 8} {p : Pipe} (h : Cells.find? (co.claim sl fid ss).pipes j = some p)
    (hdepth : 0 < p.depth) : Cells.find? co.pipes j = some p := by
  rw [Core.find?_claim] at h
  split at h
  · obtain rfl := Option.some.inj h
    cases hq : Cells.find? co.pipes j with
    | none => rw [hq, claimedPipe_none] at hdepth; cases hdepth
    | some q =>
      rw [hq, claimedPipe_some] at hdepth
      rw [claimedPipe_some]
      split at hdepth
      · next hown => rw [if_pos hown]
      · cases hdepth
  · exact h

theorem nop_keeps {i : Instr} (hexec : ∀ s, exec i s = run i nopEff s) {s : State} {c : Ctx} (h : Issues i s c) :
    ∃ t g, exec i s = .next t ∧ c.gangIn t = some g ∧ g.sameRegs c.g ∧ g.mode = c.g.mode ∧ SameOutside s t ∧
      ∀ j p, Cells.find? (t.core c.k).pipes j = some p → p.slot = c.sl → p.fid = c.f.fid → 0 < p.depth →
        ∃ q, Cells.find? (s.core c.k).pipes j = some q ∧ p.ents = q.ents := by
  have ⟨_, hctx, _⟩ := h
  have hst := State.ctx_st hctx
  have hgang : c.claim.st.gang? c.k c.sl = some c.g := by
    rw [Ctx.claim, State.gang?_modCore, if_pos rfl, hst]
    exact (CtxIn.of_ctx hctx).gang
  obtain ⟨g, hg, hregs, hmode⟩ := c.conclude_gang i hgang
  refine ⟨_, g, by rw [hexec, run_of_issues h]; rfl, hg, hregs, hmode, ?_, fun j p hp _ _ hdepth => ?_⟩
  · rw [← hst]
    exact (SameOutside.modCore ..).trans (c.conclude_sameOutside i _)
  · rw [Ctx.conclude_pipes, Ctx.claim, State.core_modCore, if_pos rfl, hst] at hp
    exact ⟨p, Core.find?_claim_own hp hdepth, rfl⟩

/-! ## Addresses (R111) -/

theorem shLea_legal {f : Long} (h : (shLea f).ill = false) (hkind : subF f 7 4 = 0) : fmtN f ≤ 3 := by
  by_contra hfmt
  simp [shLea, regSh, hkind, hfmt] at h

theorem lea_global {f : Long} {s : State} {c : Ctx} (h : Issues (.lea f) s c) (hkind : subF f 7 4 = 0) :
    let w := fmtWidth f.fmt
    let sh := 2 ^ subF f 2 0
    ∃ t v, exec (.lea f) s = .next t ∧ RegResult c f w v t ∧
      ∀ lane ∈ c.lanes,
        let b : Int := if f.sub.getLsbD 3 then (if (intFmtOf f).signed then sext (srcB c (.lea f) 32 lane) 32 else srcB c (.lea f) 32 lane)
          else srcB c (.lea f) w lane
        v lane < 2 ^ w ∧ (v lane : Int) ≡ srcA c (.lea f) w lane + b * sh + sext (immN f) 32 [ZMOD 2 ^ w] := by
  intro w sh
  obtain ⟨hw, -, -⟩ := fmt_of_le_three (shLea_legal h.ill hkind)
  have heff : leaEff (.lea f) = valueEff (.lea f) w fun c lane =>
      let b : Int := if f.sub.getLsbD 3 then (if (intFmtOf f).signed then sext (c.opB32 f lane) 32 else (c.opB32 f lane : Nat)) else (c.opB f lane : Nat)
      wrap ((c.opA f lane : Nat) + b * ((2 ^ subF f 2 0 : Nat) : Int) + sext (immN f) 32) (intFmtOf f).w := if_pos hkind
  obtain ⟨t, hrun, hres, -⟩ := valueEff_writes h (congrArg (run (.lea f) · s) heff) (.inl (h.isData_d (w := if subF f 7 4 = 0 then w else 32) rfl))
    (fmtWidth_dvd _)
  refine ⟨t, _, hrun, hres, fun lane _ => ?_⟩
  intro b
  have hmod := wrap_modEq (srcA c (.lea f) w lane + b * ((2 ^ subF f 2 0 : Nat) : Int) + sext (immN f) 32) w
  simp only [Ctx.opA, Ctx.opB, Ctx.opB32, Ctx.src_claim, hw]
  refine ⟨wrap_lt _ _, ?_⟩
  rw [Nat.cast_pow, Nat.cast_pow] at hmod
  exact hmod

/-- R111: the address of byte x of the scratchpad of core n of the cluster. -/
def clusterAddr (x : Int) (n : Nat) : Nat := wrap x 20 + bits n 5 0 * 2 ^ 20 + 2 ^ 26

theorem clusterAddr_fields (x : Int) (n : Nat) : (clusterAddr x n : Int) % 2 ^ 20 = x % 2 ^ 20 ∧ clusterAddr x n / 2 ^ 20 = 64 + n % 64 := by
  have hbits : bits n 5 0 = n % 64 := rfl
  have hlt := wrap_lt x 20
  have hmod : (wrap x 20 : Int) % 2 ^ 20 = x % 2 ^ 20 := wrap_modEq x 20
  rw [clusterAddr, hbits]
  constructor
  · push_cast
    omega
  · omega

theorem lea_cluster {f : Long} {s : State} {c : Ctx} (h : Issues (.lea f) s c) (hkind : subF f 7 4 = 1) :
    let sh := 2 ^ subF f 2 0
    ∃ t v, exec (.lea f) s = .next t ∧ RegResult c f 32 v t ∧
      ∀ lane ∈ c.lanes,
        (v lane : Int) % 2 ^ 20 = ((srcA c (.lea f) 32 lane : Int) + srcB c (.lea f) 32 lane * sh + sext (immN f) 32) % 2 ^ 20 ∧
        v lane / 2 ^ 20 = 64 + srcC c (.lea f) 32 lane % 64 := by
  intro sh
  have heff : leaEff (.lea f) = valueEff (.lea f) 32 fun c lane =>
      clusterAddr (((c.src f.lit f.a 32 lane + c.opB32 f lane * 2 ^ subF f 2 0 : Nat) : Int) + sext (immN f) 32) (c.src f.lit f.c 32 lane) :=
    if_neg (by rw [Instr.long, hkind]; decide)
  obtain ⟨t, hrun, hres, -⟩ := valueEff_writes h (congrArg (run (.lea f) · s) heff)
    (.inl (h.isData_d (w := if subF f 7 4 = 0 then fmtWidth f.fmt else 32) rfl)) dvd_rfl
  refine ⟨t, _, hrun, hres, fun lane _ => ?_⟩
  simp only [Ctx.opB32, Ctx.src_claim]
  have haddr := clusterAddr_fields (((srcA c (.lea f) 32 lane + srcB c (.lea f) 32 lane * 2 ^ subF f 2 0 : Nat) : Int) + sext (immN f) 32)
    (srcC c (.lea f) 32 lane)
  rw [Nat.cast_add, Nat.cast_mul, Nat.cast_pow] at haddr
  exact haddr

/-- Settles O5: each instruction is the lemma above that bears its name. -/
theorem compareMoveAndAddress : Obligations.CompareMoveAndAddress := by
  unfold Obligations.CompareMoveAndAddress
  refine ⟨⟨fun f s c h => icmp_writes h, sel_writesValue, fun i hi => ?_, movFromIndex_writesValue, fun f s c h => movToIndex_writes h,
    fun i hi s c h => ?_⟩, fun f s c h => ⟨lea_global h, lea_cluster h⟩⟩
  · rcases hi with ⟨f, rfl⟩ | ⟨f, rfl⟩ <;> exact mov_writesValue (fun _ => rfl) rfl
  · rcases hi with ⟨f, rfl⟩ | ⟨f, rfl⟩ <;> exact nop_keeps (fun _ => rfl) h

end Sys2Proof.Machine
end

section
/-! PROOFS about register instructions that raise flags (R35, R50, R51), and about results that fit their format: for every statement on floating-point
instructions. -/
namespace Sys2Proof.Machine

/-! ## Register results with flags (R35, R50) -/

/-- A destination that holds its result beside a gang with the context's registers holds it beside the context's own gang. -/
theorem DestHolds.of_inGang {c : Ctx} {f : Long} {w : Nat} {v : Nat → Nat} {g g' : Gang} (hg : g.sameRegs c.g) (h : DestHolds (c.inGang g) f w v g') :
    DestHolds c f w v g' := by
  have hp (n : Nat) : g.pReg n = c.g.pReg n := by rw [Gang.pReg, Gang.sameRegs_p hg]; rfl
  unfold DestHolds at h ⊢
  split
  · next hn => rw [if_pos hn] at h; exact Gang.sameRegs_trans h hg
  · next hn =>
    rw [if_neg hn] at h
    split
    · next hP => rw [if_pos hP] at h; exact fun lane hl => (h lane hl).trans (by rw [← hp]; rfl)
    · next hP => rw [if_neg hP] at h; exact h

/-- R25, R35, R50: a register instruction that raises flags leaves its result, and MODE has gained the flags. -/
theorem run_raises {i : Instr} {eff : Ctx → Eff} {s : State} {c : Ctx} (h : Issues i s c) {w cycle : Nat} {v : Nat → Nat} {fl : Flags}
    (heff : eff c.claim = .next (c.claim.writeReg i w v (c.g.raise cycle fl))) (hd : isData (Instr.long i).d = true ∨ isP (Instr.long i).d = true)
    (hw : 32 ∣ w) :
    ∃ t g, run i eff s = .next t ∧ c.gangIn t = some g ∧ RegResult c (Instr.long i) w v t ∧ g.mode = c.g.mode ||| (fl.setWidth 32 <<< 6) := by
  obtain ⟨g', hg', hregs, hmode⟩ := c.conclude_gang i (c.claim.writeReg_gang i w v (c.g.raise cycle fl))
  have hdest := (destHolds_putAll (c := c.inGang (c.g.raise cycle fl)) hd hw v fun _ => rfl).of_inGang (c.g.sameRegs_refl)
  refine ⟨_, g', by rw [run_of_issues h, heff], hg', ⟨g', hg', hdest.congr hregs, ?_⟩, ?_⟩
  · exact c.claim.writeReg_ring i w v _ (c.conclude_pipes i _ c.k)
  · rw [hmode]
    split
    · rfl
    · exact Gang.putAll_mode ..

/-! ## The union of flags (R50) -/

theorem foldl_or_flags {α : Type} (l : List α) (fl : α → Flags) (a : Flags) :
    l.foldl (fun a x => a ||| fl x) a = a ||| l.foldl (fun a x => a ||| fl x) 0 := by
  induction l generalizing a with
  | nil => simp
  | cons x l ih =>
    have h0 : 0 ||| fl x = fl x := BitVec.zero_or
    rw [List.foldl_cons, List.foldl_cons, ih, ih (0 ||| fl x), h0, BitVec.or_assoc]

/-- R50: the flags of a lane's n results together. -/
def laneFlags (n : Nat) (fl : Nat → Flags) : Flags := (List.range n).foldl (fun a j => a ||| fl j) 0

@[simp] theorem laneFlags_one (fl : Nat → Flags) : laneFlags 1 fl = fl 0 := BitVec.zero_or
@[simp] theorem laneFlags_two (fl : Nat → Flags) : laneFlags 2 fl = fl 0 ||| fl 1 := congrArg (· ||| fl 1) BitVec.zero_or

theorem allFlags_eq (c : Ctx) (n : Nat) (fl : Nat → Nat → Flags) : allFlags c n fl = unionFlags c.lanes fun lane => laneFlags n (fl lane) :=
  List.foldl_ext _ _ _ fun a lane _ => foldl_or_flags (List.range n) (fl lane) a

theorem unionFlags_congr {lanes : List Nat} {fl fl' : Nat → Flags} (h : ∀ lane ∈ lanes, fl lane = fl' lane) :
    unionFlags lanes fl = unionFlags lanes fl' :=
  List.foldl_ext _ _ _ fun a lane hl => congrArg (a ||| ·) (h lane hl)

/-! ## Flags that trap (R51) -/

theorem flagCause_eq_none : ∀ fl : Flags, flagCause fl = none ↔ fl = 0 := by decide

/-- R51: the cause of a flag, and the flag as a mask, when no flag before it in the order is raised. -/
theorem flagCause_of_first : ∀ (fl : Flags) (k : Fin 5), fl.getLsbD k = true → (∀ h : Fin 5, k < h → fl.getLsbD h = false) →
    flagCause fl = some (BitVec.ofNat 6 (0x24 - k), BitVec.twoPow 5 k) := by decide

theorem and_twoPow_ne_zero : ∀ (fl : Flags) (k : Fin 5), (fl &&& BitVec.twoPow 5 k != 0) = fl.getLsbD k := by decide

theorem maskOf_congr {p q : Nat → Bool} (h : ∀ lane < 32, p lane = q lane) : maskOf p = maskOf q :=
  BitVec.eq_of_getLsbD_eq fun lane hl => by rw [maskOf_getLsbD p hl, maskOf_getLsbD q hl, h lane hl]

theorem Ctx.contains_lanes (c : Ctx) {lane : Nat} (h : lane < 32) : c.lanes.contains lane = c.active.getLsbD lane := by
  rw [Bool.eq_iff_iff, List.contains_iff_mem, Ctx.mem_lanes, and_iff_right h]

theorem flagTrap_eq_none {trapen : Flags} {lanes : List Nat} {fl : Nat → Flags} (h : unionFlags lanes fl &&& trapen = 0) :
    flagTrap trapen lanes fl = none := by
  rw [flagTrap, (flagCause_eq_none _).mpr h]

/-- R51: the first enabled flag traps, with the lanes that raised it. -/
theorem flagTrap_of_first (c : Ctx) {trapen : Flags} {fl fl' : Nat → Flags} (hfl : ∀ lane ∈ c.lanes, fl lane = fl' lane) {k : Nat} (hk : k < 5)
    (hset : (unionFlags c.lanes fl &&& trapen).getLsbD k = true)
    (hfirst : ∀ h, k < h → h < 5 → (unionFlags c.lanes fl &&& trapen).getLsbD h = false) :
    flagTrap trapen c.lanes fl =
      some (BitVec.ofNat 6 (0x24 - k), (maskOf fun lane => c.active.getLsbD lane && (fl' lane).getLsbD k).toNat) := by
  have hmask : (maskOf fun lane => c.lanes.contains lane && (fl lane &&& BitVec.twoPow 5 k != 0)) =
      maskOf fun lane => c.active.getLsbD lane && (fl' lane).getLsbD k := maskOf_congr fun lane hl => by
    rw [c.contains_lanes hl, and_twoPow_ne_zero (fl lane) ⟨k, hk⟩]
    cases hactive : c.active.getLsbD lane with
    | false => rfl
    | true => rw [hfl lane (Ctx.mem_lanes.mpr ⟨hl, hactive⟩)]
  rw [flagTrap, flagCause_of_first _ ⟨k, hk⟩ hset fun h hlt => hfirst h hlt h.isLt, ← hmask]

/-! ## Instructions whose lanes compute a value and flags (R50, R51) -/

section
variable {i : Instr} {w : Nat} {v : Ctx → Nat → Nat × Flags} {s : State} {c : Ctx}

/-- R50: such an instruction completes when no flag that it raises is enabled. -/
theorem flagEff_completes (h : Issues i s c) (hexec : exec i s = run i (flagEff i w v) s)
    (hd : isData (Instr.long i).d = true ∨ isP (Instr.long i).d = true) (hw : 32 ∣ w)
    (hfl : unionFlags c.lanes (fun lane => (v c.claim lane).2) &&& c.g.trapen = 0) :
    ∃ t g, exec i s = .next t ∧ c.gangIn t = some g ∧ RegResult c (Instr.long i) w (fun lane => (v c.claim lane).1) t ∧
      g.mode = c.g.mode ||| ((unionFlags c.lanes fun lane => (v c.claim lane).2).setWidth 32 <<< 6) := by
  rw [hexec]
  refine run_raises h (cycle := c.claim.st.cycle) ?_ hd hw
  have hnone : flagTrap c.claim.g.trapen c.claim.lanes (fun lane => (v c.claim lane).2) = none := flagTrap_eq_none hfl
  simp only [flagEff, hnone]
  rfl

/-- R51: it traps when one is. -/
theorem flagEff_traps (h : Issues i s c) (hexec : exec i s = run i (flagEff i w v) s) (hlevel : c.g.level < 2) {cause : BitVec 6} {value : Nat}
    (htrap : flagTrap c.g.trapen c.lanes (fun lane => (v c.claim lane).2) = some (cause, value)) :
    ∃ t, exec i s = .next t ∧ Took c cause value (c.head i) t := by
  rw [hexec]
  refine run_took h ?_ hlevel
  have htrap : flagTrap c.claim.g.trapen c.claim.lanes (fun lane => (v c.claim lane).2) = some (cause, value) := htrap
  simp only [flagEff, htrap]

end

/-- R18: D names a register or a predicate in every instruction that issues. -/
def NamesRegister (i : Instr) : Prop := ∀ s c, Issues i s c → isData (Instr.long i).d = true ∨ isP (Instr.long i).d = true

theorem namesRegister_of_dst {i : Instr} {w : Nat} {l : List Use} (huses : (Instr.shape i).uses = ⟨(Instr.long i).d, .dst w⟩ :: l) : NamesRegister i :=
  fun _ _ h => .inl (h.isData_d huses)

theorem namesRegister_of_dstP {i : Instr} {w : Nat} {l : List Use} (huses : (Instr.shape i).uses = ⟨(Instr.long i).d, .dstP w⟩ :: l) : NamesRegister i :=
  fun _ _ h => isData_or_isP_of_accepts (accepts_of_decodeCause h.1 ⟨(Instr.long i).d, .dstP w⟩ (by rw [huses]; exact List.mem_cons_self))

/-- R50, R51: what an instruction of n results per lane does is said by its results and their flags in the ACTIVE lanes. -/
theorem flaggedResult_of_flagEff {i : Instr} {ew n w : Nat} {v : Ctx → Nat → Nat × Flags} {r : Ctx → Nat → Nat → Nat × Flags}
    (hexec : ∀ s, exec i s = run i (flagEff i w v) s) (hd : NamesRegister i) (hw : 32 ∣ w)
    (hv : ∀ s c, Issues i s c → ∀ lane ∈ c.lanes, (v c.claim lane).1 < 2 ^ w ∧ (∀ j < n, elem (v c.claim lane).1 ew j = (r c lane j).1 % 2 ^ ew) ∧
      (v c.claim lane).2 = laneFlags n fun j => (r c lane j).2) :
    FlaggedResult i ew n w r := by
  intro s c h fl all
  have hlane (lane : Nat) (hl : lane ∈ c.lanes) : (v c.claim lane).2 = fl lane := by
    obtain ⟨-, -, hfl⟩ := hv s c h lane hl
    exact hfl
  have hall : unionFlags c.lanes (fun lane => (v c.claim lane).2) = all := (unionFlags_congr hlane).trans (allFlags_eq ..).symm
  constructor
  · intro hzero
    obtain ⟨t, g, hrun, hg, hres, hmode⟩ := flagEff_completes h (hexec s) (hd s c h) hw (hall ▸ hzero)
    refine ⟨t, _, g, hrun, hg, hres, fun lane hl => ?_, hall ▸ hmode⟩
    obtain ⟨hlt, helem, -⟩ := hv s c h lane hl
    exact ⟨hlt, helem⟩
  · intro k hk hlevel hset hfirst
    exact flagEff_traps h (hexec s) hlevel (flagTrap_of_first c hlane hk (hall ▸ hset) (hall ▸ hfirst))

/-- The same for one result that fills D. -/
theorem flaggedResult_one {i : Instr} {w : Nat} {v : Ctx → Nat → Nat × Flags} {r : Ctx → Nat → Nat → Nat × Flags}
    (hexec : ∀ s, exec i s = run i (flagEff i w v) s) (hd : NamesRegister i) (hw : 32 ∣ w)
    (hv : ∀ s c, Issues i s c → ∀ lane ∈ c.lanes, v c.claim lane = r c lane 0)
    (hlt : ∀ s c, Issues i s c → ∀ lane ∈ c.lanes, (r c lane 0).1 < 2 ^ w) :
    FlaggedResult i w 1 w r :=
  flaggedResult_of_flagEff hexec hd hw fun s c h lane hl => by
    rw [hv s c h lane hl]
    refine ⟨hlt s c h lane hl, fun j hj => ?_, (laneFlags_one fun j => (r c lane j).2).symm⟩
    rw [Nat.lt_one_iff.mp hj, elem_zero]

/-- R39: the same for n packed results. -/
theorem flaggedResult_packed {i : Instr} {ew n w : Nat} {v : Ctx → Nat → Nat → Nat × Flags} {r : Ctx → Nat → Nat → Nat × Flags}
    (hexec : ∀ s, exec i s = run i (flagEff i w fun c lane => packResults ew n (v c lane)) s) (hd : NamesRegister i) (hw : 32 ∣ w) (hn : ew * n = w)
    (hv : ∀ c lane j, v c.claim lane j = r c lane j) : FlaggedResult i ew n w r :=
  flaggedResult_of_flagEff hexec hd hw fun s c _ lane _ => by
    have hv : v c.claim lane = r c lane := funext (hv c lane)
    rw [hv]
    refine ⟨?_, fun j hj => ?_, rfl⟩
    · have hlt := packElems_lt ew ((List.range n).map fun j => (r c lane j).1)
      rwa [List.length_map, List.length_range, hn] at hlt
    · have helem := elem_packElems ew (l := (List.range n).map fun j => (r c lane j).1) (j := j) (by simpa using hj)
      rwa [List.getElem_map, List.getElem_range] at helem

/-! ## What a context reads once the pipes are the fragment's (R31) -/

@[simp] theorem Ctx.fpArg_claim (c : Ctx) (f : Long) (fm : FpFmt) (w p lane j : Nat) : c.claim.fpArg f fm w p lane j = c.fpArg f fm w p lane j := by
  simp only [Ctx.fpArg, Ctx.src_claim]
  rfl

@[simp] theorem Ctx.rcfg_claim (c : Ctx) (i : Instr) (fm : FpFmt) (lane n j : Nat) : c.claim.rcfg i fm lane n j = c.rcfg i fm lane n j := by
  simp only [Ctx.rcfg, Ctx.src_claim]
  rfl

@[simp] theorem Ctx.g_claim (c : Ctx) : c.claim.g = c.g := rfl

/-! ## Encodings fit their format (R41) -/

namespace FpFmt
variable {f : FpFmt}

theorem two_pow_w_eq (hf : f.HasFields) : 2 ^ f.w = 2 * f.signBit := by
  obtain ⟨hw, -⟩ := hf
  rw [signBit, hw, Nat.add_sub_cancel, pow_succ, Nat.mul_comm]

theorem signed_lt (hf : f.HasFields) (neg : Bool) {y : Nat} (hy : y < f.signBit) : f.signed neg y < 2 ^ f.w := by
  rw [two_pow_w_eq hf, signed]
  split <;> omega

theorem infBits_lt (hf : f.HasFields) : f.infBits < f.signBit := by
  rw [signBit_eq hf, infBits]
  exact Nat.mul_lt_mul_of_pos_right (Nat.sub_lt (by positivity) Nat.one_pos) (by positivity)

theorem qnan_lt (hf : f.HasFields) : f.qnan < f.signBit := by
  have hs := signBit_eq hf
  have hpos : 0 < f.signBit := Nat.two_pow_pos _
  obtain ⟨-, -, hfb⟩ := hf
  have hfrac : 2 ^ (f.fb - 1) < 2 ^ f.fb := Nat.pow_lt_pow_right (by decide) (by omega)
  have hE : 2 ^ f.eb * 2 ^ f.fb = (2 ^ f.eb - 1) * 2 ^ f.fb + 2 ^ f.fb := by
    rw [← Nat.add_one_mul, Nat.sub_add_cancel (Nat.one_le_two_pow)]
  unfold qnan
  split
  · omega
  · exact Nat.sub_lt hpos Nat.one_pos

theorem overflow_lt (hf : f.HasFields) (c : RCfg) (neg : Bool) : f.overflow c neg < 2 ^ f.w := by
  have hq := qnan_lt hf
  have h2 := two_pow_w_eq hf
  unfold overflow
  extract_lets toMax
  split_ifs
  · exact signed_lt hf neg (maxBits_lt hf)
  · exact signed_lt hf neg (infBits_lt hf)
  · omega

/-- R44: rounding answers the overflow result, or the encoding, with its sign, of a magnitude up to the largest finite one. -/
theorem round_cases (f : FpFmt) (c : RCfg) (m e : Int) :
    (∃ neg, (f.round c m e).1 = f.overflow c neg) ∨ ∃ neg y, y ≤ f.maxBits ∧ (f.round c m e).1 = f.signed neg y := by
  unfold round
  extract_lets neg a emin top tiny q
  split
  · exact .inr ⟨neg, 0, Nat.zero_le _, rfl⟩
  · split
    extract_lets n' q' ex fr x
    split
    · exact .inl ⟨neg, rfl⟩
    · next h => exact .inr ⟨neg, x, not_lt.mp h, rfl⟩

theorem round_lt (hf : f.HasFields) (c : RCfg) (m e : Int) : (f.round c m e).1 < 2 ^ f.w := by
  obtain ⟨neg, h⟩ | ⟨neg, y, hy, h⟩ := round_cases f c m e
  · rw [h]; exact overflow_lt hf c neg
  · rw [h]; exact signed_lt hf neg (hy.trans_lt (maxBits_lt hf))

theorem encode_lt (hf : f.HasFields) (c : RCfg) (x : Val) : (f.encode c x).1 < 2 ^ f.w := by
  have hq := qnan_lt hf
  have h2 := two_pow_w_eq hf
  cases x with
  | nan s => exact show f.qnan < _ by omega
  | zero n => exact signed_lt hf n (Nat.two_pow_pos _)
  | inf n =>
    simp only [encode]
    split_ifs
    · exact signed_lt hf n (infBits_lt hf)
    · exact signed_lt hf n (maxBits_lt hf)
    · omega
  | fin m e =>
    simp only [encode]
    split
    · exact Nat.two_pow_pos _
    · exact round_lt hf c m e

end FpFmt

end Sys2Proof.Machine
end

section
/-! PROOFS of the statement on floating-point additions, multiplications and fused multiply-adds (spec/06_floating_point_instructions.md, R117, R118). -/
namespace Sys2Proof.Machine

/-- R113: the format of the packed instructions, as the statements write it. -/
theorem halfFmt_eq (f : Long) : (if f.fmt = 11 then .bf16 else .f16) = halfFmt f := by
  have h : fmtN f = 11 ↔ f.fmt = 11 := by rw [fmtN, ← BitVec.toNat_inj]; rfl
  simp only [halfFmt, h]

theorem halfFmt_cases (f : Long) : halfFmt f = .bf16 ∨ halfFmt f = .f16 := by unfold halfFmt; split <;> simp

theorem halfFmt_w (f : Long) : (halfFmt f).w = 16 := by obtain h | h := halfFmt_cases f <;> rw [h] <;> rfl

theorem halfFmt_hasFields (f : Long) : (halfFmt f).HasFields := by
  obtain h | h := halfFmt_cases f <;> exact h ▸ FpFmt.hasFields_of_mem (by decide)

/-- R39: two elements fill the lane. -/
theorem halfFmt_fills (f : Long) : (halfFmt f).w * (32 / (halfFmt f).w) = 32 := by rw [halfFmt_w]

section
variable {i : Instr} {mul h : Bool} {fm : FpFmt} {w : Nat}

/-- R117: an addition, or a multiplication when `mul`, rounds the exact result once. -/
theorem fadd_flaggedResult (hexec : ∀ s, exec i s = run i (faddEff mul fm w i) s) (hshape : Instr.shape i = shFadd w h (Instr.long i)) (hw : 32 ∣ w)
    (hn : fm.w * (w / fm.w) = w) :
    FlaggedResult i fm.w (w / fm.w) w fun c lane j =>
      roundsOnce fm i (w / fm.w) (fun rnd => if mul then Val.mul (fpA c i fm w lane j) (fpB c i fm w lane j)
        else Val.sum rnd [fpA c i fm w lane j, fpB c i fm w lane j]) c lane j :=
  flaggedResult_packed hexec (namesRegister_of_dst (by rw [hshape]; rfl)) hw hn fun c lane j => by
    simp only [Ctx.fpArg_claim, Ctx.rcfg_claim]
    rfl

/-- R118: a fused multiply-add rounds once, after the addition. -/
theorem ffma_flaggedResult (hexec : ∀ s, exec i s = run i (ffmaEff fm w i) s) (hshape : Instr.shape i = shFfma w h (Instr.long i)) (hw : 32 ∣ w)
    (hn : fm.w * (w / fm.w) = w) :
    FlaggedResult i fm.w (w / fm.w) w fun c lane j =>
      roundsOnce fm i (w / fm.w) (fun rnd =>
        let p := Val.mul (fpA c i fm w lane j) (fpB c i fm w lane j)
        let x := Val.sum rnd [p.1, fpC c i fm w lane j]
        (x.1, p.2 ||| x.2)) c lane j :=
  flaggedResult_packed hexec (namesRegister_of_dst (by rw [hshape]; rfl)) hw hn fun c lane j => by
    simp only [Ctx.fpArg_claim, Ctx.rcfg_claim]
    rfl

end

/-- Settles O8: each instruction is the addition, multiplication or fused multiply-add above at its width. -/
theorem floatArithmetic : Obligations.FloatArithmetic := by
  unfold Obligations.FloatArithmetic
  refine ⟨fun i fm w hi => ?_, fun i fm w hi => ?_, fun i fm w hi => ?_⟩
  · rcases hi with ⟨f, rfl, rfl, rfl⟩ | ⟨f, rfl, rfl, rfl⟩ | ⟨f, rfl, rfl, rfl⟩ | ⟨f, rfl, rfl, rfl⟩ | ⟨f, rfl, rfl, rfl⟩ | ⟨f, rfl, rfl, rfl⟩
    case inr.inr.inr.inr.inr =>
      rw [halfFmt_eq]
      exact fadd_flaggedResult (mul := false) (fun _ => rfl) rfl (by decide) (halfFmt_fills f)
    all_goals exact fadd_flaggedResult (mul := false) (fun _ => rfl) rfl (by decide) rfl
  · rcases hi with ⟨f, rfl, rfl, rfl⟩ | ⟨f, rfl, rfl, rfl⟩ | ⟨f, rfl, rfl, rfl⟩ | ⟨f, rfl, rfl, rfl⟩ | ⟨f, rfl, rfl, rfl⟩ | ⟨f, rfl, rfl, rfl⟩
    case inr.inr.inr.inr.inr =>
      rw [halfFmt_eq]
      exact fadd_flaggedResult (mul := true) (fun _ => rfl) rfl (by decide) (halfFmt_fills f)
    all_goals exact fadd_flaggedResult (mul := true) (fun _ => rfl) rfl (by decide) rfl
  · rcases hi with ⟨f, rfl, rfl, rfl⟩ | ⟨f, rfl, rfl, rfl⟩ | ⟨f, rfl, rfl, rfl⟩
    · exact ffma_flaggedResult (fun _ => rfl) rfl (by decide) rfl
    · exact ffma_flaggedResult (fun _ => rfl) rfl (by decide) rfl
    · rw [halfFmt_eq]
      exact ffma_flaggedResult (fun _ => rfl) rfl (by decide) (halfFmt_fills f)

end Sys2Proof.Machine
end

section
/-! PROOFS of the statement on floating-point minimum, maximum and comparisons (spec/06_floating_point_instructions.md, R119, R120). -/
namespace Sys2Proof.Machine

/-! ## The order of values (R119) -/

/-- The sum that `dySum` forms is the terms' exact sum. -/
theorem dySum_ratOf (l : List Val) : ratOf (dySum l).1 (dySum l).2 = (l.map Val.toRat).sum := by
  induction l with
  | nil => exact ratOf_zero 0
  | cons v l ih =>
    rw [List.map_cons, List.sum_cons, ← ih]
    cases v with
    | nan | inf | zero => simp [dySum, Val.toRat]
    | fin m e =>
      simp only [dySum, Val.toRat]
      split
      · next h0 => simp [h0]
      · exact dyAdd_ratOf ..

namespace Val

/-- Which end of the order an infinity is; 0 for every other value. -/
def infSign : Val → Int
  | .inf true => -1
  | .inf false => 1
  | _ => 0

/-- A finite value with its sign turned round. -/
def flip : Val → Val
  | .fin m e => .fin (-m) e
  | y => y

theorem toRat_flip (a : Val) : a.flip.toRat = -a.toRat := by
  cases a with
  | nan | inf | zero => exact neg_zero.symm
  | fin m e => exact ratOf_neg m e

theorem cmp_eq (a b : Val) : cmp a b = if a.infSign = 0 ∧ b.infSign = 0 then (dySum [a, b.flip]).1 else a.infSign - b.infSign := by
  change (if a.infSign ≠ b.infSign ∧ (a.infSign ≠ 0 ∨ b.infSign ≠ 0) then a.infSign - b.infSign
    else if a.infSign ≠ 0 then 0 else (dySum [a, b.flip]).1) = _
  split_ifs <;> omega

theorem cmp_nonneg_iff {a b : Val} (ha : a.infSign = 0) (hb : b.infSign = 0) : 0 ≤ cmp a b ↔ b.toRat ≤ a.toRat := by
  rw [cmp_eq, if_pos ⟨ha, hb⟩, ← ratOf_nonneg (e := (dySum [a, b.flip]).2), dySum_ratOf]
  simp [toRat_flip]

theorem cmp_nonpos_iff {a b : Val} (ha : a.infSign = 0) (hb : b.infSign = 0) : cmp a b ≤ 0 ↔ a.toRat ≤ b.toRat := by
  rw [cmp_eq, if_pos ⟨ha, hb⟩, ← ratOf_nonpos (e := (dySum [a, b.flip]).2), dySum_ratOf]
  simp [toRat_flip]

theorem cmp_nonneg_swap (a b : Val) : 0 ≤ cmp a b ↔ cmp b a ≤ 0 := by
  by_cases h : a.infSign = 0 ∧ b.infSign = 0
  · obtain ⟨ha, hb⟩ := h
    rw [cmp_nonneg_iff ha hb, cmp_nonpos_iff hb ha]
  · rw [cmp_eq, cmp_eq, if_neg h, if_neg (mt And.symm h)]
    omega

theorem cmp_of_zeros {a b : Val} (ha : a.isZero = true) (hb : b.isZero = true) : cmp a b = 0 := by
  cases a <;> cases ha
  cases b <;> cases hb
  rfl

theorem below_of_zeros {a b : Val} (h : (a.isZero && b.isZero) = true) : a.below b = (a.neg? && !b.neg?) := if_pos h

theorem below_of_not_zeros {a b : Val} (h : ¬(a.isZero && b.isZero) = true) : a.below b = decide (cmp a b < 0) := if_neg h

/-- A value that is not below another does not compare less. -/
theorem cmp_nonneg_of_not_below {a b : Val} (h : a.below b = false) : 0 ≤ cmp a b := by
  by_cases hz : (a.isZero && b.isZero) = true
  · obtain ⟨ha, hb⟩ := (Bool.and_eq_true ..).mp hz
    exact (cmp_of_zeros ha hb).ge
  · simpa [below_of_not_zeros hz] using h

theorem not_below_of_below {a b : Val} (h : a.below b = true) : b.below a = false := by
  by_cases hz : (a.isZero && b.isZero) = true
  · rw [below_of_zeros hz] at h
    rw [below_of_zeros (Bool.and_comm a.isZero _ ▸ hz)]
    revert h
    cases a.neg? <;> cases b.neg? <;> decide
  · rw [below_of_not_zeros hz, decide_eq_true_eq] at h
    rw [below_of_not_zeros (Bool.and_comm a.isZero _ ▸ hz), decide_eq_false_iff_not, not_lt, cmp_nonneg_swap]
    exact h.le

@[simp] theorem not_below_self (a : Val) : a.below a = false := by
  cases h : a.below a with
  | false => rfl
  | true => exact h ▸ not_below_of_below h

/-- R119: `v` is as good a maximum, or minimum, as `u`. -/
def Beats (max : Bool) (v u : Val) : Prop :=
  (if max then 0 ≤ cmp v u else cmp v u ≤ 0) ∧ (if max then ¬v.below u else ¬u.below v)

theorem beats_of_not_below {max : Bool} {v u : Val} (h : (if max then v.below u else u.below v) = false) : Beats max v u := by
  cases max with
  | false => exact ⟨(cmp_nonneg_swap u v).mp (cmp_nonneg_of_not_below h), ne_true_of_eq_false h⟩
  | true => exact ⟨cmp_nonneg_of_not_below h, ne_true_of_eq_false h⟩

theorem beats_self (max : Bool) (v : Val) : Beats max v v := beats_of_not_below (by simp)

end Val

/-! ## Minimum and maximum (R119) -/

/-- R49: the bits of an operand as read stand for the value that is read. -/
theorem FpFmt.decode_readBits {fm : FpFmt} (hf : fm.HasFields) (ftz : Bool) (x : Nat) : fm.decode (fm.readBits ftz x) = fm.read ftz x := by
  unfold readBits read
  split
  · have hlt : x % 2 ^ fm.w < 2 * fm.signBit := two_pow_w_eq hf ▸ Nat.mod_lt x (by positivity)
    have hpos : 0 < fm.signBit := Nat.two_pow_pos _
    have hsign : x % 2 ^ fm.w / fm.signBit * fm.signBit = fm.signed (decide (fm.signBit ≤ x % 2 ^ fm.w)) 0 := by
      by_cases h : fm.signBit ≤ x % 2 ^ fm.w
      · have h1 : x % 2 ^ fm.w / fm.signBit = 1 := Nat.div_eq_of_lt_le (by omega) (by omega)
        simp [h1, h, signed]
      · simp [Nat.div_eq_of_lt (not_le.mp h), h, signed]
    rw [hsign, decode_signed_of_le hf _ (Nat.zero_le _), if_pos rfl]
  · unfold decode
    rw [Nat.mod_mod]

/-- R119: a minimum or maximum selects its operand. -/
theorem minMaxFp_selects {fm : FpFmt} (hf : fm.HasFields) (max prop ftz : Bool) (x y : Nat) :
    Selects max prop fm ftz x y (minMaxFp max prop fm ftz x y).1 := by
  have hx := FpFmt.decode_readBits hf ftz x
  have hy := FpFmt.decode_readBits hf ftz y
  unfold Selects minMaxFp
  dsimp only
  generalize fm.read ftz x = a at hx ⊢
  generalize fm.read ftz y = b at hy ⊢
  by_cases h2 : (a.isNan && b.isNan) = true
  · rw [if_pos h2, if_pos h2]
  rw [if_neg h2, if_neg h2]
  by_cases h1 : (a.isNan || b.isNan) = true
  · rw [if_pos h1, if_pos h1]
  rw [if_neg h1, if_neg h1]
  by_cases h : (if max then a.below b else b.below a) = true
  · rw [if_pos h, hy]
    refine ⟨.inr rfl, fun u hu => ?_, fun _ hab hba => absurd h (by simp [hab, hba])⟩
    obtain rfl | rfl : u = a ∨ u = b := by simpa using hu
    · exact Val.beats_of_not_below (by cases max <;> exact Val.not_below_of_below h)
    · exact Val.beats_self max _
  · rw [if_neg h, hx]
    refine ⟨.inl rfl, fun u hu => ?_, fun _ _ _ => rfl⟩
    obtain rfl | rfl : u = a ∨ u = b := by simpa using hu
    · exact Val.beats_self max _
    · exact Val.beats_of_not_below (by simpa using h)

/-- R119: the instructions; each selects one operand per element. -/
theorem fmin_selectsOperand {i : Instr} {max h : Bool} {fm : FpFmt} {w : Nat} (hexec : ∀ s, exec i s = run i (fminEff max fm w i) s)
    (hshape : Instr.shape i = shFmin w h (Instr.long i)) (hf : fm.HasFields) (hw : 32 ∣ w) (hn : fm.w * (w / fm.w) = w) :
    SelectsOperand i max fm w := by
  refine ⟨fun fm ftz x y => (minMaxFp max ((Instr.long i).sub.getLsbD 0) fm ftz x y).1, fun ftz x y _ _ => minMaxFp_selects hf .., ?_⟩
  exact flaggedResult_packed hexec (namesRegister_of_dst (by rw [hshape]; rfl)) hw hn fun c lane j => by
    simp only [Ctx.src_claim]
    rfl

/-! ## Comparisons (R120) -/

theorem shCmp_legal {f : Long} {w : Nat} {u : FieldUse} {ill : Bool} (h : (shCmp f w u ill).ill = false) : subF f 4 3 ≤ 2 := by
  have hlt : subF f 4 3 < 4 := Nat.mod_lt _ (by decide)
  have hne : subF f 4 3 ≠ 3 := by
    simp only [shCmp, regSh, Bool.or_eq_false_iff, beq_eq_false_iff_ne] at h
    exact h.2
  omega

theorem shHcmp_legal {f : Long} (h : (shHcmp f).ill = false) : subF f 4 3 ≤ 2 := shCmp_legal (w := 32) (u := { fmt := true, subM := 0x7F }) h

theorem condFp_eq_getD {cond : Nat} (h : cond < 8) (a b : Val) : condFp cond a b = (fpConditions a b).getD cond false := by
  interval_cases cond <;> rfl

theorem subF_lt (f : Long) (hi lo : Nat) : subF f hi lo < 2 ^ (hi + 1 - lo) := Nat.mod_lt _ (by positivity)

/-- R107, R120: the outcome of a comparison combined with a predicate, as a number. -/
theorem combine_toNat {comb : Nat} (h : comb ≤ 2) (r p : Bool) : (if combine comb r p then 1 else 0) = (combines comb r p).toNat := by
  have heq : combine comb r p = combines comb r p := by interval_cases comb <;> rfl
  rw [heq, Bool.toNat, Bool.cond_eq_ite]

/-- R120: what a comparison comes to in a lane. -/
def fcmpLane (fm : FpFmt) (w : Nat) (i : Instr) (c : Ctx) (lane : Nat) : Nat × Flags :=
  let f := Instr.long i
  let o := fun j => (fpOutcome i fm w c lane j).1
  let bit := fun b => (combines (subF f 4 3) b ((c.mask f.c).getLsbD lane)).toNat
  (if fm.w = 16 then (if isP f.d then bit ([o 0, o 1, o 0 && o 1, o 0 || o 1].getD (subF f 6 5) false) else bit (o 0) + 2 ^ 16 * bit (o 1)) else bit (o 0),
    laneFlags (w / fm.w) fun j => (fpOutcome i fm w c lane j).2)

theorem fcmpLane_lt (fm : FpFmt) (w : Nat) (i : Instr) (c : Ctx) (lane : Nat) : (fcmpLane fm w i c lane).1 < 2 ^ 32 := by
  have hbit (b : Bool) : b.toNat ≤ 1 := b.toNat_le
  unfold fcmpLane
  dsimp only
  split_ifs
  · exact (hbit _).trans_lt (by decide)
  · have h0 := hbit (combines (subF (Instr.long i) 4 3) (fpOutcome i fm w c lane 0).1 ((c.mask (Instr.long i).c).getLsbD lane))
    have h1 := hbit (combines (subF (Instr.long i) 4 3) (fpOutcome i fm w c lane 1).1 ((c.mask (Instr.long i).c).getLsbD lane))
    omega
  · exact (hbit _).trans_lt (by decide)

theorem fcmpEff_eq (fm : FpFmt) (w : Nat) (i : Instr) :
    ∃ v, fcmpEff fm w i = flagEff i 32 v ∧ (subF (Instr.long i) 4 3 ≤ 2 → ∀ c lane, v c.claim lane = fcmpLane fm w i c lane) := by
  refine ⟨_, rfl, fun hcomb c lane => ?_⟩
  have hcond (a b : Val) := condFp_eq_getD (subF_lt (Instr.long i) 2 0) a b
  have hor (a : Flags) (x y : Val) : a ||| x.nv ||| y.nv = a ||| (x.nv ||| y.nv) := BitVec.or_assoc ..
  simp only [Ctx.src_claim, Ctx.g_claim, Ctx.mask_claim, combine_toNat hcomb, hcond, hor]
  have hsel := subF_lt (Instr.long i) 6 5
  unfold fcmpLane
  dsimp only
  generalize subF (Instr.long i) 6 5 = k at hsel ⊢
  split_ifs
  · interval_cases k <;> rfl
  · rfl
  · rfl

/-- R120: the flags and the value of a comparison are those of its lanes. -/
theorem fcmp_flaggedResult {i : Instr} {fm : FpFmt} {w : Nat} {r : Ctx → Nat → Nat → Nat × Flags} (hexec : ∀ s, exec i s = run i (fcmpEff fm w i) s)
    (hd : NamesRegister i) (hcomb : ∀ s c, Issues i s c → subF (Instr.long i) 4 3 ≤ 2) (hr : ∀ c lane, fcmpLane fm w i c lane = r c lane 0) :
    FlaggedResult i 32 1 32 r := by
  obtain ⟨v, heff, hv⟩ := fcmpEff_eq fm w i
  exact flaggedResult_one (heff ▸ hexec) hd dvd_rfl (fun s c h lane _ => (hv (hcomb s c h) c lane).trans (hr c lane))
    fun s c h lane _ => hr c lane ▸ fcmpLane_lt ..

theorem fcmpLane_one {fm : FpFmt} (h : 32 ≤ fm.w) (i : Instr) (c : Ctx) (lane : Nat) : fcmpLane fm fm.w i c lane =
    let o := fpOutcome i fm fm.w c lane 0
    ((combines (subF (Instr.long i) 4 3) o.1 ((c.mask (Instr.long i).c).getLsbD lane)).toNat, o.2) := by
  rw [fcmpLane, if_neg (by omega), Nat.div_self (by omega), laneFlags_one]

theorem fcmpLane_half {fm : FpFmt} (h : fm.w = 16) (i : Instr) (c : Ctx) (lane : Nat) : fcmpLane fm 32 i c lane =
    let o := fun j => fpOutcome i fm 32 c lane j
    let bit := fun b => (combines (subF (Instr.long i) 4 3) b ((c.mask (Instr.long i).c).getLsbD lane)).toNat
    (if isP (Instr.long i).d then bit ([(o 0).1, (o 1).1, (o 0).1 && (o 1).1, (o 0).1 || (o 1).1].getD (subF (Instr.long i) 6 5) false)
      else bit (o 0).1 + 2 ^ 16 * bit (o 1).1, (o 0).2 ||| (o 1).2) := by
  rw [fcmpLane, if_pos h, h, laneFlags_two]

/-! ## The statement -/

/-- Settles O9: each instruction is the minimum, the maximum or the comparison above at its width. -/
theorem floatSelectAndCompare : Obligations.FloatSelectAndCompare := by
  have hf32 : FpFmt.f32.HasFields := FpFmt.hasFields_of_mem (by decide)
  have hf64 : FpFmt.f64.HasFields := FpFmt.hasFields_of_mem (by decide)
  have hf16 : FpFmt.f16.HasFields := FpFmt.hasFields_of_mem (by decide)
  unfold Obligations.FloatSelectAndCompare
  refine ⟨⟨fun f => ?_, fun f => ?_, fun f => ?_, fun f => ?_, fun f => ?_, fun f => ?_, fun f => ?_, fun f => ?_, fun f => ?_, fun f => ?_,
    fun f => ?_, fun f => ?_⟩, fun i fm w hi => ?_, fun f => ?_⟩
  iterate 4 exact fmin_selectsOperand (fun _ => rfl) rfl hf32 dvd_rfl rfl
  iterate 4 exact fmin_selectsOperand (fun _ => rfl) rfl hf64 (by decide) rfl
  · exact fmin_selectsOperand (fun _ => rfl) rfl hf16 dvd_rfl rfl
  · exact halfFmt_eq f ▸ fmin_selectsOperand (fun _ => rfl) rfl (halfFmt_hasFields f) dvd_rfl (halfFmt_fills f)
  · exact fmin_selectsOperand (fun _ => rfl) rfl hf16 dvd_rfl rfl
  · exact halfFmt_eq f ▸ fmin_selectsOperand (fun _ => rfl) rfl (halfFmt_hasFields f) dvd_rfl (halfFmt_fills f)
  · rcases hi with ⟨f, rfl, rfl, rfl⟩ | ⟨f, rfl, rfl, rfl⟩
    · exact fcmp_flaggedResult (fun _ => rfl) (namesRegister_of_dstP rfl) (fun s c h => shCmp_legal h.ill) (fcmpLane_one (by decide) (.fcmp f))
    · exact fcmp_flaggedResult (fun _ => rfl) (namesRegister_of_dstP rfl) (fun s c h => shCmp_legal h.ill) (fcmpLane_one (by decide) (.dcmp f))
  · simp only [halfFmt_eq]
    exact fcmp_flaggedResult (fun _ => rfl) (namesRegister_of_dstP rfl) (fun s c h => shHcmp_legal h.ill) (fcmpLane_half (halfFmt_w f) (.hcmp2 f))

end Sys2Proof.Machine
end

section
/-! PROOFS of the statement on FFUNC, DFUNC, FMISC and DMISC (spec/06_floating_point_instructions.md, R121, R122; R52, R53). -/
namespace Sys2Proof.Machine

/-! ## Rounding does not see how a value is written (R44) -/

/-- R44, R46: the choice between the neighbours of n + r / 2^sh does not see a common factor of r and 2^sh. -/
theorem roundUp_scale (rnd rbits : Nat) (neg : Bool) (n r sh j : Nat) : roundUp rnd rbits neg n (r * 2 ^ j) (sh + j) = roundUp rnd rbits neg n r sh := by
  have hpos : 0 < 2 ^ j := Nat.two_pow_pos j
  have hpow : 2 ^ (sh + j) = 2 ^ sh * 2 ^ j := pow_add ..
  have h2 : 2 * (r * 2 ^ j) = 2 * r * 2 ^ j := (Nat.mul_assoc ..).symm
  have hdiv : r * 2 ^ j * 2 ^ 32 / (2 ^ sh * 2 ^ j) = r * 2 ^ 32 / 2 ^ sh := by
    rw [Nat.mul_right_comm, Nat.mul_div_mul_right _ _ hpos]
  unfold roundUp
  simp only [hpow, h2, hdiv, Nat.mul_le_mul_right_iff hpos, Nat.mul_lt_mul_right hpos, Nat.mul_right_cancel_iff hpos]

theorem quantise_scale (rnd rbits : Nat) (neg : Bool) (a j : Nat) (e q : Int) :
    quantise rnd rbits neg (a * 2 ^ j) (e - j) q = quantise rnd rbits neg a e q := by
  have hpos : 0 < 2 ^ j := Nat.two_pow_pos j
  unfold quantise
  by_cases hq : q ≤ e
  · rw [if_pos hq]
    by_cases hqj : q ≤ e - j
    · rw [if_pos hqj, Nat.mul_assoc, ← pow_add, show j + (e - j - q).toNat = (e - q).toNat by omega]
    · have hsplit : a * 2 ^ j = 2 ^ (q - (e - j)).toNat * (a * 2 ^ (e - q).toNat) := by
        rw [Nat.mul_left_comm, ← pow_add, show (q - (e - j)).toNat + (e - q).toNat = j by omega]
      rw [if_neg hqj]
      dsimp only
      rw [hsplit, Nat.mul_div_cancel_left _ (by positivity), Nat.mul_mod_right, if_pos rfl]
  · rw [if_neg hq, if_neg (by omega), show (q - (e - j)).toNat = (q - e).toNat + j by omega]
    have hpow : 2 ^ ((q - e).toNat + j) = 2 ^ (q - e).toNat * 2 ^ j := pow_add ..
    simp only [roundUp_scale, hpow, Nat.mul_div_mul_right _ _ hpos, Nat.mul_mod_mul_right, Nat.mul_eq_zero, hpos.ne', or_false]

theorem log2_mul_two_pow {a : Nat} (ha : a ≠ 0) (j : Nat) : Nat.log2 (a * 2 ^ j) = Nat.log2 a + j := by
  induction j with
  | zero => rw [pow_zero, Nat.mul_one, Nat.add_zero]
  | succ j ih =>
    have h0 : a * 2 ^ j ≠ 0 := Nat.mul_ne_zero ha (by positivity)
    rw [pow_succ', Nat.mul_left_comm, Nat.log2_two_mul h0, ih, Nat.add_assoc]

namespace FpFmt

/-- R44: m × 2^j × 2^(e - j) rounds as m × 2^e does. -/
theorem round_scale (f : FpFmt) (c : RCfg) {m : Int} (hm : m ≠ 0) (j : Nat) (e : Int) : f.round c (m * 2 ^ j) (e - j) = f.round c m e := by
  have hneg : (m * 2 ^ j < 0) = (m < 0) := by simp [mul_neg_iff, show ¬(2 : Int) ^ j < 0 from not_lt.mpr (by positivity), show (0 : Int) < 2 ^ j by positivity]
  have habs : (m * 2 ^ j).natAbs = m.natAbs * 2 ^ j := by rw [Int.natAbs_mul, Int.natAbs_pow]; rfl
  have htop : ((Nat.log2 (m.natAbs * 2 ^ j) : Nat) : Int) + (e - j) = (Nat.log2 m.natAbs : Int) + e := by
    rw [log2_mul_two_pow (Int.natAbs_ne_zero.mpr hm)]
    push_cast
    ring
  simp only [round, hneg, habs, htop, quantise_scale]

theorem encode_fin (f : FpFmt) (c : RCfg) {m : Int} (hm : m ≠ 0) (e : Int) : f.encode c (.fin m e) = f.round c m e := if_neg hm

theorem encode_scale (f : FpFmt) (c : RCfg) {m : Int} (hm : m ≠ 0) (j : Nat) (e : Int) : f.encode c (.fin (m * 2 ^ j) (e - j)) = f.encode c (.fin m e) := by
  rw [encode_fin f c hm, encode_fin f c (Int.mul_ne_zero hm (by positivity)), round_scale f c hm]

end FpFmt

/-! ## Results at the ends of a format (R44, R45) -/

theorem quantise_of_tiny {rnd rbits : Nat} (hr : rbits < 2 ^ 32) (neg : Bool) {a : Nat} (ha : a ≠ 0) {e q : Int}
    (htiny : (Nat.log2 a : Int) + e + 34 ≤ q) :
    quantise rnd rbits neg a e q = (if (rnd = 3 ∧ neg = false) ∨ (rnd = 4 ∧ neg = true) then 1 else 0, true) := by
  have hlt : a < 2 ^ (Nat.log2 a + 1) := Nat.lt_log2_self
  have hpow : 2 ^ (Nat.log2 a + 1) * 2 ^ 33 ≤ 2 ^ (q - e).toNat := by
    rw [← pow_add]
    exact Nat.pow_le_pow_right (by decide) (by omega)
  have hdiv : a * 2 ^ 32 / 2 ^ (q - e).toNat = 0 := Nat.div_eq_of_lt (by omega)
  have hup : roundUp rnd rbits neg 0 a (q - e).toNat = decide ((rnd = 3 ∧ neg = false) ∨ (rnd = 4 ∧ neg = true)) := by
    unfold roundUp
    split
    · simp
    · simp
    · simp
    · simp; omega
    · rw [hdiv]; simp; omega
    · next x h2 h3 h4 h5 h6 => simp [show rnd ≠ 3 from h3, show rnd ≠ 4 from h4]; omega
  unfold quantise
  rw [if_neg (by omega)]
  dsimp only
  rw [Nat.div_eq_of_lt (by omega), Nat.mod_eq_of_lt (by omega), if_neg ha, hup]
  simp

namespace FpFmt

/-- R44, R49: a value far below the least subnormal rounds as its sign and the mode say, whatever it is. -/
theorem round_of_tiny (f : FpFmt) {c : RCfg} (hr : c.rbits < 2 ^ 32) {m : Int} (hm : m ≠ 0) {e e' : Int}
    (he : (Nat.log2 m.natAbs : Int) + e + 34 ≤ 1 - (f.bias : Int) - f.fb) (he' : (Nat.log2 m.natAbs : Int) + e' + 34 ≤ 1 - (f.bias : Int) - f.fb) :
    f.round c m e = f.round c m e' := by
  have ha := Int.natAbs_ne_zero.mpr hm
  have ht : (Nat.log2 m.natAbs : Int) + e < 1 - (f.bias : Int) := by omega
  have ht' : (Nat.log2 m.natAbs : Int) + e' < 1 - (f.bias : Int) := by omega
  simp only [round, ht, ht', if_true, quantise_of_tiny hr _ ha he, quantise_of_tiny hr _ ha he']

theorem round_of_normal (f : FpFmt) (c : RCfg) {m e : Int} (h : 1 - (f.bias : Int) ≤ (Nat.log2 m.natAbs : Int) + e) :
    f.round c m e = f.round { c with ftz := false } m e := by
  simp only [round, not_lt.mpr h, decide_false, Bool.false_and, overflow]

theorem le_pack {f : FpFmt} {n : Nat} {q : Int} (hn : 2 ^ f.fb ≤ n) : (q + f.fb + f.bias).toNat * 2 ^ f.fb ≤ f.pack n q := by
  unfold pack
  extract_lets n' q'
  have hn' : ¬n' < 2 ^ f.fb := by
    simp only [n']
    split <;> omega
  have hq' : q ≤ q' := by
    simp only [q']
    split <;> omega
  rw [if_neg hn', if_neg hn']
  exact (Nat.mul_le_mul_right _ (by omega)).trans (Nat.le_add_right _ _)

/-- R45: a value of 2^(2^eb - bias) or more overflows. -/
theorem round_of_huge {f : FpFmt} (hf : f.HasFields) (c : RCfg) {m e : Int} (hm : m ≠ 0) (h : (2 : Int) ^ f.eb ≤ (Nat.log2 m.natAbs : Int) + e + f.bias) :
    f.round c m e = (f.overflow c (decide (m < 0)), Flags.ovf ||| Flags.nx) := by
  have hE : (2 : Int) ≤ 2 ^ f.eb := by
    obtain ⟨-, heb, -⟩ := hf
    exact_mod_cast Nat.le_self_pow (show f.eb ≠ 0 by omega) 2
  have hq : f.quantum m.natAbs e = (Nat.log2 m.natAbs : Int) + e - f.fb := by rw [quantum, if_neg (by omega)]
  obtain ⟨-, hmin | ⟨-, hn⟩⟩ := chosen_aligned f { c with ftz := false } hm e
  · omega
  have hexp : 2 ^ f.eb ≤ (f.quantum m.natAbs e + f.fb + f.bias).toNat := by
    rw [hq]
    have : (2 : Int) ^ f.eb = ((2 ^ f.eb : Nat) : Int) := by push_cast; rfl
    omega
  have hbits : f.maxBits < f.chosenBits { c with ftz := false } m e :=
    calc f.maxBits < 2 ^ f.eb * 2 ^ f.fb := signBit_eq hf ▸ maxBits_lt hf
      _ ≤ _ := Nat.mul_le_mul_right _ hexp
      _ ≤ _ := le_pack hn
  rw [round_of_normal f c (by omega), round_eq rfl, if_pos hbits]
  rfl

end FpFmt

/-! ## Functions (R52, R53, R121) -/

theorem fnRcp_two_pow (k : Int) : fnRcp 1 k = .fin 1 (-k) := by
  have hodd : normOdd 1 k = (1, k + 0) := rfl
  simp [fnRcp, hodd]

theorem toFx_zero (a : Nat) : toFx a 0 = a * fxOne := by
  unfold toFx
  dsimp only
  rw [Int.add_zero, if_pos (Int.natCast_nonneg _), Int.toNat_natCast, fxOne]

theorem fnEx2_whole {k : Int} (h0 : k ≠ 0) (hlo : -100 ≤ k) (hhi : k ≤ 100) : fnEx2 k 0 = .fin 1 k := by
  have hlog : Nat.log2 k.natAbs < 20 := (Nat.log2_lt (Int.natAbs_ne_zero.mpr h0)).mpr (by omega)
  have hfx : (if k < 0 then -((toFx k.natAbs 0 : Nat) : Int) else (toFx k.natAbs 0 : Nat)) = k * (fxOne : Int) := by
    rw [toFx_zero, Nat.cast_mul]
    split
    · next hneg => rw [← neg_mul, Int.ofNat_natAbs_of_nonpos hneg.le, neg_neg]
    · next hneg => rw [Int.natAbs_of_nonneg (not_lt.mp hneg)]
  have hpos : (fxOne : Int) ≠ 0 := Nat.cast_ne_zero.mpr (Nat.two_pow_pos fxBits).ne'
  unfold fnEx2
  dsimp only
  rw [if_neg (by omega), if_neg (by omega)]
  simp only [decide_eq_true_eq, hfx, Int.mul_emod_left, Int.mul_ediv_cancel k hpos, Int.toNat_zero, if_true]

theorem fnLg2_two_pow {k : Int} (h0 : k ≠ 0) : fnLg2 1 k = .fin k 0 := by
  have hone : (1 : Int).natAbs = 2 ^ Nat.log2 (1 : Int).natAbs := rfl
  have hexp : ((Nat.log2 (1 : Int).natAbs : Nat) : Int) + k = k := Int.zero_add k
  unfold fnLg2
  dsimp only
  rw [if_pos hone, hexp, if_neg h0]

theorem isqrt_two_pow_400 : isqrt (2 ^ 400) = 2 ^ 200 := by decide +kernel

theorem fnSqrt_two_pow (k : Int) : fnSqrt 1 (2 * k) = .fin (1 * 2 ^ 200) (k - (200 : Nat)) := by
  have heven : 2 * k % 2 = 0 := by omega
  have hhalf : 2 * k / 2 = k := by omega
  simp only [fnSqrt, heven, hhalf, if_true, Int.natAbs_one, Nat.one_mul, isqrt_two_pow_400, ← pow_add]
  push_cast
  rfl

/-- R121: FFUNC and DFUNC. -/
theorem ffunc_flagEff (fm : FpFmt) (i : Instr) :
    ∃ v, ffuncEff fm fm.w i = flagEff i fm.w v ∧ ∀ c lane, v c.claim lane =
      (let x := fnEval (subN (Instr.long i)) (fm.read (ftzOf c.g.mode fm) (srcA c i fm.w lane))
       let y := fm.encode (c.rcfg i fm lane 1 0) x.1
       (y.1, x.2 ||| y.2)) := by
  refine ⟨_, rfl, fun c lane => ?_⟩
  simp only [Ctx.src_claim, Ctx.rcfg_claim]
  rfl

theorem ffunc_flaggedResult {i : Instr} {fm : FpFmt} (hexec : ∀ s, exec i s = run i (ffuncEff fm fm.w i) s)
    (hshape : Instr.shape i = shFfunc fm.w (Instr.long i)) (hf : fm.HasFields) (hw : 32 ∣ fm.w) :
    FlaggedResult i fm.w 1 fm.w fun c lane _ =>
      let x := fnEval (subN (Instr.long i)) (fm.read (ftzOf c.g.mode fm) (srcA c i fm.w lane))
      let y := fm.encode (c.rcfg i fm lane 1 0) x.1
      (y.1, x.2 ||| y.2) := by
  obtain ⟨v, heff, hv⟩ := ffunc_flagEff fm i
  exact flaggedResult_one (heff ▸ hexec) (namesRegister_of_dst (by rw [hshape]; rfl)) hw (fun s c _ lane _ => hv c lane)
    fun s c _ lane _ => FpFmt.encode_lt hf ..

/-- R50: flags lie in MODE [10:6]. -/
theorem mode_or_flags (mode : Word) (fl : Flags) : (mode ||| (fl.setWidth 32 <<< 6)) &&& ~~~0x7C0#32 = mode &&& ~~~0x7C0#32 := by
  have hfl : ∀ fl : Flags, (fl.setWidth 32 <<< 6) &&& ~~~0x7C0#32 = 0#32 := by decide
  rw [BitVec.and_or_distrib_right, hfl, BitVec.or_zero]

/-- R51: with no flag enabled an instruction with flags completes. -/
theorem FlaggedResult.completesUntrapped {i : Instr} {w : Nat} {r : Ctx → Nat → Nat → Nat × Flags} (h : FlaggedResult i w 1 w r) :
    CompletesUntrapped i w fun c lane => (r c lane 0).1 := by
  intro s c hi htrapen
  obtain ⟨hcompletes, -⟩ := h s c hi
  obtain ⟨t, v, g, hrun, hg, hres, hv, hmode⟩ := hcompletes (by rw [htrapen]; exact BitVec.and_zero)
  refine ⟨t, g, v, hrun, hg, hres, fun lane hl => ?_, hmode ▸ mode_or_flags ..⟩
  obtain ⟨-, helem⟩ := hv lane hl
  exact helem 0 Nat.one_pos

/-! ## Helpers (R122) -/

/-- R122: the index of the class of an encoding. -/
def classIndex (fm : FpFmt) (x : Nat) : Nat :=
  match fm.decode x with
  | .inf neg => if neg then 0 else 7
  | .zero neg => if neg then 3 else 4
  | .nan sig => if sig then 8 else 9
  | .fin m _ => if m < 0 then (if fm.isSub x then 2 else 1) else (if fm.isSub x then 5 else 6)

theorem classIndex_lt (fm : FpFmt) (x : Nat) : classIndex fm x < 10 := by
  unfold classIndex
  split <;> split_ifs <;> decide

theorem classOf_eq (fm : FpFmt) (x : Nat) : classOf fm x = 2 ^ classIndex fm x := by
  unfold classOf classIndex
  cases fm.decode x <;> simp only [apply_ite (2 ^ · : Nat → Nat)]

/-- R122: whether IMM32 [9:0] names the class. -/
theorem classOf_selected (fm : FpFmt) (x : Nat) (f : Long) :
    (if classOf fm x &&& immF f 9 0 = 0 then 0 else 1) = (f.imm.getLsbD (classIndex fm x)).toNat := by
  have hbit : (immF f 9 0).testBit (classIndex fm x) = f.imm.getLsbD (classIndex fm x) := by
    rw [immF, bits, immN, Nat.shiftRight_zero, Nat.testBit_mod_two_pow, decide_eq_true (classIndex_lt fm x), Bool.true_and]
    rfl
  rw [classOf_eq, Nat.two_pow_and, hbit]
  cases f.imm.getLsbD (classIndex fm x) <;> simp

/-- R122: what FMISC and DMISC come to in a lane. -/
def fmiscLane (fm : FpFmt) (i : Instr) (c : Ctx) (lane : Nat) : Nat × Flags :=
  let f := Instr.long i
  let x := srcA c i fm.w lane
  let a := fm.read (ftzOf c.g.mode fm) x
  let cfg := c.rcfg i fm lane 1 0
  match subN f with
  | 0 => roundiOf fm cfg a
  | 1 => fractOf fm cfg a
  | 2 => ldexpOf fm cfg (sext (srcB c i 32 lane) 32) a
  | 3 => getexpOf a
  | _ => (if isP f.d then (f.imm.getLsbD (classIndex fm x)).toNat else 2 ^ classIndex fm x, 0)

theorem fmiscEff_eq (fm : FpFmt) (i : Instr) :
    ∃ v, fmiscEff fm fm.w i = flagEff i (if subN (Instr.long i) = 3 ∨ subN (Instr.long i) = 4 then 32 else fm.w) v ∧
      ∀ c lane, v c.claim lane = fmiscLane fm i c lane := by
  refine ⟨_, rfl, fun c lane => ?_⟩
  simp only [Ctx.src_claim, Ctx.rcfg_claim, Ctx.g_claim, Ctx.opB32, classOf_selected]
  simp only [classOf_eq]
  rfl

theorem roundiOf_lt {fm : FpFmt} (hf : fm.HasFields) (cfg : RCfg) (x : Val) : (roundiOf fm cfg x).1 < 2 ^ fm.w := by
  unfold roundiOf
  split
  · dsimp only
    split
    · exact FpFmt.signed_lt hf _ (Nat.two_pow_pos _)
    · exact FpFmt.encode_lt hf ..
  · exact FpFmt.encode_lt hf ..

theorem fractOf_lt {fm : FpFmt} (hf : fm.HasFields) (cfg : RCfg) (x : Val) : (fractOf fm cfg x).1 < 2 ^ fm.w := by
  have hq : fm.qnan < 2 ^ fm.w := by rw [FpFmt.two_pow_w_eq hf]; have := FpFmt.qnan_lt hf; omega
  unfold fractOf
  split
  · split
    · exact Nat.two_pow_pos _
    · exact FpFmt.encode_lt hf ..
  · exact Nat.two_pow_pos _
  · exact hq
  · exact hq

theorem ldexpOf_lt {fm : FpFmt} (hf : fm.HasFields) (cfg : RCfg) (b : Int) (x : Val) : (ldexpOf fm cfg b x).1 < 2 ^ fm.w := by
  unfold ldexpOf
  split <;> exact FpFmt.encode_lt hf ..

theorem getexpOf_lt (x : Val) : (getexpOf x).1 < 2 ^ 32 := by
  unfold getexpOf
  split
  · exact wrap_lt ..
  all_goals decide

theorem fmiscLane_lt {fm : FpFmt} (hf : fm.HasFields) {i : Instr} (hop : subN (Instr.long i) ≤ 4) (c : Ctx) (lane : Nat) :
    (fmiscLane fm i c lane).1 < 2 ^ (if subN (Instr.long i) = 3 ∨ subN (Instr.long i) = 4 then 32 else fm.w) := by
  have hclass : (if isP (Instr.long i).d then ((Instr.long i).imm.getLsbD (classIndex fm (srcA c i fm.w lane))).toNat
      else 2 ^ classIndex fm (srcA c i fm.w lane)) < 2 ^ 32 := by
    split
    · exact (Bool.toNat_le _).trans_lt (by decide)
    · exact Nat.pow_lt_pow_right (by decide) ((classIndex_lt ..).trans (by decide))
  unfold fmiscLane
  dsimp only
  generalize subN (Instr.long i) = op at hop ⊢
  interval_cases op
  · exact roundiOf_lt hf ..
  · exact fractOf_lt hf ..
  · exact ldexpOf_lt hf ..
  · exact getexpOf_lt _
  · exact hclass

theorem shFmisc_legal {w : Nat} {f : Long} (h : (shFmisc w f).ill = false) : subN f ≤ 4 := by
  simp only [shFmisc, regSh, Bool.or_eq_false_iff, decide_eq_false_iff_not, not_lt] at h
  exact h.1

theorem fmisc_namesRegister {i : Instr} {w : Nat} (hshape : Instr.shape i = shFmisc w (Instr.long i)) : NamesRegister i := by
  by_cases hop : subN (Instr.long i) = 4
  · exact namesRegister_of_dstP (by rw [hshape]; exact congrArg (fun k => (⟨(Instr.long i).d, k⟩ : Use) :: _) (if_pos hop))
  · exact namesRegister_of_dst (by rw [hshape]; exact congrArg (fun k => (⟨(Instr.long i).d, k⟩ : Use) :: _) (if_neg hop))

section
variable {i : Instr} {fm : FpFmt} (hexec : ∀ s, exec i s = run i (fmiscEff fm fm.w i) s) (hshape : Instr.shape i = shFmisc fm.w (Instr.long i))
  (hw : 32 ∣ fm.w)
include hexec hshape hw

/-- R122: the instruction is what its lanes come to. -/
theorem fmisc_flaggedResult (hf : fm.HasFields) {w : Nat} {r : Ctx → Nat → Nat → Nat × Flags}
    (hwidth : (if subN (Instr.long i) = 3 ∨ subN (Instr.long i) = 4 then 32 else fm.w) = w) (hr : ∀ c lane, fmiscLane fm i c lane = r c lane 0) :
    FlaggedResult i w 1 w r := by
  obtain ⟨v, heff, hv⟩ := fmiscEff_eq fm i
  have h32 : 32 ∣ w := by rw [← hwidth]; split <;> [exact dvd_rfl; exact hw]
  rw [hwidth] at heff
  refine flaggedResult_one (heff ▸ hexec) (fmisc_namesRegister hshape) h32 (fun s c _ lane _ => (hv c lane).trans (hr c lane)) fun s c h lane _ => ?_
  have hlt := fmiscLane_lt hf (shFmisc_legal (hshape ▸ h.ill)) c lane
  rwa [hwidth, hr] at hlt

/-- R51, R122: with no flag enabled it completes. -/
theorem fmisc_completes {s : State} {c : Ctx} (h : Issues i s c) (htrapen : c.g.trapen = 0) :
    ∃ t v, exec i s = .next t ∧ RegResult c (Instr.long i) (if subN (Instr.long i) ≤ 2 then fm.w else 32) v t := by
  obtain ⟨v, heff, -⟩ := fmiscEff_eq fm i
  have hop := shFmisc_legal (hshape ▸ h.ill)
  have hwidth : (if subN (Instr.long i) = 3 ∨ subN (Instr.long i) = 4 then 32 else fm.w) = if subN (Instr.long i) ≤ 2 then fm.w else 32 := by
    split_ifs <;> omega
  rw [hwidth] at heff
  obtain ⟨t, -, hrun, -, hres, -⟩ := flagEff_completes h (heff ▸ hexec s) (fmisc_namesRegister hshape s c h)
    (by split <;> [exact hw; exact dvd_rfl]) (by rw [htrapen]; exact BitVec.and_zero)
  exact ⟨t, _, hrun, hres⟩

end

/-! ## Powers of two that LDEXP multiplies by (R122) -/

theorem FpFmt.decode_mod (fm : FpFmt) (x : Nat) : fm.decode (x % 2 ^ fm.w) = fm.decode x := by
  unfold FpFmt.decode
  rw [Nat.mod_mod]

/-- A finite operand has a significand and an exponent of its format. -/
theorem FpFmt.read_bounds {fm : FpFmt} (hf : fm.HasFields) {ftz : Bool} {x : Nat} {m e : Int} (h : fm.read ftz x = .fin m e) :
    m ≠ 0 ∧ Nat.log2 m.natAbs ≤ fm.fb ∧ 1 - (fm.bias : Int) - fm.fb ≤ e ∧ e < 2 ^ fm.eb - fm.bias - fm.fb := by
  have hdec : fm.decode (x % 2 ^ fm.w) = .fin m e := by
    unfold read at h
    split at h
    · cases h
    · rwa [decode_mod]
  obtain ⟨neg, y, hy0, hy, -, rfl, rfl⟩ := eq_signed_of_decode hf (Nat.mod_lt _ (by positivity)) hdec
  have hm0 : fm.mant y ≠ 0 := mt mant_eq_zero.mp hy0
  have habs : ((if neg then -1 else 1) * (fm.mant y : Int)).natAbs = fm.mant y := by cases neg <;> simp
  have hlog : Nat.log2 (fm.mant y) < fm.fb + 1 := (Nat.log2_lt hm0).mpr (mant_lt y)
  have hex : y / 2 ^ fm.fb < 2 ^ fm.eb := Nat.div_lt_of_lt_mul (by rw [Nat.mul_comm, ← signBit_eq hf]; exact hy.trans_lt (maxBits_lt hf))
  have hex : ((y / 2 ^ fm.fb : Nat) : Int) < 2 ^ fm.eb := by exact_mod_cast hex
  have hone : (2 : Int) ≤ 2 ^ fm.eb := by
    obtain ⟨-, heb, -⟩ := hf
    exact_mod_cast Nat.le_self_pow (show fm.eb ≠ 0 by omega) 2
  refine ⟨Int.natAbs_ne_zero.mp (by rw [habs]; exact hm0), by rw [habs]; omega, ?_⟩
  unfold expo
  generalize y / 2 ^ fm.fb = ex at *
  split <;> omega

/-- R122: in FP32 and FP64 a power beyond ±5,000 rounds as ±5,000 does. -/
theorem ldexpOf_eq {fm : FpFmt} (hfm : fm ∈ [FpFmt.f32, .f64]) {cfg : RCfg} (hr : cfg.rbits < 2 ^ 32) {ftz : Bool} {x : Nat} {m e : Int}
    (h : fm.read ftz x = .fin m e) (b : Int) : ldexpOf fm cfg b (.fin m e) = fm.encode cfg (.fin m (e + b)) := by
  have hsmall : ∀ fm ∈ [FpFmt.f32, .f64], fm ∈ allFormats ∧ (2 : Int) ^ fm.eb ≤ 2048 ∧ fm.fb ≤ 52 ∧ fm.bias ≤ 1023 := by decide
  obtain ⟨hmem, hsize⟩ := hsmall fm hfm
  have hf : fm.HasFields := FpFmt.hasFields_of_mem hmem
  obtain ⟨hm, hlog, hlo, hhi⟩ := FpFmt.read_bounds hf h
  rw [ldexpOf, FpFmt.encode_fin fm cfg hm, FpFmt.encode_fin fm cfg hm]
  rcases lt_or_ge 5000 b with hb | hb
  · rw [FpFmt.round_of_huge hf cfg hm (by omega), FpFmt.round_of_huge hf cfg hm (by omega)]
  · rcases lt_or_ge b (-5000) with hb' | hb'
    · exact FpFmt.round_of_tiny fm hr hm (by omega) (by omega)
    · rw [min_eq_right hb, max_eq_right hb']

/-! ## The statement -/

theorem Ctx.rcfg_rbits_lt (c : Ctx) (i : Instr) (fm : FpFmt) (lane : Nat) : (c.rcfg i fm lane 1 0).rbits < 2 ^ 32 := by
  unfold Ctx.rcfg
  dsimp only
  split
  · rw [randBits, Nat.div_one, Nat.sub_self, pow_zero, Nat.mul_one]
    exact Nat.mod_lt _ (by decide)
  · decide

theorem roundiOf_fin (fm : FpFmt) (cfg : RCfg) (m e : Int) : roundiOf fm cfg (.fin m e) =
    let r : Nat := (quantise cfg.rnd 0 (decide (m < 0)) m.natAbs e 0).1
    (if r = 0 then (if m < 0 then fm.signBit else 0) else (fm.encode cfg (.fin (if m < 0 then -r else r) 0)).1, 0) := by
  simp only [roundiOf, decide_eq_true_eq, FpFmt.signed, Nat.add_zero]
  split <;> rfl

theorem fractOf_fin (fm : FpFmt) (cfg : RCfg) (m e : Int) : fractOf fm cfg (.fin m e) =
    if 0 ≤ e then (0, 0) else fm.encode { cfg with rnd := 2, sat := false } (.fin (m % 2 ^ (-e).toNat) e) := by
  simp only [fractOf, Nat.cast_pow, Nat.cast_ofNat]

/-- R122: FMISC and DMISC are one effect at two formats. -/
theorem fmisc_or_dmisc {i : Instr} {fm : FpFmt} {w : Nat} (hi : (∃ f, i = .fmisc f ∧ fm = .f32 ∧ w = 32) ∨ (∃ f, i = .dmisc f ∧ fm = .f64 ∧ w = 64)) :
    fm ∈ [FpFmt.f32, .f64] ∧ w = fm.w ∧ (∀ s, exec i s = run i (fmiscEff fm fm.w i) s) ∧ Instr.shape i = shFmisc fm.w (Instr.long i) := by
  rcases hi with ⟨f, rfl, rfl, rfl⟩ | ⟨f, rfl, rfl, rfl⟩
  · exact ⟨by decide, rfl, fun _ => rfl, rfl⟩
  · exact ⟨by decide, rfl, fun _ => rfl, rfl⟩

/-- R52, R53: exact powers of two. -/
theorem fnEval_exact {fm : FpFmt} (cfg : RCfg) {k : Int} (hlo : -100 ≤ k) (hhi : k ≤ 100) :
    (k ≠ 0 → fm.encode cfg (fnEval 3 (.fin k 0)).1 = fm.encode cfg (.fin 1 k)) ∧
    (k ≠ 0 → fm.encode cfg (fnEval 4 (.fin 1 k)).1 = fm.encode cfg (.fin k 0)) ∧
    fm.encode cfg (fnEval 0 (.fin 1 k)).1 = fm.encode cfg (.fin 1 (-k)) ∧
    fm.encode cfg (fnEval 2 (.fin 1 (2 * k))).1 = fm.encode cfg (.fin 1 k) := by
  refine ⟨fun h0 => ?_, fun h0 => ?_, ?_, ?_⟩
  · exact congrArg (fm.encode cfg) (fnEx2_whole h0 hlo hhi)
  · exact congrArg (fm.encode cfg) (fnLg2_two_pow h0)
  · exact congrArg (fm.encode cfg) (fnRcp_two_pow k)
  · exact (congrArg (fm.encode cfg) (fnSqrt_two_pow k)).trans (fm.encode_scale cfg one_ne_zero 200 k)

/-- Settles O10: FFUNC and DFUNC round `fnEval`, whose exact cases are computed above, and FMISC and DMISC are their helpers. -/
theorem floatFunctionsAndHelpers : Obligations.FloatFunctionsAndHelpers := by
  have hf32 : FpFmt.f32.HasFields := FpFmt.hasFields_of_mem (by decide)
  have hf64 : FpFmt.f64.HasFields := FpFmt.hasFields_of_mem (by decide)
  have hffunc (f : Long) := ffunc_flaggedResult (i := .ffunc f) (fm := .f32) (fun _ => rfl) rfl hf32 dvd_rfl
  have hdfunc (f : Long) := ffunc_flaggedResult (i := .dfunc f) (fm := .f64) (fun _ => rfl) rfl hf64 (by decide)
  unfold Obligations.FloatFunctionsAndHelpers
  refine ⟨⟨fun f => (hffunc f).completesUntrapped, fun f => (hdfunc f).completesUntrapped, fun i fm w hi => ?_,
    fun fm _ cfg _ _ _ k hlo hhi => fnEval_exact cfg hlo hhi, fun n => ⟨rfl, rfl, rfl, rfl, rfl, rfl, rfl⟩, fun m e hm fn hfn => ?_⟩,
    fun f s c h htrapen => ?_, fun f s c h htrapen => ?_, fun i fm w hi => ?_⟩
  · rcases hi with ⟨f, rfl, rfl, rfl⟩ | ⟨f, rfl, rfl, rfl⟩
    · exact hffunc f
    · exact hdfunc f
  · fin_cases hfn <;> exact if_pos hm
  · obtain ⟨t, v, hrun, hres⟩ := fmisc_completes (fm := .f32) (fun _ => rfl) rfl dvd_rfl h htrapen
    exact ⟨t, v, hrun, (ite_self (c := subN f ≤ 2) 32) ▸ hres⟩
  · exact fmisc_completes (fm := .f64) (fun _ => rfl) rfl (by decide) h htrapen
  · obtain ⟨hfm, rfl, hexec, hshape⟩ := fmisc_or_dmisc hi
    have hsmall : ∀ fm ∈ [FpFmt.f32, .f64], fm ∈ allFormats ∧ 32 ∣ fm.w := by decide
    obtain ⟨hmem, hw⟩ := hsmall fm hfm
    intro f a cfg
    refine ⟨fun hop => ?_, fun hop => ?_, fun hop => ?_, fun hop => ?_, fun hop => ?_⟩
    all_goals
      refine fmisc_flaggedResult hexec hshape hw (FpFmt.hasFields_of_mem hmem) (by rw [hop]; rfl) fun c lane => ?_
      rw [fmiscLane, hop]
    · show roundiOf fm (cfg c lane) (a c lane) = _
      cases a c lane with
      | fin m e => exact roundiOf_fin ..
      | nan | inf | zero => rfl
    · show fractOf fm (cfg c lane) (a c lane) = _
      cases a c lane with
      | fin m e => exact fractOf_fin ..
      | nan sig => cases sig <;> rfl
      | inf | zero => rfl
    · show ldexpOf fm (cfg c lane) (sext (srcB c i 32 lane) 32) (a c lane) = _
      cases ha : a c lane with
      | fin m e => exact ldexpOf_eq hfm (c.rcfg_rbits_lt i fm lane) ha _
      | nan | inf | zero => rfl
    · show getexpOf (a c lane) = _
      cases a c lane <;> rfl
    · rfl

end Sys2Proof.Machine
end

section
/-! PROOFS of the statement on dot products, conversions, packing, random numbers and exact windows (spec/06_floating_point_instructions.md, R123 to R131). -/
namespace Sys2Proof.Machine

/-! ## Replacing an element (R39) -/

/-- Element j of a word whose element k, of n bits, is e: above it stand the bits hi, below it the n × k bits lo. -/
theorem elem_of_split {n k hi e lo : Nat} (he : e < 2 ^ n) (hlo : lo < 2 ^ (n * k)) (j : Nat) :
    elem ((hi * 2 ^ n + e) * 2 ^ (n * k) + lo) n j =
      if j = k then e else if j < k then elem lo n j else elem hi n (j - (k + 1)) := by
  rw [elem_eq, elem_eq, elem_eq]
  rcases lt_trichotomy j k with hj | rfl | hj
  · have hsplit : 2 ^ (n * k) = 2 ^ (n * j) * 2 ^ n * 2 ^ (n * (k - j - 1)) := by
      rw [← pow_add, ← pow_add, ← Nat.mul_add_one, ← Nat.mul_add]
      congr 2
      omega
    have hassoc : (hi * 2 ^ n + e) * (2 ^ (n * j) * 2 ^ n * 2 ^ (n * (k - j - 1))) + lo =
        2 ^ (n * j) * (2 ^ n * (2 ^ (n * (k - j - 1)) * (hi * 2 ^ n + e))) + lo := by ring
    rw [if_neg hj.ne, if_pos hj, hsplit, hassoc, Nat.mul_add_div (by positivity), Nat.mul_add_mod]
  · rw [if_pos rfl, Nat.add_comm, Nat.add_mul_div_right _ _ (by positivity), Nat.div_eq_of_lt hlo, Nat.zero_add, Nat.mul_comm, Nat.mul_add_mod,
      Nat.mod_eq_of_lt he]
  · have hsplit : 2 ^ (n * j) = 2 ^ (n * k) * 2 ^ n * 2 ^ (n * (j - (k + 1))) := by
      rw [← pow_add, ← pow_add, ← Nat.mul_add_one, ← Nat.mul_add]
      congr 2
      omega
    rw [if_neg hj.ne', if_neg (by omega), hsplit, ← Nat.div_div_eq_div_mul, ← Nat.div_div_eq_div_mul, Nat.add_comm (_ * 2 ^ (n * k)),
      Nat.add_mul_div_right _ _ (by positivity), Nat.div_eq_of_lt hlo, Nat.zero_add, Nat.add_comm (hi * _), Nat.add_mul_div_right _ _ (by positivity),
      Nat.div_eq_of_lt he, Nat.zero_add]

theorem elem_insElem (old n k y j : Nat) : elem (insElem old n k y) n j = if j = k then y % 2 ^ n else elem old n j := by
  have hpos : 0 < 2 ^ n := by positivity
  have hlo : old % 2 ^ (n * k) < 2 ^ (n * k) := Nat.mod_lt _ (by positivity)
  have helem : elem old n k = old / 2 ^ (n * k) % 2 ^ n := elem_eq ..
  have hold : old = (old / 2 ^ (n * k) / 2 ^ n * 2 ^ n + elem old n k) * 2 ^ (n * k) + old % 2 ^ (n * k) := by
    rw [helem, Nat.div_add_mod', Nat.div_add_mod']
  have hins : insElem old n k y = (old / 2 ^ (n * k) / 2 ^ n * 2 ^ n + y % 2 ^ n) * 2 ^ (n * k) + old % 2 ^ (n * k) := by
    unfold insElem
    rw [Nat.add_mul] at hold ⊢
    omega
  have helt : elem old n k < 2 ^ n := helem ▸ Nat.mod_lt _ hpos
  have hsplit := elem_of_split (hi := old / 2 ^ (n * k) / 2 ^ n) helt hlo j
  rw [← hold] at hsplit
  rw [hins, elem_of_split (Nat.mod_lt _ hpos) hlo, hsplit]
  split_ifs <;> rfl

/-! ## Formats (R85) -/

theorem fmtWidth_eq : ∀ {code : BitVec 4}, code ≠ 15 → fmtWidth code = (fmtOf code).laneWidth := by decide

theorem fmt_ne_of_fmtN_ne {f : Long} {k : BitVec 4} (h : fmtN f ≠ k.toNat) : f.fmt ≠ k := fun he => h (congrArg BitVec.toNat he)

/-! ## Dot products (R123, R124) -/

theorem fdot2_flaggedResult (f : Long) : FlaggedResult (.fdot2 f) 32 1 32 fun c lane _ =>
    let h : FpFmt := if f.fmt = 11 then .bf16 else .f16
    let arg := fun code j => h.read (ftzOf c.g.mode h) (elem (c.src f.lit code 32 lane) 16 j)
    let p := fun j => Val.mul (arg f.a j) (arg f.b j)
    let cfg := c.rcfg (.fdot2 f) .f32 lane 1 0
    let x := Val.sum cfg.rnd [(p 0).1, (p 1).1, FpFmt.f32.read (ftzOf c.g.mode .f32) (srcC c (.fdot2 f) 32 lane)]
    let y := FpFmt.f32.encode cfg x.1
    (y.1, (p 0).2 ||| (p 1).2 ||| x.2 ||| y.2) := by
  simp only [halfFmt_eq]
  refine flaggedResult_one (fun _ => rfl) (namesRegister_of_dst rfl) dvd_rfl (fun s c _ lane _ => ?_) fun s c _ lane _ =>
    FpFmt.encode_lt (FpFmt.hasFields_of_mem (by decide)) ..
  simp only [Ctx.src_claim, Ctx.rcfg_claim]
  rfl

theorem idot4_writesValue (f : Long) : WritesValue (.idot4 f) 32 fun c lane =>
    let byte := fun (signed : Bool) x j => (⟨8, signed⟩ : IntFmt).val (elem x 8 j)
    let t := fun j => byte (f.sub.getLsbD 0) (srcA c (.idot4 f) 32 lane) j * byte (f.sub.getLsbD 1) (srcB c (.idot4 f) 32 lane) j
    (intFmtOf f).reduce f.sat (t 0 + t 1 + t 2 + t 3 + (intFmtOf f).val (srcC c (.idot4 f) 32 lane)) := by
  refine writesValue_of_valueEff (i := .idot4 f) (fun _ => rfl) (w' := 32) rfl dvd_rfl fun s c _ lane => ?_
  simp only [Ctx.src_claim]
  refine congrArg ((intFmtOf f).reduce f.sat) ?_
  show (((_ + _) + _) + _) + _ = _
  simp only [srcA, srcB, srcC, Instr.long]
  ring

/-! ## Conversions of one element (R125, R130) -/

/-- An instruction that replaces one element of D, and raises flags, keeps the other elements. -/
theorem flagEff_inserts {i : Instr} {w n k : Nat} {v r : Ctx → Nat → Nat × Flags} {s : State} {c : Ctx} (h : Issues i s c)
    (hexec : exec i s = run i (flagEff i w v) s) (hd : isData (Instr.long i).d = true ∨ isP (Instr.long i).d = true) (hw : 32 ∣ w)
    (hv : ∀ lane, v c.claim lane = (insElem (c.src none (Instr.long i).d w lane) n k (r c lane).1, (r c lane).2))
    (hfl : allFlags c 1 (fun lane _ => (r c lane).2) &&& c.g.trapen = 0) :
    ∃ t v, exec i s = .next t ∧ RegResult c (Instr.long i) w v t ∧ ∀ lane ∈ c.lanes, ∀ j,
      elem (v lane) n j = if j = k then (r c lane).1 % 2 ^ n else elem (c.src none (Instr.long i).d w lane) n j := by
  have hflags : unionFlags c.lanes (fun lane => (v c.claim lane).2) = allFlags c 1 (fun lane _ => (r c lane).2) := by
    rw [allFlags_eq]
    exact unionFlags_congr fun lane _ => by rw [hv, laneFlags_one]
  obtain ⟨t, -, hrun, -, hres, -⟩ := flagEff_completes h hexec hd hw (hflags ▸ hfl)
  exact ⟨t, _, hrun, hres, fun lane _ j => by rw [hv]; exact elem_insElem ..⟩

theorem shCvt_legal {f : Long} (h : (shCvt f).ill = false) : f.fmt ≠ 15 ∧ f.sub.extractLsb' 0 4 ≠ 15 := by
  simp only [shCvt, regSh, Bool.or_eq_false_iff, decide_eq_false_iff_not, not_lt, and_assoc] at h
  obtain ⟨hdst, hsrc, -⟩ := h
  exact ⟨fmt_ne_of_fmtN_ne (by change fmtN f ≠ 15; omega), fun he => by rw [he] at hsrc; exact absurd hsrc (by decide)⟩

theorem cvt_converts {f : Long} {s : State} {c : Ctx} (h : Issues (.cvt f) s c) :
    let src := fmtOf (f.sub.extractLsb' 0 4)
    let dst := fmtOf f.fmt
    let w := dst.laneWidth
    let x := fun lane => elem (srcA c (.cvt f) src.laneWidth lane) src.elemWidth (subF f 5 4)
    let r := fun lane => cvtElem c.g.mode (c.rcfg (.cvt f) .f32 lane 1 0) src dst (x lane)
    allFlags c 1 (fun lane _ => (r lane).2) &&& c.g.trapen = 0 →
    ∃ t v, exec (.cvt f) s = .next t ∧ RegResult c f w v t ∧
      ∀ lane ∈ c.lanes, ∀ j < dst.elems, elem (v lane) dst.elemWidth j =
        if j = subF f 7 6 then (r lane).1 % 2 ^ dst.elemWidth else elem (c.src none f.d w lane) dst.elemWidth j := by
  intro src dst w x r hfl
  obtain ⟨hdst, hsrc⟩ := shCvt_legal h.ill
  have hw : fmtWidth f.fmt = w := fmtWidth_eq hdst
  obtain ⟨t, v, hrun, hres, hv⟩ := flagEff_inserts (r := fun _ => r) (n := dst.elemWidth) (k := subF f 7 6) h rfl (.inl (h.isData_d rfl))
    (fmtWidth_dvd _) (fun lane => by
      simp only [Ctx.src_claim, Ctx.rcfg_claim]
      rw [fmtWidth_eq (code := (Instr.long (.cvt f)).sub.extractLsb' 0 4) hsrc]
      rfl) hfl
  exact ⟨t, v, hrun, hw ▸ hres, fun lane hl j _ => hw ▸ hv lane hl j⟩

theorem shXcvtFrom_legal {f : Long} (h : (shXcvtFrom f).ill = false) : f.fmt ≠ 15 := by
  simp only [shXcvtFrom, regSh, Bool.or_eq_false_iff, decide_eq_false_iff_not, and_assoc] at h
  obtain ⟨-, hfmt, -⟩ := h
  exact fmt_ne_of_fmtN_ne hfmt

theorem xcvtFrom_converts {f : Long} {s : State} {c : Ctx} (h : Issues (.xcvtFrom f) s c) (h14 : f.fmt ≠ 14) :
    let dst := fmtOf f.fmt
    let w := dst.laneWidth
    let r := fun lane =>
      let val := Galley.value (anchorVal (immF f 15 0)) (BitVec.ofNat 128 (srcA c (.xcvtFrom f) 128 lane))
      dst.convert { c.rcfg (.xcvtFrom f) .f32 lane 1 0 with ftz := dst.ftz c.g.mode } val
    allFlags c 1 (fun lane _ => (r lane).2) &&& c.g.trapen = 0 →
    ∃ t v, exec (.xcvtFrom f) s = .next t ∧ RegResult c f w v t ∧
      ∀ lane ∈ c.lanes, ∀ j < dst.elems, elem (v lane) dst.elemWidth j =
        if j = subF f 5 4 then (r lane).1 % 2 ^ dst.elemWidth else elem (c.src none f.d w lane) dst.elemWidth j := by
  intro dst w r hfl
  have hw : fmtWidth f.fmt = w := fmtWidth_eq (shXcvtFrom_legal h.ill)
  have hn : ¬fmtN f = 14 := fun he => h14 (BitVec.eq_of_toNat_eq he)
  have hexec : exec (.xcvtFrom f) s = run (.xcvtFrom f) _ s := congrArg (run (.xcvtFrom f) · s) (if_neg hn)
  obtain ⟨t, v, hrun, hres, hv⟩ := flagEff_inserts (r := fun _ => r) (n := dst.elemWidth) (k := subF f 5 4) h hexec (.inl (h.isData_d rfl))
    (fmtWidth_dvd _) (fun lane => by
      simp only [Ctx.src_claim, Ctx.rcfg_claim]
      rfl) hfl
  exact ⟨t, v, hrun, hw ▸ hres, fun lane hl j _ => hw ▸ hv lane hl j⟩

/-! ## Packing, unpacking and random numbers (R126 to R128) -/

theorem pack_packs {f : Long} {s : State} {c : Ctx} (h : Issues (.pack f) s c) :
    ∃ t v, exec (.pack f) s = .next t ∧ RegResult c f 32 v t ∧
      ∀ lane ∈ c.lanes, v lane < 2 ^ 32 ∧ ∀ j < 4,
        let k := immN f / 16 ^ j % 16
        elem (v lane) 8 j =
          if k < 4 then elem (srcA c (.pack f) 32 lane) 8 k else if k < 8 then elem (srcB c (.pack f) 32 lane) 8 (k - 4) else 0 := by
  obtain ⟨t, hrun, hres, -⟩ := valueEff_writes h rfl (.inl (h.isData_d (w := 32) rfl)) dvd_rfl
  refine ⟨t, _, hrun, hres, fun lane _ => ⟨packElems_lt 8 _, fun j hj => ?_⟩⟩
  intro k
  have hk : elem (immN (Instr.long (.pack f))) 4 j = k := by rw [elem_eq, pow_mul]; rfl
  have hmod (x j : Nat) : elem x 8 j % 2 ^ 8 = elem x 8 j := Nat.mod_mod ..
  rw [elem_packElems 8 (by simpa using hj), List.getElem_map, List.getElem_range]
  simp only [Ctx.src_claim, hk]
  split_ifs
  · exact hmod ..
  · exact hmod ..
  · rfl

theorem shUnpk_legal {f : Long} (h : (shUnpk f).ill = false) : (4 ≤ fmtN f ∧ fmtN f ≤ 7) ∨ (10 ≤ fmtN f ∧ fmtN f ≤ 13) := by
  simp only [shUnpk, regSh, Bool.or_eq_false_iff, decide_eq_false_iff_not, not_lt] at h
  omega

/-- R127: the formats that UNPK takes apart. -/
def unpkFormats : List Fmt := [.int ⟨16, true⟩, .int ⟨8, true⟩, .int ⟨16, false⟩, .int ⟨8, false⟩, .fp .f16, .fp .bf16, .fp .e4m3, .fp .e5m2]

theorem fmtOf_mem_unpkFormats : ∀ {code : BitVec 4}, (4 ≤ code.toNat ∧ code.toNat ≤ 7) ∨ (10 ≤ code.toNat ∧ code.toNat ≤ 13) →
    fmtOf code ∈ unpkFormats ∧ fmtElems code = (fmtOf code).elems ∧ 32 / fmtElems code = (fmtOf code).elemWidth := by decide

/-- R127: an element of n bits as a word. -/
def unpkElem (fm : Fmt) (x : Nat) : Nat :=
  match fm with
  | .int g => wrap (g.val x) 32
  | _ => x

theorem unpkElem_mod {fm : Fmt} (hfm : fm ∈ unpkFormats) {x : Nat} (hx : x < 2 ^ fm.elemWidth) :
    unpkElem fm x % 2 ^ 32 = if fm = .int ⟨16, true⟩ ∨ fm = .int ⟨8, true⟩ then wrap (sext x fm.elemWidth) 32 else x := by
  have hsmall : ∀ fm ∈ unpkFormats, fm.elemWidth ≤ 32 := by decide
  have hx32 : x % 2 ^ 32 = x := Nat.mod_eq_of_lt (hx.trans_le (Nat.pow_le_pow_right (by decide) (hsmall fm hfm)))
  have hxw : x % 2 ^ fm.elemWidth = x := Nat.mod_eq_of_lt hx
  by_cases hsigned : fm = .int ⟨16, true⟩ ∨ fm = .int ⟨8, true⟩
  · rw [if_pos hsigned]
    obtain rfl | rfl := hsigned <;> exact wrap_mod (sext x _) 32
  · rw [if_neg hsigned]
    cases fm with
    | fp g => exact hx32
    | w128 => exact hx32
    | int g =>
      have hg : g.signed = false := by
        simp only [unpkFormats, List.mem_cons, List.not_mem_nil, Fmt.int.injEq, reduceCtorEq, or_false] at hfm hsigned
        obtain rfl | rfl | rfl | rfl := hfm <;> simp at hsigned ⊢
      show wrap (g.val x) 32 % 2 ^ 32 = x
      rw [wrap_mod, IntFmt.val, hg, if_neg Bool.false_ne_true, wrap_natCast]
      exact (congrArg (· % 2 ^ 32) hxw).trans hx32

/-- R127: what UNPK leaves in a lane. -/
def unpkLane (f : Long) (c : Ctx) (lane : Nat) : Nat :=
  packElems 32 ((List.range (fmtElems f.fmt)).map fun j => unpkElem (fmtOf f.fmt) (elem (srcA c (.unpk f) 32 lane) (32 / fmtElems f.fmt) j))

theorem unpk_writesValue (f : Long) : WritesValue (.unpk f) (32 * fmtElems f.fmt) (unpkLane f) :=
  writesValue_of_valueEff (i := .unpk f) (fun _ => rfl) (w' := 32 * fmtElems f.fmt) rfl (Dvd.intro _ rfl) fun s c _ lane => by
    simp only [Ctx.src_claim]
    rfl

theorem elem_unpkLane {f : Long} (h : (shUnpk f).ill = false) (c : Ctx) (lane : Nat) {j : Nat} (hj : j < (fmtOf f.fmt).elems) :
    let fm := fmtOf f.fmt
    let x := elem (srcA c (.unpk f) 32 lane) fm.elemWidth j
    elem (unpkLane f c lane) 32 j = if fm = .int ⟨16, true⟩ ∨ fm = .int ⟨8, true⟩ then wrap (sext x fm.elemWidth) 32 else x := by
  intro fm x
  obtain ⟨hfm, helems, hwidth⟩ := fmtOf_mem_unpkFormats (shUnpk_legal h)
  have hx : x < 2 ^ fm.elemWidth := Nat.mod_lt _ (by positivity)
  rw [helems] at hwidth
  rw [← unpkElem_mod hfm hx, unpkLane, helems, elem_packElems 32 (by rwa [List.length_map, List.length_range]), List.getElem_map, List.getElem_range, hwidth]

theorem unpk_unpacks {f : Long} {s : State} {c : Ctx} (h : Issues (.unpk f) s c) :
    let fm := fmtOf f.fmt
    ∃ t v, exec (.unpk f) s = .next t ∧ RegResult c f (32 * fm.elems) v t ∧
      ∀ lane ∈ c.lanes, ∀ j < fm.elems,
        let x := elem (srcA c (.unpk f) 32 lane) fm.elemWidth j
        elem (v lane) 32 j = if fm = .int ⟨16, true⟩ ∨ fm = .int ⟨8, true⟩ then wrap (sext x fm.elemWidth) 32 else x := by
  intro fm
  obtain ⟨-, helems, -⟩ := fmtOf_mem_unpkFormats (shUnpk_legal h.ill)
  obtain ⟨t, hrun, hres, -⟩ := unpk_writesValue f s c h
  refine ⟨t, unpkLane f c, hrun, ?_, fun lane _ j hj => elem_unpkLane h.ill c lane hj⟩
  rwa [← helems]

theorem rng_writesValue (f : Long) : WritesValue (.rng f) 128 fun c lane => philoxOf (srcA c (.rng f) 128 lane) (srcB c (.rng f) 64 lane) :=
  writesValue_of_valueEff (i := .rng f) (fun _ => rfl) (w' := 128) rfl (by decide) fun s c _ lane => by
    simp only [Ctx.src_claim]
    rfl

theorem philoxOf_zero : philoxOf 0 0 = 0x9B00DBD8_BC57AC4C_E169C58D_6627E8D5 := by decide +kernel

/-! ## Flags and overflows of windows (R50, R59) -/

theorem unionFlags_cons (l : List Nat) (x : Nat) (fl : Nat → Flags) : unionFlags (x :: l) fl = fl x ||| unionFlags l fl := by
  have h0 : 0 ||| fl x = fl x := BitVec.zero_or
  rw [unionFlags, List.foldl_cons, h0, foldl_or_flags]
  rfl

theorem unionFlags_or (l : List Nat) (fl fl' : Nat → Flags) : (unionFlags l fun x => fl x ||| fl' x) = unionFlags l fl ||| unionFlags l fl' := by
  induction l with
  | nil => exact BitVec.or_zero.symm
  | cons x l ih =>
    rw [unionFlags_cons, unionFlags_cons, unionFlags_cons, ih]
    ac_rfl

theorem unionFlags_ite (l : List Nat) (p : Nat → Bool) (fl : Flags) : (unionFlags l fun x => if p x then fl else 0) = if l.any p then fl else 0 := by
  induction l with
  | nil => rfl
  | cons x l ih =>
    rw [unionFlags_cons, ih, List.any_cons]
    cases p x <;> cases l.any p <;> simp

theorem maskOf_active_eq_zero (c : Ctx) (p : Nat → Bool) : (maskOf fun lane => c.active.getLsbD lane && p lane) = 0 ↔ c.lanes.any p = false := by
  rw [List.any_eq_false]
  constructor
  · intro h lane hl
    obtain ⟨h32, hactive⟩ := Ctx.mem_lanes.mp hl
    have hbit := maskOf_getLsbD (fun lane => c.active.getLsbD lane && p lane) h32
    rw [h, hactive, Bool.true_and] at hbit
    simpa using hbit.symm
  · intro h
    refine BitVec.eq_of_getLsbD_eq fun lane h32 => ?_
    rw [maskOf_getLsbD _ h32]
    cases hactive : c.active.getLsbD lane with
    | false => simp
    | true => simpa using h lane (Ctx.mem_lanes.mpr ⟨h32, hactive⟩)

theorem nv_disabled : ∀ {trapen : Flags}, trapen.getLsbD 4 = false → Flags.nv &&& trapen = 0 := by decide

section
variable {i : Instr} {v : Ctx → Nat → Galley × Bool × Bool} {win : Nat → Galley × Bool × Bool} {s : State} {c : Ctx}

theorem windowEff_of_lost {lost : Mask} (hwin : v c.claim = win) (hlost : (maskOf fun lane => c.active.getLsbD lane && (win lane).2.2) = lost)
    (hgovt : c.g.govt = true) (hne : lost ≠ 0) : windowEff i v c.claim = .raise 0x26 lost.toNat := by
  subst hwin hlost
  exact if_pos (by rw [Bool.and_eq_true, bne_iff_ne]; exact ⟨hgovt, hne⟩)

theorem windowEff_of_kept {fl : Flags} (hwin : v c.claim = win)
    (hkept : c.g.govt = false ∨ (maskOf fun lane => c.active.getLsbD lane && (win lane).2.2) = 0)
    (hnone : flagTrap c.g.trapen c.lanes (fun lane => if (win lane).2.1 then Flags.nv else 0) = none)
    (hfl : (unionFlags c.lanes fun lane => (if (win lane).2.1 then Flags.nv else 0) ||| (if (win lane).2.2 then Flags.ovf else 0)) = fl) :
    windowEff i v c.claim = .next (c.claim.writeReg i 128 (fun lane => (win lane).1.toNat) (c.g.raise c.claim.st.cycle fl)) := by
  subst hwin hfl
  refine (if_neg ?_).trans ?_
  · rw [Bool.and_eq_true, bne_iff_ne]
    rintro ⟨hgovt, hne⟩
    exact hkept.elim (fun h => absurd hgovt (ne_true_of_eq_false h)) hne
  · have hnone : flagTrap c.claim.g.trapen c.claim.lanes (fun lane => if (v c.claim lane).2.1 then Flags.nv else 0) = none := hnone
    rw [hnone]
    rfl

/-- R59, R129, R130: an instruction whose lanes each leave a window. -/
theorem windowEff_leaves (h : Issues i s c) (hexec : exec i s = run i (windowEff i v) s)
    (hd : isData (Instr.long i).d = true ∨ isP (Instr.long i).d = true) (hwin : v c.claim = win) :
    let lost := maskOf fun lane => c.active.getLsbD lane && (win lane).2.2
    let nv := c.lanes.any fun lane => (win lane).2.1
    (c.g.govt = true → lost ≠ 0 → c.g.level < 2 → ∃ t, exec i s = .next t ∧ Took c 0x26 lost.toNat (c.head i) t) ∧
    ((c.g.govt = false ∨ lost = 0) → (nv = false ∨ c.g.trapen.getLsbD 4 = false) →
      ∃ t g, exec i s = .next t ∧ c.gangIn t = some g ∧ RegResult c (Instr.long i) 128 (fun lane => (win lane).1.toNat) t ∧
        g.mode = c.g.mode ||| (((if nv then Flags.nv else 0) ||| (if lost = 0 then 0 else Flags.ovf)).setWidth 32 <<< 6)) := by
  intro lost nv
  have hlost : lost = 0 ↔ (c.lanes.any fun lane => (win lane).2.2) = false := maskOf_active_eq_zero ..
  rw [hexec]
  refine ⟨fun hgovt hne hlevel => run_took h (windowEff_of_lost hwin rfl hgovt hne) hlevel, fun hkept hnv => ?_⟩
  refine run_raises h (windowEff_of_kept hwin hkept (flagTrap_eq_none ?_) ?_) hd (by decide)
  · rw [unionFlags_ite]
    split
    · next hany => exact nv_disabled (hnv.resolve_left (ne_false_of_eq_true hany))
    · exact BitVec.zero_and
  · rw [unionFlags_or, unionFlags_ite, unionFlags_ite]
    simp only [hlost, nv]
    cases c.lanes.any fun lane => (win lane).2.2 <;> rfl

end

/-! ## Windows (R129, R130) -/

/-- R59, R129: the contributions added one after another. -/
theorem waddAll_eq_foldl (a : Int) (l : List (Contrib × Bool)) (w : Galley) (nv lost : Bool) :
    l.foldl (fun (r : Galley × Bool × Bool) x => let q := wadd a r.1 x.1; (q.1, r.2.1 || q.2.1 || x.2, r.2.2 || q.2.2)) (w, nv, lost) =
      ((waddAll a w l).1, nv || (waddAll a w l).2.1, lost || (waddAll a w l).2.2) := by
  induction l generalizing w nv lost with
  | nil => simp [waddAll]
  | cons x l ih => rw [List.foldl_cons, ih]; simp [waddAll, Bool.or_assoc]

theorem shXacc_legal {f : Long} (h : (shXacc f).ill = false) : subF f 1 0 ≠ 3 ∧ (subF f 1 0 < 2 → f.fmt ≠ 15) := by
  simp only [shXacc, regSh, Bool.or_eq_false_iff, Bool.and_eq_false_iff, decide_eq_false_iff_not, and_assoc] at h
  obtain ⟨h3, hfmt, -⟩ := h
  refine ⟨h3, fun h2 => fmt_ne_of_fmtN_ne ?_⟩
  change fmtN f ≠ 15
  omega

/-- R129: the contributions of a lane, as the statement lists them. -/
def xaccParts (c : Ctx) (f : Long) (lane : Nat) : List (Contrib × Bool) :=
  let fm := fmtOf f.fmt
  let el := fun code j => fm.exact (elem (c.src f.lit code fm.laneWidth lane) fm.elemWidth j)
  if subF f 1 0 = 2 then [(.word (BitVec.ofNat 128 (srcA c (.xacc f) 128 lane)), false)]
  else (List.range fm.elems).map fun j =>
    if subF f 1 0 = 0 then (.val (el f.a j), false) else (.val (Val.mul (el f.a j) (el f.b j)).1, (Val.mul (el f.a j) (el f.b j)).2 != 0)

theorem xaccContribs_claim {f : Long} (h : (shXacc f).ill = false) (c : Ctx) (lane : Nat) : xaccContribs c.claim f lane = xaccParts c f lane := by
  obtain ⟨h3, hfmt⟩ := shXacc_legal h
  have hlt := subF_lt f 1 0
  have hw : subF f 1 0 < 2 → fmtWidth f.fmt = (fmtOf f.fmt).laneWidth := fun h2 => fmtWidth_eq (hfmt h2)
  unfold xaccContribs xaccParts
  simp only [Ctx.src_claim]
  generalize subF f 1 0 = op at *
  interval_cases op
  · rw [hw (by decide)]; rfl
  · rw [hw (by decide)]; rfl
  · rfl
  · exact absurd rfl h3

theorem isData_of_accepts_window {code : BitVec 8} (h : Kind.window.accepts code = true) : isData code = true := by
  rcases (Bool.or_eq_true ..).mp h with h | h
  · exact isData_of_vkOk h
  · simp [isData, h]

theorem xacc_window {f : Long} {s : State} {c : Ctx} (h : Issues (.xacc f) s c) :
    ∃ v, xaccEff (.xacc f) = windowEff (.xacc f) v ∧ v c.claim = fun lane =>
      (xaccParts c f lane).foldl (fun (r : Galley × Bool × Bool) x =>
          let q := wadd (anchorVal (immF f 15 0)) r.1 x.1
          (q.1, r.2.1 || q.2.1 || x.2, r.2.2 || q.2.2))
        (BitVec.ofNat 128 (c.src none f.d 128 lane), false, false) := by
  refine ⟨_, rfl, funext fun lane => ?_⟩
  rw [waddAll_eq_foldl, ← xaccContribs_claim h.ill, Bool.false_or, Bool.false_or, Ctx.src_claim]
  rfl

theorem shXcvtTo_legal {f : Long} (h : (shXcvtTo f).ill = false) : f.fmt ≠ 15 := by
  simp only [shXcvtTo, regSh, Bool.or_eq_false_iff, decide_eq_false_iff_not, not_lt, and_assoc] at h
  obtain ⟨-, hfmt, -⟩ := h
  exact fmt_ne_of_fmtN_ne (by change fmtN f ≠ 15; omega)

theorem xcvtTo_window {f : Long} {s : State} {c : Ctx} (h : Issues (.xcvtTo f) s c) :
    ∃ v, xcvtToEff (.xcvtTo f) = windowEff (.xcvtTo f) v ∧ v c.claim = fun lane =>
      wadd (anchorVal (immF f 15 0)) 0
        (.val ((fmtOf f.fmt).exact (elem (srcA c (.xcvtTo f) (fmtOf f.fmt).laneWidth lane) (fmtOf f.fmt).elemWidth (subF f 5 4)))) := by
  refine ⟨_, rfl, funext fun lane => ?_⟩
  rw [Ctx.src_claim, fmtWidth_eq (code := (Instr.long (.xcvtTo f)).fmt) (shXcvtTo_legal h.ill)]
  rfl

theorem xcvtFrom_window {f : Long} (h14 : f.fmt = 14) (c : Ctx) :
    ∃ v, xcvtFromEff (.xcvtFrom f) = windowEff (.xcvtFrom f) v ∧ v c.claim = fun lane =>
      wadd (anchorVal (immF f 31 16)) 0 (.val (Galley.value (anchorVal (immF f 15 0)) (BitVec.ofNat 128 (srcA c (.xcvtFrom f) 128 lane)))) := by
  refine ⟨_, if_pos (congrArg BitVec.toNat h14), funext fun lane => ?_⟩
  simp only [Ctx.src_claim]
  rfl

/-- Settles O11: each instruction is the lemma above that bears its name; the three that leave windows do what `windowEff_leaves` says. -/
theorem conversionsAndExactWindows : Obligations.ConversionsAndExactWindows := by
  unfold Obligations.ConversionsAndExactWindows
  refine ⟨⟨fdot2_flaggedResult, idot4_writesValue, fun f s c h => cvt_converts h, fun f s c h => pack_packs h, fun f s c h => unpk_unpacks h,
    rng_writesValue, philoxOf_zero⟩, fun i win hi s c h => ?_, fun f s c h h14 => xcvtFrom_converts h h14⟩
  rcases hi with ⟨f, rfl, rfl⟩ | ⟨f, rfl, rfl⟩ | ⟨f, rfl, h14, rfl⟩
  · obtain ⟨v, heff, hwin⟩ := xacc_window h
    exact windowEff_leaves h (congrArg (run (.xacc f) · s) heff)
      (.inl (isData_of_accepts_window (accepts_of_decodeCause h.1 ⟨f.d, .window⟩ List.mem_cons_self))) hwin
  · obtain ⟨v, heff, hwin⟩ := xcvtTo_window h
    exact windowEff_leaves h (congrArg (run (.xcvtTo f) · s) heff) (.inl (h.isData_d rfl)) hwin
  · obtain ⟨v, heff, hwin⟩ := xcvtFrom_window h14 c
    exact windowEff_leaves h (congrArg (run (.xcvtFrom f) · s) heff) (.inl (h.isData_d rfl)) hwin

end Sys2Proof.Machine
end

section
/-! PROOFS of the statement on the order of a gang's accesses (spec/08_memory_instructions.md and spec/15_memory_model.md, R161, R316, R317). -/
namespace Sys2Proof.Machine

/-! ## Order between two accesses (R161, R317) -/

/-- R317 row 1: requests that share a byte of device memory meet. -/
theorem Req.meets_of_sharesByte {x r : Req} (h : SharesByte x r) : x.meets r = true := by
  obtain ⟨pa, qa, a, b, y, hx, hr, ha, hb, halo, hahi, hblo, hbhi⟩ := h
  simp only [homeOf] at halo hahi hblo hbhi
  simp only [Req.meets, hx, hr, Bool.and_eq_true, List.any_eq_true, beq_self_eq_true, true_and]
  exact ⟨a, ha, b, hb, by simp only [overlap, Bool.and_eq_true, decide_eq_true_eq]; omega⟩

theorem le_foldl_max {α : Type} (g : α → Nat) (l : List α) (m : Nat) :
    m ≤ l.foldl (fun m f => max m (g f)) m ∧ ∀ f ∈ l, g f ≤ l.foldl (fun m f => max m (g f)) m := by
  induction l generalizing m with
  | nil => simp
  | cons f l ih =>
    obtain ⟨hm, hl⟩ := ih (max m (g f))
    simp only [List.foldl_cons, List.mem_cons, forall_eq_or_imp]
    exact ⟨by omega, by omega, hl⟩

/-- R317 rows 3 to 6: order toward the parties in a scope. -/
theorem le_orderScope {x r : Req} {n : Nat} (h : OrderedToward x r n) :
    n ≤ orderScope x.rd x.ord x.scope r.wr r.ord r.scope (r.fences.filter fun f => decide (x.seq < f.seq)) := by
  unfold orderScope
  extract_lets row
  obtain ⟨hrows, hfences⟩ := le_foldl_max
    (fun f : FenceAt => row (((f.ord = 3 || f.ord = 4) && r.wr) || ((f.ord = 2 || f.ord = 4) && x.rd) || f.ord = 5) f.scope)
    (r.fences.filter fun f => decide (x.seq < f.seq))
    (max (max (row (r.wr && isRel r.ord) r.scope) (row (x.rd && isAcq x.ord) x.scope)) (row (x.ord = 5 && r.ord = 5) (min x.scope r.scope)))
  have hrow {b : Bool} {m : Nat} (hb : b = true) : row b m = m := by simp [row, hb]
  rcases h with ⟨hwr, hord, rfl⟩ | ⟨hrd, hord, rfl⟩ | ⟨hxo, hro, rfl⟩ | ⟨f, hf, hseq, rfl, hord⟩
  · refine le_trans ?_ hrows
    rw [hrow (m := r.scope) (by simp [hwr, isRel, hord])]
    omega
  · refine le_trans ?_ hrows
    rw [hrow (m := x.scope) (by simpa [hrd, isAcq] using hord)]
    omega
  · refine le_trans ?_ hrows
    rw [hrow (m := min x.scope r.scope) (by simp [hxo, hro])]
    omega
  · refine le_trans ?_ (hfences f (List.mem_filter.mpr ⟨hf, by simpa using hseq⟩))
    rw [hrow]
    rcases hord with ⟨ho, hwr⟩ | ⟨ho, hrd⟩ | ho
    · simp [ho, hwr]
    · simp [ho, hrd]
    · simp [ho]

/-- R316, R317: a later access is owed the scope of each order that puts another first, and the whole pod where they share a byte. -/
theorem Req.le_owed {x r : Req} (hseq : x.seq < r.seq) :
    (SharesByte x r → x.owed r = 5) ∧ ∀ n, OrderedToward x r n → min n 5 ≤ x.owed r := by
  unfold Req.owed
  extract_lets row7
  rw [if_neg (by omega)]
  constructor
  · intro h
    rw [Req.meets_of_sharesByte h]
    rfl
  · intro n h
    split
    · omega
    · exact le_trans (min_le_left n 5) (le_orderScope h)

/-- R161: of one instruction, a lower lane with a common byte comes first. -/
theorem Req.laneBefore_of_sharesByte {x r : Req} (hseq : x.seq = r.seq)
    (hlane : (x.lanes.map (·.lane)).headD 0 < (r.lanes.map (·.lane)).headD 0) (h : SharesByte x r) : x.laneBefore r = true := by
  simp only [Req.laneBefore, hseq, hlane, Req.meets_of_sharesByte h, decide_true, Bool.and_true]

/-! ## A request that waits (R163, R240) -/

theorem State.priorOf_of_gang {s : State} {r : Req} {g : Gang} (hgen : s.gen r.core r.slot = r.gen) (hg : s.gang? r.core r.slot = some g) :
    s.priorOf r = g.priorTo r.level (s.gangReqs r.core r.slot) := by
  simp only [State.priorOf, State.priorAt, hg, hgen, if_true]

/-- Whatever level an access is of, it stands behind nothing but what is in flight, parked, or a packet. -/
theorem Gang.mem_of_mem_priorTo {g : Gang} {level : Nat} {l : List Req} {x : Req} (h : x ∈ g.priorTo level l) :
    x ∈ l ∨ x ∈ g.parkedReqs ∨ x ∈ g.packets := by
  unfold Gang.priorTo at h
  split_ifs at h
  · simpa [or_assoc] using h
  · have h := (List.mem_filter.mp h).1
    simp only [List.mem_append] at h
    tauto
  · exact .inl (List.mem_filter.mp h).1

/-- R161, R316, R317: a request waits for an access that is performed first. -/
theorem State.mustWait_of_performedFirst {s : State} {id : Nat} {r x : Req} {g : Gang} (h : OfOneGang s id r g x)
    (hfirst : PerformedFirst s x r) : s.mustWait r = true := by
  obtain ⟨-, -, hown, hacc, -, hlevel, hgen, hg, hx⟩ := h
  have hprior : x ∈ s.priorOf r := by
    rw [State.priorOf_of_gang hgen hg, hlevel, Gang.priorTo, if_pos rfl]
    simp only [List.mem_append]
    tauto
  have hbefore : (decide (4 ≤ x.owed r) || x.laneBefore r || x.turnBefore r || (x.orders r && !s.goEarly)) = true := by
    rcases hfirst with ⟨hseq, hlane, hshare⟩ | ⟨hseq, hshare | ⟨n, hord, hpos, hwide | hlate⟩⟩
    · simp [Req.laneBefore_of_sharesByte hseq hlane hshare]
    · simp [(Req.le_owed hseq).1 hshare]
    · have hn := (Req.le_owed hseq).2 n hord
      simp [show 4 ≤ x.owed r by omega]
    · have hn := (Req.le_owed hseq).2 n hord
      simp [Req.orders, hlate, show 0 < x.owed r by omega]
  have hany : s.before r = true := by
    rw [State.before, List.any_eq_true.mpr ⟨x, hprior, hbefore⟩, Bool.true_or]
  simp [State.mustWait, hown, hacc, hany]

/-- R317: a request of which every other access of its gang comes later, which is no replay, and that no early access bars, need not wait. -/
theorem State.mustWait_eq_false {s : State} {r : Req} {g : Gang} (hgen : s.gen r.core r.slot = r.gen) (hg : s.gang? r.core r.slot = some g)
    (hturn : r.turn = 0) (hearly : s.early = [])
    (hlater : ∀ x, x ∈ s.gangReqs r.core r.slot ∨ x ∈ g.parkedReqs ∨ x ∈ g.packets →
      r.seq ≤ x.seq ∧ (x.seq = r.seq → (r.lanes.map (·.lane)).headD 0 ≤ (x.lanes.map (·.lane)).headD 0)) : s.mustWait r = false := by
  have hafter (x : Req) (hx : x ∈ s.priorOf r) := hlater x (Gang.mem_of_mem_priorTo (State.priorOf_of_gang hgen hg ▸ hx))
  have howed (x : Req) (hx : x ∈ s.priorOf r) : x.owed r = 0 := if_pos (hafter x hx).1
  have hbefore : s.before r = false := by
    have hbarred : s.barred r = false := by simp [State.barred, hearly]
    rw [State.before, hbarred, Bool.or_false, List.any_eq_false]
    intro x hx
    have hlane : x.laneBefore r = false := by
      by_cases hseq : x.seq = r.seq
      · rw [Req.laneBefore, decide_eq_false (Nat.not_lt.mpr ((hafter x hx).2 hseq)), Bool.and_false, Bool.false_and]
      · simp [Req.laneBefore, hseq]
    simp [howed x hx, hlane, Req.turnBefore, Req.orders, hturn]
  have hprior : s.accessBefore r.core r.slot r.gen r.seq r.level = false := by
    rw [State.accessBefore, List.any_eq_false]
    intro x hx
    simpa using (hafter x hx).1
  simp [State.mustWait, hbefore, hprior]

/-! ## The event that completes a request (R313, R317) -/

/-- What happens when a request that must wait has its event: where it was sent on this device, or has still to leave it, the event comes again. -/
theorem State.due_of_mustWait {s : State} {id : Nat} {r : Req} (hid : id < wireBase) (hr : Cells.find? s.reqs id = some r) (hmute : r.mute = false)
    (hwait : s.mustWait r = true) (hplace : (r.sent.isSome = true ∧ r.tgt.away = false) ∨ (r.sent = none ∧ r.tgt.away = true)) (p : Arrival)
    (again : Instr) (go : State → Nat → Req → State) : s.due id p again go = s.after 1 again := by
  have hwire : ¬wireBase ≤ id := by omega
  rcases hplace with ⟨hsent, haway⟩ | ⟨hsent, haway⟩
  · have hsome : r.sent.isNone = false := by simpa using hsent
    simp [State.due, State.answered, hid, hr, hmute, hsome, haway, hwire, hwait]
  · simp [State.due, State.answered, hid, hr, hmute, hsent, haway, hwait]

/-- An event of the request under an identity, which answers it at its home. -/
inductive Completes (id : Nat) : Instr → Prop
  | load : Completes id (.loadDataReturn id Arrival.here)
  | store : Completes id (.storePerformed ⟨id, Arrival.here⟩)
  | atomic : Completes id (.atomicReply id Arrival.here)
  | nmx : Completes id (.nmxReply id Arrival.here)
  | ldbr : Completes id (.ldbrLoaded id Arrival.here)
  | scratch : Completes id (.remoteScratchComplete id)

/-- Each such event is a `due` of its identity that comes again as itself. -/
theorem Completes.exec_eq {id : Nat} {e : Instr} (h : Completes id e) (s : State) :
    ∃ go, exec e s = .next (s.due id Arrival.here e go) := by
  cases h <;> exact ⟨_, rfl⟩

theorem isMma_of_isAccess {i : Instr} (h : isAccess i = true) : isMma i = false := by
  unfold isMma
  split
  · simp [isAccess, memKind] at h
  · simp [isAccess, memKind] at h
  · rfl

theorem Req.completes_completion {r : Req} (hown : r.own = .gang) (hacc : isAccess r.instr = true) (id : Nat) : Completes id (r.completion id) := by
  unfold Req.completion
  rw [isMma_of_isAccess hacc, if_neg Bool.false_ne_true, hown, if_neg (by decide)]
  split
  · exact .scratch
  · exact .load
  · exact .ldbr
  · exact .atomic
  · exact .nmx
  · exact .store

/-- Settles O39: a request that another access comes before must wait, and the event of one that must wait comes again. -/
theorem accessesKeepTheirOrder : Obligations.AccessesKeepTheirOrder := by
  unfold Obligations.AccessesKeepTheirOrder
  refine ⟨fun s id r g x h hfirst hplace => ?_, fun s id r g _ hgen hg hturn hearly hlater => State.mustWait_eq_false hgen hg hturn hearly hlater⟩
  have hwait := State.mustWait_of_performedFirst h hfirst
  obtain ⟨hid, hr, hown, hacc, hmute, -⟩ := h
  obtain ⟨go, hexec⟩ := (Req.completes_completion hown hacc id).exec_eq s
  rw [hexec, State.due_of_mustWait hid hr hmute hwait hplace]
  rfl

end Sys2Proof.Machine
end

section
/-! PROOFS about memory instructions at issue, and of the statement on FENCE, LDBR from registers and PREF (spec/08_memory_instructions.md, R168, R169,
R180). -/
namespace Sys2Proof.Machine

/-! ## An instruction that makes its effect (R91, R312) -/

theorem run_next {i : Instr} {eff : Ctx → Eff} {s t : State} {c : Ctx} (h : Issues i s c) (heff : eff c.claim = .next t) :
    run i eff s = .next (c.conclude i (c.goOn i t)) := by
  rw [run_of_issues h, heff]

theorem Ctx.timed_eq (c : Ctx) (i : Instr) (g : Gang) : ∃ busy frags, c.timed i g = { g with busy := busy, frags := frags } := by
  unfold Ctx.timed
  split
  · exact ⟨g.busy, g.frags, rfl⟩
  · exact ⟨_, _, rfl⟩

/-- The end of an issue changes nothing of the gang but its place in gang order and the times of its registers and fragments. -/
theorem Ctx.conclude_gang_eq (c : Ctx) (i : Instr) {s : State} {g : Gang} (h : s.gang? c.k c.sl = some g) :
    ∃ busy frags, (c.conclude i (c.goOn i s)).gang? c.k c.sl = some { g with busy := busy, frags := frags, seq := g.seq + 1, entry1 := false } := by
  have hgo : (c.goOn i s).gang? c.k c.sl = some (g.modFrag c.f.fid fun f => f.advance i c.g.level c.g.stepping (c.allReads i)) := by
    rw [Ctx.goOn, State.gang?_modGang, if_pos ⟨rfl, rfl⟩, h]; rfl
  obtain ⟨busy, frags, htimed⟩ := c.timed_eq i { (g.modFrag c.f.fid fun f => f.advance i c.g.level c.g.stepping (c.allReads i)) with
    seq := g.seq + 1, entry1 := false }
  refine ⟨busy, frags, ?_⟩
  unfold Ctx.conclude
  rw [State.gang?_noteIssue, State.gang?_modCore, if_pos rfl]
  show State.gang? _ _ _ = _
  rw [State.gang?_modGang, if_pos ⟨rfl, rfl⟩, hgo]
  exact congrArg some htimed

/-- It changes no other gang. -/
theorem Ctx.conclude_gang?_of_ne (c : Ctx) (i : Instr) (s : State) {k sl : Nat} (h : (k, sl) ≠ (c.k, c.sl)) :
    (c.conclude i (c.goOn i s)).gang? k sl = s.gang? k sl := by
  have hne : ¬(c.k = k ∧ c.sl = sl) := fun ⟨hk, hsl⟩ => h (by rw [hk, hsl])
  have hcore (t : State) (co : Core → Core) (hco : ∀ x, (co x).gangs = x.gangs) : (t.modCore c.k co).gang? k sl = t.gang? k sl := by
    rw [State.gang?_modCore]
    split
    · next hk => subst hk; rw [hco]; rfl
    · rfl
  rw [Ctx.conclude, State.gang?_noteIssue, hcore _ (fun x => x.unreserve c.sl c.f.fid) fun _ => rfl, State.gang?_modGang, if_neg hne, Ctx.goOn,
    State.gang?_modGang, if_neg hne]

/-- R31: the claim of the pipes changes no gang. -/
theorem Ctx.claim_gang? (c : Ctx) (k sl : Nat) : c.claim.st.gang? k sl = c.st.gang? k sl := by
  rw [Ctx.claim, State.gang?_modCore]
  split
  · next h => subst h; rfl
  · rfl

/-- The gang of an instruction that issues stands in its slot when the effect is made. -/
theorem Issues.claim_gang {i : Instr} {s : State} {c : Ctx} (h : Issues i s c) : c.claim.st.gang? c.k c.sl = some c.g := by
  have ⟨_, hctx, _⟩ := h
  rw [Ctx.claim_gang?, State.ctx_st hctx]
  exact (CtxIn.of_ctx hctx).gang

theorem Issues.claim_sameOutside {i : Instr} {s : State} {c : Ctx} (h : Issues i s c) : SameOutside s c.claim.st := by
  have ⟨_, hctx, _⟩ := h
  rw [← State.ctx_st hctx]
  exact SameOutside.modCore c.st c.k fun co => co.claim c.sl c.f.fid (slicesOf c.f.mask)

theorem SameOutside.setGang (s : State) (k sl : Nat) (g : Gang) : SameOutside s (s.setGang k sl g) := rfl

/-- An instruction whose effect is a new gang in the place of its own, and nothing else. -/
theorem run_setGang {i : Instr} {eff : Ctx → Eff} {s : State} {c : Ctx} {g : Gang} (h : Issues i s c)
    (heff : eff c.claim = .next (c.claim.st.setGang c.k c.sl g)) :
    ∃ t busy frags, run i eff s = .next t ∧ c.gangIn t = some { g with busy := busy, frags := frags, seq := g.seq + 1, entry1 := false } ∧
      SameOutside s t := by
  obtain ⟨busy, frags, hg⟩ := c.conclude_gang_eq i (s := c.claim.st.setGang c.k c.sl g) (g := g) (by rw [State.gang?_setGang, if_pos ⟨rfl, rfl⟩])
  exact ⟨_, busy, frags, run_next h heff, hg, h.claim_sameOutside.trans ((SameOutside.setGang ..).trans (c.conclude_sameOutside i _))⟩

/-! ## FENCE (R180) -/

theorem fence_takesPlace {f : Long} {s : State} {c : Ctx} (h : Issues (.fence f) s c) :
    ∃ t g, exec (.fence f) s = .next t ∧ c.gangIn t = some g ∧ g.sameRegs c.g ∧ SameOutside s t ∧
      ⟨c.g.seq, ordOf f, scopeOf f⟩ ∈ g.fences ∧ g.acqf = (c.g.acqf || decide (ordOf f = 2 ∨ 4 ≤ ordOf f)) := by
  obtain ⟨t, busy, frags, hrun, hg, hout⟩ := run_setGang h (eff := fenceEff (.fence f)) rfl
  refine ⟨t, _, hrun, hg, ⟨rfl, rfl, rfl, rfl, rfl, rfl⟩, hout, List.mem_append_right _ List.mem_cons_self, ?_⟩
  show (c.g.acqf || isAcq (ordOf f)) = _
  rw [isAcq, Bool.decide_or]

/-! ## LDBR from registers (R29, R168) -/

theorem lowest_lt (m : Mask) : lowest m < 32 := by
  unfold lowest
  cases h : lanesOf m with
  | nil => decide
  | cons i l => exact (mem_lanesOf.mp (h ▸ List.mem_cons_self)).1

/-- R29: the reserved bits of a record. -/
theorem bufReserved_iff {w : Nat} (h : w < 2 ^ 128) : bufReserved (BitVec.ofNat 128 w) = true ↔ w / 2 ^ 124 ≠ 0 ∨ w.testBit 63 = true := by
  have hbits : bits w 127 124 = w / 2 ^ 124 := by
    rw [bits, Nat.shiftRight_eq_div_pow]
    exact Nat.mod_eq_of_lt (by omega)
  rw [bufReserved, BitVec.toNat_ofNat, Nat.mod_eq_of_lt h, hbits, BitVec.getLsbD_ofNat]
  simp

theorem Gang.bReg_setB (g : Gang) (n : Nat) (w : Galley) (m : Nat) : (g.setB n w).bReg m = if m = n then w else g.bReg m := by
  rw [Gang.bReg, Gang.setB, Cells.getD_set]
  simp only [eq_comm (a := n)]
  rfl

theorem Ctx.claim_acts {c : Ctx} (h : c.active ≠ 0) : c.claim.acts = true := by
  simpa [Ctx.acts, Ctx.claim] using h

/-- R168: the record that LDBR takes from the registers of its lowest lane. -/
theorem ldbrEff_claim {f : Long} {c : Ctx} (h : c.active ≠ 0) :
    ldbrEff (.ldbr f) c.claim = if bufReserved (BitVec.ofNat 128 (c.src f.lit f.a 128 (lowest c.active))) then .raise 0x11 (subF f 3 0)
      else .next (c.claim.st.setGang c.k c.sl (c.g.setB (subF f 3 0) (BitVec.ofNat 128 (c.src f.lit f.a 128 (lowest c.active))))) := by
  simp only [ldbrEff, Ctx.claim_acts h, Ctx.src_claim]
  rfl

theorem ldbr_replacesRecord {f : Long} {s : State} {c : Ctx} (h : Issues (.ldbr f) s c) (hact : c.active ≠ 0) :
    let w := c.src f.lit f.a 128 (lowest c.active)
    let bad := w / 2 ^ 124 ≠ 0 ∨ w.testBit 63 = true
    (¬ bad → ∃ t g, exec (.ldbr f) s = .next t ∧ c.gangIn t = some g ∧ SameOutside s t ∧
      (∀ n, g.bReg n = if n = subF f 3 0 then BitVec.ofNat 128 w else c.g.bReg n) ∧ g.v = c.g.v ∧ g.s = c.g.s ∧ g.k = c.g.k ∧ g.p = c.g.p ∧
        g.x = c.g.x) ∧
    (bad → c.g.level < 2 → ∃ t, exec (.ldbr f) s = .next t ∧ Took c 0x11 (subF f 3 0) (c.head (.ldbr f)) t) := by
  intro w bad
  have hbad : bufReserved (BitVec.ofNat 128 w) = true ↔ bad :=
    bufReserved_iff (c.src_lt f.lit f.a (by decide : 32 ∣ 128) (by decide) (lowest_lt _))
  have heff := ldbrEff_claim (f := f) hact
  refine ⟨fun hgood => ?_, fun hb hlevel => ?_⟩
  · rw [if_neg (hbad.not.mpr hgood)] at heff
    obtain ⟨t, busy, frags, hrun, hg, hout⟩ := run_setGang h heff
    exact ⟨t, _, hrun, hg, hout, fun n => Gang.bReg_setB c.g _ _ n, rfl, rfl, rfl, rfl, rfl⟩
  · rw [if_pos (hbad.mpr hb)] at heff
    exact run_took h heff hlevel

/-! ## Translating lines (R162, R372) -/

/-- `t` is `s` after walks: cached translations, and what is counted of the walks. -/
def OnlyWalked (s t : State) : Prop := ∃ tlb parts rows, t = { s with tlb := tlb, parts := parts, rows := rows }

namespace OnlyWalked
variable {s t u : State}

theorem refl (s : State) : OnlyWalked s s := ⟨s.tlb, s.parts, s.rows, rfl⟩

theorem trans (h : OnlyWalked s t) (h' : OnlyWalked t u) : OnlyWalked s u := by
  obtain ⟨_, _, _, rfl⟩ := h
  obtain ⟨tlb, parts, rows, rfl⟩ := h'
  exact ⟨tlb, parts, rows, rfl⟩

theorem countRow (s : State) (pa : Nat) : OnlyWalked s (s.countRow pa) := ⟨s.tlb, s.parts, _, rfl⟩

theorem fnReadNote (s : State) (fn pa : Nat) : OnlyWalked s (s.fnReadNote fn pa) := by
  unfold State.fnReadNote
  split
  · exact refl s
  · exact ⟨s.tlb, _, s.rows, rfl⟩

theorem foldl {α : Type} {f : State → α → State} (h : ∀ s x, OnlyWalked s (f s x)) (l : List α) (s : State) : OnlyWalked s (l.foldl f s) := by
  induction l generalizing s with
  | nil => exact refl s
  | cons x l ih => exact (h s x).trans (ih _)

theorem noteWalk (s : State) (q : Requester) (fn va : Nat) : OnlyWalked s (s.noteWalk q fn va) := by
  unfold State.noteWalk
  extract_lets root
  split
  · refine foldl (fun s r => ?_) _ s
    split
    · exact (fnReadNote ..).trans (countRow ..)
    · exact countRow ..
  · exact refl s

theorem holdTlb (s : State) (e : TlbEnt) : OnlyWalked s (s.holdTlb e) := by
  unfold State.holdTlb
  split
  · exact refl s
  · exact ⟨_, s.parts, s.rows, rfl⟩

theorem keepTlb (s : State) (q : Requester) (e : Option TlbEnt) : OnlyWalked s (s.keepTlb q e) := by
  cases e with
  | none => exact refl s
  | some e => exact (noteWalk ..).trans ((holdTlb ..).trans (holdTlb ..))

end OnlyWalked

/-- R162: translating lines only walks, and each line that translates is the request of its line with its target. -/
theorem State.translateLines_spec (k : Nat) (rights : Rights) (l : List Req) (s : State) :
    OnlyWalked s (s.translateLines k rights l).1 ∧ ∀ r ∈ (s.translateLines k rights l).2.1, ∃ x ∈ l, ∃ tgt, r = { x with tgt := tgt } := by
  induction l generalizing s with
  | nil =>
    rw [State.translateLines]
    exact ⟨OnlyWalked.refl s, by simp⟩
  | cons x l ih =>
    rw [State.translateLines]
    split
    · next tgt e _ =>
      obtain ⟨hwalk, hmem⟩ := ih (s.keepTlb (.core k) e)
      refine ⟨(OnlyWalked.keepTlb ..).trans hwalk, fun r hr => ?_⟩
      rcases List.mem_cons.mp hr with rfl | hr
      · exact ⟨x, List.mem_cons_self, tgt, rfl⟩
      · obtain ⟨y, hy, h⟩ := hmem r hr
        exact ⟨y, List.mem_cons_of_mem x hy, h⟩
    · obtain ⟨hwalk, hmem⟩ := ih (s.noteWalk (.core k) x.fn x.line)
      refine ⟨(OnlyWalked.noteWalk ..).trans hwalk, fun r hr => ?_⟩
      obtain ⟨y, hy, h⟩ := hmem r hr
      exact ⟨y, List.mem_cons_of_mem x hy, h⟩

/-! ## PREF (R169, R300) -/

/-- From `s` to `t` nothing that a program sees has changed; requests of the PREF for lines of this device's memory are new. -/
structure OnlyPrefetches (f : Long) (s t : State) : Prop where
  cores : t.cores = s.cores
  mem : t.mem = s.mem
  frames : t.frames = s.frames
  groups : t.groups = s.groups
  le : s.nextId ≤ t.nextId
  old : ∀ id < s.nextId, Cells.find? t.reqs id = Cells.find? s.reqs id
  new : ∀ id, s.nextId ≤ id → id < t.nextId → ∃ r pa, Cells.find? t.reqs id = some r ∧ r.instr = .pref f ∧ r.lanes = [] ∧ r.tgt = .dev pa

namespace OnlyPrefetches
variable {f : Long} {s t u : State}

theorem refl (f : Long) (s : State) : OnlyPrefetches f s s :=
  ⟨rfl, rfl, rfl, rfl, le_rfl, fun _ _ => rfl, fun _ h h' => absurd h' (Nat.not_lt.mpr h)⟩

theorem trans (h : OnlyPrefetches f s t) (h' : OnlyPrefetches f t u) : OnlyPrefetches f s u where
  cores := h'.cores.trans h.cores
  mem := h'.mem.trans h.mem
  frames := h'.frames.trans h.frames
  groups := h'.groups.trans h.groups
  le := h.le.trans h'.le
  old id hid := (h'.old id (hid.trans_le h.le)).trans (h.old id hid)
  new id hlo hhi := by
    by_cases hid : id < t.nextId
    · rw [h'.old id hid]
      exact h.new id hlo hid
    · exact h'.new id (Nat.not_lt.mp hid) hhi

theorem of_onlyWalked (f : Long) (h : OnlyWalked s t) : OnlyPrefetches f s t := by
  obtain ⟨_, _, _, rfl⟩ := h
  exact ⟨rfl, rfl, rfl, rfl, le_rfl, fun _ _ => rfl, fun _ hlo hhi => absurd hhi (Nat.not_lt.mpr hlo)⟩

end OnlyPrefetches

/-- R310, R429: the class that a request travels in is taken from its partition's credit. -/
theorem State.carry_eq (s : State) (r : Req) : ∃ parts cls, s.carry r = ({ s with parts := parts }, { r with cls := cls }) := by
  have hspend (cls : Nat) : ∃ parts, (s.spend r.fn cls).1 = { s with parts := parts } := by
    unfold State.spend
    extract_lets t
    split_ifs
    · exact ⟨s.parts, rfl⟩
    · exact ⟨_, rfl⟩
    · exact ⟨_, rfl⟩
  obtain ⟨parts, hparts⟩ := hspend r.cls
  unfold State.carry
  split
  · exact ⟨s.parts, r.cls, rfl⟩
  · exact ⟨parts, _, Prod.ext hparts rfl⟩

/-- R304: a request for device memory is put on its way. -/
theorem State.transmit_dev (s : State) (q : Requester) (id : Nat) {r : Req} {pa : Nat} (ht : r.tgt = .dev pa) :
    s.transmit q id r =
      ({ s with reqs := Cells.put s.reqs id { r with sent := some s.cycle, entry := r.entry || (takesEntries r.instr && r.own == .gang) } } : State).after
        (s.delay r.tgt) (r.completion id) := by
  cases r
  cases ht
  rfl

/-- R299, R304: a request for device memory that is no replay, and has its miss-status entry, takes an identity and is on its way at once. -/
theorem State.sendReq_dev (s : State) (q : Requester) {r : Req} {pa : Nat} (ht : r.tgt = .dev pa) (hturn : r.turn = 0) (hentry : r.entry = true) :
    ∃ agenda parts cls sent, s.sendReq q r = { s with
      agenda := agenda, nextId := s.nextId + 1, parts := parts, reqs := Cells.put s.reqs s.nextId { r with cls := cls, sent := sent } } := by
  have hparts : r.parts = [r] := by simp only [Req.parts, ht]
  have hsend : s.sendReq q r = s.sendOne q r := by simp [State.sendReq, hparts]
  have hnow : (decide (0 < r.turn) || (r.tgt.away && s.mustWait r) || s.lacksEntry r) = false := by
    simp [hturn, ht, Target.away, State.lacksEntry, hentry]
  obtain ⟨parts, cls, hcarry⟩ := s.bumpId.carry_eq r
  rw [hsend, State.sendOne, hcarry, hnow]
  dsimp only
  rw [if_neg Bool.false_ne_true, State.transmit_dev _ _ _ (r := { r with cls := cls }) ht]
  exact ⟨_, parts, cls, _, by rw [hentry]; rfl⟩

theorem OnlyPrefetches.sendReq {f : Long} {r : Req} (s : State) (q : Requester) (hi : r.instr = .pref f) (hl : r.lanes = []) {pa : Nat}
    (ht : r.tgt = .dev pa) (hturn : r.turn = 0) (hentry : r.entry = true) : OnlyPrefetches f s (s.sendReq q r) := by
  obtain ⟨agenda, parts, cls, sent, hsend⟩ := s.sendReq_dev q ht hturn hentry
  rw [hsend]
  refine ⟨rfl, rfl, rfl, rfl, Nat.le_succ _, fun id hid => ?_, fun id hlo hhi => ?_⟩
  · exact (Cells.find?_put ..).trans (if_neg (by omega))
  · have hid : id = s.nextId := Nat.le_antisymm (Nat.le_of_lt_succ hhi) hlo
    exact ⟨_, pa, (Cells.find?_put ..).trans (if_pos hid.symm), hi, hl, ht⟩

theorem OnlyPrefetches.foldl {f : Long} {step : State → Req → State} {l : List Req} (h : ∀ s, ∀ r ∈ l, OnlyPrefetches f s (step s r)) (s : State) :
    OnlyPrefetches f s (l.foldl step s) := by
  induction l generalizing s with
  | nil => exact OnlyPrefetches.refl f s
  | cons r l ih => exact (h s r List.mem_cons_self).trans (ih (fun s x hx => h s x (List.mem_cons_of_mem r hx)) _)

theorem prefEff_next (f : Long) (c : Ctx) : ∃ t, prefEff (.pref f) c = .next t ∧ OnlyPrefetches f c.st t := by
  unfold prefEff
  extract_lets rec0 rs
  obtain ⟨hwalk, hgood⟩ := c.st.translateLines_spec c.k ⟨true, false, false⟩ rs
  generalize c.st.translateLines c.k ⟨true, false, false⟩ rs = x at hwalk hgood ⊢
  obtain ⟨s1, good, bad⟩ := x
  refine ⟨_, rfl, (OnlyPrefetches.of_onlyWalked f hwalk).trans (OnlyPrefetches.foldl (fun s r hr => ?_) s1)⟩
  obtain ⟨y, hy, tgt, rfl⟩ := hgood r hr
  obtain ⟨line, -, rfl⟩ := List.mem_map.mp hy
  split
  · next pa ht =>
    split
    · exact OnlyPrefetches.sendReq s _ rfl rfl ht rfl rfl
    · exact OnlyPrefetches.refl f s
  · exact OnlyPrefetches.refl f s

theorem pref_onlyPrefetches {f : Long} {s : State} {c : Ctx} (h : Issues (.pref f) s c) :
    ∃ t g, exec (.pref f) s = .next t ∧ c.gangIn t = some g ∧ g.sameRegs c.g ∧ g.mode = c.g.mode ∧ g.olog = c.g.olog ∧
      g.fly = c.g.fly ∧ t.mem = s.mem ∧ t.frames = s.frames ∧ t.groups = s.groups ∧ OthersKept c s t ∧
      (∀ id < s.nextId, Cells.find? t.reqs id = Cells.find? s.reqs id) ∧
      ∀ id, s.nextId ≤ id → id < t.nextId → ∃ r pa, Cells.find? t.reqs id = some r ∧ r.instr = .pref f ∧ r.lanes = [] ∧ r.tgt = .dev pa := by
  obtain ⟨t, heff, hpref⟩ := prefEff_next f c.claim
  have ⟨_, hctx, _⟩ := h
  have hst : c.st = s := State.ctx_st hctx
  have hgang (k sl : Nat) : t.gang? k sl = s.gang? k sl := (State.gang?_congr hpref.cores k sl).trans ((c.claim_gang? k sl).trans (by rw [hst]))
  obtain ⟨busy, frags, hg⟩ := c.conclude_gang_eq (.pref f) (s := t) (g := c.g) ((hgang ..).trans (CtxIn.of_ctx hctx).gang)
  have hout : (c.conclude (.pref f) (c.goOn (.pref f) t)) = _ := c.conclude_sameOutside (.pref f) t
  have hclaim : c.claim.st = _ := h.claim_sameOutside
  have hids : t.nextId = (c.conclude (.pref f) (c.goOn (.pref f) t)).nextId := by rw [hout]
  have hids' : c.claim.st.nextId = s.nextId := by rw [hclaim]
  refine ⟨_, _, run_next h heff, hg, ⟨rfl, rfl, rfl, rfl, rfl, rfl⟩, rfl, rfl, rfl, ?_, ?_, ?_, fun k sl hne => ?_, fun id hid => ?_,
    fun id hlo hhi => ?_⟩
  · rw [hout, show t.mem = s.mem by rw [hpref.mem, hclaim]]
  · rw [hout, show t.frames = s.frames by rw [hpref.frames, hclaim]]
  · rw [hout, show t.groups = s.groups by rw [hpref.groups, hclaim]]
  · rw [c.conclude_gang?_of_ne _ _ hne, hgang]
  · rw [hout]
    exact (hpref.old id (hids' ▸ hid)).trans (by rw [hclaim])
  · rw [hout]
    exact hpref.new id (hids' ▸ hlo) (hids ▸ hhi)

/-- Settles O36: each instruction is the lemma above that bears its name. -/
theorem fencesRecordsAndPrefetches : Obligations.FencesRecordsAndPrefetches := by
  unfold Obligations.FencesRecordsAndPrefetches
  exact ⟨fun _ _ _ => fence_takesPlace, fun _ _ _ => ldbr_replacesRecord, fun _ _ _ => pref_onlyPrefetches⟩

end Sys2Proof.Machine
end

section
/-! PROOFS of the statements on the checks of global accesses and on the frame of memory instructions (spec/08_memory_instructions.md, R155 to R163),
which both fail. -/
namespace Sys2Proof.Machine

/-! ## A chase whose lanes report together (R159, R179) -/

/-- A chase with FOFF 4, each lane at its own element. -/
def staggeredChase : Long := { oddChase with a := 0xBD }

/-- The gang of `withFetchWord` is to issue it, through a record of elements of 4 bytes from 0x10000: with FOFF, the quad of every second lane is
aligned. -/
def staggered : State :=
  ({ State.reset.withFetchWord 32 0 with cur := ⟨0, 0, 0, 0, 0⟩ } : State).modGang 0 0 fun g => g.setB 2 (mkBuf 0x10000 0x1000 4 0 false)

/-- The context it issues from. -/
def staggeredCtx : Ctx := (staggered.ctx staggeredChase).get (by decide +kernel)

theorem staggered_issues : Issues (.nmx staggeredChase) staggered staggeredCtx :=
  ⟨by decide, (Option.some_get _).symm, by decide +kernel, by decide +kernel, by decide +kernel, by decide +kernel⟩

/-- FOFF is no multiple of 8, so every lane fails. -/
theorem staggered_raises : globalEff (.nmx staggeredChase) .nmx staggeredCtx.claim = .raise 0x12 0xFFFFFFFF := by decide +kernel

/-- A trap reports one value. -/
theorem Took.value_unique {c : Ctx} {cause cause' : BitVec 6} {value value' head head' : Nat} {t : State} (h : Took c cause value head t)
    (h' : Took c cause' value' head' t) : BitVec.ofNat 64 value = BitVec.ofNat 64 value' := by
  obtain ⟨g, -, hg, -, -, ⟨-, -, hval, -⟩, -⟩ := h
  obtain ⟨g', -, hg', -, -, ⟨-, -, hval', -⟩, -⟩ := h'
  obtain rfl : g = g' := Option.some.inj (hg.symm.trans hg')
  exact hval.symm.trans hval'

/-- Refutes O35: FOFF of a chase is checked too, to be a multiple of 8 (R179), and where it is not, 0x12 reports every lane that accesses. The
statement has it report those lanes alone whose address is misaligned, which of `staggeredChase` is every second one. -/
theorem not_globalChecksAndParking : ¬ Obligations.GlobalChecksAndParking := by
  unfold Obligations.GlobalChecksAndParking
  rintro ⟨h, -⟩
  obtain ⟨-, -, -, hmis⟩ := h (.nmx staggeredChase) .nmx staggered staggeredCtx rfl (by decide) staggered_issues (by decide +kernel) (by decide +kernel)
  obtain ⟨t, hexec, htook⟩ := hmis (by decide +kernel) (by decide +kernel) (.inr (by decide +kernel)) ⟨0, by decide +kernel⟩
  obtain ⟨u, hrun, htook'⟩ := run_took staggered_issues staggered_raises (by decide +kernel)
  obtain rfl : t = u := by injection hexec.symm.trans hrun
  exact absurd (htook.value_unique htook') (by decide +kernel)

/-! ## Groups that are listed out of order -/

/-- A load of 32 bits from the start of the scratchpad. -/
def firstLoad : Long := ⟨0, false, false, 8, 0xBC, 0, 0, 0, 0, false, 0, 0, none⟩

/-- The gang of `withFetchWord` is to issue it; its group, at key 0, has a scratchpad of 4 KiB and is listed behind another, at key 1. -/
def disordered : State :=
  { State.reset.withFetchWord 32 0 with
    cur := ⟨0, 0, 0, 0, 0⟩, groups := [(1, hostGroup), (0, { hostGroup with kern := { hostGroup.kern with scratch := 4096 } })] }

/-- The load puts the group's entry first. -/
theorem disordered_load : ∃ t, exec (.lds firstLoad) disordered = .next t ∧ t.groups ≠ disordered.groups := ⟨_, rfl, by decide +kernel⟩

theorem disordered_ctx : (disordered.ctx firstLoad).isSome = true := by decide +kernel

/-- Refutes O37: a load from the scratchpad stores its group as it was, at its key's place in the map. Where the groups stand out of order, which
the statement does not exclude, that place is another one, so that the list of groups is not the same. -/
theorem not_memoryInstructionFrame : ¬ Obligations.MemoryInstructionFrame := by
  unfold Obligations.MemoryInstructionFrame
  intro h
  obtain ⟨t, hexec, hgroups⟩ := disordered_load
  obtain ⟨c, hctx⟩ := Option.isSome_iff_exists.mp disordered_ctx
  obtain ⟨-, -, -, -, -, -, -, hkept, -⟩ := h (.lds firstLoad) disordered t c (by decide) (by decide) hexec hctx
  exact hgroups (hkept (fun _ => nofun) fun _ => nofun)

end Sys2Proof.Machine
end

section
/-! PROOFS about the destinations of memory instructions, at issue and when a request ends (spec/08_memory_instructions.md, R22, R25, R165, R175). -/
namespace Sys2Proof.Machine

/-! ## Words of a value in consecutive registers (R4, R21) -/

/-- R4, R21: each register after a value of n words has been written from register r on. -/
theorem word_putWords {wr : Gang → Nat → Word → Gang} {rd : Gang → Nat → Word} {same : Prop} [Decidable same]
    (h : ∀ g r x r', rd (wr g r x) r' = if r = r' ∧ same then x else rd g r') (g : Gang) (r n v r' : Nat) :
    rd (putWords wr g r n v) r' = if same ∧ r ≤ r' ∧ r' < r + n then BitVec.ofNat 32 (v / 2 ^ (32 * (r' - r))) else rd g r' := by
  induction n generalizing g r v with
  | zero => rw [putWords, if_neg (by omega)]
  | succ n ih =>
    rw [putWords, ih, h]
    by_cases hs : same
    · rcases Nat.lt_trichotomy r r' with hlt | rfl | hgt
      · obtain ⟨d, rfl⟩ : ∃ d, r' = r + 1 + d := ⟨r' - (r + 1), by omega⟩
        have hpow : v / 2 ^ 32 / 2 ^ (32 * d) = v / 2 ^ (32 * (d + 1)) := by
          rw [Nat.div_div_eq_div_mul, ← Nat.pow_add, Nat.mul_add_one, Nat.add_comm]
        simp only [hs, true_and, show r + 1 + d - (r + 1) = d by omega, show r + 1 + d - r = d + 1 by omega, hpow,
          if_neg (show ¬(r = r + 1 + d ∧ True) by omega)]
        exact if_congr (by omega) rfl rfl
      · simp [hs]
      · rw [if_neg (by omega), if_neg (by omega), if_neg (by omega)]
    · simp [hs]

/-- Registers of another class are as they were. -/
theorem putWords_other {wr : Gang → Nat → Word → Gang} {rd : Gang → Nat → Word} (h : ∀ g r x r', rd (wr g r x) r' = rd g r') (g : Gang)
    (r n v r' : Nat) : rd (putWords wr g r n v) r' = rd g r' := by
  rw [word_putWords (wr := wr) (rd := rd) (same := False) (fun g r x r' => by rw [h, if_neg (by simp)]), if_neg (by simp)]

section
variable (g : Gang) (r n v r' : Nat) {i l : Nat} (hi : i < 32) (hl : l < 32)
include hi hl

theorem Gang.vReg_putWords :
    (putWords (fun g r x => g.setV r i x) g r n v).vReg r' l = if i = l ∧ r ≤ r' ∧ r' < r + n then BitVec.ofNat 32 (v / 2 ^ (32 * (r' - r))) else g.vReg r' l :=
  word_putWords (rd := fun g r => g.vReg r l) (fun g r x r' => g.vReg_setV r x r' hi hl) g r n v r'

theorem Gang.kReg_putWords :
    (putWords (fun g r x => g.setK r i x) g r n v).kReg r' l = if i = l ∧ r ≤ r' ∧ r' < r + n then BitVec.ofNat 32 (v / 2 ^ (32 * (r' - r))) else g.kReg r' l :=
  word_putWords (rd := fun g r => g.kReg r l) (fun g r x r' => g.kReg_setK r x r' hi hl) g r n v r'

theorem Gang.sReg_putWords :
    (putWords (fun g r x => g.setS r i x) g r n v).sReg r' l = if i = l ∧ r ≤ r' ∧ r' < r + n then BitVec.ofNat 32 (v / 2 ^ (32 * (r' - r))) else g.sReg r' l :=
  word_putWords (rd := fun g r => g.sReg r l) (fun g r x r' => g.sReg_setS r x r' hi hl) g r n v r'

end

/-! ## A lane's destination (R22, R25) -/

/-- R22, R25: word j of a lane's destination; `dst` is the lowest register that an access of an indexed code names. -/
def Gang.dstWord (g : Gang) (code : BitVec 8) (dst lane j : Nat) : Word :=
  if isV code then g.vReg (code.toNat + j) lane
  else if isK code then g.kReg (code.toNat - 0xB0 + j) lane
  else if isIx code then g.vReg (dst + j) lane
  else g.sReg (code.toNat - 0xC0 + j) (lane / 4)

/-- R85: no operand code names registers of two classes. -/
theorem classes_disjoint (c : BitVec 8) :
    (isV c = true → isK c = false ∧ isIx c = false ∧ isS c = false) ∧ (isK c = true → isV c = false ∧ isIx c = false ∧ isS c = false) ∧
      (isIx c = true → isV c = false ∧ isK c = false ∧ isS c = false) ∧ (isS c = true → isV c = false ∧ isK c = false ∧ isIx c = false) := by
  revert c
  decide

/-- R22, R25: what a lane's value leaves in the destinations of the lanes that share its register, and in those of the others. -/
theorem Gang.dstWord_putDst {code : BitVec 8} (hd : isData code = true) (g : Gang) {w i l : Nat} (hi : i < 32) (hl : l < 32) (dst dst' v : Nat) {j : Nat}
    (hj : j < w / 32) :
    (SharesReg code i l → (isIx code = true → dst = dst') →
      (g.putDst code dst w i v).dstWord code dst' l j = BitVec.ofNat 32 (v / 2 ^ (32 * j))) ∧
    (¬SharesReg code i l → (g.putDst code dst w i v).dstWord code dst' l j = g.dstWord code dst' l j) := by
  obtain ⟨hdisV, hdisK, _⟩ := classes_disjoint code
  rcases isData_cases hd with ⟨hV, hS⟩ | ⟨hV, hK, hS⟩ | ⟨hV, hK, hI, hS⟩ | ⟨hV, hK, hI, hS⟩
  · simp only [Gang.dstWord, Gang.putDst, Gang.putLane, SharesReg, (hdisV hV).2.1, hV, hS, if_true, if_false, Bool.false_eq_true,
      Gang.vReg_putWords _ _ _ _ _ hi hl]
    exact ⟨fun h _ => by rw [if_pos (by omega), Nat.add_sub_cancel_left], fun h => if_neg (by tauto)⟩
  · simp only [Gang.dstWord, Gang.putDst, Gang.putLane, SharesReg, (hdisK hK).2.1, hV, hK, hS, if_true, if_false, Bool.false_eq_true,
      Gang.kReg_putWords _ _ _ _ _ hi hl]
    exact ⟨fun h _ => by rw [if_pos (by omega), Nat.add_sub_cancel_left], fun h => if_neg (by tauto)⟩
  · simp only [Gang.dstWord, Gang.putDst, SharesReg, hV, hK, hI, hS, if_true, if_false, Bool.false_eq_true, Gang.vReg_putWords _ _ _ _ _ hi hl]
    exact ⟨fun h hdst => by rw [hdst trivial, if_pos (by omega), Nat.add_sub_cancel_left], fun h => if_neg (by tauto)⟩
  · simp only [Gang.dstWord, Gang.putDst, Gang.putLane, SharesReg, hV, hK, hI, hS, if_true, if_false, Bool.false_eq_true,
      Gang.sReg_putWords _ _ _ _ _ (show i / 4 < 32 by omega) (show l / 4 < 32 by omega)]
    exact ⟨fun h _ => by rw [if_pos (by omega), Nat.add_sub_cancel_left], fun h => if_neg (by tauto)⟩

theorem Gang.SameButData.putDst (g : Gang) (code : BitVec 8) (dst w i v : Nat) : g.SameButData (g.putDst code dst w i v) := by
  unfold Gang.putDst
  split
  · exact Gang.SameButData.putWords (fun (g : Gang) _ _ => ⟨_, g.k, g.s, rfl⟩) ..
  · exact Gang.SameButData.putLane ..

/-- R25: no other lane's v or k registers change. -/
theorem Gang.putDst_of_ne (g : Gang) (code : BitVec 8) (dst w v r : Nat) {i l : Nat} (hi : i < 32) (hl : l < 32) (hne : i ≠ l) :
    (g.putDst code dst w i v).vReg r l = g.vReg r l ∧ (g.putDst code dst w i v).kReg r l = g.kReg r l := by
  have hv (r n : Nat) := (Gang.vReg_putWords g r n v · hi hl)
  have hk (r n : Nat) := (Gang.kReg_putWords g r n v · hi hl)
  simp only [hne, false_and, if_false] at hv hk
  unfold Gang.putDst Gang.putLane
  extract_lets n
  split_ifs
  · exact ⟨hv .., putWords_other (wr := fun g r x => g.setV r i x) (rd := fun g r => g.kReg r l) (fun _ _ _ _ => rfl) ..⟩
  · exact ⟨hv .., putWords_other (wr := fun g r x => g.setV r i x) (rd := fun g r => g.kReg r l) (fun _ _ _ _ => rfl) ..⟩
  · exact ⟨putWords_other (wr := fun g r x => g.setK r i x) (rd := fun g r => g.vReg r l) (fun _ _ _ _ => rfl) .., hk ..⟩
  · exact ⟨putWords_other (wr := fun g r x => g.setS r (i / 4) x) (rd := fun g r => g.vReg r l) (fun _ _ _ _ => rfl) ..,
      putWords_other (wr := fun g r x => g.setS r (i / 4) x) (rd := fun g r => g.kReg r l) (fun _ _ _ _ => rfl) ..⟩
  · exact ⟨rfl, rfl⟩

/-! ## The values that a load or an atomic brings (R165, R175) -/

/-- R165: a value as the destination of a kind of access takes it. -/
def takenAs (k : MemKind) (f : Long) (raw : Nat) : Nat := if k = .load then loadedAs (fmtN f) raw else raw

theorem takenAs_of_ne_load {k : MemKind} (h : k ≠ .load) (f : Long) (raw : Nat) : takenAs k f raw = raw := if_neg h

theorem loadValue_eq (fmt raw : Nat) : loadValue fmt raw = loadedAs fmt raw := by
  unfold loadValue loadedAs
  split
  · rfl
  · rfl
  · next h6 h4 => rw [if_neg h6, if_neg h4]

/-- R22: of a list of values, those of the lanes that the destination takes are written in turn. -/
def Gang.takeDst (code : BitVec 8) (w : Nat) (active : Mask) (k : MemKind) (f : Long) (g : Gang) (p : Nat × LaneAcc) : Gang :=
  if p.2.lane ∈ writers code active then g.putDst code p.2.dst w p.2.lane (takenAs k f p.1) else g

theorem putDst_zero (g : Gang) (code : BitVec 8) (dst i v : Nat) : g.putDst code dst 0 i v = g := by
  unfold Gang.putDst Gang.putLane
  split_ifs <;> rfl

theorem Gang.putLoads_eq (g : Gang) (i : Instr) (k : MemKind) (active : Mask) (l : List (Nat × LaneAcc)) :
    g.putLoads i k active l =
      l.foldl (Gang.takeDst (Instr.long i).d (dstWidth k (Instr.long i)) active k (Instr.long i)) g := by
  unfold Gang.putLoads
  extract_lets f w lanes
  split
  · next hw =>
    induction l with
    | nil => rfl
    | cons p l ih =>
      rw [List.foldl_cons, show Gang.takeDst f.d (dstWidth k f) active k f g p = g from ?_]
      · exact ih
      · unfold Gang.takeDst
        rw [show dstWidth k f = 0 from hw, putDst_zero, ite_self]
  · refine congrArg (fun h => List.foldl h g l) (funext fun g => funext fun p => ?_)
    simp only [Gang.takeDst, takenAs, ← loadValue_eq, lanes, dstLanes, writers, List.contains_iff_mem]
    rfl

theorem Gang.SameButData.takeDst (code : BitVec 8) (w : Nat) (active : Mask) (k : MemKind) (f : Long) (g : Gang) (p : Nat × LaneAcc) :
    g.SameButData (g.takeDst code w active k f p) := by
  unfold Gang.takeDst
  split
  · exact Gang.SameButData.putDst ..
  · exact Gang.SameButData.refl g

theorem Gang.SameButData.putLoads (g : Gang) (i : Instr) (k : MemKind) (active : Mask) (l : List (Nat × LaneAcc)) :
    g.SameButData (g.putLoads i k active l) := by
  rw [Gang.putLoads_eq]
  induction l generalizing g with
  | nil => exact Gang.SameButData.refl g
  | cons p l ih => exact (Gang.SameButData.takeDst ..).trans (ih _)

/-- A lane that no value is for keeps its v and k registers. -/
theorem Gang.putLoads_other (g : Gang) (i : Instr) (k : MemKind) (active : Mask) (l : List (Nat × LaneAcc)) {lane : Nat} (hlane : lane < 32)
    (h : ∀ p ∈ l, p.2.lane ∈ lanesOf active → p.2.lane ≠ lane) (r : Nat) :
    (g.putLoads i k active l).vReg r lane = g.vReg r lane ∧ (g.putLoads i k active l).kReg r lane = g.kReg r lane := by
  rw [Gang.putLoads_eq]
  induction l generalizing g with
  | nil => exact ⟨rfl, rfl⟩
  | cons p l ih =>
    obtain ⟨hv, hk⟩ := ih (Gang.takeDst (Instr.long i).d (dstWidth k (Instr.long i)) active k (Instr.long i) g p)
      fun q hq => h q (List.mem_cons_of_mem p hq)
    rw [List.foldl_cons, hv, hk]
    unfold Gang.takeDst
    split
    · next hw =>
      have hmem := mem_lanesOf_of_mem_writers hw
      exact Gang.putDst_of_ne g _ _ _ _ r (mem_lanesOf.mp hmem).1 hlane (h p List.mem_cons_self hmem)
    · exact ⟨rfl, rfl⟩

/-- R22: two lanes that a destination takes share no register. -/
theorem writers_eq_of_sharesReg {code : BitVec 8} {active : Mask} {i j : Nat} (hi : i ∈ writers code active) (hj : j ∈ writers code active)
    (h : SharesReg code i j) : i = j := by
  unfold writers SharesReg at *
  split at h
  · next hS =>
    rw [if_pos hS, sliceLeaders, List.mem_filter, beq_iff_eq] at hi hj
    exact Option.some.inj (hi.2.symm.trans ((by rw [h] : _ = _).trans hj.2))
  · exact h

/-- R22, R25: the last value of a list for a lane that the destination takes stands in its registers. -/
theorem Gang.dstWord_putLoads {i : Instr} {k : MemKind} (hd : isData (Instr.long i).d = true) (g : Gang) {active : Mask} {p : Nat × LaneAcc}
    (pre post : List (Nat × LaneAcc)) (hp : p.2.lane ∈ writers (Instr.long i).d active) (hlast : ∀ q ∈ post, q.2.lane ≠ p.2.lane) {j : Nat}
    (hj : j < dstWidth k (Instr.long i) / 32) :
    (g.putLoads i k active (pre ++ p :: post)).dstWord (Instr.long i).d p.2.dst p.2.lane j =
      BitVec.ofNat 32 (takenAs k (Instr.long i) p.1 / 2 ^ (32 * j)) := by
  have hlane := (mem_lanesOf.mp (mem_lanesOf_of_mem_writers hp)).1
  rw [Gang.putLoads_eq, List.foldl_append, List.foldl_cons]
  induction post using List.reverseRecOn with
  | nil =>
    rw [List.foldl_nil, Gang.takeDst, if_pos hp]
    exact (Gang.dstWord_putDst hd _ hlane hlane _ _ _ hj).1 (by unfold SharesReg; split <;> rfl) fun _ => rfl
  | append_singleton post q ih =>
    rw [List.foldl_append, List.foldl_cons, List.foldl_nil, Gang.takeDst]
    have ih := ih fun x hx => hlast x (List.mem_append_left _ hx)
    split
    · next hq =>
      have hne := hlast q (by simp)
      rw [(Gang.dstWord_putDst hd _ (mem_lanesOf.mp (mem_lanesOf_of_mem_writers hq)).1 hlane _ _ _ hj).2
        fun hshare => hne (writers_eq_of_sharesReg hq hp hshare)]
      exact ih
    · exact ih

/-- R22, R25: an access's value holds where the words of its destination do. -/
theorem LaneHolds.of_dstWord {h : Gang} {r : Req} {w : Nat} {a : LaneAcc} {v : Nat}
    (hword : isData (Instr.long r.instr).d = true → a.lane ∈ writers (Instr.long r.instr).d r.active →
      ∀ j < w / 32, h.dstWord (Instr.long r.instr).d a.dst a.lane j = BitVec.ofNat 32 (v / 2 ^ (32 * j)))
    (hlane : a.lane ∈ lanesOf r.active) : LaneHolds h r w a v := by
  simp only [LaneHolds]
  generalize (Instr.long r.instr).d = d at hword ⊢
  intro j hj
  have hclass : isS d = false → isData d = true → h.dstWord d a.dst a.lane j = BitVec.ofNat 32 (v / 2 ^ (32 * j)) := fun hS hd =>
    hword hd (by rwa [writers, if_neg (by simpa using hS)]) j hj
  obtain ⟨hV, hK, hI, hS⟩ := classes_disjoint d
  refine ⟨fun hd => ?_, fun hd => ?_, fun hd => ?_, fun hd hl => ?_⟩
  · simpa [Gang.dstWord, hd] using hclass (hV hd).2.2 (by simp [isData, hd])
  · simpa [Gang.dstWord, hd, hI hd] using hclass (hI hd).2.2 (by simp [isData, hd])
  · simpa [Gang.dstWord, hd, hK hd] using hclass (hK hd).2.2 (by simp [isData, hd])
  · simpa [Gang.dstWord, hd, hS hd] using hword (by simp [isData, hd]) (by rwa [writers, if_pos hd]) j hj

/-- R25, R153: of values that have arrived, the last one for an ACTIVE lane that has not exited stands in its destination. -/
theorem Gang.laneHolds_putLoads {g : Gang} {r : Req} {vals pre post : List (Nat × LaneAcc)} {v w : Nat} {a : LaneAcc}
    (hvals : vals = pre ++ (v, a) :: post) (hlast : ∀ q ∈ post, q.2.lane ≠ a.lane) (hlane : a.lane < 32) (hact : r.active.getLsbD a.lane = true)
    (hmask : g.mask.getLsbD a.lane = true) (hw : w = dstWidth r.kind (Instr.long r.instr)) :
    LaneHolds (g.putLoads r.instr r.kind r.active (g.arriving vals)) r w a (takenAs r.kind (Instr.long r.instr) v) := by
  subst hw hvals
  refine LaneHolds.of_dstWord (fun hd hwr j hj => ?_) (mem_lanesOf.mpr ⟨hlane, hact⟩)
  rw [Gang.arriving, List.filter_append, List.filter_cons_of_pos (by exact hmask)]
  exact Gang.dstWord_putLoads hd g _ _ hwr (fun q hq => hlast q (List.mem_filter.mp hq).1) hj

end Sys2Proof.Machine
end

section
/-! PROOFS about the end of a request: when its event takes it, and what taking it out of flight leaves alone (spec/08_memory_instructions.md, R33, R162, R254, R255). -/
namespace Sys2Proof.Machine

/-! ## When a request is taken -/

theorem State.noteEarly_eq (s : State) (r : Req) (prior : List Req) : ∃ early, s.noteEarly r prior = { s with early := early } := by
  unfold State.noteEarly
  extract_lets xs live
  split
  · exact ⟨s.early, rfl⟩
  · exact ⟨_, rfl⟩

/-- R317: a request of this device that need not wait is performed when its event comes. -/
theorem State.due_eq {s : State} {id : Nat} {r : Req} (p : Arrival) (again : Instr) (go : State → Nat → Req → State) (hid : id < wireBase)
    (hr : Cells.find? s.reqs id = some r) (hmute : r.mute = false) (hsent : r.sent.isSome = true) (htgt : r.tgt.away = false)
    (hwait : s.mustWait r = false) : ∃ early, s.due id p again go = go { s with early := early } id r := by
  obtain ⟨e, he⟩ := s.noteEarly_eq r (s.priorOf r)
  have hsome : r.sent.isNone = false := by simp [Option.isNone_eq_false_iff, hsent]
  simp only [State.due, State.answered, if_pos hid, hr, hmute, hsome, htgt, hwait, Nat.not_le.mpr hid, decide_false, Bool.false_and, Bool.or_self,
    Bool.false_eq_true, if_false]
  split
  · exact ⟨e, by rw [he]⟩
  · exact ⟨s.early, rfl⟩

/-! ## Taking a request out of flight -/

/-- R255: the gang that made a request holds its slot on its core. -/
structure Holds (s : State) (r : Req) (g : Gang) : Prop where
  gen : s.gen r.core r.slot = r.gen
  gang : s.gang? r.core r.slot = some g
  here : g.away = false

/-- What the end of a request changes outside its gang: the requests in flight, its tag, and the reservations of its core. -/
def OnlyEnds (s t : State) : Prop := ∃ cores tags reqs, t = { s with cores := cores, tags := tags, reqs := reqs }

namespace OnlyEnds

variable {s t u : State}

theorem refl (s : State) : OnlyEnds s s := ⟨s.cores, s.tags, s.reqs, rfl⟩

theorem trans (h : OnlyEnds s t) (h' : OnlyEnds t u) : OnlyEnds s u := by
  obtain ⟨_, _, _, rfl⟩ := h
  obtain ⟨cores, tags, reqs, rfl⟩ := h'
  exact ⟨cores, tags, reqs, rfl⟩

theorem modCore (s : State) (k : Nat) (f : Core → Core) : OnlyEnds s (s.modCore k f) := ⟨_, s.tags, s.reqs, rfl⟩

theorem modGang (s : State) (k sl : Nat) (f : Gang → Gang) : OnlyEnds s (s.modGang k sl f) := by
  unfold State.modGang
  split
  · exact modCore ..
  · exact refl s

section
variable (h : OnlyEnds s t)
include h

theorem mem : t.mem = s.mem := by obtain ⟨_, _, _, rfl⟩ := h; rfl
theorem group? (k : Nat) : t.group? k = s.group? k := by obtain ⟨_, _, _, rfl⟩ := h; rfl
theorem part (k : Nat) : t.part k = s.part k := by obtain ⟨_, _, _, rfl⟩ := h; rfl
theorem homeByte (key : BitVec 12) (pa : Nat) : t.homeByte key pa = s.homeByte key pa := by obtain ⟨_, _, _, rfl⟩ := h; rfl

end

end OnlyEnds

theorem State.freeEntry_onlyEnds (s : State) (r : Req) : OnlyEnds s (s.freeEntry r) := by
  unfold State.freeEntry
  split
  · exact OnlyEnds.modCore ..
  · exact OnlyEnds.refl s

@[simp] theorem State.freeEntry_reqs (s : State) (r : Req) : (s.freeEntry r).reqs = s.reqs := by
  unfold State.freeEntry
  split <;> rfl

/-- R301: an entry that comes free changes only the reservation of its core. -/
theorem State.core_freeEntry (s : State) (r : Req) (k : Nat) : ∃ resv, (s.freeEntry r).core k = { s.core k with resv := resv } := by
  unfold State.freeEntry
  split
  · rw [State.core_modCore]
    split
    · next h => exact ⟨_, by rw [← h]⟩
    · exact ⟨_, rfl⟩
  · exact ⟨_, rfl⟩

theorem State.dropReq_onlyEnds (s : State) (id : Nat) (r : Req) : OnlyEnds s (s.dropReq id r) := by
  have h : OnlyEnds s (({ s with reqs := Cells.del s.reqs id } : State).freeEntry r) :=
    OnlyEnds.trans ⟨s.cores, s.tags, _, rfl⟩ (State.freeEntry_onlyEnds _ r)
  unfold State.dropReq
  extract_lets s1
  split
  · exact h.trans ⟨_, _, _, rfl⟩
  · exact h

@[simp] theorem State.dropReq_reqs (s : State) (id : Nat) (r : Req) : (s.dropReq id r).reqs = Cells.del s.reqs id := by
  unfold State.dropReq
  extract_lets s1
  have h : s1.reqs = Cells.del s.reqs id := State.freeEntry_reqs ..
  split
  · exact h
  · exact h

theorem State.core_dropReq (s : State) (id : Nat) (r : Req) (k : Nat) : ∃ resv, (s.dropReq id r).core k = { s.core k with resv := resv } := by
  have h := State.core_freeEntry { s with reqs := Cells.del s.reqs id } r k
  unfold State.dropReq
  extract_lets s1
  split
  · exact h
  · exact h

@[simp] theorem State.gang?_dropReq (s : State) (id : Nat) (r : Req) (k sl : Nat) : (s.dropReq id r).gang? k sl = s.gang? k sl := by
  obtain ⟨resv, h⟩ := s.core_dropReq id r k
  simp only [State.gang?, h]

@[simp] theorem State.gen_dropReq (s : State) (id : Nat) (r : Req) (k sl : Nat) : (s.dropReq id r).gen k sl = s.gen k sl := by
  obtain ⟨resv, h⟩ := s.core_dropReq id r k
  simp only [State.gen, h]

@[simp] theorem State.gen_modGang (s : State) (k sl : Nat) (f : Gang → Gang) (k' sl' : Nat) : (s.modGang k sl f).gen k' sl' = s.gen k' sl' := by
  unfold State.modGang
  split
  · simp only [State.gen, State.setGang, State.core_modCore]
    split
    · next h => rw [h]
    · rfl
  · rfl

namespace Holds

variable {s : State} {r : Req} {g : Gang} (h : Holds s r g)
include h

theorem live : s.live r = true := by simp [State.live, h.gen, h.gang]

theorem inFrame : s.inFrame r = false := by simp [State.inFrame, h.gang, h.here]

theorem congr {t : State} (hcores : t.cores = s.cores) : Holds t r g :=
  ⟨by simp only [State.gen, State.core, hcores]; exact h.gen, (State.gang?_congr hcores ..).trans h.gang, h.here⟩

theorem dropReq (id : Nat) (x : Req) : Holds (s.dropReq id x) r g := ⟨by simpa using h.gen, by simpa using h.gang, h.here⟩

theorem modGang {f : Gang → Gang} (hf : (f g).away = false) : Holds (s.modGang r.core r.slot f) r (f g) :=
  ⟨by simpa using h.gen, by simp [State.gang?_modGang, h.gang], hf⟩

end Holds

/-- A request has ended: it is gone, its gang is h, and the rest is as it was. -/
structure Ended (s t : State) (id : Nat) (r : Req) (h : Gang) : Prop where
  gang : t.gang? r.core r.slot = some h
  gone : Cells.find? t.reqs id = none
  only : OnlyEnds s t

section
variable {s : State} {id : Nat} {r : Req} {g : Gang} (h : Holds s r g)
include h

/-- R33: the end of a request lowers its gang's counter. -/
theorem Holds.finish : Ended s (s.finish id r) id r (g.land r.path r.seq) := by
  have hd := h.dropReq id r
  simp only [State.finish, h.inFrame, hd.live, State.land, hd.gen, Bool.false_eq_true, if_false, if_true]
  exact ⟨(hd.modGang (by exact h.here)).gang, by simp [Cells.find?_del], (s.dropReq_onlyEnds id r).trans (OnlyEnds.modGang ..)⟩

theorem Holds.modGang_finish {f : Gang → Gang} (hf : (f g).away = false) :
    Ended s ((s.modGang r.core r.slot f).finish id r) id r ((f g).land r.path r.seq) := by
  obtain ⟨hgang, hgone, honly⟩ := (h.modGang hf).finish (id := id)
  exact ⟨hgang, hgone, (OnlyEnds.modGang ..).trans honly⟩

/-- R25, R164: the end of a request that brings values. -/
theorem Holds.deliver (vals : List (Nat × LaneAcc)) :
    Ended s (s.deliver id r vals) id r ((g.putLoads r.instr r.kind r.active (g.arriving vals)).land r.path r.seq) := by
  simp only [State.deliver, h.inFrame, h.live, Bool.false_eq_true, if_false, if_true]
  refine h.modGang_finish (f := fun g => g.putLoads r.instr r.kind r.active (g.arriving vals)) ?_
  obtain ⟨_, _, _, heq⟩ := Gang.SameButData.putLoads g r.instr r.kind r.active (g.arriving vals)
  exact (congrArg Gang.away heq).trans h.here

end

/-! ## What a request's end leaves of its gang -/

theorem KeptByReply.of_sameButData {g h : Gang} {r : Req} (hs : g.SameButData h)
    (hother : ∀ n lane, lane < 32 → (r.active.getLsbD lane = false ∨ g.mask.getLsbD lane = false) → h.vReg n lane = g.vReg n lane ∧ h.kReg n lane = g.kReg n lane) :
    KeptByReply g h r := by
  obtain ⟨_, _, _, rfl⟩ := hs
  exact ⟨rfl, rfl, rfl, rfl, rfl, rfl, rfl, hother⟩

theorem KeptByReply.land {g h : Gang} {r : Req} (hk : KeptByReply g h r) (p : Path) (seq : Nat) : KeptByReply g (h.land p seq) r := hk

theorem keptByReply_putLoads (g : Gang) (r : Req) (vals : List (Nat × LaneAcc)) (p : Path) (seq : Nat) :
    KeptByReply g ((g.putLoads r.instr r.kind r.active (g.arriving vals)).land p seq) r := by
  refine KeptByReply.land (.of_sameButData (Gang.SameButData.putLoads ..) fun n lane hlane hout => ?_) p seq
  refine Gang.putLoads_other g _ _ _ _ hlane (fun q hq hact heq => ?_) n
  have hact := (mem_lanesOf.mp hact).2
  have hmask := (List.mem_filter.mp hq).2
  rw [heq] at hact hmask
  exact hout.elim (fun h => Bool.false_ne_true (h.symm.trans hact)) fun h => Bool.false_ne_true (h.symm.trans hmask)

theorem keptByReply_land (g : Gang) (r : Req) (p : Path) (seq : Nat) : KeptByReply g (g.land p seq) r :=
  KeptByReply.land (.of_sameButData (Gang.SameButData.refl g) fun _ _ _ _ => ⟨rfl, rfl⟩) p seq

theorem sameRegs_land (g : Gang) (p : Path) (seq : Nat) : (g.land p seq).sameRegs g := ⟨rfl, rfl, rfl, rfl, rfl, rfl⟩

/-! ## Reports (R162, R243) -/

theorem Gang.report_of_ne (g : Gang) {cause : BitVec 6} (h : cause ≠ 0x31) (v : Nat) :
    g.report cause v = if 8 ≤ g.defq.length then { g with lost := true } else { g with defq := g.defq ++ [⟨cause, BitVec.ofNat 64 v⟩] } := by
  rw [Gang.report, if_neg h]

/-- R243: what a report leaves alone. -/
theorem Gang.report_kept (g : Gang) (cause : BitVec 6) (v : Nat) : ∃ canc defq lost, g.report cause v = { g with canc := canc, defq := defq, lost := lost } := by
  unfold Gang.report
  split
  · exact ⟨_, g.defq, g.lost, rfl⟩
  · split
    · exact ⟨g.canc, g.defq, true, rfl⟩
    · exact ⟨g.canc, _, g.lost, rfl⟩

/-- A gang after a report and the end of its request. -/
theorem reported_report (g : Gang) {cause : BitVec 6} (h : cause ≠ 0x31) (v : Nat) (p : Path) (seq : Nat) :
    ((g.report cause v).land p seq).sameRegs g ∧ Reported g ((g.report cause v).land p seq) cause v := by
  refine ⟨?_, fun hlt => ?_, fun hle => ?_⟩
  · obtain ⟨_, _, _, heq⟩ := g.report_kept cause v
    rw [heq]
    exact ⟨rfl, rfl, rfl, rfl, rfl, rfl⟩
  · rw [g.report_of_ne h, if_neg (by omega)]
    rfl
  · rw [g.report_of_ne h, if_pos hle]
    exact ⟨rfl, rfl⟩

section
variable {s : State} {id : Nat} {r : Req} {g : Gang} (h : Holds s r g)
include h

theorem Holds.report_finish (cause : BitVec 6) (v : Nat) :
    Ended s ((s.report r.core r.slot r.gen cause v).finish id r) id r ((g.report cause v).land r.path r.seq) := by
  rw [State.report, if_pos h.gen]
  refine h.modGang_finish (f := fun g => g.report cause v) ?_
  obtain ⟨_, _, _, heq⟩ := g.report_kept cause v
  exact (congrArg Gang.away heq).trans h.here

/-- R162: a request of its own that fails. -/
theorem Holds.failLane (hmute : r.mute = false) (cause : BitVec 6) :
    Ended s (s.failLane id r cause) id r ((g.report cause r.line).land r.path r.seq) := by
  simp only [State.failLane, hmute, h.inFrame, Bool.false_eq_true, if_false]
  exact h.report_finish cause r.line

/-- R162: a line that fails. -/
theorem Holds.failReq (hmute : r.mute = false) (cause : BitVec 6) :
    Ended s (s.failReq id r cause) id r ((g.report cause r.line).land r.path r.seq) := by
  unfold State.failReq
  extract_lets same
  obtain ⟨hgang, hgone, honly⟩ := (h.congr (t := { s with reqs := s.reqs.map fun p => if same p.2 then (p.1, { p.2 with mute := true }) else p }) rfl).failLane
    (id := id) hmute cause
  exact ⟨hgang, hgone, OnlyEnds.trans ⟨s.cores, s.tags, _, rfl⟩ honly⟩

end

/-! ## Requests of this device whose event has come -/

theorem MayEnd.holds {s : State} {id : Nat} {r : Req} {g : Gang} (h : MayEnd s id r g) : Holds s r g := by
  obtain ⟨_, _, _, _, _, _, hgen, hgang, haway⟩ := h
  exact ⟨hgen, hgang, haway⟩

/-- A request of this device whose event has come is performed. -/
theorem MayEnd.due_eq {s : State} {id : Nat} {r : Req} {g : Gang} (h : MayEnd s id r g) (htgt : r.tgt.away = false) (p : Arrival) (again : Instr)
    (go : State → Nat → Req → State) : ∃ early, s.due id p again go = go { s with early := early } id r := by
  obtain ⟨hid, hr, _, hwait, hsent, hmute, _⟩ := h
  exact State.due_eq p again go hid hr hmute hsent htgt hwait

/-- R25, R161: the last part of a request for a lane brings the value that stands in its destination. -/
theorem laneHolds_of_reads {g : Gang} {r : Req} {w : Nat} {a : LaneAcc} (h : returnsTo g r a) (hw : w = dstWidth r.kind (Instr.long r.instr))
    {vals : List (Nat × LaneAcc)} (v : LaneAcc → Nat) (hvals : vals = r.lanes.map fun a => (v a, a)) (p : Path) (seq : Nat) :
    LaneHolds ((g.putLoads r.instr r.kind r.active (g.arriving vals)).land p seq) r w a (takenAs r.kind (Instr.long r.instr) (v a)) := by
  obtain ⟨hlane, hact, hmask, pre, post, hsplit, hlast⟩ := h
  rw [hsplit, List.map_append, List.map_cons] at hvals
  refine Gang.laneHolds_putLoads hvals (fun q hq => ?_) hlane hact hmask hw
  obtain ⟨b, hb, rfl⟩ := List.mem_map.mp hq
  exact hlast b hb

end Sys2Proof.Machine
end

section
/-! PROOFS about accesses to scratchpads, lane by lane (spec/08_memory_instructions.md, R161, R170, R171, R177). -/
namespace Sys2Proof.Machine

/-! ## Accesses one after another -/

section
variable {σ α β : Type}

/-- What accesses made one after another return, each with the access it is for. -/
def collected (step : σ → α → σ × β) : σ → List α → List (β × α)
  | _, [] => []
  | s, a :: l => ((step s a).2, a) :: collected step (step s a).1 l

/-- What they leave. -/
def left (step : σ → α → σ × β) (s : σ) (l : List α) : σ := l.foldl (fun s a => (step s a).1) s

/-- The model gathers the returned values behind those it has. -/
theorem foldl_gather (step : σ → α → σ × β) (l : List α) (s : σ) (vals : List (β × α)) :
    l.foldl (fun (p : σ × List (β × α)) a => ((step p.1 a).1, p.2 ++ [((step p.1 a).2, a)])) (s, vals) = (left step s l, vals ++ collected step s l) := by
  induction l generalizing s vals with
  | nil => simp [left, collected]
  | cons a l ih => rw [List.foldl_cons, ih, List.append_assoc]; rfl

theorem collected_append (step : σ → α → σ × β) (s : σ) (l l' : List α) :
    collected step s (l ++ l') = collected step s l ++ collected step (left step s l) l' := by
  induction l generalizing s with
  | nil => rfl
  | cons a l ih => exact congrArg _ (ih _)

theorem collected_map_snd (step : σ → α → σ × β) (s : σ) (l : List α) : (collected step s l).map (·.2) = l := by
  induction l generalizing s with
  | nil => rfl
  | cons a l ih => exact congrArg _ (ih _)

/-- An access returns what it finds after those before it. -/
theorem collected_split (step : σ → α → σ × β) (s : σ) (pre : List α) (a : α) (post : List α) :
    ∃ before after, collected step s (pre ++ a :: post) = before ++ ((step (left step s pre) a).2, a) :: after ∧ after.map (·.2) = post :=
  ⟨_, _, collected_append .., collected_map_snd ..⟩

/-- Reads leave everything, and return what was there. -/
theorem left_of_reads {step : σ → α → σ × β} {s : σ} (h : ∀ a, (step s a).1 = s) (l : List α) : left step s l = s := by
  induction l with
  | nil => rfl
  | cons a l ih => rw [left, List.foldl_cons, h a]; exact ih

theorem collected_of_reads {step : σ → α → σ × β} {s : σ} (v : α → β) (h : ∀ a, step s a = (s, v a)) (l : List α) :
    collected step s l = l.map fun a => (v a, a) := by
  induction l with
  | nil => rfl
  | cons a l ih => rw [collected, h a, ih, List.map_cons]

end

/-! ## Bytes that several accesses write -/

/-- R161: of several writes to one byte the last one counts. -/
theorem byte_foldl_write {α : Type} (addr data : α → Nat) (n : Nat) (m : Memory) (l : List α) (x : Nat) :
    Memory.byte (l.foldl (fun m a => Memory.write m (addr a) n (data a)) m) x =
      (l.filter fun a => decide (addr a ≤ x ∧ x < addr a + n)).getLast?.elim (Memory.byte m x) fun a => BitVec.ofNat 8 (data a / 256 ^ (x - addr a)) := by
  induction l using List.reverseRecOn with
  | nil => rfl
  | append_singleton l a ih =>
    rw [List.foldl_append, List.foldl_cons, List.foldl_nil, Memory.byte_write, List.filter_append]
    split
    · next h => rw [List.filter_cons_of_pos (by simpa using h)]; simp
    · next h => rw [List.filter_cons_of_neg (by simpa using h)]; simpa using ih

/-! ## Accesses to a group's scratchpad -/

/-- Only a group's scratchpad, and its record of who wrote it, are changed. -/
def OnlyScratch (g h : Group) : Prop := h = { g with scratch := h.scratch, wid := h.wid }

theorem OnlyScratch.trans {g h y : Group} (hg : OnlyScratch g h) (hy : OnlyScratch h y) : OnlyScratch g y := by
  unfold OnlyScratch at *
  rw [hy, hg]

/-- R326: the record of who wrote holds no byte. -/
theorem Group.noteWrite_eq (g : Group) (weak : Option (Nat × Nat × Nat)) (a n : Nat) : ∃ wid, g.noteWrite weak a n = { g with wid := wid } := by
  unfold Group.noteWrite
  generalize List.range ((a % 32 + n + 31) / 32) = l
  induction l generalizing g with
  | nil => exact ⟨g.wid, rfl⟩
  | cons j l ih =>
    obtain ⟨wid, h⟩ := ih _
    exact ⟨wid, h⟩

/-- The value that an access stores: a store its datum, an atomic what its operation makes of what stands there. -/
def storedValue (k : MemKind) (f : Long) (m : Memory) (a : LaneAcc) : Nat :=
  if k = .store then a.data else atomicValue (subN f) f.fmt (atomAnchor f) (Memory.read m a.addr (accSize k f)) a.data a.data2

theorem Group.access_snd (g : Group) (k : MemKind) (f : Long) (weak : Option (Nat × Nat × Nat)) (a : LaneAcc) :
    (g.access k f weak a).2 = Memory.read g.scratch a.addr (accSize k f) := by
  cases k <;> rfl

theorem Group.access_write {k : MemKind} (hk : k = .store ∨ k = .atomic) (g : Group) (f : Long) (weak : Option (Nat × Nat × Nat)) (a : LaneAcc) :
    (g.access k f weak a).1.scratch = Memory.write g.scratch a.addr (accSize k f) (storedValue k f g.scratch a) ∧
      OnlyScratch g (g.access k f weak a).1 := by
  have hstep : ∃ w, (g.access k f weak a).1 =
      ({ g with scratch := Memory.write g.scratch a.addr (accSize k f) (storedValue k f g.scratch a) } : Group).noteWrite w a.addr (accSize k f) := by
    rcases hk with rfl | rfl
    · exact ⟨weak, rfl⟩
    · exact ⟨none, rfl⟩
  obtain ⟨w, hstep⟩ := hstep
  obtain ⟨wid, hnote⟩ := Group.noteWrite_eq _ w a.addr (accSize k f)
  rw [hstep, hnote]
  exact ⟨rfl, rfl⟩

/-- The scratchpad after accesses that write. -/
theorem left_access_write {k : MemKind} (hk : k = .store ∨ k = .atomic) (g : Group) (f : Long) (weak : Option (Nat × Nat × Nat)) (l : List LaneAcc) :
    (left (fun g a => g.access k f weak a) g l).scratch =
        l.foldl (fun m a => Memory.write m a.addr (accSize k f) (storedValue k f m a)) g.scratch ∧
      OnlyScratch g (left (fun g a => g.access k f weak a) g l) := by
  induction l generalizing g with
  | nil => exact ⟨rfl, rfl⟩
  | cons a l ih =>
    obtain ⟨hscratch, honly⟩ := Group.access_write hk g f weak a
    obtain ⟨hs, ho⟩ := ih (g.access k f weak a).1
    refine ⟨?_, honly.trans ho⟩
    rw [List.foldl_cons, ← hscratch]
    exact hs

/-- R171, R177: accesses to the scratchpad of a group that is there. -/
theorem State.scratchAccess_eq {s : State} {gk : Nat} {grp : Group} (hg : s.group? gk = some grp) (k : MemKind) (f : Long)
    (weak : Option (Nat × Nat × Nat)) (l : List LaneAcc) :
    s.scratchAccess gk k f weak l =
      (s.modGroup gk fun _ => left (fun g a => g.access k f weak a) grp l, collected (fun g a => g.access k f weak a) grp l) := by
  have h := foldl_gather (fun (g : Group) a => g.access k f weak a) l grp []
  rw [List.nil_append] at h
  simp only [State.scratchAccess, hg]
  exact congrArg (fun x : Group × List (Nat × LaneAcc) => (s.modGroup gk fun _ => x.1, x.2)) h

theorem State.group?_putGroup {s : State} {gk : Nat} {grp y : Group} (hg : s.group? gk = some grp) :
    (s.modGroup gk fun _ => y).group? gk = some y ∧ ∀ k, k ≠ gk → (s.modGroup gk fun _ => y).group? k = s.group? k :=
  ⟨by simp [State.group?_modGroup, hg], fun k hk => by rw [State.group?_modGroup, if_neg hk.symm]⟩

end Sys2Proof.Machine
end

section
/-! PROOFS about requests that the fabric fails, parks, moves or does not know (spec/14_fabric.md, R162, R163, R304 to R307, R349, R367, R402, R407). -/
namespace Sys2Proof.Machine

theorem OwnAccess.holds {s : State} {id : Nat} {r : Req} {g : Gang} (h : OwnAccess s id r g) : Holds s r g := by
  obtain ⟨_, _, _, _, hgen, hgang, haway⟩ := h
  exact ⟨hgen, hgang, haway⟩

/-- R307, R394: an answer that is taken now goes to its request. -/
theorem Answers.answered_eq {s : State} {n : Nat} {p : Arrival} {id : Nat} {r : Req} (h : Answers s n p id) (hr : Cells.find? s.reqs id = some r)
    (hown : r.own = .gang) (again : Instr) (go : State → Nat → Req → State) : s.answered n p again go = go s id r := by
  obtain ⟨hn, f, hf, rfl, hhold⟩ := h
  simp only [State.answered, if_neg (Nat.not_lt.mpr hn), hf, hhold, hr, hown]

section
variable {s : State} {id : Nat} {r : Req} {g : Gang} (h : OwnAccess s id r g)
include h

/-- R162: a request of a gang that the fabric fails ends in a report of its line. -/
theorem OwnAccess.requestFails (cause : BitVec 6) : Ended s (s.requestFails id r cause) id r ((g.report cause r.line).land r.path r.seq) := by
  have ⟨_, hown, hmute, hmma, _⟩ := h
  simp only [State.requestFails, hown, State.fabricFail, hmma, Bool.false_eq_true, if_false]
  split
  · exact h.holds.failLane hmute cause
  · exact h.holds.failReq hmute cause

/-- What is left after a request has failed. -/
theorem OwnAccess.failed {e : Instr} {cause : BitVec 6} (hc : cause ≠ 0x31) (he : exec e s = .next (s.requestFails id r cause)) :
    ∃ t h, exec e s = .next t ∧ t.gang? r.core r.slot = some h ∧ h.sameRegs g ∧ Cells.find? t.reqs id = none ∧ Reported g h cause r.line := by
  obtain ⟨hgang, hgone, _⟩ := h.requestFails cause
  obtain ⟨hregs, hrep⟩ := reported_report g hc r.line r.path r.seq
  exact ⟨_, _, he, hgang, hregs, hgone, hrep⟩

/-- R163, R367: above level 0, or with a cause that does not park, a refusal fails the request. -/
theorem OwnAccess.peerRefusal_fails {n : Nat} {p : Arrival} {cause : BitVec 6} (ia : Nat) (ha : Answers s n p id)
    (hc : 0 < r.level ∨ (cause ≠ 0x15 ∧ cause ≠ 0x16)) : exec (.peerRefusal ⟨n, p⟩ cause ia) s = .next (s.requestFails id r cause) := by
  have ⟨hr, hown, _⟩ := h
  refine congrArg Host.Outcome.next ((ha.answered_eq hr hown _ _).trans ?_)
  split
  · rfl
  · next hpark =>
    have hlevel : 0 < r.level := hc.resolve_right hpark
    simp only [hown, State.refused, h.holds.live, hlevel, State.requestFails, Bool.not_true, Bool.false_eq_true, if_false, if_true]

/-- R163, R367: at level 0 a refusal that parks goes to the gang's log. -/
theorem OwnAccess.peerRefusal_parks {n : Nat} {p : Arrival} {cause : BitVec 6} (ia : Nat) (ha : Answers s n p id) (hlevel : r.level = 0)
    (hc : cause = 0x15 ∨ cause = 0x16) : exec (.peerRefusal ⟨n, p⟩ cause ia) s = .next
      (if g.mayPark r.seq then (s.dropReq id r).modGang r.core r.slot fun g => g.parkLine r cause
       else ({ s with reqs := Cells.put s.reqs id { r with sent := some s.cycle } } : State).after walkCycles (.peerRefusal ⟨n, p⟩ cause ia)) := by
  have ⟨hr, hown, _, hmma, _, hgang, _⟩ := h
  refine congrArg Host.Outcome.next ((ha.answered_eq hr hown _ _).trans ?_)
  have hpark : ¬(cause ≠ 0x15 ∧ cause ≠ 0x16) := by tauto
  simp only [hown, if_neg hpark, State.refused, h.holds.live, h.holds.inFrame, hlevel, hgang, hmma, Bool.not_true, Bool.false_eq_true, Bool.false_or,
    Nat.lt_irrefl, if_false]
  cases g.mayPark r.seq <;> rfl

end

/-- R163: an instruction with no entry in the log parks once there is room. -/
theorem Gang.mayPark_of_new {g : Gang} {seq : Nat} (h : ∀ e ∈ g.olog, e.seq ≠ seq) : g.mayPark seq = decide (g.olog.length < 4) := by
  have hnone : (g.olog.any fun p => decide (p.seq = seq)) = false := by simpa using h
  rw [Gang.mayPark, hnone, Bool.or_false]

theorem Gang.parkLine_of_new {g : Gang} {r : Req} (h : ∀ e ∈ g.olog, e.seq ≠ r.seq) (cause : BitVec 6) :
    g.parkLine r cause = { g with olog := g.olog ++ [⟨r.seq, [{ r with sent := none, entry := false }], none, cause, r.line, false, 0⟩] } := by
  have hnone : ¬(g.olog.any fun p => decide (p.seq = r.seq)) = true := by simpa using h
  rw [Gang.parkLine, if_neg hnone]

/-- R163, R367: a refused line of level 0 parks, or waits until the log has room. -/
theorem refusal_parksLine {s : State} {n : Nat} {p : Arrival} {id : Nat} {r : Req} {g : Gang} {cause : BitVec 6} (ia : Nat) (ha : Answers s n p id)
    (h : OwnAccess s id r g) (hlevel : r.level = 0) (hc : cause = 0x15 ∨ cause = 0x16) (hnew : ∀ e ∈ g.olog, e.seq ≠ r.seq) :
    (g.olog.length < 4 → ∃ t h, exec (.peerRefusal ⟨n, p⟩ cause ia) s = .next t ∧ t.gang? r.core r.slot = some h ∧ h.sameRegs g ∧
      Cells.find? t.reqs id = none ∧ h.olog = g.olog ++ [⟨r.seq, [{ r with sent := none, entry := false }], none, cause, r.line, false, 0⟩]) ∧
    (4 ≤ g.olog.length → ∃ t k, exec (.peerRefusal ⟨n, p⟩ cause ia) s = .next t ∧ (k, .peerRefusal ⟨n, p⟩ cause ia) ∈ t.agenda ∧
      t = { s with reqs := t.reqs, agenda := t.agenda } ∧ Cells.find? t.reqs id = some { r with sent := some s.cycle }) := by
  have he := h.peerRefusal_parks ia ha hlevel hc
  rw [Gang.mayPark_of_new hnew] at he
  refine ⟨fun hroom => ?_, fun hfull => ?_⟩
  · rw [if_pos (decide_eq_true hroom)] at he
    refine ⟨_, g.parkLine r cause, he, ((h.holds.dropReq id r).modGang (f := fun g => g.parkLine r cause) ?_).gang, ?_, by simp [Cells.find?_del], ?_⟩
    · rw [Gang.parkLine_of_new hnew]
      exact h.holds.here
    · rw [Gang.parkLine_of_new hnew]
      exact ⟨rfl, rfl, rfl, rfl, rfl, rfl⟩
    · rw [Gang.parkLine_of_new hnew]
  · rw [if_neg (by simpa using hfull)] at he
    exact ⟨_, s.cycle + walkCycles, he, List.mem_append_right _ (List.mem_singleton_self _), rfl, by simp [State.after, Cells.find?_put]⟩

/-- R305: the timer of a request that runs out fails it. -/
theorem fabricTimeout_fails {s : State} {id : Nat} {r : Req} (hr : Cells.find? s.reqs id = some r) (htransit : s.inTransit r.fn = false) {at0 : Nat}
    (hsent : r.sent = some at0) (hlate : at0 + s.timeoutCycles r.fn ≤ s.cycle) : exec (.fabricTimeout id) s = .next (s.requestFails id r 0x1C) := by
  simp only [exec, execFabricTimeout, hr, hsent, htransit, Nat.not_lt.mpr hlate, Bool.false_eq_true, if_false]

/-- R349: an unreachable answer, under an identity or a tag in use, fails the request. -/
theorem fabricUnreachable_fails {s : State} {n id : Nat} {r : Req} (hr : Cells.find? s.reqs id = some r) (htransit : s.inTransit r.fn = false)
    (hn : (n < wireBase ∧ n = id) ∨ (wireBase ≤ n ∧ ∃ f, s.flight? n = some f ∧ f.id = id)) :
    exec (.fabricUnreachable n) s = .next (s.requestFails id r 0x1D) := by
  rcases hn with ⟨hn, rfl⟩ | ⟨hn, f, hf, rfl⟩
  · simp only [exec, execFabricUnreachable, if_pos hn, hr, htransit, Bool.false_eq_true, if_false]
  · simp only [exec, execFabricUnreachable, if_neg (Nat.not_lt.mpr hn), hf, hr, htransit, Bool.false_eq_true, if_false]

/-- R305: WAIT restarts the timer of the request that it names. -/
theorem waitReply_restarts {s : State} {n : Nat} {p : Arrival} {id : Nat} {r : Req} (h : Answers s n p id) (hr : Cells.find? s.reqs id = some r) :
    ∃ t, exec (.waitReply ⟨n, p⟩) s = .next t ∧ Cells.find? t.reqs id = some { r with sent := some s.cycle } ∧ t = { s with reqs := t.reqs } := by
  obtain ⟨_, f, hf, rfl, hhold⟩ := h
  exact ⟨{ s with reqs := Cells.modify s.reqs f.id fun r => { r with sent := some s.cycle } }, by simp only [exec, execWaitReply, hf, hhold],
    by simp [Cells.find?_modify, hr], rfl⟩

/-- R307: what arrives under a tag that is not in use is dropped and counted. -/
theorem unknownTag_stale {s : State} {n : Nat} (hn : wireBase ≤ n) (hf : s.flight? n = none) (p : Arrival) :
    ∀ e ∈ [Instr.waitReply ⟨n, p⟩, .loadDataReturn n p, .storePerformed ⟨n, p⟩, .atomicReply n p, .nmxReply n p, .ldbrLoaded n p, .peerRefusal ⟨n, p⟩ 0x15 0],
      exec e s = .next (s.stale p.link) := by
  have hanswered (again : Instr) (go : State → Nat → Req → State) : s.answered n p again go = s.stale p.link := by
    simp only [State.answered, if_neg (Nat.not_lt.mpr hn), hf]
  have hdue (again : Instr) (go : State → Nat → Req → State) : s.due n p again go = s.stale p.link :=
    hanswered again _
  intro e he
  simp only [List.mem_cons, List.not_mem_nil, or_false] at he
  rcases he with rfl | rfl | rfl | rfl | rfl | rfl | rfl
  · simp only [exec, execWaitReply, hf]
  · exact congrArg Host.Outcome.next (hdue ..)
  · exact congrArg Host.Outcome.next (hdue ..)
  · exact congrArg Host.Outcome.next (hdue ..)
  · exact congrArg Host.Outcome.next (hdue ..)
  · exact congrArg Host.Outcome.next (hdue ..)
  · exact congrArg Host.Outcome.next (hanswered ..)

theorem State.stale_counts (s : State) (l : Nat) :
    (Cells.getD (s.stale l).links l Link.reset).stale = satUp (Cells.getD s.links l Link.reset).stale := by
  simp [State.stale, Cells.getD_put]

/-- R305: a home that still holds a request sends WAIT, and looks again 50 µs later. -/
theorem homeWaitTimer_sendsWait {s : State} {tag : Nat} {q : PeerReq} (hq : s.held.find? (fun (q : PeerReq) => decide (q.tag = tag)) = some q) :
    ∃ t, exec (.homeWaitTimer tag) s = .next t ∧
      t.out = s.out ++ [.waitReply q.src q.tag (match s.fnOfVdn q.dst with | some fn => s.colour fn | none => 0)] ∧
      (s.cycle + 55000, .homeWaitTimer tag) ∈ t.agenda ∧ t = { s with out := t.out, agenda := t.agenda } := by
  refine ⟨(s.sendWait q).after waitCycles (.homeWaitTimer tag), ?_, rfl, List.mem_append_right _ (List.mem_singleton_self _), rfl⟩
  simp only [exec, execHomeWaitTimer, hq]

/-- R306, R407: the redirect entry of a number after a move names the new module and is valid. -/
theorem State.moveEntry_redirect (s : State) (vdn : Nat) {modNo : Nat} (h : modNo < 16) :
    bits (Cells.getD (s.moveEntry vdn modNo).redirect vdn 0).toNat 19 16 = modNo ∧ (Cells.getD (s.moveEntry vdn modNo).redirect vdn 0).getLsbD 31 = true := by
  have hb : bits (Cells.getD s.redirect vdn 0).toNat 5 0 < 64 := Nat.mod_lt _ (by decide)
  have hword : (Cells.getD (s.moveEntry vdn modNo).redirect vdn 0).toNat = 2 ^ 31 + modNo * 65536 + bits (Cells.getD s.redirect vdn 0).toNat 5 0 := by
    simp only [State.moveEntry, Cells.getD_put, if_true, BitVec.toNat_ofNat, Nat.mod_eq_of_lt h]
    omega
  generalize bits (Cells.getD s.redirect vdn 0).toNat 5 0 = b at hb hword
  refine ⟨?_, ?_⟩
  · rw [hword]
    simp only [bits, Nat.shiftRight_eq_div_pow]
    omega
  · rw [BitVec.getLsbD, hword, Nat.testBit_eq_decide_div_mod_eq, decide_eq_true_eq]
    omega

/-- R306: a request that is sent again keeps all but when it was sent and its entry, and moves nothing of the redirect table. -/
theorem State.resend_keeps (s : State) (n modNo : Nat) (f : Flight) {r : Req} (hr : Cells.find? s.reqs f.id = some r) :
    (s.resend n modNo f r).redirect = s.redirect ∧
      ∃ x, Cells.find? (s.resend n modNo f r).reqs f.id = some x ∧ x = { r with sent := x.sent, entry := x.entry } := by
  unfold State.resend
  split
  · split
    · exact ⟨rfl, r, hr, rfl⟩
    · next vdn ia m _ _ s1 p htake =>
      obtain ⟨x, _, hx⟩ := Option.map_eq_some_iff.mp htake
      refine ⟨?_, { r with sent := some s.cycle }, by simp [State.after, Cells.find?_put], rfl⟩
      rw [Prod.mk.injEq] at hx
      rw [← hx.1]
      rfl
  · exact ⟨rfl, r, hr, rfl⟩

/-- R306, R407: a MOVED answer names the new module and sends the request again. -/
theorem movedReply_sendsAgain {s : State} {n : Nat} {f : Flight} {r : Req} {modNo : Nat} (hf : s.flight? n = some f)
    (hr : Cells.find? s.reqs f.id = some r) (hm : modNo < 16) :
    ∃ t x, exec (.movedReply n modNo) s = .next t ∧ bits (Cells.getD t.redirect f.req.dst 0).toNat 19 16 = modNo ∧
      (Cells.getD t.redirect f.req.dst 0).getLsbD 31 = true ∧ Cells.find? t.reqs f.id = some x ∧ x = { r with sent := x.sent, entry := x.entry } := by
  have hn : ¬n < wireBase := fun hn => by simp [State.flight?, Nat.not_le.mpr hn] at hf
  obtain ⟨hredirect, x, hx, hkept⟩ := (s.moveEntry f.req.dst modNo).resend_keeps n modNo f hr
  obtain ⟨hmod, hvalid⟩ := s.moveEntry_redirect f.req.dst hm
  refine ⟨_, x, ?_, by rw [hredirect]; exact hmod, by rw [hredirect]; exact hvalid, hx, hkept⟩
  simp only [exec, execMovedReply, if_neg hn, hf, hr]

/-! ## Remote scratchpads and operand lines (R161, R170, R171, R226) -/

/-- R170: a request for another group's scratchpad is performed there, and ends with what it found. -/
theorem remoteScratchComplete_eq {s : State} {id : Nat} {r : Req} {g : Gang} {gk : Nat} {grp : Group} (h : MayEnd s id r g) (ht : r.tgt = .scratch gk)
    (hg : s.group? gk = some grp) : ∃ early weak, exec (.remoteScratchComplete id) s = .next
      ((({ s with early := early } : State).modGroup gk fun _ => left (fun g a => g.access r.kind (Instr.long r.instr) weak a) grp r.lanes).deliver id r
        (collected (fun g a => g.access r.kind (Instr.long r.instr) weak a) grp r.lanes)) := by
  obtain ⟨early, hdue⟩ := h.due_eq (by rw [ht]; rfl) Arrival.here (.remoteScratchComplete id) _
  refine ⟨early, if r.ord = 0 then some (r.core, r.slot, r.gen) else none, (congrArg Host.Outcome.next hdue).trans ?_⟩
  simp only [ht, State.scratchAccess_eq (s := { s with early := early }) hg]

/-- What is left of the groups when a request has ended after one of them changed. -/
theorem Ended.groups {s t : State} {early : List Early} {id gk : Nat} {r : Req} {h : Gang} {grp y : Group}
    (he : Ended (({ s with early := early } : State).modGroup gk fun _ => y) t id r h) (hg : s.group? gk = some grp) :
    t.mem = s.mem ∧ t.group? gk = some y ∧ ∀ k, k ≠ gk → t.group? k = s.group? k := by
  obtain ⟨hy, hother⟩ := State.group?_putGroup (s := { s with early := early }) (y := y) hg
  exact ⟨he.only.mem, (he.only.group? gk).trans hy, fun k hk => (he.only.group? k).trans (hother k hk)⟩

/-- R170, R171: a store to the scratchpad of another group. -/
theorem remoteStore_performed {s : State} {id : Nat} {r : Req} {g : Gang} {f : Long} {gk : Nat} {grp : Group} (h : MayEnd s id r g)
    (hi : r.instr = .sts f) (ht : r.tgt = .scratch gk) (hg : s.group? gk = some grp) :
    ∃ t h y, exec (.remoteScratchComplete id) s = .next t ∧ t.gang? r.core r.slot = some h ∧ h.sameRegs g ∧ Cells.find? t.reqs id = none ∧ t.mem = s.mem ∧
      t.group? gk = some y ∧ OnlyScratch grp y ∧ (∀ k, k ≠ gk → t.group? k = s.group? k) ∧
      ∀ x, Memory.byte y.scratch x = (r.lanes.filter fun a => decide (a.addr ≤ x ∧ x < a.addr + accSize .store f)).getLast?.elim (Memory.byte grp.scratch x)
        fun a => BitVec.ofNat 8 (a.data / 256 ^ (x - a.addr)) := by
  have hk : r.kind = .store := by rw [Req.kind, hi]; rfl
  have hf : Instr.long r.instr = f := by rw [hi]; rfl
  obtain ⟨early, weak, hexec⟩ := remoteScratchComplete_eq h ht hg
  rw [hk, hf] at hexec
  obtain ⟨hscratch, honly⟩ := left_access_write (.inl rfl) grp f weak r.lanes
  have hend := (h.holds.congr (t := ({ s with early := early } : State).modGroup gk fun _ => left (fun g a => g.access .store f weak a) grp r.lanes) rfl).deliver
    (id := id) (collected (fun g a => g.access .store f weak a) grp r.lanes)
  obtain ⟨hmem, hgroup, hother⟩ := hend.groups hg
  refine ⟨_, _, _, hexec, hend.gang, ?_, hend.gone, hmem, hgroup, honly, hother, fun x => ?_⟩
  · rw [hk]
    exact sameRegs_land ..
  · rw [hscratch]
    exact byte_foldl_write (fun a : LaneAcc => a.addr) (fun a => a.data) (accSize .store f) grp.scratch r.lanes x

/-- R170, R171: a load from the scratchpad of another group. -/
theorem remoteLoad_performed {s : State} {id : Nat} {r : Req} {g : Gang} {f : Long} {gk : Nat} {grp : Group} (h : MayEnd s id r g)
    (hi : r.instr = .lds f) (ht : r.tgt = .scratch gk) (hg : s.group? gk = some grp) :
    ∃ t h, exec (.remoteScratchComplete id) s = .next t ∧ t.gang? r.core r.slot = some h ∧ Cells.find? t.reqs id = none ∧ t.mem = s.mem ∧
      (∀ k, t.group? k = s.group? k) ∧ KeptByReply g h r ∧
      ∀ a, returnsTo g r a → LaneHolds h r (fmtWidth f.fmt) a (loadedAs (fmtN f) (Memory.read grp.scratch a.addr (accSize .load f))) := by
  have hk : r.kind = .load := by rw [Req.kind, hi]; rfl
  have hf : Instr.long r.instr = f := by rw [hi]; rfl
  obtain ⟨early, weak, hexec⟩ := remoteScratchComplete_eq h ht hg
  have hread (a : LaneAcc) : grp.access r.kind (Instr.long r.instr) weak a = (grp, Memory.read grp.scratch a.addr (accSize .load f)) := by
    rw [hk, hf]
    rfl
  have hleft : left (fun g a => g.access r.kind (Instr.long r.instr) weak a) grp r.lanes = grp :=
    left_of_reads (fun a => by rw [hread a]) r.lanes
  rw [hleft] at hexec
  have hend := (h.holds.congr (t := ({ s with early := early } : State).modGroup gk fun _ => grp) rfl).deliver (id := id)
    (collected (fun g a => g.access r.kind (Instr.long r.instr) weak a) grp r.lanes)
  obtain ⟨hmem, hgroup, hother⟩ := hend.groups hg
  refine ⟨_, _, hexec, hend.gang, hend.gone, hmem, fun k => ?_, keptByReply_putLoads .., fun a ha => ?_⟩
  · by_cases hkk : k = gk
    · rw [hkk, hgroup, hg]
    · exact hother k hkk
  · have hholds := laneHolds_of_reads (w := fmtWidth f.fmt) ha (by rw [hk, hf]; rfl) (fun a => Memory.read grp.scratch a.addr (accSize .load f))
      (collected_of_reads (step := fun (g : Group) a => g.access r.kind (Instr.long r.instr) weak a) _ hread r.lanes) r.path r.seq
    have htaken (v : Nat) : takenAs r.kind (Instr.long r.instr) v = loadedAs (fmtN f) v := by rw [takenAs, if_pos hk, hf]
    rwa [htaken] at hholds

/-- R226: a line of an operand goes to the instruction that it is for. -/
theorem State.takeLine_mxOps (s : State) (id : Nat) (r : Req) (bs : Option (List Byte)) :
    ((s.takeLine id r bs).core r.core).mxOps = (s.core r.core).mxOps.map fun m => if m.isFor r then m.take r bs false else m := by
  obtain ⟨resv, hcore⟩ := s.core_dropReq id r r.core
  simp only [State.takeLine, State.core_modCore, if_true, hcore]

/-- R226: the reply for an operand's line. -/
theorem l2DirectOperandReply_kept {s : State} {id line : Nat} {r : Req} {pa : Nat} {p : Arrival} (hid : id < wireBase) (hr : Cells.find? s.reqs id = some r)
    (hwait : s.mustWait r = false) (hsent : r.sent.isSome = true) (hmute : r.mute = false) (ht : r.tgt = .dev pa) (hclean : s.spoilt r.fn pa = false) :
    ∃ t, exec (.l2DirectOperandReply id line p) s = .next t ∧ Cells.find? t.reqs id = none ∧ t.mem = s.mem ∧
      (t.core r.core).mxOps = (s.core r.core).mxOps.map fun m =>
        if m.slot = r.slot ∧ m.gen = r.gen ∧ m.seq = r.seq then
          { m with lines := m.lines.filter (fun p => decide (p.1 ≠ r.line)), l2 := Memory.writeBytes m.l2 r.line (s.homeBytes (s.keyOf r.fn) pa 128) }
        else m := by
  obtain ⟨early, hdue⟩ := State.due_eq p (.l2DirectOperandReply id line p) _ hid hr hmute hsent (by rw [ht]; rfl) hwait
  have hnote (s : State) : OnlyWalked s ((s.fnReadNote r.fn pa).countRow pa) := (OnlyWalked.fnReadNote ..).trans (OnlyWalked.countRow ..)
  obtain ⟨tlb, parts, rows, hrows⟩ := hnote { s with early := early }
  refine ⟨(({ s with early := early } : State).fnReadNote r.fn pa |>.countRow pa).takeLine id r (some (s.homeBytes (s.keyOf r.fn) pa 128)),
    (congrArg Host.Outcome.next hdue).trans ?_, ?_, ?_, ?_⟩
  · have hclean' : ({ s with early := early } : State).spoilt r.fn pa = false := hclean
    simp only [ht, hclean', Bool.false_eq_true, if_false]
    rw [hrows]
    rfl
  · simp [State.takeLine, Cells.find?_del]
  · rw [hrows]
    exact (State.dropReq_onlyEnds _ id r).mem
  · rw [State.takeLine_mxOps, hrows]
    refine List.map_congr_left fun m _ => ?_
    simp only [MxOp.isFor, MxOp.take, Bool.and_eq_true, decide_eq_true_eq, and_assoc, Option.isNone_some, Bool.false_and, Bool.false_eq_true, if_false]

/-- Settles O41: a reply is taken for the request that its identity or tag names, and every way in which a request ends is one change of its gang. -/
theorem remoteRequestsAndFabricFailures : Obligations.RemoteRequestsAndFabricFailures := by
  refine ⟨⟨?_, ?_, ?_⟩, ?_, ?_, ?_, ?_, ?_, ?_, ?_, ?_⟩
  · intro s id r g f gk grp h hi ht hg
    obtain ⟨t, h, y, hexec, hgang, hregs, hgone, hmem, hy, honly, hother, hbyte⟩ := remoteStore_performed h hi ht hg
    refine ⟨t, h, y, hexec, hgang, hregs, hgone, hmem, hy, honly, hother, fun x => (hbyte x).trans ?_⟩
    cases (r.lanes.filter fun a => decide (a.addr ≤ x ∧ x < a.addr + accSize .store f)).getLast? <;> rfl
  · exact fun s id r g f gk grp h hi _ ht hg => remoteLoad_performed h hi ht hg
  · exact fun s id line r pa p hid hr hwait hsent hmute ht hclean => l2DirectOperandReply_kept hid hr hwait hsent hmute ht hclean
  · exact fun s n p id r g cause ia ha h hlevel hc hnew => refusal_parksLine ia ha h hlevel hc hnew
  · exact fun s n p id r g cause ia ha h hc hne => h.failed hne (h.peerRefusal_fails ia ha hc)
  · intro s id r g h htransit ⟨at0, hsent, hlate⟩
    exact h.failed (by decide) (fabricTimeout_fails h.1 htransit hsent hlate)
  · exact fun s n id r g h htransit hn => h.failed (by decide) (fabricUnreachable_fails h.1 htransit hn)
  · exact fun s n p id r ha hr => waitReply_restarts ha hr
  · exact fun s n p hn hf => ⟨unknownTag_stale hn hf p, s.stale_counts p.link⟩
  · exact fun s tag q hq => homeWaitTimer_sendsWait hq
  · exact fun s n f r modNo ia hf hr ht hm => movedReply_sendsAgain hf hr hm

end Sys2Proof.Machine
end

section
/-! PROOFS about memory at its home: what a write leaves of every byte, under every key (spec/08_memory_instructions.md, R161, R166, R381, R388). -/
namespace Sys2Proof.Machine

/-! ## What accesses at a home change -/

/-- Nothing but memory, what is kept of its frames, lines and rows, and the counters of partitions is changed; no frame changes its key. -/
structure HomeOnly (s t : State) : Prop where
  same : ∃ mem frames dirty past rows parts, t = { s with mem := mem, frames := frames, dirty := dirty, past := past, rows := rows, parts := parts }
  keyid : ∀ pa, (t.frame pa).keyid = (s.frame pa).keyid

/-- Besides, every byte reads as before under every key. -/
structure HomeSame (s t : State) : Prop extends HomeOnly s t where
  byte : ∀ k x, t.homeByte k x = s.homeByte k x

/-- The n bytes from an address on take new values under a key; every other byte reads as before. -/
structure HomeWrites (s t : State) (key : BitVec 12) (pa n : Nat) (b : Nat → Byte) : Prop extends HomeOnly s t where
  byte : ∀ k x, t.homeByte k x = if k = key ∧ pa ≤ x ∧ x < pa + n then b (x - pa) else s.homeByte k x

namespace HomeOnly

variable {s t u : State}

theorem refl (s : State) : HomeOnly s s := ⟨⟨_, _, _, _, _, _, rfl⟩, fun _ => rfl⟩

theorem trans (h : HomeOnly s t) (h' : HomeOnly t u) : HomeOnly s u := by
  obtain ⟨⟨_, _, _, _, _, _, rfl⟩, hkey⟩ := h
  obtain ⟨⟨_, _, _, _, _, _, rfl⟩, hkey'⟩ := h'
  exact ⟨⟨_, _, _, _, _, _, rfl⟩, fun pa => (hkey' pa).trans (hkey pa)⟩

section
variable (h : HomeOnly s t)
include h

theorem cores : t.cores = s.cores := by obtain ⟨⟨_, _, _, _, _, _, rfl⟩, _⟩ := h; rfl
theorem keyOf (fn : Nat) : t.keyOf fn = s.keyOf fn := by obtain ⟨⟨_, _, _, _, _, _, rfl⟩, _⟩ := h; rfl
theorem px (fn : Nat) : t.px fn = s.px fn := by obtain ⟨⟨_, _, _, _, _, _, rfl⟩, _⟩ := h; rfl
theorem keyOk (key : BitVec 12) (pa : Nat) : t.keyOk key pa = s.keyOk key pa := by simp only [State.keyOk, h.keyid]
theorem holds {r : Req} {g : Gang} (hg : Holds s r g) : Holds t r g := hg.congr h.cores

end

end HomeOnly

namespace HomeSame

variable {s t u : State}

theorem refl (s : State) : HomeSame s s := ⟨HomeOnly.refl s, fun _ _ => rfl⟩

theorem trans (h : HomeSame s t) (h' : HomeSame t u) : HomeSame s u :=
  ⟨h.toHomeOnly.trans h'.toHomeOnly, fun k x => (h'.byte k x).trans (h.byte k x)⟩

theorem modPart (s : State) (p : Nat) (f : Partition → Partition) : HomeSame s (s.modPart p f) := ⟨⟨⟨_, _, _, _, _, _, rfl⟩, fun _ => rfl⟩, fun _ _ => rfl⟩

theorem countRefusal (s : State) (p : Nat) : HomeSame s (s.countRefusal p) := modPart ..

theorem countRow (s : State) (pa : Nat) : HomeSame s (s.countRow pa) := ⟨⟨⟨_, _, _, _, _, _, rfl⟩, fun _ => rfl⟩, fun _ _ => rfl⟩

theorem cleanLine (s : State) (pa : Nat) : HomeSame s (s.cleanLine pa) := ⟨⟨⟨_, _, _, _, _, _, rfl⟩, fun _ => rfl⟩, fun _ _ => rfl⟩

theorem fnReadNote (s : State) (fn pa : Nat) : HomeSame s (s.fnReadNote fn pa) := by
  unfold State.fnReadNote
  split
  · exact refl s
  · exact countRefusal ..

theorem noteDirty (s : State) (pa : Nat) (al : Bool) : HomeSame s (s.noteDirty pa al) := by
  unfold State.noteDirty
  extract_lets line
  split
  · exact ⟨⟨⟨_, _, _, _, _, _, rfl⟩, fun _ => rfl⟩, fun _ _ => rfl⟩
  · exact refl s

theorem notePast (s : State) (pa n : Nat) : HomeSame s (s.notePast pa n) := by
  unfold State.notePast
  split
  · exact refl s
  · exact ⟨⟨⟨_, _, _, _, _, _, rfl⟩, fun _ => rfl⟩, fun _ _ => rfl⟩

end HomeSame

theorem HomeSame.then_writes {s t u : State} {key : BitVec 12} {pa n : Nat} {b : Nat → Byte} (h : HomeSame s t) (h' : HomeWrites t u key pa n b) :
    HomeWrites s u key pa n b := ⟨h.toHomeOnly.trans h'.toHomeOnly, fun k x => by rw [h'.byte, h.byte]⟩

theorem HomeWrites.then_same {s t u : State} {key : BitVec 12} {pa n : Nat} {b : Nat → Byte} (h : HomeWrites s t key pa n b) (h' : HomeSame t u) :
    HomeWrites s u key pa n b := ⟨h.toHomeOnly.trans h'.toHomeOnly, fun k x => by rw [h'.byte, h.byte]⟩

theorem State.kref_countRefusal (s : State) (p : Nat) : ((s.countRefusal p).part p).kref = satUp (s.part p).kref := by
  rw [State.countRefusal, State.part_modPart, if_pos rfl]

/-! ## Frames and their blocks (R381, R386) -/

theorem State.frame_putFrame (s : State) (pa : Nat) (f : Frame) (x : Nat) :
    ({ s with frames := Cells.put s.frames (pa / 65536) f } : State).frame x = if pa / 65536 = x / 65536 then f else s.frame x :=
  Cells.getD_put ..

theorem State.frame_congr (s : State) {pa x : Nat} (h : pa / 65536 = x / 65536) : s.frame pa = s.frame x := by rw [State.frame, State.frame, h]

theorem blockOf_lt (pa : Nat) : blockOf pa < 16 := Nat.mod_lt _ (by decide)

/-- R381: a block's valid bit. -/
theorem getLsbD_or_block (v : BitVec 16) (pa x : Nat) :
    (v ||| BitVec.ofNat 16 (2 ^ blockOf pa)).getLsbD (blockOf x) = (v.getLsbD (blockOf x) || decide (blockOf pa = blockOf x)) := by
  rw [BitVec.getLsbD_or, BitVec.getLsbD_ofNat, Nat.testBit_two_pow, decide_eq_true (blockOf_lt x), Bool.true_and]

@[simp] theorem State.noteDirty_frames (s : State) (pa : Nat) (al : Bool) : (s.noteDirty pa al).frames = s.frames := by
  unfold State.noteDirty
  extract_lets
  split <;> rfl

@[simp] theorem State.notePast_frames (s : State) (pa n : Nat) : (s.notePast pa n).frames = s.frames := by
  unfold State.notePast
  split <;> rfl

theorem HomeSame.markDirtyBlock (s : State) (pa : Nat) : HomeSame s (s.markDirtyBlock pa) := by
  have hframe (x : Nat) : ((s.markDirtyBlock pa).frame x).keyid = (s.frame x).keyid ∧ ((s.markDirtyBlock pa).frame x).vld = (s.frame x).vld := by
    rw [State.markDirtyBlock, State.frame_putFrame]
    split
    · next h => rw [s.frame_congr h]; exact ⟨rfl, rfl⟩
    · exact ⟨rfl, rfl⟩
  refine ⟨⟨⟨_, _, _, _, _, _, rfl⟩, fun x => (hframe x).1⟩, fun k x => ?_⟩
  simp only [State.homeByte, State.keyOk, State.blockValid, hframe]
  rfl

/-- R381: an invalid block is made valid with zeros in it. -/
theorem State.validate_of_invalid {s : State} {pa : Nat} (h : s.blockValid pa = false) (x : Nat) :
    ((s.validate pa).frame x).keyid = (s.frame x).keyid ∧
      (s.validate pa).blockValid x = (s.blockValid x || decide (pa / 4096 = x / 4096)) ∧
      Memory.byte (s.validate pa).mem x = if pa / 4096 = x / 4096 then 0 else Memory.byte s.mem x := by
  have hblock : pa / 4096 = x / 4096 ↔ pa / 65536 = x / 65536 ∧ blockOf pa = blockOf x := by
    unfold blockOf
    omega
  have hframe : (s.validate pa).frame x =
      if pa / 65536 = x / 65536 then { s.frame pa with vld := (s.frame pa).vld ||| BitVec.ofNat 16 (2 ^ blockOf pa) } else s.frame x := by
    rw [State.validate, if_neg (by simp [h])]
    exact Cells.getD_put ..
  have hmem : (s.validate pa).mem = Cells.clear s.mem (pa / 4096 * 4096) 4096 := by rw [State.validate, if_neg (by simp [h])]
  rw [State.blockValid, hframe, hmem, Memory.byte_clear]
  refine ⟨?_, ?_, if_congr (by omega) rfl rfl⟩
  · split
    · next hf => rw [s.frame_congr hf]
    · rfl
  · split
    · next hf => rw [getLsbD_or_block, s.frame_congr hf, State.blockValid, decide_eq_decide.mpr (hblock.trans (and_iff_right hf))]
    · next hf => rw [decide_eq_false (fun h => hf (hblock.mp h).1), Bool.or_false, State.blockValid]

/-- R381: a block is made valid with the bytes that it reads as. -/
theorem HomeSame.validate (s : State) (pa : Nat) : HomeSame s (s.validate pa) := by
  cases h : s.blockValid pa with
  | true =>
    rw [State.validate, if_pos h]
    exact HomeSame.refl s
  | false =>
    have hx := State.validate_of_invalid h
    refine ⟨⟨?_, fun x => (hx x).1⟩, fun k x => ?_⟩
    · rw [State.validate, if_neg (by simp [h])]
      exact ⟨_, _, _, _, _, _, rfl⟩
    · obtain ⟨hkey, hvalid, hbyte⟩ := hx x
      simp only [State.homeByte, State.keyOk, hkey, hvalid, hbyte]
      by_cases hb : pa / 4096 = x / 4096
      · have hinv : s.blockValid x = false := by
          rw [← h, State.blockValid, State.blockValid, s.frame_congr (show pa / 65536 = x / 65536 by omega), blockOf, blockOf, hb]
        simp [hb, hinv]
      · simp [hb]

/-- A block that has been made valid is valid. -/
theorem State.blockValid_validate (s : State) {pa x : Nat} (hx : pa / 4096 = x / 4096) : (s.validate pa).blockValid x = true := by
  cases h : s.blockValid pa with
  | true =>
    rw [State.validate, if_pos h, ← h, State.blockValid, State.blockValid, s.frame_congr (show pa / 65536 = x / 65536 by omega), blockOf, blockOf, hx]
  | false =>
    obtain ⟨_, hvalid, _⟩ := State.validate_of_invalid h x
    simp [hvalid, hx]

/-! ## Writes (R161, R381, R388) -/

theorem Memory.byte_writeBytes (m : Memory) (pa : Nat) (bs : List Byte) (x : Nat) :
    Memory.byte (Memory.writeBytes m pa bs) x = if pa ≤ x ∧ x < pa + bs.length then bs.getD (x - pa) 0 else Memory.byte m x := by
  induction bs generalizing m pa with
  | nil => exact (if_neg (by simp)).symm
  | cons b bs ih =>
    rw [Memory.writeBytes, ih, Memory.byte_setByte, List.length_cons]
    rcases Nat.lt_trichotomy pa x with hlt | rfl | hgt
    · obtain ⟨d, rfl⟩ : ∃ d, x = pa + 1 + d := ⟨x - (pa + 1), by omega⟩
      rw [show pa + 1 + d - pa = d + 1 by omega, show pa + 1 + d - (pa + 1) = d by omega, List.getD_cons_succ, if_neg (show pa ≠ pa + 1 + d by omega)]
      exact if_congr (by omega) rfl rfl
    · simp
    · rw [if_neg (by omega), if_neg (by omega), if_neg (by omega)]

/-- R381: a write under the frame's key. -/
theorem State.homeWrite_writes {s : State} {key : BitVec 12} {pa : Nat} {bs : List Byte} (al : Bool) (hkey : s.keyOk key pa = true)
    (hline : pa % 128 + bs.length ≤ 128) : HomeWrites s (s.homeWrite key pa bs al) key pa bs.length fun j => bs.getD j 0 := by
  generalize hs : ((s.validate pa).noteDirty pa al).notePast pa bs.length = u
  have hsame : HomeSame s u := hs ▸ ((HomeSame.validate s pa).trans (HomeSame.noteDirty ..)).trans (HomeSame.notePast ..)
  have hvalid (x : Nat) (hx : pa / 4096 = x / 4096) : u.blockValid x = true := by
    rw [← State.blockValid_validate s hx, ← hs]
    simp only [State.blockValid, State.frame, State.notePast_frames, State.noteDirty_frames]
  have hwrite : HomeWrites u { u with mem := Memory.writeBytes u.mem pa bs } key pa bs.length fun j => bs.getD j 0 := by
    refine ⟨⟨⟨_, _, _, _, _, _, rfl⟩, fun _ => rfl⟩, fun k x => ?_⟩
    have hbyte : ({ u with mem := Memory.writeBytes u.mem pa bs } : State).homeByte k x =
        if u.keyOk k x && u.blockValid x then Memory.byte (Memory.writeBytes u.mem pa bs) x else 0 := rfl
    rw [hbyte, Memory.byte_writeBytes, State.homeByte]
    by_cases hin : pa ≤ x ∧ x < pa + bs.length
    · rw [if_pos hin, hvalid x (by omega), Bool.and_true]
      have hkeyx : s.keyOk key x = true := by rwa [State.keyOk, ← s.frame_congr (show pa / 65536 = x / 65536 by omega)]
      by_cases hk : k = key
      · rw [hk, hsame.keyOk, if_pos hkeyx, if_pos ⟨rfl, hin⟩]
      · have hother : s.keyOk k x = false := by
          rw [State.keyOk, beq_iff_eq.mp hkeyx]
          exact beq_false_of_ne (Ne.symm hk)
        simp [hsame.keyOk, hother, hk]
    · simp [hin]
  rw [State.homeWrite, if_pos hkey, hs]
  exact hsame.then_writes hwrite

/-- A write changes nothing but memory and what is kept of it, wherever it lies. -/
theorem State.homeWrite_only (s : State) (key : BitVec 12) (pa : Nat) (bs : List Byte) (al : Bool) : HomeOnly s (s.homeWrite key pa bs al) := by
  unfold State.homeWrite
  split
  · generalize hu : ((s.validate pa).noteDirty pa al).notePast pa bs.length = u
    have hsame : HomeSame s u := hu ▸ ((HomeSame.validate s pa).trans (HomeSame.noteDirty ..)).trans (HomeSame.notePast ..)
    exact hsame.toHomeOnly.trans ⟨⟨_, _, _, _, _, _, rfl⟩, fun _ => rfl⟩
  · exact HomeOnly.refl s

/-- R388: keeping track of a write changes no byte, while no proof context is enabled. -/
theorem HomeSame.trackWrite {s : State} {fn : Nat} (h : Untracked s fn) (pa : Nat) (pxmt : Bool) : HomeSame s (s.trackWrite fn pa pxmt) := by
  have hmark (t : State) (ht : t = if s.tracking fn then s.markDirtyBlock pa else s) : HomeSame s t := by
    subst ht
    split
    · exact HomeSame.markDirtyBlock ..
    · exact HomeSame.refl s
  unfold State.trackWrite
  extract_lets block s1 p g
  have hpx : p.en = false := (congrArg Px.en ((hmark s1 rfl).px fn)).trans h
  split
  · exact HomeSame.refl s
  · rw [if_pos (show (!p.en || pxmt) = true by simp [hpx])]
    exact hmark s1 rfl

theorem State.fnWrite_only {s : State} {fn : Nat} (h : Untracked s fn) (pa : Nat) (pxmt : Bool) (bs : List Byte) (al : Bool) :
    HomeOnly s (s.fnWrite fn pa pxmt bs al) := by
  unfold State.fnWrite
  split
  · exact (HomeSame.trackWrite h pa pxmt).toHomeOnly.trans (State.homeWrite_only ..)
  · exact (HomeSame.countRefusal ..).toHomeOnly

/-- R381, R388: a write of a function under its own key. -/
theorem State.fnWrite_writes {s : State} {fn pa : Nat} (hu : Untracked s fn) (hkey : s.keyOk (s.keyOf fn) pa = true) (pxmt : Bool) {bs : List Byte}
    (al : Bool) (hline : pa % 128 + bs.length ≤ 128) :
    HomeWrites s (s.fnWrite fn pa pxmt bs al) (s.keyOf fn) pa bs.length fun j => bs.getD j 0 := by
  have htrack := HomeSame.trackWrite hu pa pxmt
  rw [State.fnWrite, if_pos hkey]
  exact htrack.then_writes (State.homeWrite_writes al ((htrack.keyOk _ _).trans hkey) hline)

/-! ## Numbers in memory (R4) -/

theorem length_toBytes (n v : Nat) : (toBytes n v).length = n := by
  induction n generalizing v with
  | zero => rfl
  | succ n ih => rw [toBytes, List.length_cons, ih]

theorem getD_toBytes {n j : Nat} (h : j < n) (v : Nat) : (toBytes n v).getD j 0 = BitVec.ofNat 8 (v / 256 ^ j) := by
  induction n generalizing j v with
  | zero => omega
  | succ n ih =>
    cases j with
    | zero => simp [toBytes]
    | succ j => rw [toBytes, List.getD_cons_succ, ih (by omega), Nat.div_div_eq_div_mul, Nat.pow_succ']

theorem State.homeRead_congr {s t : State} {key : BitVec 12} {pa n : Nat} (h : ∀ x, pa ≤ x → x < pa + n → t.homeByte key x = s.homeByte key x) :
    t.homeRead key pa n = s.homeRead key pa n := by
  induction n generalizing pa with
  | zero => rfl
  | succ n ih => rw [State.homeRead, State.homeRead, h pa (by omega) (by omega), ih fun x _ _ => h x (by omega) (by omega)]

/-- R4: bytes that hold a number's digits read as the number. -/
theorem State.homeRead_of_digits {s : State} {key : BitVec 12} {pa n v : Nat} (h : ∀ j < n, s.homeByte key (pa + j) = BitVec.ofNat 8 (v / 256 ^ j)) :
    s.homeRead key pa n = v % 256 ^ n := by
  induction n generalizing pa v with
  | zero => simp [State.homeRead, Nat.mod_one]
  | succ n ih =>
    have hnext : s.homeRead key (pa + 1) n = v / 256 % 256 ^ n := ih fun j hj => by
      rw [show pa + 1 + j = pa + (j + 1) by omega, h (j + 1) (by omega), Nat.div_div_eq_div_mul, Nat.pow_succ']
    have hbyte := h 0 (by omega)
    rw [Nat.add_zero, Nat.pow_zero, Nat.div_one] at hbyte
    rw [State.homeRead, hnext, hbyte, BitVec.toNat_ofNat, (Nat.pow_succ' : 256 ^ (n + 1) = _), Nat.mod_mul]

theorem State.homeRead_lt (s : State) (key : BitVec 12) (pa n : Nat) : s.homeRead key pa n < 256 ^ n := by
  induction n generalizing pa with
  | zero => exact Nat.one_pos
  | succ n ih =>
    have hbyte := (s.homeByte key pa).isLt
    have hrest := ih (pa + 1)
    rw [State.homeRead, Nat.pow_succ]
    omega

/-- R4, R161: a number of n bytes stored where it lies in one line. -/
theorem HomeWrites.homeRead_toBytes {s t : State} {key : BitVec 12} {pa n v : Nat} (h : HomeWrites s t key pa n fun j => (toBytes n v).getD j 0) :
    t.homeRead key pa n = v % 256 ^ n :=
  State.homeRead_of_digits fun j hj => by rw [h.byte, if_pos ⟨rfl, by omega, by omega⟩, Nat.add_sub_cancel_left, getD_toBytes hj]

end Sys2Proof.Machine
end

section
/-! PROOFS about the lanes of a request at the home of their line (spec/08_memory_instructions.md, R161, R165, R166, R172 to R176, R381). -/
namespace Sys2Proof.Machine

/-! ## The values of atomic operations (R172 to R174) -/

/-- R172: the integer formats of atomics fill their bytes. -/
theorem fmtOf_of_le_three {fmt : BitVec 4} (h : fmt.toNat ≤ 3) : ∃ g, fmtOf fmt = .int g ∧ g.w = 8 * fmtBytes fmt.toNat := by
  have hcases : fmt = 0 ∨ fmt = 1 ∨ fmt = 2 ∨ fmt = 3 := by revert fmt; decide
  rcases hcases with rfl | rfl | rfl | rfl
  · exact ⟨_, rfl, rfl⟩
  · exact ⟨_, rfl, rfl⟩
  · exact ⟨_, rfl, rfl⟩
  · exact ⟨_, rfl, rfl⟩

/-- R172: so do the elements of its floating-point formats. -/
theorem fmtOf_of_mem_fp {fmt : BitVec 4} (h : fmt = 8 ∨ fmt = 9 ∨ fmt = 11) :
    ∃ g, fmtOf fmt = .fp g ∧ g.w * (if g.w = 16 then 2 else 1) = 8 * fmtBytes fmt.toNat := by
  rcases h with rfl | rfl | rfl
  · exact ⟨_, rfl, rfl⟩
  · exact ⟨_, rfl, rfl⟩
  · exact ⟨_, rfl, rfl⟩

/-- R172: an operation that is not `.wadd` takes an integer format, or for its first three a floating-point one. -/
theorem atomFmtOk_cases {op : Nat} {fmt : BitVec 4} (h : atomFmtOk op fmt.toNat = true) (h8 : op ≠ 8) :
    fmt.toNat ≤ 3 ∨ (op ≤ 2 ∧ (fmt = 8 ∨ fmt = 9 ∨ fmt = 11)) := by
  unfold atomFmtOk at h
  split at h
  · simp [← BitVec.toNat_inj] at h ⊢
    tauto
  · simp [← BitVec.toNat_inj] at h ⊢
    tauto
  · simp [← BitVec.toNat_inj] at h ⊢
    tauto
  · exact absurd rfl h8
  · exact .inl (by simpa using ((Bool.and_eq_true ..).mp h).2)

/-- R172: the new value of a word fits the bytes that it is stored in. -/
theorem atomicValue_lt {f : Long} (h : atomFmtOk (subN f) (fmtN f) = true) (anchor : Nat) {old : Nat} (hold : old < 256 ^ accSize .atomic f) (data expected : Nat) :
    atomicValue (subN f) f.fmt anchor old data expected < 256 ^ accSize .atomic f := by
  by_cases h8 : subN f = 8
  · rw [atomicValue, if_pos h8, accSize, if_pos h8]
    exact BitVec.isLt _
  · have hpow : (256 : Nat) ^ fmtBytes (fmtN f) = 2 ^ (8 * fmtBytes (fmtN f)) := by rw [Nat.pow_mul]
    rw [accSize, if_neg h8, hpow] at hold ⊢
    rw [atomicValue, if_neg h8]
    rcases atomFmtOk_cases h h8 with hint | ⟨_, hfp⟩
    · obtain ⟨g, hg, hw⟩ := fmtOf_of_le_three hint
      have hmod (x : Nat) : x % 2 ^ g.w < 2 ^ g.w := Nat.mod_lt _ (Nat.two_pow_pos _)
      rw [show 8 * fmtBytes (fmtN f) = g.w from hw.symm] at hold ⊢
      have hite (p : Prop) [Decidable p] : (if p then data % 2 ^ g.w else old) < 2 ^ g.w := by
        split
        · exact hmod data
        · exact hold
      simp only [hg]
      split
      · exact wrap_lt ..
      · exact hite _
      · exact hite _
      · exact Nat.and_lt_two_pow _ (hmod data)
      · exact Nat.or_lt_two_pow hold (hmod data)
      · exact Nat.xor_lt_two_pow hold (hmod data)
      · exact hmod data
      · exact hite _
    · obtain ⟨g, hg, hw⟩ := fmtOf_of_mem_fp hfp
      simp only [hg]
      refine lt_of_lt_of_eq (packElems_lt ..) ?_
      rw [List.length_map, List.length_range, hw, fmtN]

/-- R173: a compare and swap that fails leaves the word. -/
theorem atomicValue_of_mismatch {f : Long} (h : atomFmtOk (subN f) (fmtN f) = true) (h7 : subN f = 7) (anchor : Nat) {old : Nat} (data : Nat) {expected : Nat}
    (hne : old ≠ expected % 2 ^ (8 * accSize .atomic f)) : atomicValue (subN f) f.fmt anchor old data expected = old := by
  have hint : f.fmt.toNat ≤ 3 := (atomFmtOk_cases h (by omega)).resolve_right (by omega)
  obtain ⟨g, hg, hw⟩ := fmtOf_of_le_three hint
  rw [accSize, if_neg (by omega), show fmtN f = f.fmt.toNat from rfl, ← hw] at hne
  simp only [atomicValue, h7, hg]
  exact if_neg hne

/-! ## Words of a line -/

/-- A number of n bytes at an address is replaced; every other byte reads as before under every key. -/
structure HomeSets (s t : State) (key : BitVec 12) (pa n v : Nat) : Prop extends HomeOnly s t where
  read : t.homeRead key pa n = v
  byte : ∀ k x, (k ≠ key ∨ x < pa ∨ pa + n ≤ x) → t.homeByte k x = s.homeByte k x

theorem HomeWrites.sets {s t : State} {key : BitVec 12} {pa n v : Nat} (h : HomeWrites s t key pa n fun j => (toBytes n v).getD j 0) (hv : v < 256 ^ n) :
    HomeSets s t key pa n v :=
  ⟨h.toHomeOnly, h.homeRead_toBytes.trans (Nat.mod_eq_of_lt hv), fun k x hx => by
    rw [h.byte, if_neg]
    rintro ⟨rfl, _, _⟩
    have := hx.resolve_left (not_not.mpr rfl)
    omega⟩

theorem HomeSame.sets {s t : State} (h : HomeSame s t) (key : BitVec 12) (pa n : Nat) : HomeSets s t key pa n (s.homeRead key pa n) :=
  ⟨h.toHomeOnly, State.homeRead_congr fun x _ _ => h.byte key x, fun k x _ => h.byte k x⟩

theorem HomeSame.then_sets {s t u : State} {key : BitVec 12} {pa n v : Nat} (h : HomeSame s t) (h' : HomeSets t u key pa n v) : HomeSets s u key pa n v :=
  ⟨h.toHomeOnly.trans h'.toHomeOnly, h'.read, fun k x hx => (h'.byte k x hx).trans (h.byte k x)⟩

theorem HomeSets.homeRead_of_disjoint {s t : State} {key : BitVec 12} {pa n v qa m : Nat} (h : HomeSets s t key pa n v) (hd : qa + m ≤ pa ∨ pa + n ≤ qa) :
    t.homeRead key qa m = s.homeRead key qa m :=
  State.homeRead_congr fun x _ _ => h.byte key x (by omega)

/-- R381: a number of a function's, stored in one line under the function's key. -/
theorem State.fnWrite_sets {s : State} {fn pa : Nat} (hu : Untracked s fn) (hkey : s.keyOk (s.keyOf fn) pa = true) (pxmt : Bool) {n v : Nat}
    (al : Bool) (hline : pa % 128 + n ≤ 128) (hv : v < 256 ^ n) : HomeSets s (s.fnWrite fn pa pxmt (toBytes n v) al) (s.keyOf fn) pa n v := by
  have h := State.fnWrite_writes hu hkey pxmt (bs := toBytes n v) al (by rwa [length_toBytes])
  rw [length_toBytes] at h
  exact h.sets hv

/-- Words that lie at different multiples of their size share no byte. -/
theorem aligned_disjoint {n x y : Nat} (hx : n ∣ x) (hy : n ∣ y) (hne : x ≠ y) : x + n ≤ y ∨ y + n ≤ x := by
  rcases Nat.lt_or_gt_of_ne hne with h | h
  · exact .inl (by have := Nat.le_of_dvd (by omega) (Nat.dvd_sub hy hx); omega)
  · exact .inr (by have := Nat.le_of_dvd (by omega) (Nat.dvd_sub hx hy); omega)

/-- R299: the frame of a line holds all of it. -/
theorem State.keyOk_inLine (s : State) (key : BitVec 12) {pa : Nat} (h : pa % 128 = 0) (a : LaneAcc) : s.keyOk key (pa + a.addr % 128) = s.keyOk key pa := by
  rw [State.keyOk, State.keyOk, s.frame_congr (show (pa + a.addr % 128) / 65536 = pa / 65536 by omega)]

/-- What is kept of early accesses holds no byte. -/
theorem State.homeRead_withEarly (s : State) (early : List Early) (key : BitVec 12) (pa n : Nat) :
    ({ s with early := early } : State).homeRead key pa n = s.homeRead key pa n := State.homeRead_congr fun _ _ _ => rfl

/-! ## One lane at its home (R161, R166) -/

/-- What a request's lane does at the home of the request's line. -/
def homeStep (r : Req) (pa : Nat) (s : State) (a : LaneAcc) : State × Option Nat :=
  s.homeLane r.fn r.kind (Instr.long r.instr) r.pxmt r.policy r.walker (homeOf pa a) a

/-- R381: the lanes of a request under the frame's key. -/
theorem State.atHome_of_keyOk {s : State} {r : Req} {pa : Nat} (h : s.keyOk (s.keyOf r.fn) pa = true) :
    s.atHome r pa = (left (homeStep r pa) (s.countRow pa) r.lanes, collected (homeStep r pa) (s.countRow pa) r.lanes) := by
  have hgather := foldl_gather (homeStep r pa) r.lanes (s.countRow pa) []
  rw [List.nil_append] at hgather
  rw [← hgather]
  exact if_pos h

/-- R381: under another key every lane gets zero, and the refusal is counted. -/
theorem State.atHome_of_refused {s : State} {r : Req} {pa : Nat} (h : s.keyOk (s.keyOf r.fn) pa = false) :
    s.atHome r pa = ((s.countRow pa).countRefusal (s.partOf r.fn), r.lanes.map fun a => (some 0, a)) :=
  if_neg (show ¬s.keyOk (s.keyOf r.fn) pa = true by simp [h])

/-- R165, R168: a lane that reads. -/
theorem homeStep_read {r : Req} (h : r.kind = .load ∨ r.kind = .ldbr) (pa : Nat) (s : State) (a : LaneAcc) :
    homeStep r pa s a = (s, some (s.homeRead (s.keyOf r.fn) (homeOf pa a) (accSize r.kind (Instr.long r.instr)))) := by
  unfold homeStep State.homeLane
  rcases h with h | h <;> rw [h]

/-- R166: a lane that stores. -/
theorem homeStep_store {s : State} {r : Req} {pa : Nat} {a : LaneAcc} (hk : r.kind = .store ∨ r.kind = .cstr) (hu : Untracked s r.fn)
    (hkey : s.keyOk (s.keyOf r.fn) (homeOf pa a) = true) (hline : homeOf pa a % 128 + accSize r.kind (Instr.long r.instr) ≤ 128) :
    HomeWrites s (homeStep r pa s a).1 (s.keyOf r.fn) (homeOf pa a) (accSize r.kind (Instr.long r.instr)) fun j =>
      (toBytes (accSize r.kind (Instr.long r.instr)) a.data).getD j 0 := by
  have hstep : (homeStep r pa s a).1 = s.fnWrite r.fn (homeOf pa a) r.pxmt (toBytes (accSize r.kind (Instr.long r.instr)) a.data)
      (s.allocates r.fn r.policy.1 1 r.policy.2) := by
    unfold homeStep State.homeLane
    rcases hk with h | h <;> rw [h]
  have hwrite := State.fnWrite_writes hu hkey r.pxmt (bs := toBytes (accSize r.kind (Instr.long r.instr)) a.data)
    (s.allocates r.fn r.policy.1 1 r.policy.2) (by rwa [length_toBytes])
  rw [length_toBytes] at hwrite
  rwa [hstep]

/-- R172 to R176: a lane of an atomic or a reduction. -/
theorem homeStep_atomic {s : State} {r : Req} {f : Long} {pa : Nat} {a : LaneAcc} (hk : r.kind = .atomic ∨ r.kind = .reduction)
    (hf : Instr.long r.instr = f) (hfmt : atomFmtOk (subN f) (fmtN f) = true) (hu : Untracked s r.fn) (hkey : s.keyOk (s.keyOf r.fn) (homeOf pa a) = true)
    (hline : homeOf pa a % 128 + accSize .atomic f ≤ 128) :
    (homeStep r pa s a).2 = some (s.homeRead (s.keyOf r.fn) (homeOf pa a) (accSize .atomic f)) ∧
      HomeSets s (homeStep r pa s a).1 (s.keyOf r.fn) (homeOf pa a) (accSize .atomic f)
        (atomicValue (subN f) f.fmt (immF f 15 0) (s.homeRead (s.keyOf r.fn) (homeOf pa a) (accSize .atomic f)) a.data a.data2) := by
  generalize hold : s.homeRead (s.keyOf r.fn) (homeOf pa a) (accSize .atomic f) = old
  have hstep : homeStep r pa s a =
      if subN f = 7 ∧ old ≠ a.data2 % 2 ^ (8 * accSize .atomic f) then (s.trackWrite r.fn (homeOf pa a) r.pxmt, some old)
      else (s.fnWrite r.fn (homeOf pa a) r.pxmt (toBytes (accSize .atomic f) (atomicValue (subN f) f.fmt (atomAnchor f) old a.data a.data2))
        (s.allocates r.fn r.policy.1 2 r.policy.2), some old) := by
    unfold homeStep State.homeLane
    rw [hf, ← hold]
    rcases hk with h | h
    · rw [h]
    · rw [h]
      rfl
  rw [hstep]
  split
  · next h =>
    rw [atomicValue_of_mismatch hfmt h.1 _ _ h.2, ← hold]
    exact ⟨rfl, (HomeSame.trackWrite hu ..).sets ..⟩
  · exact ⟨rfl, State.fnWrite_sets hu hkey _ _ hline (atomicValue_lt hfmt _ (hold ▸ State.homeRead_lt ..) _ _)⟩

/-! ## The lanes of a line, one after another (R161) -/

/-- R299: the lanes of a request lie in its line, whose frame has the function's key. -/
structure HomeLanes (s : State) (r : Req) (pa n : Nat) (l : List LaneAcc) : Prop where
  untracked : Untracked s r.fn
  key : s.keyOk (s.keyOf r.fn) pa = true
  line : pa % 128 = 0
  lanes : ∀ a ∈ l, a.addr % n = 0 ∧ a.addr % 128 + n ≤ 128

namespace HomeLanes

variable {s : State} {r : Req} {pa n : Nat} {l : List LaneAcc}

theorem congr {t : State} (h : HomeLanes s r pa n l) (ht : HomeOnly s t) : HomeLanes t r pa n l where
  untracked := by rw [Untracked, ht.px]; exact h.untracked
  key := by rw [ht.keyOf, ht.keyOk]; exact h.key
  line := h.line
  lanes := h.lanes

theorem mono {l' : List LaneAcc} (h : HomeLanes s r pa n l) (hl : ∀ a ∈ l', a ∈ l) : HomeLanes s r pa n l' :=
  { h with lanes := fun a ha => h.lanes a (hl a ha) }

theorem keyOk_home (h : HomeLanes s r pa n l) (a : LaneAcc) : s.keyOk (s.keyOf r.fn) (homeOf pa a) = true :=
  (s.keyOk_inLine _ h.line a).trans h.key

theorem home_inLine (h : HomeLanes s r pa n l) {a : LaneAcc} (ha : a ∈ l) : homeOf pa a % 128 + n ≤ 128 := by
  have hline := h.line
  have := (h.lanes a ha).2
  rw [homeOf]
  omega

end HomeLanes

theorem left_append_singleton {σ α β : Type} (step : σ → α → σ × β) (s : σ) (l : List α) (a : α) :
    left step s (l ++ [a]) = (step (left step s l) a).1 := by
  rw [left, List.foldl_append]
  rfl

/-- R161: of several stores to one byte the highest lane's counts. -/
theorem left_homeStep_store {s : State} {r : Req} {pa n : Nat} {l : List LaneAcc} (hk : r.kind = .store ∨ r.kind = .cstr)
    (hn : accSize r.kind (Instr.long r.instr) = n) (h : HomeLanes s r pa n l) :
    HomeOnly s (left (homeStep r pa) s l) ∧ ∀ k x, (left (homeStep r pa) s l).homeByte k x =
      if k = s.keyOf r.fn then
        (l.filter fun a => decide (homeOf pa a ≤ x ∧ x < homeOf pa a + n)).getLast?.elim (s.homeByte k x) fun a =>
          BitVec.ofNat 8 (a.data / 256 ^ (x - homeOf pa a))
      else s.homeByte k x := by
  induction l using List.reverseRecOn with
  | nil => exact ⟨HomeOnly.refl s, fun k x => (ite_self _).symm⟩
  | append_singleton l a ih =>
    obtain ⟨honly, hbyte⟩ := ih (h.mono fun b hb => List.mem_append_left _ hb)
    have ha := h.congr honly
    obtain ⟨hstep, hwrite⟩ := homeStep_store hk ha.untracked (ha.keyOk_home a) (by rw [hn]; exact h.home_inLine (by simp))
    rw [hn] at hwrite
    rw [left_append_singleton]
    refine ⟨honly.trans hstep, fun k x => ?_⟩
    rw [hwrite, hbyte, honly.keyOf, List.filter_append]
    by_cases hkey : k = s.keyOf r.fn
    · by_cases hin : homeOf pa a ≤ x ∧ x < homeOf pa a + n
      · rw [if_pos ⟨hkey, hin⟩, if_pos hkey, List.filter_cons_of_pos (by simpa using hin), getD_toBytes (by omega)]
        simp
      · rw [if_neg fun h => hin h.2, if_pos hkey, List.filter_cons_of_neg (by simpa using hin)]
        simp [hkey]
    · rw [if_neg fun h => hkey h.1, if_neg hkey]
      simp [hkey]

theorem accSize_atomic_dvd (f : Long) : accSize .atomic f ∣ 128 := by
  rw [show accSize .atomic f = if subN f = 8 then 16 else fmtBytes (fmtN f) from rfl, fmtBytes]
  split_ifs <;> decide

theorem wordAfter_append_singleton (f : Long) (old : Nat) (l : List LaneAcc) (a : LaneAcc) :
    wordAfter f old (l ++ [a]) = atomicValue (subN f) f.fmt (immF f 15 0) (wordAfter f old l) a.data a.data2 := by
  rw [wordAfter, List.foldl_append]
  rfl

/-- R161, R172: atomics apply lane by lane: after some of them each word is what their operations at its address make of it. -/
theorem left_homeStep_atomic {s : State} {r : Req} {f : Long} {pa : Nat} {l : List LaneAcc} (hk : r.kind = .atomic ∨ r.kind = .reduction)
    (hf : Instr.long r.instr = f) (hfmt : atomFmtOk (subN f) (fmtN f) = true) (h : HomeLanes s r pa (accSize .atomic f) l) :
    HomeOnly s (left (homeStep r pa) s l) ∧
      (∀ b : LaneAcc, b.addr % accSize .atomic f = 0 → (left (homeStep r pa) s l).homeRead (s.keyOf r.fn) (homeOf pa b) (accSize .atomic f) =
        wordAfter f (s.homeRead (s.keyOf r.fn) (homeOf pa b) (accSize .atomic f)) (l.filter fun a => decide (a.addr % 128 = b.addr % 128))) ∧
      ∀ k x, (∀ a ∈ l, x < homeOf pa a ∨ homeOf pa a + accSize .atomic f ≤ x) → (left (homeStep r pa) s l).homeByte k x = s.homeByte k x := by
  induction l using List.reverseRecOn with
  | nil => exact ⟨HomeOnly.refl s, fun _ _ => rfl, fun _ _ _ => rfl⟩
  | append_singleton l a ih =>
    obtain ⟨honly, hword, hbyte⟩ := ih (h.mono fun b hb => List.mem_append_left _ hb)
    have ha := h.congr honly
    have hmem : a ∈ l ++ [a] := by simp
    obtain ⟨_, hset⟩ := homeStep_atomic hk hf hfmt ha.untracked (ha.keyOk_home a) (h.home_inLine hmem)
    rw [honly.keyOf] at hset
    rw [left_append_singleton]
    refine ⟨honly.trans hset.toHomeOnly, fun b hb => ?_, fun k x hx => ?_⟩
    · rw [List.filter_append]
      by_cases heq : a.addr % 128 = b.addr % 128
      · rw [List.filter_cons_of_pos (by simpa using heq), List.filter_nil, wordAfter_append_singleton, ← hword b hb,
          show homeOf pa b = homeOf pa a by rw [homeOf, homeOf, heq]]
        exact hset.read
      · rw [List.filter_cons_of_neg (by simpa using heq), List.filter_nil, List.append_nil, ← hword b hb]
        have hdvd (c : LaneAcc) (hc : c.addr % accSize .atomic f = 0) : accSize .atomic f ∣ c.addr % 128 :=
          (Nat.dvd_mod_iff (accSize_atomic_dvd f)).mpr (Nat.dvd_of_mod_eq_zero hc)
        have hdis := aligned_disjoint (hdvd a (h.lanes a hmem).1) (hdvd b hb) heq
        exact hset.homeRead_of_disjoint (by rw [homeOf, homeOf]; omega)
    · rw [hset.byte k x (.inr (hx a hmem)), hbyte k x fun c hc => hx c (List.mem_append_left _ hc)]

end Sys2Proof.Machine
end

section
/-! PROOFS about loads, stores, atomics and LDBR at their home (spec/08_memory_instructions.md, R161, R165, R166, R168, R176, R381). -/
namespace Sys2Proof.Machine

variable {s : State} {id : Nat} {r : Req} {g : Gang} {f : Long} {pa : Nat}

/-! ## Loads (R165) -/

theorem loadedAs_zero (fmt : Nat) : loadedAs fmt 0 = 0 := by simp [loadedAs, sext]

/-- R165, R168: what a read of a line returns. -/
theorem State.readLine_eq (ht : r.tgt = .dev pa) (hclean : s.spoilt r.fn pa = false) (data : List Byte) :
    s.readLine r data = some ((s.atHome r pa).1, (s.atHome r pa).2.map fun v => (v.1.getD 0, v.2)) := by
  simp only [State.readLine, ht, hclean, Bool.false_eq_true, if_false]

/-- R165, R381: what the lanes of a read get, and the state they leave. -/
theorem State.atHome_read (hk : r.kind = .load ∨ r.kind = .ldbr) (s : State) (pa : Nat) :
    HomeOnly s (s.atHome r pa).1 ∧ (s.atHome r pa).1.mem = s.mem ∧
      (s.keyOk (s.keyOf r.fn) pa = true → (s.atHome r pa).2.map (fun v => (v.1.getD 0, v.2)) =
        r.lanes.map fun a => (s.homeRead (s.keyOf r.fn) (homeOf pa a) (accSize r.kind (Instr.long r.instr)), a)) ∧
      (s.keyOk (s.keyOf r.fn) pa = false → (s.atHome r pa).2.map (fun v => (v.1.getD 0, v.2)) = (r.lanes.map fun a => (0, a)) ∧
        ((s.atHome r pa).1.part (s.partOf r.fn)).kref = satUp (s.part (s.partOf r.fn)).kref) := by
  cases hkey : s.keyOk (s.keyOf r.fn) pa with
  | true =>
    have hread := homeStep_read hk pa (s.countRow pa)
    rw [State.atHome_of_keyOk hkey, left_of_reads fun a => by rw [hread], collected_of_reads _ hread]
    refine ⟨(HomeSame.countRow s pa).toHomeOnly, rfl, fun _ => ?_, fun h => (Bool.false_ne_true h.symm).elim⟩
    rw [List.map_map]
    exact List.map_congr_left fun a _ => by
      simp only [Function.comp_apply, Option.getD_some, State.homeRead_congr fun x _ _ => (HomeSame.countRow s pa).byte _ x]
      rfl
  | false =>
    rw [State.atHome_of_refused hkey]
    refine ⟨((HomeSame.countRow s pa).trans (HomeSame.countRefusal ..)).toHomeOnly, rfl, fun h => (Bool.false_ne_true h).elim, fun _ => ⟨?_, ?_⟩⟩
    · rw [List.map_map]
      rfl
    · exact State.kref_countRefusal ..

theorem loadDataReturn_eq (h : MayEnd s id r g) (ht : r.tgt = .dev pa) (hclean : s.spoilt r.fn pa = false) (p : Arrival) :
    ∃ early, exec (.loadDataReturn id p) s = .next ((({ s with early := early } : State).atHome r pa).1.deliver id r
      ((({ s with early := early } : State).atHome r pa).2.map fun v => (v.1.getD 0, v.2))) := by
  obtain ⟨early, hdue⟩ := h.due_eq (by rw [ht]; rfl) p (.loadDataReturn id p) _
  refine ⟨early, (congrArg Host.Outcome.next hdue).trans ?_⟩
  have ⟨_, _, hown, _⟩ := h
  simp only [hown, State.loadReturned, ht, State.readLine_eq (s := { s with early := early }) ht hclean]

/-- R165, R381: a load brings every lane its datum, or zero under another key. -/
theorem load_performed (h : MayEnd s id r g) (hi : r.instr = .ld f) (ht : r.tgt = .dev pa) (hclean : s.spoilt r.fn pa = false) (p : Arrival) :
    ∃ t h, exec (.loadDataReturn id p) s = .next t ∧ t.gang? r.core r.slot = some h ∧ Cells.find? t.reqs id = none ∧ t.mem = s.mem ∧ KeptByReply g h r ∧
      (s.keyOk (s.keyOf r.fn) pa = true → ∀ a, returnsTo g r a →
        LaneHolds h r (fmtWidth f.fmt) a (loadedAs (fmtN f) (s.homeRead (s.keyOf r.fn) (homeOf pa a) (accSize .load f)))) ∧
      (s.keyOk (s.keyOf r.fn) pa = false → (∀ a, returnsTo g r a → LaneHolds h r (fmtWidth f.fmt) a 0) ∧
        (t.part (s.partOf r.fn)).kref = satUp (s.part (s.partOf r.fn)).kref) := by
  have hk : r.kind = .load := by rw [Req.kind, hi]; rfl
  have hf : Instr.long r.instr = f := by rw [hi]; rfl
  have hw : fmtWidth f.fmt = dstWidth r.kind (Instr.long r.instr) := by rw [hk, hf]; rfl
  have htaken (v : Nat) : takenAs r.kind (Instr.long r.instr) v = loadedAs (fmtN f) v := by rw [takenAs, if_pos hk, hf]
  obtain ⟨early, hexec⟩ := loadDataReturn_eq h ht hclean p
  obtain ⟨honly, hmem, hown, hother⟩ := State.atHome_read (.inl hk) { s with early := early } pa
  have hend := (honly.holds (h.holds.congr rfl)).deliver (id := id)
    ((({ s with early := early } : State).atHome r pa).2.map fun v => (v.1.getD 0, v.2))
  refine ⟨_, _, hexec, hend.gang, hend.gone, hend.only.mem.trans hmem, keptByReply_putLoads .., fun hkey a ha => ?_, fun hkey => ⟨fun a ha => ?_, ?_⟩⟩
  · have hholds := laneHolds_of_reads ha hw _ (hown hkey) r.path r.seq
    rw [htaken, show accSize r.kind (Instr.long r.instr) = accSize .load f by rw [hk, hf], State.homeRead_withEarly] at hholds
    exact hholds
  · have hholds := laneHolds_of_reads ha hw _ (hother hkey).1 r.path r.seq
    rw [htaken, loadedAs_zero] at hholds
    exact hholds
  · rw [hend.only.part]
    exact (hother hkey).2

/-! ## Stores (R166) -/

/-- R166, R176: a store or a reduction that may be performed. -/
theorem storePerformed_eq (h : MayEnd s id r g) (hpref : r.kind ≠ .pref) (ht : r.tgt = .dev pa) (hclean : r.kind = .reduction → s.spoilt r.fn pa = false)
    (p : Arrival) : ∃ early, exec (.storePerformed ⟨id, p⟩) s = .next ((({ s with early := early } : State).atHome r pa).1.finish id r) := by
  obtain ⟨early, hdue⟩ := h.due_eq (by rw [ht]; rfl) p (.storePerformed ⟨id, p⟩) _
  refine ⟨early, (congrArg Host.Outcome.next hdue).trans ?_⟩
  have ⟨_, _, hown, _⟩ := h
  have hspoilt : ¬(r.kind = .reduction ∧ ({ s with early := early } : State).spoilt r.fn pa = true) := fun hs => by
    have := hclean hs.1
    exact Bool.false_ne_true (this.symm.trans hs.2)
  simp only [hown, State.storeDone, if_neg hpref, ht, if_neg hspoilt]

theorem InLine.homeLanes {n : Nat} (h : InLine r n pa) (hu : Untracked s r.fn) (hkey : s.keyOk (s.keyOf r.fn) pa = true) :
    HomeLanes (s.countRow pa) r pa n r.lanes :=
  HomeLanes.congr ⟨hu, hkey, h.1, h.2⟩ (HomeSame.countRow s pa).toHomeOnly

/-- R161, R166, R381: a store gives each byte the value of the highest lane that stores it; under another key it stores nothing. -/
theorem store_performed {k : MemKind} (h : MayEnd s id r g) (hi : (r.instr = .st f ∧ k = .store) ∨ (r.instr = .cstr f ∧ k = .cstr)) (ht : r.tgt = .dev pa)
    (hline : InLine r (accSize k f) pa) (hu : Untracked s r.fn) (p : Arrival) :
    ∃ t h, exec (.storePerformed ⟨id, p⟩) s = .next t ∧ t.gang? r.core r.slot = some h ∧ Cells.find? t.reqs id = none ∧ h.sameRegs g ∧ KeptByReply g h r ∧
      (s.keyOk (s.keyOf r.fn) pa = true → ∀ key x, t.homeByte key x =
        if key = s.keyOf r.fn then
          (r.lanes.filter fun a => decide (homeOf pa a ≤ x ∧ x < homeOf pa a + accSize k f)).getLast?.elim (s.homeByte key x) fun a =>
            BitVec.ofNat 8 (a.data / 256 ^ (x - homeOf pa a))
        else s.homeByte key x) ∧
      (s.keyOk (s.keyOf r.fn) pa = false → t.mem = s.mem ∧ (t.part (s.partOf r.fn)).kref = satUp (s.part (s.partOf r.fn)).kref) := by
  obtain ⟨hk, hf, hks⟩ : r.kind = k ∧ Instr.long r.instr = f ∧ (k = .store ∨ k = .cstr) := by
    rcases hi with ⟨hi, rfl⟩ | ⟨hi, rfl⟩
    · exact ⟨by rw [Req.kind, hi]; rfl, by rw [hi]; rfl, .inl rfl⟩
    · exact ⟨by rw [Req.kind, hi]; rfl, by rw [hi]; rfl, .inr rfl⟩
  obtain ⟨early, hexec⟩ := storePerformed_eq h (by rw [hk]; rcases hks with rfl | rfl <;> decide) ht
    (fun hred => by rw [hk] at hred; rcases hks with rfl | rfl <;> cases hred) p
  cases hkey : s.keyOk (s.keyOf r.fn) pa with
  | true =>
    have hstores := left_homeStep_store (s := ({ s with early := early } : State).countRow pa) (by rw [hk]; exact hks) (by rw [hk, hf])
      (InLine.homeLanes (s := { s with early := early }) hline hu hkey)
    rw [State.atHome_of_keyOk (s := { s with early := early }) hkey] at hexec
    obtain ⟨honly, hbyte⟩ := hstores
    have hend := (((HomeSame.countRow _ pa).toHomeOnly.trans honly).holds (s := { s with early := early }) (h.holds.congr rfl)).finish (id := id)
    refine ⟨_, _, hexec, hend.gang, hend.gone, sameRegs_land .., keptByReply_land .., fun _ key x => ?_, fun h => (Bool.false_ne_true h.symm).elim⟩
    exact (hend.only.homeByte key x).trans (hbyte key x)
  | false =>
    rw [State.atHome_of_refused (s := { s with early := early }) hkey] at hexec
    have hend := (((HomeSame.countRow _ pa).trans (HomeSame.countRefusal _ (s.partOf r.fn))).toHomeOnly.holds (s := { s with early := early })
      (h.holds.congr rfl)).finish (id := id)
    refine ⟨_, _, hexec, hend.gang, hend.gone, sameRegs_land .., keptByReply_land .., fun h => (Bool.false_ne_true h).elim, fun _ => ⟨hend.only.mem, ?_⟩⟩
    exact (congrArg Partition.kref (hend.only.part _)).trans (State.kref_countRefusal ..)

/-! ## Atomics (R172 to R176) -/

/-- R172: the format of an atomic or a reduction that decodes. -/
theorem atomFmtOk_of_decodeCause {i : Instr} (hi : i = .red f ∨ i = .atom f) (h : decodeCause false i = none) : atomFmtOk (subN f) (fmtN f) = true := by
  have hill := ill_of_decodeCause h
  rcases hi with rfl | rfl
  · have hred : (shRed f).ill = false := hill
    simp [shRed, memSh, endSh] at hred
    tauto
  · have hatom : (shAtom false f).ill = false := hill
    simp [shAtom, memSh, endSh] at hatom
    tauto

/-- R175: an atomic that may be performed. -/
theorem atomicReply_eq (h : MayEnd s id r g) (ht : r.tgt = .dev pa) (hclean : s.spoilt r.fn pa = false) (p : Arrival) :
    ∃ early, exec (.atomicReply id p) s = .next ((({ s with early := early } : State).atHome r pa).1.deliver id r
      ((({ s with early := early } : State).atHome r pa).2.map fun v => (v.1.getD 0, v.2))) := by
  obtain ⟨early, hdue⟩ := h.due_eq (by rw [ht]; rfl) p (.atomicReply id p) _
  refine ⟨early, (congrArg Host.Outcome.next hdue).trans ?_⟩
  have hclean' : ({ s with early := early } : State).spoilt r.fn pa = false := hclean
  simp only [ht, hclean', Bool.false_eq_true, if_false]

/-- What the lanes of a request find and leave at each of its words. -/
structure AtomicsApplied (f : Long) (r : Req) (pa : Nat) (s t : State) (vals : List (Option Nat × LaneAcc)) : Prop extends HomeOnly s t where
  word : ∀ a ∈ r.lanes, t.homeRead (s.keyOf r.fn) (homeOf pa a) (accSize .atomic f) =
    wordAfter f (s.homeRead (s.keyOf r.fn) (homeOf pa a) (accSize .atomic f)) (r.lanes.filter fun b => decide (b.addr % 128 = a.addr % 128))
  other : ∀ key x, (∀ a ∈ r.lanes, x < homeOf pa a ∨ homeOf pa a + accSize .atomic f ≤ x) → t.homeByte key x = s.homeByte key x
  found : ∀ pre a post, r.lanes = pre ++ a :: post → ∃ before after, vals = before ++
    (some (wordAfter f (s.homeRead (s.keyOf r.fn) (homeOf pa a) (accSize .atomic f)) (pre.filter fun b => decide (b.addr % 128 = a.addr % 128))), a) :: after ∧
      after.map (·.2) = post

/-- R161, R172: atomics at the home of their line. -/
theorem State.atHome_atomic (hk : r.kind = .atomic ∨ r.kind = .reduction) (hf : Instr.long r.instr = f) (hfmt : atomFmtOk (subN f) (fmtN f) = true)
    (hline : InLine r (accSize .atomic f) pa) (hu : Untracked s r.fn) (hkey : s.keyOk (s.keyOf r.fn) pa = true) :
    AtomicsApplied f r pa s (s.atHome r pa).1 (s.atHome r pa).2 := by
  have hlanes := hline.homeLanes hu hkey
  have hrow := HomeSame.countRow s pa
  have hread (qa n : Nat) : (s.countRow pa).homeRead (s.keyOf r.fn) qa n = s.homeRead (s.keyOf r.fn) qa n := State.homeRead_congr fun x _ _ => hrow.byte _ x
  rw [State.atHome_of_keyOk hkey]
  obtain ⟨honly, hword, hbyte⟩ := left_homeStep_atomic hk hf hfmt hlanes
  refine ⟨hrow.toHomeOnly.trans honly, fun a ha => ?_, fun key x hx => hbyte key x hx, fun pre a post hsplit => ?_⟩
  · rw [← hread]
    exact hword a (hlanes.lanes a ha).1
  · have hmem : a ∈ r.lanes := by simp [hsplit]
    have hpre := hlanes.mono (l' := pre) fun b hb => by simp [hsplit, hb]
    obtain ⟨honlyPre, hwordPre, _⟩ := left_homeStep_atomic hk hf hfmt hpre
    have hthere := hlanes.congr honlyPre
    obtain ⟨hfound, _⟩ := homeStep_atomic hk hf hfmt hthere.untracked (hthere.keyOk_home a) (hthere.home_inLine hmem)
    obtain ⟨before, after, hvals, hafter⟩ := collected_split (homeStep r pa) (s.countRow pa) pre a post
    refine ⟨before, after, ?_, hafter⟩
    rw [hsplit, hvals, hfound, honlyPre.keyOf, hwordPre a (hlanes.lanes a hmem).1, hrow.keyOf, hread]

/-- R161, R175: where an operation's value is written, the lane gets what the word held after the lanes before it. -/
theorem AtomicsApplied.laneHolds {t : State} {vals : List (Option Nat × LaneAcc)} (h : AtomicsApplied f r pa s t vals) (hk : r.kind = .atomic)
    (hf : Instr.long r.instr = f) {pre post : List LaneAcc} {a : LaneAcc} (hsplit : r.lanes = pre ++ a :: post) (ha : returnsTo g r a)
    (hlast : ∀ b ∈ post, b.lane ≠ a.lane) (path : Path) (seq : Nat) :
    LaneHolds ((g.putLoads r.instr r.kind r.active (g.arriving (vals.map fun v => (v.1.getD 0, v.2)))).land path seq) r
      (if subN f = 8 then 128 else fmtWidth f.fmt) a
      (wordAfter f (s.homeRead (s.keyOf r.fn) (homeOf pa a) (accSize .atomic f)) (pre.filter fun b => decide (b.addr % 128 = a.addr % 128))) := by
  obtain ⟨before, after, hvals, hafter⟩ := h.found pre a post hsplit
  obtain ⟨hlane, hact, hmask, _⟩ := ha
  rw [hvals, List.map_append, List.map_cons]
  have hholds := Gang.laneHolds_putLoads (g := g) (r := r) (w := if subN f = 8 then 128 else fmtWidth f.fmt) rfl
    (pre := before.map fun v => (v.1.getD 0, v.2)) (post := after.map fun v => (v.1.getD 0, v.2)) (a := a)
    (v := wordAfter f (s.homeRead (s.keyOf r.fn) (homeOf pa a) (accSize .atomic f)) (pre.filter fun b => decide (b.addr % 128 = a.addr % 128)))
    (fun q hq => ?_) hlane hact hmask (by rw [hk, hf]; rfl)
  · rw [takenAs_of_ne_load (by rw [hk]; decide)] at hholds
    exact hholds
  · obtain ⟨v, hv, rfl⟩ := List.mem_map.mp hq
    exact hlast v.2 (hafter ▸ List.mem_map_of_mem hv)

/-- R172 to R176: atomics and reductions of this device's memory. -/
theorem atomic_performed {e : Instr} {p : Arrival} (h : MayEnd s id r g)
    (hi : (r.instr = .red f ∧ e = .storePerformed ⟨id, p⟩) ∨ (r.instr = .atom f ∧ e = .atomicReply id p)) (hd : decodeCause false r.instr = none)
    (ht : r.tgt = .dev pa) (hclean : s.spoilt r.fn pa = false) (hline : InLine r (accSize .atomic f) pa) (hu : Untracked s r.fn)
    (hkey : s.keyOk (s.keyOf r.fn) pa = true) :
    ∃ t h, exec e s = .next t ∧ t.gang? r.core r.slot = some h ∧ Cells.find? t.reqs id = none ∧ KeptByReply g h r ∧
      (∀ a ∈ r.lanes, t.homeRead (s.keyOf r.fn) (homeOf pa a) (accSize .atomic f) =
        wordAfter f (s.homeRead (s.keyOf r.fn) (homeOf pa a) (accSize .atomic f)) (r.lanes.filter fun b => decide (b.addr % 128 = a.addr % 128))) ∧
      (∀ key x, (∀ a ∈ r.lanes, x < homeOf pa a ∨ homeOf pa a + accSize .atomic f ≤ x) → t.homeByte key x = s.homeByte key x) ∧
      (r.instr = .atom f → ∀ pre a post, r.lanes = pre ++ a :: post → returnsTo g r a → (∀ b ∈ post, b.lane ≠ a.lane) → (∀ b ∈ pre, b.lane ≠ a.lane) →
        LaneHolds h r (if subN f = 8 then 128 else fmtWidth f.fmt) a
          (wordAfter f (s.homeRead (s.keyOf r.fn) (homeOf pa a) (accSize .atomic f)) (pre.filter fun b => decide (b.addr % 128 = a.addr % 128)))) := by
  have hfmt : atomFmtOk (subN f) (fmtN f) = true := atomFmtOk_of_decodeCause (hi.imp And.left And.left) hd
  rcases hi with ⟨hi, rfl⟩ | ⟨hi, rfl⟩
  · have hk : r.kind = .reduction := by rw [Req.kind, hi]; rfl
    obtain ⟨early, hexec⟩ := storePerformed_eq h (by rw [hk]; decide) ht (fun _ => hclean) p
    have happ := State.atHome_atomic (s := { s with early := early }) (.inr hk) (by rw [hi]; rfl) hfmt hline hu hkey
    have hend := (happ.holds (h.holds.congr rfl)).finish (id := id)
    refine ⟨_, _, hexec, hend.gang, hend.gone, keptByReply_land .., fun a ha => ?_, fun key x hx => (hend.only.homeByte key x).trans (happ.other key x hx),
      fun hatom => by rw [hi] at hatom; cases hatom⟩
    rw [State.homeRead_congr fun x _ _ => hend.only.homeByte _ x, ← State.homeRead_withEarly s early]
    exact happ.word a ha
  · have hk : r.kind = .atomic := by rw [Req.kind, hi]; rfl
    obtain ⟨early, hexec⟩ := atomicReply_eq h ht hclean p
    have happ := State.atHome_atomic (s := { s with early := early }) (.inl hk) (by rw [hi]; rfl) hfmt hline hu hkey
    have hend := (happ.holds (h.holds.congr rfl)).deliver (id := id) ((({ s with early := early } : State).atHome r pa).2.map fun v => (v.1.getD 0, v.2))
    refine ⟨_, _, hexec, hend.gang, hend.gone, keptByReply_putLoads .., fun a ha => ?_,
      fun key x hx => (hend.only.homeByte key x).trans (happ.other key x hx), fun _ pre a post hsplit ha hpost _ => ?_⟩
    · rw [State.homeRead_congr fun x _ _ => hend.only.homeByte _ x, ← State.homeRead_withEarly s early]
      exact happ.word a ha
    · rw [← State.homeRead_withEarly s early]
      exact happ.laneHolds hk (by rw [hi]; rfl) hsplit ha hpost r.path r.seq

/-! ## LDBR from memory (R168) -/

/-- R168: LDBR replaces its record by the one it has read, or reports reserved bits. -/
theorem ldbr_performed {a : LaneAcc} (h : MayEnd s id r g) (hi : r.instr = .ldbrM f) (ht : r.tgt = .dev pa) (hl : r.lanes = [a])
    (hclean : s.spoilt r.fn pa = false) (hkey : s.keyOk (s.keyOf r.fn) pa = true) (p : Arrival) :
    let w := s.homeRead (s.keyOf r.fn) (homeOf pa a) 16
    ∃ t h, exec (.ldbrLoaded id p) s = .next t ∧ t.gang? r.core r.slot = some h ∧ Cells.find? t.reqs id = none ∧ t.mem = s.mem ∧ h.v = g.v ∧ h.s = g.s ∧
      (¬ (w / 2 ^ 124 ≠ 0 ∨ w.testBit 63 = true) → h.defq = g.defq ∧ ∀ n, h.bReg n = if n = subF f 3 0 then BitVec.ofNat 128 w else g.bReg n) ∧
      ((w / 2 ^ 124 ≠ 0 ∨ w.testBit 63 = true) → h.b = g.b ∧ (g.defq.length < 8 → h.defq = g.defq ++ [⟨0x11, BitVec.ofNat 64 (subF f 3 0)⟩])) := by
  intro w
  have hk : r.kind = .ldbr := by rw [Req.kind, hi]; rfl
  have hf : Instr.long r.instr = f := by rw [hi]; rfl
  obtain ⟨early, hdue⟩ := h.due_eq (by rw [ht]; rfl) p (.ldbrLoaded id p) _
  obtain ⟨honly, hmem, hown, _⟩ := State.atHome_read (.inr hk) { s with early := early } pa
  have hholds : Holds (({ s with early := early } : State).atHome r pa).1 r g := honly.holds (h.holds.congr rfl)
  have hvals := hown hkey
  have hw : BitVec.ofNat 128 ((((({ s with early := early } : State).atHome r pa).2.map fun v => (v.1.getD 0, v.2)).map (·.1)).headD 0) = BitVec.ofNat 128 w := by
    rw [hvals, hl, hk]
    exact congrArg (BitVec.ofNat 128) (State.homeRead_withEarly s early _ _ 16)
  have hexec : exec (.ldbrLoaded id p) s = .next
      (if bufReserved (BitVec.ofNat 128 w) then
        ((({ s with early := early } : State).atHome r pa).1.report r.core r.slot r.gen 0x11 (subF f 3 0)).finish id r
      else ((({ s with early := early } : State).atHome r pa).1.modGang r.core r.slot fun g => g.setB (subF f 3 0) (BitVec.ofNat 128 w)).finish id r) := by
    refine (congrArg Host.Outcome.next hdue).trans ?_
    simp only [ht, State.readLine_eq (s := { s with early := early }) ht hclean, hf, hw, hholds.live, if_true]
  have hres := bufReserved_iff (w := w) (State.homeRead_lt ..)
  clear_value w
  by_cases hbad : w / 2 ^ 124 ≠ 0 ∨ w.testBit 63 = true
  · rw [if_pos (hres.mpr hbad)] at hexec
    have hend := hholds.report_finish (id := id) 0x11 (subF f 3 0)
    obtain ⟨hregs, hrep⟩ := reported_report g (cause := 0x11) (by decide) (subF f 3 0) r.path r.seq
    obtain ⟨hv, _, hs, _, _, hb⟩ := hregs
    exact ⟨_, _, hexec, hend.gang, hend.gone, hend.only.mem.trans hmem, hv, hs, fun hgood => absurd hbad hgood, fun _ => ⟨hb, hrep.1⟩⟩
  · rw [if_neg fun h => hbad (hres.mp h)] at hexec
    have hend := hholds.modGang_finish (id := id) (f := fun g => g.setB (subF f 3 0) (BitVec.ofNat 128 w)) hholds.here
    exact ⟨_, _, hexec, hend.gang, hend.gone, hend.only.mem.trans hmem, rfl, rfl, fun _ => ⟨rfl, fun n => Gang.bReg_setB ..⟩, fun h => absurd h hbad⟩

/-- Settles O38: each event takes its request to its home, where lanes are performed one after another. -/
theorem requestsArePerformed : Obligations.RequestsArePerformed := by
  refine ⟨fun s id r g f pa p h hi _ ht hclean => load_performed h hi ht hclean p, ?_,
    fun s id r g f e pa p h hi hd ht hclean hline hu hkey => atomic_performed h hi hd ht hclean hline hu hkey,
    fun s id r g f pa a p h hi ht hl hclean hkey => ldbr_performed h hi ht hl hclean hkey p⟩
  intro s id r g f k pa p h hi _ ht hline hu
  obtain ⟨t, y, hexec, hgang, hgone, hregs, hkept, hown, hother⟩ := store_performed h hi ht hline hu p
  refine ⟨t, y, hexec, hgang, hgone, hregs, hkept, fun hkey key x => (hown hkey key x).trans ?_, hother⟩
  cases (r.lanes.filter fun a => decide (homeOf pa a ≤ x ∧ x < homeOf pa a + accSize k f)).getLast? <;> rfl

end Sys2Proof.Machine
end

section
/-! PROOFS about near-memory operations (spec/08_memory_instructions.md, R178, R179). -/
namespace Sys2Proof.Machine

variable {s : State} {id : Nat} {r : Req} {g : Gang} {f : Long} {pa : Nat} {a : LaneAcc}

/-! ## What a near-memory operation stores -/

/-- R179: the quads that a compare and swap leaves. -/
def casStored (f : Long) (old : Nat) (a : LaneAcc) : Nat :=
  if old % 2 ^ (64 * (subF f 4 3 + 1)) = a.data2 % 2 ^ (64 * (subF f 4 3 + 1)) then
    old - old % 2 ^ (64 * (subF f 4 3 + 1)) + a.data % 2 ^ (64 * (subF f 4 3 + 1))
  else old

/-- R179: the number that stands in memory after an operation that returns what it found. -/
def nmxStored (f : Long) (old : Nat) (a : LaneAcc) : Nat :=
  if subF f 2 0 = 0 then casStored f old a
  else if subF f 2 0 = 3 then atomicValue 8 f.fmt (immF f 15 0) old a.data 0 else old

/-- Replacing the low part of a number keeps its range. -/
theorem replaceLow_lt {m n old : Nat} (hm : 0 < m) (hdvd : m ∣ n) (hold : old < n) (d : Nat) : old - old % m + d % m < n := by
  obtain ⟨c, rfl⟩ := hdvd
  have hq : old / m < c := (Nat.div_lt_iff_lt_mul hm).mpr (by rwa [Nat.mul_comm])
  have hlow := Nat.mod_lt d hm
  have hhigh : old - old % m = m * (old / m) := by have := Nat.div_add_mod old m; omega
  calc old - old % m + d % m < m * (old / m) + m := by omega
    _ = m * (old / m + 1) := by rw [Nat.mul_add_one]
    _ ≤ m * c := Nat.mul_le_mul_left m hq

theorem casStored_lt (f : Long) {old : Nat} (h : old < 256 ^ 32) (a : LaneAcc) : casStored f old a < 256 ^ 32 := by
  have hk : subF f 4 3 < 4 := subF_lt f 4 3
  unfold casStored
  split
  · refine replaceLow_lt (Nat.two_pow_pos _) ?_ h a.data
    rw [show (256 : Nat) ^ 32 = 2 ^ 256 by norm_num]
    exact Nat.pow_dvd_pow 2 (by omega)
  · exact h

/-! ## The near-memory agent (R178) -/

theorem State.agentWrite_only (h : Untracked s r.fn) (pa : Nat) (pxmt : Bool) (v n : Nat) : HomeOnly s (s.agentWrite r.fn pa pxmt v n) :=
  ((HomeSame.cleanLine s pa).toHomeOnly.trans (State.fnWrite_only (s := s.cleanLine pa) h ..)).trans (HomeSame.cleanLine ..).toHomeOnly

theorem State.agentWrite_sets (h : Untracked s r.fn) (hkey : s.keyOk (s.keyOf r.fn) pa = true) (pxmt : Bool) {n v : Nat} (hline : pa % 128 + n ≤ 128)
    (hv : v < 256 ^ n) : HomeSets s (s.agentWrite r.fn pa pxmt v n) (s.keyOf r.fn) pa n v := by
  have hwrite := State.fnWrite_writes (s := s.cleanLine pa) h hkey pxmt (bs := toBytes n v) false (by rwa [length_toBytes])
  rw [length_toBytes] at hwrite
  exact (((HomeSame.cleanLine s pa).then_writes hwrite).then_same (HomeSame.cleanLine ..)).sets hv

/-- R179: an enqueue changes memory, and what is kept of it. -/
theorem State.enqueue_only (h : Untracked s r.fn) (w : Walker) (pa n : Nat) (pxmt : Bool) : HomeOnly s (s.enqueue w r.fn pa n pxmt).1 := by
  have hput {t : State} (ht : HomeOnly s t) (at0 v : Nat) : HomeOnly s (t.agentWrite r.fn at0 pxmt v 8) :=
    ht.trans (State.agentWrite_only (by rw [Untracked, ht.px]; exact h) ..)
  unfold State.enqueue
  extract_lets tail put acc
  split
  · exact (hput (hput (hput (HomeOnly.refl s) _ _) _ _) _ _).trans (HomeSame.countRow ..).toHomeOnly
  · exact HomeOnly.refl s

theorem HomeSame.foldl {α : Type} {step : State → α → State} (h : ∀ s x, HomeSame s (step s x)) (l : List α) (s : State) : HomeSame s (l.foldl step s) := by
  induction l generalizing s with
  | nil => exact HomeSame.refl s
  | cons x l ih => exact (h s x).trans (ih _)

/-! ## One operation at its home -/

section
variable (hk : r.kind = .nmx) (hf : Instr.long r.instr = f) (hu : Untracked s r.fn) (hkey : s.keyOk (s.keyOf r.fn) (homeOf pa a) = true)
  (hline : homeOf pa a % 128 + accSize .nmx f ≤ 128) {old : Nat} (hold : s.homeRead (s.keyOf r.fn) (homeOf pa a) (accSize .nmx f) = old)
include hk hf hu hkey hline hold

/-- R179: a compare and swap finds the quads, and stores the new ones where the compared ones are equal. -/
theorem homeStep_cas (hop : subF f 2 0 = 0) : (homeStep r pa s a).2 = some old ∧
    HomeSets s (homeStep r pa s a).1 (s.keyOf r.fn) (homeOf pa a) (accSize .nmx f) (casStored f old a) := by
  have hclean := HomeSame.cleanLine s (homeOf pa a)
  have hsize : accSize .nmx f = 32 := by simp [accSize, hop]
  have hstep : homeStep r pa s a =
      if old % 2 ^ (64 * (subF f 4 3 + 1)) = a.data2 % 2 ^ (64 * (subF f 4 3 + 1)) then
        ((s.cleanLine (homeOf pa a)).agentWrite r.fn (homeOf pa a) r.pxmt (casStored f old a) (accSize .nmx f), some old)
      else ((s.cleanLine (homeOf pa a)).trackWrite r.fn (homeOf pa a) r.pxmt, some old) := by
    unfold homeStep State.homeLane casStored
    simp only [hf, hk, hop, hold]
    split <;> rfl
  have hlt := casStored_lt f (show old < 256 ^ 32 from hsize ▸ hold ▸ State.homeRead_lt ..) a
  rw [hstep]
  split
  · exact ⟨rfl, hclean.then_sets (State.agentWrite_sets (s := s.cleanLine (homeOf pa a)) hu hkey _ hline (by rwa [hsize]))⟩
  · next hne =>
    rw [casStored, if_neg hne, ← hold]
    exact ⟨rfl, (hclean.trans (HomeSame.trackWrite (s := s.cleanLine (homeOf pa a)) hu ..)).sets ..⟩

/-- R172, R179: a galley word's addition. -/
theorem homeStep_wadd (hop : subF f 2 0 = 3) : (homeStep r pa s a).2 = some old ∧
    HomeSets s (homeStep r pa s a).1 (s.keyOf r.fn) (homeOf pa a) (accSize .nmx f) (atomicValue 8 f.fmt (immF f 15 0) old a.data 0) := by
  have hclean := HomeSame.cleanLine s (homeOf pa a)
  have hsize : accSize .nmx f = 16 := by simp [accSize, hop]
  have hstep : homeStep r pa s a = ((s.cleanLine (homeOf pa a)).agentWrite r.fn (homeOf pa a) r.pxmt
      (atomicValue 8 f.fmt (immF f 15 0) old a.data 0) (accSize .nmx f), some old) := by
    unfold homeStep State.homeLane
    simp only [hf, hk, hop, hold]
    rfl
  rw [hstep]
  refine ⟨rfl, hclean.then_sets (State.agentWrite_sets (s := s.cleanLine (homeOf pa a)) hu hkey _ hline ?_)⟩
  rw [hsize, atomicValue, if_pos rfl]
  exact BitVec.isLt _

omit hu hkey hline in
/-- R179: a chase stores nothing; one that finds NIL at once ends where it began. -/
theorem homeStep_chase (hop : subF f 2 0 = 2) : HomeSame s (homeStep r pa s a).1 ∧
    ∃ v, (homeStep r pa s a).2 = some v ∧ (old = 2 ^ 64 - 1 → v = a.off + 2 ^ 96) := by
  have hclean := HomeSame.cleanLine s (homeOf pa a)
  generalize hx : chaseFrom r.walker (s.cleanLine (homeOf pa a)) r.fn (subF f 6 3 + 1) a.off 0 old = x
  have hstep : homeStep r pa s a =
      (x.2.foldl (fun s h => ((s.cleanLine h).fnReadNote r.fn h).countRow h) (s.cleanLine (homeOf pa a)), some x.1) := by
    unfold homeStep State.homeLane
    simp only [hf, hk, hop, hold, hx]
  rw [hstep]
  refine ⟨hclean.trans (HomeSame.foldl (fun s h => ?_) _ _), x.1, rfl, fun hnil => ?_⟩
  · exact ((HomeSame.cleanLine s h).trans (HomeSame.fnReadNote ..)).trans (HomeSame.countRow ..)
  · rw [← hx, chaseFrom, if_pos (show old = nil64 from hnil), Nat.zero_mul, Nat.add_zero]

/-- R178, R179: what the lane of a near-memory operation finds, and what it leaves of every byte. -/
theorem homeStep_nmx (hop : subF f 2 0 = 0 ∨ subF f 2 0 = 2 ∨ subF f 2 0 = 3) :
    HomeSets s (homeStep r pa s a).1 (s.keyOf r.fn) (homeOf pa a) (accSize .nmx f) (nmxStored f old a) ∧
      ∃ v, (homeStep r pa s a).2 = some v ∧ (subF f 2 0 ≠ 2 → v = old) ∧ (subF f 2 0 = 2 → old = 2 ^ 64 - 1 → v = a.off + 2 ^ 96) := by
  unfold nmxStored
  rcases hop with hop | hop | hop
  · obtain ⟨hfound, hsets⟩ := homeStep_cas hk hf hu hkey hline hold hop
    rw [if_pos hop]
    exact ⟨hsets, old, hfound, fun _ => rfl, fun h => by omega⟩
  · obtain ⟨hsame, v, hfound, hnil⟩ := homeStep_chase hk hf hold hop
    rw [if_neg (by omega), if_neg (by omega), ← hold]
    exact ⟨hsame.sets .., v, hfound, fun h => absurd hop h, fun _ => by rw [hold]; exact hnil⟩
  · obtain ⟨hfound, hsets⟩ := homeStep_wadd hk hf hu hkey hline hold hop
    rw [if_neg (by omega), if_pos hop]
    exact ⟨hsets, old, hfound, fun _ => rfl, fun h => by omega⟩

end

/-! ## The end of a near-memory operation -/

/-- R178, R179: the reply to a near-memory operation of this device. -/
theorem nmxReply_eq (h : MayEnd s id r g) (ht : r.tgt = .dev pa) (hbulk : inBulk pa = false) (hclean : s.spoilt r.fn pa = false)
    (hkey : s.keyOk (s.keyOf r.fn) pa = true) (hl : r.lanes = [a]) (p : Arrival) :
    ∃ early, let x := homeStep r pa (({ s with early := early } : State).countRow pa) a
      exec (.nmxReply id p) s = .next (x.2.elim (x.1.failLane id r 0x1E) fun v => x.1.deliver id r [(v, a)]) := by
  obtain ⟨early, hdue⟩ := h.due_eq (by rw [ht]; rfl) p (.nmxReply id p) _
  refine ⟨early, (congrArg Host.Outcome.next hdue).trans ?_⟩
  have hclean' : ({ s with early := early } : State).spoilt r.fn pa = false := hclean
  have hhome := State.atHome_of_keyOk (s := { s with early := early }) hkey
  rw [hl] at hhome
  simp only [ht, hbulk, hclean', hhome, Bool.false_eq_true, if_false]
  cases hv : homeStep r pa (({ s with early := early } : State).countRow pa) a with
  | mk u v => cases v <;> simp [left, collected, hv]

/-- R179: the operations of NMX. -/
theorem nmxOp_le {f : Long} (h : decodeCause false (.nmx f) = none) : subF f 2 0 ≤ 3 := by
  have hill : (shNmx f).ill = false := ill_of_decodeCause h
  simp [shNmx, memSh, endSh] at hill
  tauto

/-- R175, R178: the value of a near-memory operation in its destination. -/
theorem laneHolds_nmx {w v : Nat} (hk : r.kind = .nmx) (hw : w = dstWidth .nmx (Instr.long r.instr)) (h : returnsTo g r a) (path : Path) (seq : Nat) :
    LaneHolds ((g.putLoads r.instr r.kind r.active (g.arriving [(v, a)])).land path seq) r w a v := by
  obtain ⟨hlane, hact, hmask, _⟩ := h
  have hholds := Gang.laneHolds_putLoads (g := g) (r := r) (vals := [(v, a)]) (pre := []) (post := []) rfl (fun _ hq => by simp at hq) hlane hact hmask
    (hw.trans (by rw [hk]))
  rw [takenAs_of_ne_load (by rw [hk]; decide)] at hholds
  exact hholds

/-- R178, R179: a near-memory operation that is no enqueue. -/
theorem nmx_performed (h : MayEnd s id r g) (hi : r.instr = .nmx f) (hop : subF f 2 0 = 0 ∨ subF f 2 0 = 2 ∨ subF f 2 0 = 3) (ht : r.tgt = .dev pa)
    (hbulk : inBulk pa = false) (hclean : s.spoilt r.fn pa = false) (hl : r.lanes = [a]) (hline : InLine r (accSize .nmx f) pa) (hu : Untracked s r.fn)
    (hkey : s.keyOk (s.keyOf r.fn) pa = true) (p : Arrival) :
    ∃ t h v, exec (.nmxReply id p) s = .next t ∧ t.gang? r.core r.slot = some h ∧ Cells.find? t.reqs id = none ∧ KeptByReply g h r ∧
      t.homeRead (s.keyOf r.fn) (homeOf pa a) (accSize .nmx f) = nmxStored f (s.homeRead (s.keyOf r.fn) (homeOf pa a) (accSize .nmx f)) a ∧
      (∀ k x, x < homeOf pa a ∨ homeOf pa a + accSize .nmx f ≤ x → t.homeByte k x = s.homeByte k x) ∧
      (subF f 2 0 ≠ 2 → v = s.homeRead (s.keyOf r.fn) (homeOf pa a) (accSize .nmx f)) ∧
      (subF f 2 0 = 2 → s.homeRead (s.keyOf r.fn) (homeOf pa a) (accSize .nmx f) = 2 ^ 64 - 1 → v = a.off + 2 ^ 96) ∧
      (returnsTo g r a → LaneHolds h r (dstWidth .nmx f) a v) := by
  have hk : r.kind = .nmx := by rw [Req.kind, hi]; rfl
  have hf : Instr.long r.instr = f := by rw [hi]; rfl
  obtain ⟨early, hexec⟩ := nmxReply_eq h ht hbulk hclean hkey hl p
  have hlanes := InLine.homeLanes (s := { s with early := early }) hline hu hkey
  obtain ⟨hsets, v, hv, hfound, hnil⟩ := homeStep_nmx hk hf hlanes.untracked (hlanes.keyOk_home a) (hlanes.home_inLine (by simp [hl]))
    (State.homeRead_congr (s := s) fun x _ _ => rfl) hop
  have hend := (((HomeSame.countRow { s with early := early } pa).toHomeOnly.trans hsets.toHomeOnly).holds (h.holds.congr rfl)).deliver (id := id) [(v, a)]
  simp only [hv, Option.elim_some] at hexec
  refine ⟨_, _, v, hexec, hend.gang, hend.gone, keptByReply_putLoads .., ?_, fun k x hx => ?_, hfound, hnil, fun hret => laneHolds_nmx hk (by rw [hf]) hret _ _⟩
  · rw [State.homeRead_congr fun x _ _ => hend.only.homeByte _ x]
    exact hsets.read
  · exact (hend.only.homeByte k x).trans (hsets.byte k x (.inr hx))

/-- R179: an enqueue ends with the old tail, or with a report. -/
theorem enqueue_performed (h : MayEnd s id r g) (hi : r.instr = .nmx f) (hop : subF f 2 0 = 1) (ht : r.tgt = .dev pa)
    (hbulk : inBulk pa = false) (hclean : s.spoilt r.fn pa = false) (hl : r.lanes = [a]) (hu : Untracked s r.fn)
    (hkey : s.keyOk (s.keyOf r.fn) pa = true) (p : Arrival) :
    ∃ t h, exec (.nmxReply id p) s = .next t ∧ t.gang? r.core r.slot = some h ∧ Cells.find? t.reqs id = none ∧ KeptByReply g h r := by
  have hk : r.kind = .nmx := by rw [Req.kind, hi]; rfl
  have hf : Instr.long r.instr = f := by rw [hi]; rfl
  have ⟨_, _, _, _, _, hmute, _⟩ := h
  obtain ⟨early, hexec⟩ := nmxReply_eq h ht hbulk hclean hkey hl p
  have hstep (u : State) : homeStep r pa u a = (u.cleanLine (homeOf pa a)).enqueue r.walker r.fn (homeOf pa a) a.data r.pxmt := by
    unfold homeStep State.homeLane
    simp only [hf, hk, hop]
  have honly : HomeOnly { s with early := early } (homeStep r pa (({ s with early := early } : State).countRow pa) a).1 := by
    rw [hstep]
    exact ((HomeSame.countRow ..).trans (HomeSame.cleanLine ..)).toHomeOnly.trans
      (State.enqueue_only (s := (({ s with early := early } : State).countRow pa).cleanLine (homeOf pa a)) hu ..)
  have hholds : Holds (homeStep r pa (({ s with early := early } : State).countRow pa) a).1 r g := honly.holds (h.holds.congr rfl)
  generalize homeStep r pa (({ s with early := early } : State).countRow pa) a = x at hexec hholds
  obtain ⟨u, none | v⟩ := x
  · have hend := hholds.failLane (id := id) hmute 0x1E
    obtain ⟨_, _, _, hrep⟩ := g.report_kept 0x1E r.line
    exact ⟨_, _, hexec, hend.gang, hend.gone, by rw [hrep]; exact ⟨rfl, rfl, rfl, rfl, rfl, rfl, rfl, fun _ _ _ _ => ⟨rfl, rfl⟩⟩⟩
  · have hend := hholds.deliver (id := id) [(v, a)]
    exact ⟨_, _, hexec, hend.gang, hend.gone, keptByReply_putLoads ..⟩

/-- Settles O40: the one lane of the request is performed at its home by the operation that its instruction names. -/
theorem nearMemoryOperations : Obligations.NearMemoryOperations := by
  intro s id r g f pa a p h hi hd ht hbulk hclean hl hline hu hkey key n old m swapped added
  refine ⟨fun hne => ?_, fun hop => enqueue_performed h hi hop ht hbulk hclean hl hu hkey p⟩
  have hop : subF f 2 0 = 0 ∨ subF f 2 0 = 2 ∨ subF f 2 0 = 3 := by
    have := nmxOp_le (f := f) (by rw [← hi]; exact hd)
    omega
  obtain ⟨t, y, v, hexec, hgang, hgone, hkept, hread, hbyte, hfound, hnil, hlane⟩ := nmx_performed h hi hop ht hbulk hclean hl hline hu hkey p
  refine ⟨t, y, hexec, hgang, hgone, hkept, hread, hbyte, fun hret h0 => ?_, fun hret h3 => ?_, fun hret h2 hold => ?_⟩
  · have := hlane hret
    rwa [hfound (by omega), show dstWidth .nmx f = 256 by simp [dstWidth, h0]] at this
  · have := hlane hret
    rwa [hfound (by omega), show dstWidth .nmx f = 128 by simp [dstWidth, h3]] at this
  · have := hlane hret
    rwa [hnil h2 hold, show dstWidth .nmx f = 128 by simp [dstWidth, h2]] at this

end Sys2Proof.Machine
end

section
/-! PROOFS about accesses to the gang's own scratchpad at issue (spec/08_memory_instructions.md, R161, R170, R171, R177). -/
namespace Sys2Proof.Machine

/-! ## Values of lanes in their destinations (R22, R165) -/

/-- R92: the register that a lane's access names is the one that its lane's value goes to. -/
theorem Gang.putDst_dstId {c : Ctx} {g : Gang} (h : g.x = c.g.x) (code : BitVec 8) (w lane v : Nat) :
    g.putDst code (c.dstId code lane) w lane v = g.putLane code w lane v := by
  unfold Gang.putDst
  split
  · next hI =>
    obtain ⟨_, _, hdis, _⟩ := classes_disjoint code
    obtain ⟨hV, hK, _⟩ := hdis hI
    simp only [Gang.putLane, Ctx.dstId, hI, hV, hK, Gang.effective_congr h, if_true, if_false, Bool.false_eq_true]
  · rfl

/-- The lanes that a destination takes are among the ACTIVE ones, in their order. -/
theorem writers_eq_filter (code : BitVec 8) (active : Mask) : writers code active = (lanesOf active).filter fun i => decide (i ∈ writers code active) := by
  unfold writers
  split
  · rw [sliceLeaders]
    exact List.filter_congr fun i hi => Bool.eq_iff_iff.mpr (by simp [hi])
  · exact (List.filter_eq_self.mpr fun i hi => by simpa using hi).symm

/-- R22, R165: values gathered for the ACTIVE lanes are written as those of a register instruction are. -/
theorem Gang.putLoads_eq_putAll {c : Ctx} {i : Instr} {k : MemKind} {g : Gang} (hP : isP (Instr.long i).d = false) (hg : g.x = c.g.x)
    (v : Nat → Nat) {acc : Nat → LaneAcc} (hacc : ∀ lane, (acc lane).lane = lane ∧ (acc lane).dst = c.dstId (Instr.long i).d lane) :
    g.putLoads i k c.active (c.lanes.map fun lane => (v lane, acc lane)) =
      g.putAll (Instr.long i).d (dstWidth k (Instr.long i)) c.active fun lane => takenAs k (Instr.long i) (v lane) := by
  rw [Gang.putLoads_eq, Gang.putAll_of_not_isP hP, writers_eq_filter, List.foldl_filter, List.foldl_map, Ctx.lanes]
  generalize lanesOf c.active = l
  induction l generalizing g with
  | nil => rfl
  | cons lane l ih =>
    have hstep : Gang.takeDst (Instr.long i).d (dstWidth k (Instr.long i)) c.active k (Instr.long i) g (v lane, acc lane) =
        if decide (lane ∈ writers (Instr.long i).d c.active) = true then
          g.putLane (Instr.long i).d (dstWidth k (Instr.long i)) lane (takenAs k (Instr.long i) (v lane)) else g := by
      obtain ⟨hlane, hdst⟩ := hacc lane
      rw [Gang.takeDst, hlane, hdst, Gang.putDst_dstId hg]
      simp only [decide_eq_true_eq]
    have hx : (Gang.takeDst (Instr.long i).d (dstWidth k (Instr.long i)) c.active k (Instr.long i) g (v lane, acc lane)).x = c.g.x :=
      (Gang.SameButData.takeDst ..).x.trans hg
    rw [List.foldl_cons, List.foldl_cons, ← hstep]
    exact ih hx

/-! ## The lanes of a local access (R170) -/

/-- R170: a lane's access to the gang's own scratchpad. -/
def localAcc (c : Ctx) (k : MemKind) (f : Long) (lane : Nat) : LaneAcc :=
  { lane := lane, addr := scratchAddr c k f lane, off := scratchAddr c k f lane, dst := c.dstId f.d lane,
    data := c.data f f.b (dataWidth k f) lane, data2 := c.data f f.c (dataWidth k f) lane }

/-- R170: an address below 2^20 reaches the gang's own group. -/
theorem State.scratchTarget_own {s : State} {gk : Nat} {grp : Group} (hg : s.group? gk = some grp) {a : Nat} (h : a < 2 ^ 20) :
    s.scratchTarget gk a = some gk := by
  have hbit : a.testBit 26 = false := Nat.testBit_lt_two_pow (h.trans (by norm_num))
  simp only [State.scratchTarget, hg, hbit, Bool.not_false, if_true]

theorem bits_of_lt {a hi lo : Nat} (h : a < 2 ^ lo) : bits a hi lo = 0 := by
  rw [bits, Nat.shiftRight_eq_div_pow, Nat.div_eq_of_lt h, Nat.zero_mod]

theorem bits_low {a hi : Nat} (h : a < 2 ^ (hi + 1)) : bits a hi 0 = a := by
  rw [bits, Nat.shiftRight_zero, Nat.sub_zero, Nat.mod_eq_of_lt h]

/-- R170: the checks of a scratchpad instruction pass for local lanes. -/
theorem scratchAccs_local {c : Ctx} {k : MemKind} {f : Long} {grp : Group} (h : LocalLanes c k f grp) :
    scratchAccs c k f = .ok (c.lanes.map fun lane => (c.g.group, localAcc c k f lane)) := by
  obtain ⟨hgrp, hlanes, hrace, _⟩ := h
  have haddr (lane : Nat) (hl : lane ∈ c.lanes) : bits (scratchAddr c k f lane) 19 0 = scratchAddr c k f lane := bits_low (hlanes lane hl).1
  have htgt (lane : Nat) (hl : lane ∈ c.lanes) : c.st.scratchTarget c.g.group (scratchAddr c k f lane) = some c.g.group :=
    State.scratchTarget_own hgrp (hlanes lane hl).1
  have hrng : (c.lanes.filter fun i => decide (bits (scratchAddr c k f i) 31 27 ≠ 0) ||
      (!(scratchAddr c k f i).testBit 26 && decide (bits (scratchAddr c k f i) 25 20 ≠ 0)) ||
      c.st.pastScratch c.g.group (scratchAddr c k f i) (accSize k f)) = [] := by
    refine List.filter_eq_nil_iff.mpr fun lane hl => ?_
    obtain ⟨hlow, hend, _⟩ := hlanes lane hl
    have hpast : c.st.pastScratch c.g.group (scratchAddr c k f lane) (accSize k f) = false := by
      simp only [State.pastScratch, htgt lane hl, Option.bind_some, hgrp, haddr lane hl, decide_eq_false_iff_not]
      omega
    simp [hpast, bits_of_lt hlow, bits_of_lt (hi := 31) (hlow.trans (show 2 ^ 20 < 2 ^ 27 by norm_num))]
  have hrem : (c.lanes.filter fun i => (c.st.scratchTarget c.g.group (scratchAddr c k f i)).isNone) = [] :=
    List.filter_eq_nil_iff.mpr fun lane hl => by simp [htgt lane hl]
  have hmis : (c.lanes.filter fun i => decide (bits (scratchAddr c k f i) 19 0 % accSize k f ≠ 0)) = [] :=
    List.filter_eq_nil_iff.mpr fun lane hl => by simp [haddr lane hl, (hlanes lane hl).2.2]
  simp only [scratchAccs, hrng, hrem, hmis, hrace, List.isEmpty_nil, Bool.not_true, Bool.false_and, Bool.false_eq_true, if_false]
  refine congrArg Except.ok (List.map_congr_left fun lane hl => ?_)
  rw [htgt lane hl, haddr lane hl]
  rfl

/-- R416: no watchpoint is armed, so none matches. -/
theorem watchMatch_of_off {c : Ctx} (h : (c.st.core c.k).watchA.getLsbD 63 = false) (scratch rd wr : Bool) (accs : List (Nat × Nat)) :
    watchMatch c scratch rd wr accs = none := by
  have hbit : (c.st.core c.k).watchA.toNat.testBit 63 = false := h
  simp [watchMatch, hbit]

/-- R161, R170, R171: what a scratchpad instruction does whose lanes all reach the gang's own scratchpad. -/
theorem scratchEff_local {c : Ctx} {i : Instr} {k : MemKind} {grp : Group} (h : LocalLanes c k (Instr.long i) grp) :
    ∃ weak busy early, scratchEff i k c = .next
      { ((c.st.modGroup c.g.group fun _ => left (fun g a => g.access k (Instr.long i) weak a) grp (c.lanes.map (localAcc c k (Instr.long i)))).setGang
          c.k c.sl { (c.g.noteAcq i).putLoads i k c.active (collected (fun g a => g.access k (Instr.long i) weak a) grp
            (c.lanes.map (localAcc c k (Instr.long i)))) with busy := busy }) with early := early } := by
  have hhere : ((c.lanes.map fun lane => (c.g.group, localAcc c k (Instr.long i) lane)).filter fun p => decide (p.1 = c.g.group)).map (·.2) =
      c.lanes.map (localAcc c k (Instr.long i)) := by
    rw [List.filter_eq_self.mpr (by simp), List.map_map]
    rfl
  have hfar : ((c.lanes.map fun lane => (c.g.group, localAcc c k (Instr.long i) lane)).filter fun p => decide (p.1 ≠ c.g.group)) = [] :=
    List.filter_eq_nil_iff.mpr (by simp)
  have hearly (s : State) (p : Bool) (r : Req) (prior : List Req) : ∃ early, (if p = true then s else s.noteEarly r prior) = { s with early := early } := by
    split
    · exact ⟨s.early, rfl⟩
    · exact s.noteEarly_eq r prior
  have ⟨hgrp, _, _, hwatch⟩ := h
  unfold scratchEff
  simp only [scratchAccs_local h, watchMatch_of_off hwatch, hhere, hfar, State.scratchAccess_eq hgrp, List.isEmpty_nil, if_true, List.map_nil,
    List.eraseDups_nil, ite_self, List.foldl_nil]
  exact ⟨_, _, (hearly ..).choose, congrArg Eff.next (hearly ..).choose_spec⟩

/-! ## A local access at issue (R161, log 15) -/

@[simp] theorem Ctx.scratchAddr_claim (c : Ctx) (k : MemKind) (f : Long) (lane : Nat) : scratchAddr c.claim k f lane = scratchAddr c k f lane := by
  simp only [scratchAddr, Ctx.src_claim]

@[simp] theorem Ctx.data_claim (c : Ctx) (f : Long) (code : BitVec 8) (w lane : Nat) : c.claim.data f code w lane = c.data f code w lane := by
  simp only [Ctx.data, Ctx.src_claim, Ctx.g_claim]

theorem localAcc_claim (c : Ctx) (k : MemKind) (f : Long) : localAcc c.claim k f = localAcc c k f := by
  funext lane
  simp only [localAcc, Ctx.scratchAddr_claim, Ctx.data_claim]
  rfl

/-- R31: the claim of the pipes changes nothing that a local access looks at. -/
theorem LocalLanes.claim {c : Ctx} {k : MemKind} {f : Long} {grp : Group} (h : LocalLanes c k f grp) : LocalLanes c.claim k f grp := by
  obtain ⟨hgrp, hlanes, hrace, hwatch⟩ := h
  refine ⟨hgrp, fun lane hl => by simpa using hlanes lane hl, hrace, ?_⟩
  have hcore : (c.claim.st.core c.k).watchA = (c.st.core c.k).watchA := by
    rw [Ctx.claim, State.core_modCore, if_pos rfl]
    rfl
  exact hcore ▸ hwatch

theorem sameRegs_noteAcq (g : Gang) (i : Instr) : (g.noteAcq i).sameRegs g := by
  unfold Gang.noteAcq
  split <;> exact ⟨rfl, rfl, rfl, rfl, rfl, rfl⟩

namespace SameOutside

variable {s t : State} (h : SameOutside s t)
include h

theorem mem : t.mem = s.mem := by unfold SameOutside at h; rw [h]
theorem frames : t.frames = s.frames := by unfold SameOutside at h; rw [h]
theorem group? (gk : Nat) : t.group? gk = s.group? gk := by unfold SameOutside at h; rw [h]; rfl

end SameOutside

/-- An instruction that issues keeps what its effect leaves outside the cores, and of its gang all but its place and its times. -/
theorem run_gang {i : Instr} {eff : Ctx → Eff} {s u : State} {c : Ctx} {g : Gang} (h : Issues i s c) (heff : eff c.claim = .next u)
    (hg : u.gang? c.k c.sl = some g) :
    ∃ t busy frags, run i eff s = .next t ∧ c.gangIn t = some { g with busy := busy, frags := frags, seq := g.seq + 1, entry1 := false } ∧
      SameOutside u t := by
  obtain ⟨busy, frags, hgang⟩ := c.conclude_gang_eq i hg
  exact ⟨_, busy, frags, run_next h heff, hgang, c.conclude_sameOutside i u⟩

/-- R161, R171, R177: a scratchpad instruction whose lanes all reach the gang's own scratchpad performs them when it issues. -/
theorem scratch_performed {i : Instr} {k : MemKind} {s : State} {c : Ctx} {grp : Group} (hexec : ∀ s, exec i s = run i (scratchEff i k) s)
    (h : Issues i s c) (hl : LocalLanes c k (Instr.long i) grp) :
    ∃ weak t g, exec i s = .next t ∧ c.gangIn t = some g ∧
      g.sameRegs ((c.g.noteAcq i).putLoads i k c.active (collected (fun g a => g.access k (Instr.long i) weak a) grp
        (c.lanes.map (localAcc c k (Instr.long i))))) ∧
      OthersMemoryKept c s t ∧
      t.group? c.g.group = some (left (fun g a => g.access k (Instr.long i) weak a) grp (c.lanes.map (localAcc c k (Instr.long i)))) := by
  obtain ⟨weak, busy, early, heff⟩ := scratchEff_local hl.claim
  rw [localAcc_claim] at heff
  have hbegin := h.claim_sameOutside
  obtain ⟨hown, hother⟩ := State.group?_putGroup (s := c.claim.st)
    (y := left (fun (g : Group) a => g.access k (Instr.long i) weak a) grp (c.lanes.map (localAcc c k (Instr.long i)))) hl.1
  obtain ⟨t, busy', frags, ht, hgang, hend⟩ := run_gang h heff ((State.gang?_setGang ..).trans (if_pos ⟨rfl, rfl⟩))
  exact ⟨weak, t, _, (hexec s).trans ht, hgang, ⟨rfl, rfl, rfl, rfl, rfl, rfl⟩,
    ⟨hend.mem.trans hbegin.mem, hend.frames.trans hbegin.frames, fun gk hgk => ((hend.group? gk).trans (hother gk hgk)).trans (hbegin.group? gk)⟩,
    (hend.group? _).trans hown⟩

end Sys2Proof.Machine
end

section
/-! PROOFS about the values of atomics and about accesses to the gang's own scratchpad (spec/08_memory_instructions.md, R161, R170 to R174, R177). -/
namespace Sys2Proof.Machine

/-! ## The values of atomics (R172 to R174) -/

section
variable {fmt : BitVec 4} {g : IntFmt} (hg : fmtOf fmt = .int g) (anchor old data expected : Nat)
include hg

/-- R172: integer addition wraps. -/
theorem atomicValue_add : atomicValue 0 fmt anchor old data expected = (old + data) % 2 ^ g.w := by
  have hsum : g.val old + g.val data ≡ ((old + data : Nat) : Int) [ZMOD ((2 ^ g.w : Nat) : Int)] := by
    rw [Nat.cast_add]
    exact (g.val_modEq old).add (g.val_modEq data)
  have hval : atomicValue 0 fmt anchor old data expected = wrap (g.val old + g.val data) g.w := by simp [atomicValue, hg]
  rw [hval, wrap_congr hsum, wrap_natCast]

/-- R172: minimum and maximum take one of the operands, by its value in the format. -/
theorem atomicValue_min : (atomicValue 1 fmt anchor old data expected = old ∨ atomicValue 1 fmt anchor old data expected = data % 2 ^ g.w) ∧
    g.val (atomicValue 1 fmt anchor old data expected) = min (g.val old) (g.val data) := by
  have hval : atomicValue 1 fmt anchor old data expected = if g.val data < g.val old then data % 2 ^ g.w else old := by simp [atomicValue, hg]
  rw [hval]
  split
  · exact ⟨.inr rfl, by rw [g.val_mod]; omega⟩
  · exact ⟨.inl rfl, by omega⟩

theorem atomicValue_max : (atomicValue 2 fmt anchor old data expected = old ∨ atomicValue 2 fmt anchor old data expected = data % 2 ^ g.w) ∧
    g.val (atomicValue 2 fmt anchor old data expected) = max (g.val old) (g.val data) := by
  have hval : atomicValue 2 fmt anchor old data expected = if g.val old < g.val data then data % 2 ^ g.w else old := by simp [atomicValue, hg]
  rw [hval]
  split
  · exact ⟨.inr rfl, by rw [g.val_mod]; omega⟩
  · exact ⟨.inl rfl, by omega⟩

/-- R172: the logical operations act bit by bit. -/
theorem atomicValue_bits {k : Nat} (hk : k < g.w) :
    (atomicValue 3 fmt anchor old data expected).testBit k = (old.testBit k && data.testBit k) ∧
      (atomicValue 4 fmt anchor old data expected).testBit k = (old.testBit k || data.testBit k) ∧
      (atomicValue 5 fmt anchor old data expected).testBit k = (old.testBit k != data.testBit k) := by
  have hand : atomicValue 3 fmt anchor old data expected = old &&& data % 2 ^ g.w := by simp [atomicValue, hg]
  have hor : atomicValue 4 fmt anchor old data expected = old ||| data % 2 ^ g.w := by simp [atomicValue, hg]
  have hxor : atomicValue 5 fmt anchor old data expected = old ^^^ data % 2 ^ g.w := by simp [atomicValue, hg]
  simp [hand, hor, hxor, Nat.testBit_mod_two_pow, hk]

theorem atomicValue_swap : atomicValue 6 fmt anchor old data expected = data % 2 ^ g.w := by simp [atomicValue, hg]

theorem atomicValue_cas : atomicValue 7 fmt anchor old data expected = if old = expected % 2 ^ g.w then data % 2 ^ g.w else old := by
  simp [atomicValue, hg]

end

/-- R119: a minimum or maximum is an encoding of the format. -/
theorem minMaxFp_lt {fm : FpFmt} (hf : fm.HasFields) (max prop : Bool) (a b : Nat) : (minMaxFp max prop fm false a b).1 < 2 ^ fm.w := by
  have hq : fm.qnan < 2 ^ fm.w := by
    have := FpFmt.qnan_lt hf
    have := FpFmt.two_pow_w_eq hf
    omega
  have hread (x : Nat) : fm.readBits false x < 2 ^ fm.w := by
    rw [FpFmt.readBits, Bool.false_and, if_neg Bool.false_ne_true]
    exact Nat.mod_lt _ (Nat.two_pow_pos _)
  have hite {p : Prop} [Decidable p] {x y : Nat} (hx : x < 2 ^ fm.w) (hy : y < 2 ^ fm.w) : (if p then x else y) < 2 ^ fm.w := by
    split
    · exact hx
    · exact hy
  exact hite hq (hite (hite hq (hread _)) (hite (hread b) (hread a)))

/-- R172: a floating-point operation acts element by element. -/
theorem elem_atomicValue {fmt : BitVec 4} {g : FpFmt} (hg : fmtOf fmt = .fp g) (hf : g.HasFields) (anchor old data expected : Nat) {j : Nat}
    (hj : j < if g.w = 16 then 2 else 1) :
    elem (atomicValue 0 fmt anchor old data expected) g.w j =
        (g.encode ⟨1, 0, false, false⟩ (Val.sum 1 [g.decode (elem old g.w j), g.decode (elem data g.w j)]).1).1 ∧
      elem (atomicValue 1 fmt anchor old data expected) g.w j = (minMaxFp false false g false (elem old g.w j) (elem data g.w j)).1 ∧
      elem (atomicValue 2 fmt anchor old data expected) g.w j = (minMaxFp true false g false (elem old g.w j) (elem data g.w j)).1 := by
  have hpack (one : Nat → Nat → Nat) (hlt : ∀ a b, one a b < 2 ^ g.w) :
      elem (packElems g.w ((List.range (if g.w = 16 then 2 else 1)).map fun j => one (elem old g.w j) (elem data g.w j))) g.w j =
        one (elem old g.w j) (elem data g.w j) := by
    rw [elem_packElems _ (by simpa using hj)]
    simp [Nat.mod_eq_of_lt (hlt _ _)]
  have hadd := hpack (fun a b => (g.encode ⟨1, 0, false, false⟩ (Val.sum 1 [g.decode a, g.decode b]).1).1) fun a b => FpFmt.encode_lt hf ..
  have hmin := hpack (fun a b => (minMaxFp false false g false a b).1) fun a b => minMaxFp_lt hf ..
  have hmax := hpack (fun a b => (minMaxFp true false g false a b).1) fun a b => minMaxFp_lt hf ..
  refine ⟨?_, ?_, ?_⟩
  · rw [atomicValue, if_neg (by decide)]
    simp only [hg]
    exact hadd
  · rw [atomicValue, if_neg (by decide)]
    simp only [hg]
    exact hmin
  · rw [atomicValue, if_neg (by decide)]
    simp only [hg]
    exact hmax

/-- R172: the floating-point formats of atomics, with the elements of a word. -/
theorem atomFp_elems {fmt : BitVec 4} {g : FpFmt} (hg : fmtOf fmt = .fp g) (h : fmt = 8 ∨ fmt = 9 ∨ fmt = 11) :
    g.HasFields ∧ (if fmt = 11 then 2 else 1) = if g.w = 16 then 2 else 1 := by
  rcases h with rfl | rfl | rfl
  · obtain rfl : FpFmt.f32 = g := Fmt.fp.inj hg
    exact ⟨FpFmt.hasFields_of_mem (by decide), rfl⟩
  · obtain rfl : FpFmt.f64 = g := Fmt.fp.inj hg
    exact ⟨FpFmt.hasFields_of_mem (by decide), rfl⟩
  · obtain rfl : FpFmt.bf16 = g := Fmt.fp.inj hg
    exact ⟨FpFmt.hasFields_of_mem (by decide), rfl⟩

/-! ## Destinations of scratchpad instructions -/

/-- R87: an instruction that decodes has no reserved field set. -/
theorem rsv_of_decodeCause {hi : Bool} {i : Instr} (h : decodeCause hi i = none) : (Instr.shape i).rsv = false := by
  unfold decodeCause at h
  extract_lets sh at h
  split at h
  · cases h
  · next hrsv => simpa using (Bool.or_eq_false_iff.mp (eq_false_of_ne_true hrsv)).2

theorem nwb_of_reservedSet {f : Long} {u : FieldUse} (hu : u.nwb = false) (h : reservedSet f u = false) : f.nwb = false := by
  simp [reservedSet, hu] at h
  tauto

theorem Gang.noteAcq_x (g : Gang) (i : Instr) : (g.noteAcq i).x = g.x := by
  obtain ⟨_, _, _, _, hx, _⟩ := sameRegs_noteAcq g i
  exact hx

/-- R171, R175: what a scratchpad instruction's destination holds, when it takes a value of every ACTIVE lane. -/
theorem destHolds_putLoads {c : Ctx} {i : Instr} {k : MemKind} {g h : Gang} (hd : isData (Instr.long i).d = true) (hn : (Instr.long i).nwb = false)
    (hw : 32 ∣ dstWidth k (Instr.long i)) (hg : g.x = c.g.x) (v : Nat → Nat)
    (hh : h.sameRegs (g.putLoads i k c.active (c.lanes.map fun lane => (v lane, localAcc c k (Instr.long i) lane)))) :
    DestHolds c (Instr.long i) (dstWidth k (Instr.long i)) (fun lane => takenAs k (Instr.long i) (v lane)) h := by
  have hP := isP_eq_false_of_isData hd
  have hput := destHolds_putAll (c := c) (f := Instr.long i) (.inl hd) hw (fun lane => takenAs k (Instr.long i) (v lane)) (g := g)
    (by simp [hP, hn])
  rw [hn, if_neg Bool.false_ne_true, ← Gang.putLoads_eq_putAll hP hg v (acc := localAcc c k (Instr.long i)) fun lane => ⟨rfl, rfl⟩] at hput
  exact hput.congr hh

theorem collected_map {σ α β γ : Type} (step : σ → α → σ × β) (s : σ) (acc : γ → α) (l : List γ) (v : γ → β)
    (h : ∀ pre a post, l = pre ++ a :: post → (step (left step s (pre.map acc)) (acc a)).2 = v a) :
    collected step s (l.map acc) = l.map fun a => (v a, acc a) := by
  induction l using List.reverseRecOn with
  | nil => rfl
  | append_singleton l a ih =>
    rw [List.map_append, collected_append, ih fun pre b post hb => h pre b (post ++ [a]) (by simp [hb]), List.map_append]
    simp [collected, h l a [] rfl]

/-! ## Loads, stores and atomics of the gang's own scratchpad (R161, R171, R177) -/

variable {f : Long} {s : State} {c : Ctx} {grp : Group}

/-- R171: a load reads its group's scratchpad. -/
theorem lds_performed (h : Issues (.lds f) s c) (hl : LocalLanes c .load f grp) :
    ∃ t g, exec (.lds f) s = .next t ∧ c.gangIn t = some g ∧ OthersMemoryKept c s t ∧ t.group? c.g.group = some grp ∧
      DestHolds c f (fmtWidth f.fmt) (fun lane => loadedAs (fmtN f) (Memory.read grp.scratch (scratchAddr c .load f lane) (accSize .load f))) g := by
  obtain ⟨weak, t, g, hexec, hgang, hregs, hkept, hgroup⟩ := scratch_performed (i := .lds f) (fun _ => rfl) h hl
  have hread (a : LaneAcc) : grp.access .load f weak a = (grp, Memory.read grp.scratch a.addr (accSize .load f)) := rfl
  have hleft := left_of_reads (step := fun (g : Group) a => g.access .load f weak a) (s := grp) (fun _ => rfl) (c.lanes.map (localAcc c .load f))
  have hvals := collected_of_reads (step := fun (g : Group) a => g.access .load f weak a) _ hread (c.lanes.map (localAcc c .load f))
  rw [List.map_map] at hvals
  have hrsv : (shLd true f).rsv = false := rsv_of_decodeCause h.1
  refine ⟨t, g, hexec, hgang, hkept, hgroup.trans (congrArg some hleft), ?_⟩
  exact destHolds_putLoads (i := .lds f) (k := .load) (h.isData_d rfl) (nwb_of_reservedSet rfl (Bool.or_eq_false_iff.mp hrsv).1) (fmtWidth_dvd _)
    (Gang.noteAcq_x ..) (fun lane => Memory.read grp.scratch (scratchAddr c .load f lane) (accSize .load f))
    (hvals ▸ hregs)

theorem Gang.putLoads_store (g : Gang) (i : Instr) (active : Mask) (l : List (Nat × LaneAcc)) : g.putLoads i .store active l = g := rfl

/-- R161, R171: of several lanes that store to one byte the highest-numbered wins. -/
theorem sts_performed (h : Issues (.sts f) s c) (hl : LocalLanes c .store f grp) :
    ∃ t g y, exec (.sts f) s = .next t ∧ c.gangIn t = some g ∧ OthersMemoryKept c s t ∧ g.sameRegs c.g ∧ t.group? c.g.group = some y ∧ OnlyScratch grp y ∧
      ∀ a, Memory.byte y.scratch a =
        (c.lanes.filter fun lane => decide (scratchAddr c .store f lane ≤ a ∧ a < scratchAddr c .store f lane + accSize .store f)).getLast?.elim
          (Memory.byte grp.scratch a) fun lane => BitVec.ofNat 8 (c.data f f.b (fmtWidth f.fmt) lane / 256 ^ (a - scratchAddr c .store f lane)) := by
  obtain ⟨weak, t, g, hexec, hgang, hregs, hkept, hgroup⟩ := scratch_performed (i := .sts f) (fun _ => rfl) h hl
  rw [Gang.putLoads_store] at hregs
  obtain ⟨hscratch, honly⟩ := left_access_write (.inl rfl) grp f weak (c.lanes.map (localAcc c .store f))
  refine ⟨t, g, _, hexec, hgang, hkept, Gang.sameRegs_trans hregs (sameRegs_noteAcq ..), hgroup, honly, fun a => ?_⟩
  have hbyte := congrArg (fun m => Memory.byte m a) hscratch
  rw [List.foldl_map] at hbyte
  exact hbyte.trans (byte_foldl_write (scratchAddr c .store f) (c.data f f.b (fmtWidth f.fmt)) (accSize .store f) grp.scratch c.lanes a)

/-- R177: the scratchpad after the atomics of lanes. -/
theorem left_access_atomic (weak : Option (Nat × Nat × Nat)) (lanes : List Nat) :
    (left (fun g a => g.access .atomic f weak a) grp (lanes.map (localAcc c .atomic f))).scratch = atomsDone c f grp.scratch lanes := by
  rw [(left_access_write (.inr rfl) grp f weak _).1, List.foldl_map]
  rfl

/-- R161: the lanes before one of the ACTIVE lanes, in increasing order. -/
theorem lanes_before {active : Mask} {pre post : List Nat} {lane : Nat} (h : lanesOf active = pre ++ lane :: post) :
    (lanesOf active).filter (· < lane) = pre := by
  have hsorted : (lanesOf active).Pairwise (· < ·) := List.pairwise_lt_range.filter _
  rw [h] at hsorted ⊢
  obtain ⟨_, hpost, hpre⟩ := List.pairwise_append.mp hsorted
  rw [List.filter_append, List.filter_eq_self.mpr fun b hb => decide_eq_true (hpre b hb lane List.mem_cons_self),
    List.filter_eq_nil_iff.mpr fun b hb => ?_, List.append_nil]
  rcases List.mem_cons.mp hb with rfl | hb
  · simp
  · have := (List.pairwise_cons.mp hpost).1 b hb
    simp
    omega

/-- R161, R177: atomics apply in increasing lane order and return what they found. -/
theorem atoms_performed (h : Issues (.atoms f) s c) (hl : LocalLanes c .atomic f grp) :
    ∃ t g y, exec (.atoms f) s = .next t ∧ c.gangIn t = some g ∧ OthersMemoryKept c s t ∧ t.group? c.g.group = some y ∧ OnlyScratch grp y ∧
      y.scratch = atomsDone c f grp.scratch c.lanes ∧
      DestHolds c f (if subN f = 8 then 128 else fmtWidth f.fmt) (fun lane =>
        Memory.read (atomsDone c f grp.scratch (c.lanes.filter (· < lane))) (scratchAddr c .atomic f lane) (accSize .atomic f)) g := by
  obtain ⟨weak, t, g, hexec, hgang, hregs, hkept, hgroup⟩ := scratch_performed (i := .atoms f) (fun _ => rfl) h hl
  have hvals := collected_map (fun (g : Group) a => g.access .atomic f weak a) grp (localAcc c .atomic f) c.lanes
    (fun lane => Memory.read (atomsDone c f grp.scratch (c.lanes.filter (· < lane))) (scratchAddr c .atomic f lane) (accSize .atomic f))
    fun pre lane post hsplit => by
      rw [Group.access_snd, left_access_atomic, Ctx.lanes, lanes_before hsplit]
      rfl
  have hrsv : (shAtom true f).rsv = false := rsv_of_decodeCause h.1
  have hdvd : 32 ∣ dstWidth .atomic f := by
    unfold dstWidth
    dsimp only
    split
    · decide
    · exact fmtWidth_dvd _
  refine ⟨t, g, _, hexec, hgang, hkept, hgroup, (left_access_write (.inr rfl) grp f weak _).2, left_access_atomic weak c.lanes, ?_⟩
  exact destHolds_putLoads (i := .atoms f) (k := .atomic) (h.isData_d rfl) (nwb_of_reservedSet rfl (Bool.or_eq_false_iff.mp hrsv).1) hdvd
    (Gang.noteAcq_x ..) _ (hvals ▸ hregs)

/-- Settles O33: the value of every operation by the cases of its format, and local accesses as a fold over the lanes. -/
theorem atomicsAndScratchpads : Obligations.AtomicsAndScratchpads := by
  refine ⟨⟨?_, ?_, fun fmt anchor old data expected => rfl⟩, fun f s c grp h hl => lds_performed h hl, ?_, ?_⟩
  · intro fmt g anchor old data expected hg _ _
    obtain ⟨hmin, hminVal⟩ := atomicValue_min hg anchor old data expected
    obtain ⟨hmax, hmaxVal⟩ := atomicValue_max hg anchor old data expected
    exact ⟨atomicValue_add hg .., hmin, hminVal, hmax, hmaxVal, fun k hk => atomicValue_bits hg anchor old data expected hk, atomicValue_swap hg ..,
      atomicValue_cas hg ..⟩
  · intro fmt g anchor old data expected hg hfmt n new j hj
    obtain ⟨hf, hn⟩ := atomFp_elems hg hfmt
    obtain ⟨hadd, hmin, hmax⟩ := elem_atomicValue hg hf anchor old data expected (lt_of_lt_of_eq hj hn)
    exact ⟨hadd, hmin ▸ minMaxFp_selects hf false false false _ _, hmax ▸ minMaxFp_selects hf true false false _ _⟩
  · intro f s c grp h hl
    obtain ⟨t, g, y, hexec, hgang, hkept, hregs, hgroup, honly, hbyte⟩ := sts_performed h hl
    refine ⟨t, g, y, hexec, hgang, hkept, hregs, hgroup, honly, fun a => (hbyte a).trans ?_⟩
    cases (c.lanes.filter fun lane => decide (scratchAddr c .store f lane ≤ a ∧ a < scratchAddr c .store f lane + accSize .store f)).getLast? <;> rfl
  · intro f s c grp h hl
    obtain ⟨t, g, y, hexec, hgang, hkept, hgroup, honly, hscratch, hdest⟩ := atoms_performed h hl
    exact ⟨t, g, y, hexec, hgang, hkept, hgroup, honly, fun a => by rw [hscratch], hdest⟩

end Sys2Proof.Machine
end
